-- ==== Sys2Proof/Word.lean ====
section
/-!
DEFINITION. The word types of the model and the shape of its sparse tables.
Only types stand here; every operation over them stands in `Machine/`.
-/

namespace Sys2Proof

/-- One byte (R10). -/
abbrev Byte := BitVec 8

/-- A 576-byte row: data bits 4095 to 0 and the scale lane above them (R32). -/
abbrev Row := BitVec 4608

/-- A stored code word: data bits 127 to 0, check bits 136 to 128 (R233). -/
abbrev Code := BitVec 137

/-- A 256-bit descriptor (R60). -/
abbrev Desc := BitVec 256

/-- A sparse table: pairs of a key and a value in strictly rising key order, holding no pair whose value is the
table's default.  Equal tables are equal lists. -/
abbrev Tbl (α : Type) := List (Nat × α)

end Sys2Proof
end

