-- ==== Sys2Proof/Syntax.lean ====
section
/-!
DEFINITION. The commands of the block: one constructor per row of spec/opcode_table.json, with its operands, and
the records some operands are made of.  An operand carries what the surroundings give at that step: a queue's
number, a message, a measured value, or the outcome of a wait that a clockless part does not fix (log 9).
-/

namespace Sys2Proof

/-- How a presented beat met its bank (R105, R106, R253); the order of self-timed events is the operand's. -/
inductive BeatWait where
  /-- the bank's cycle had ended when the beat arrived -/
  | prompt
  /-- the beat waited for a bank cycle or a posted write buffer: one stripe stall (R105) -/
  | stripe
  /-- an XP beat tied with the OP's beat and lost the cycle: one conflict stall (R106) -/
  | conflict
  /-- it waited for a bank cycle and then lost a tie: both -/
  | both
  /-- a march read that did not match the value expected (R255) -/
  | mismatch
deriving DecidableEq, Repr

/-- What a waiting beat of a guarded-out burst waits on (R229, R322 code 0x0B). -/
inductive GuardWait where
  | crossbar | bankCycle | writeBuffer | borrowed
deriving DecidableEq, Repr

/-- What the `HK_` and `TB_` interfaces give in one housekeeping round (R329, R383). -/
structure HkSample where
  /-- host time base in ns -/
  ns : BitVec 64
  /-- diode reading in 1/16 degree -/
  temp : BitVec 16
  /-- rail readings in mV -/
  vtrf : BitVec 12
  vnet : BitVec 12
  vret : BitVec 12
  /-- canary margin code of group n at bits 6n+5 to 6n -/
  margins : BitVec 96
  /-- `IL_Lk_EYE`, the eye margin code of lane k, at bits 6k+5 to 6k, and `IL_Lk_LOCK` at bit k: the code is valid only with
  lock (R381) -/
  eyes : BitVec 216
  locks : BitVec 36
deriving DecidableEq, Repr

/-- What the `SEC_` interface presents (R354, R383). -/
structure SecValues where
  state : BitVec 2
  epoch : BitVec 32
  key : BitVec 128
  keyValid : Bool
  uid : BitVec 128
deriving DecidableEq, Repr

/-- What the PHYs and the partners give during link training (R175). -/
structure TrainResult where
  /-- failing stage of port k at bits 4k+3 to 4k; 0 when no stage failed -/
  fails : BitVec 20
  /-- partner instance of port k at bits 16k+15 to 16k (R156 `PARTNER`) -/
  partners : BitVec 80
  /-- partner port of port k at bits 8k+7 to 8k -/
  pports : BitVec 40
  /-- eye margin code of lane k at bits 6k+5 to 6k -/
  eyes : BitVec 216
  /-- bit k set when lane k failed one of the stages PHY_UP to DESKEW (R176) -/
  laneFails : BitVec 36
deriving DecidableEq, Repr

/-- A BDP message as the management hub hands it over (R265, R266, R382): its words of 32 bytes in order, of which the first has
`FIRST` and the last `LAST`, and what comes with them. -/
structure BdpMsg where
  words : List (BitVec 256)
  eid : BitVec 8
  tag : BitVec 4
  ic : Bool
  vendor : BitVec 16
deriving DecidableEq, Repr

/-- A flit as it comes from a link (R152), and the buffer that it takes: one of the pool, whose credit the sender debited, or else
its class's (R158; log 23). -/
structure FlitIn where
  bits : BitVec 4704
  pool : Bool
deriving DecidableEq, Repr

/-- A control block as it comes from a link (R156); on IL0 what RS(544,514) made of each codeword completed with the frame: the
symbols corrected, or none where it failed (R150, R189). -/
structure BlockIn where
  bits : BitVec 2976
  fec : List (Option (Fin 16))
deriving DecidableEq, Repr

/-- The commands: one per row of the table of operations and events. -/
inductive Instr where
  | descriptorIntake (q : Fin 256) (d : Desc)
  | nop (q : Fin 256)
  | deliver (q : Fin 256)
  | collect (q : Fin 256)
  | collectAcc (q : Fin 256)
  | move (q : Fin 256)
  | spanMove (q : Fin 256)
  | stackGet (q : Fin 256)
  | stackPut (q : Fin 256)
  | stackCall (q : Fin 256)
  | fill (q : Fin 256)
  | clear (q : Fin 256)
  | mapSet (q : Fin 256)
  | mapDrop (q : Fin 256)
  | fenceWait (q : Fin 256)
  | fenceSignal (q : Fin 256)
  | descriptorComplete (q : Fin 256) (sq : BitVec 6)
  | mapChangeComplete
  | abortComplete (q : Fin 256)
  | stop (q : Fin 256)
  | abort (q : Fin 256)
  | abortSwitch (q : Fin 256)
  | resumeReissue (q : Fin 256)
  | resumeDiscard (q : Fin 256)
  | fenceLongWait (q : Fin 256)
  | roundDecision (p : Fin 32)
  | windowBoundary (p : Fin 32)
  | dilutionForcedIdle (p : Fin 32)
  | beat (p : Fin 32) (w : BeatWait)
  | postedWriteRetire (b : Fin 512)
  | guardEnd (p : Fin 32) (w : GuardWait)
  | crossbarMove (n : Fin 16)
  | endpointDeliveryAck (c : Fin 16) (e : Fin 256)
  | collectStart (c : Fin 16)
  | returnQuarterRow (c : Fin 16) (quarter : Fin 4) (trow : BitVec 8) (d : BitVec 1152)
  | endpointUnresponsive (c : Fin 16) (e : Fin 256)
  | unresponsiveClear (c : Fin 16) (k : Fin 4) (v : BitVec 64)
  | flitReceive (k : Fin 5) (f : FlitIn)
  | rowFlit (n : Fin 16) (w : BeatWait)
  | streamFlit (n : Fin 16)
  | controlBlockReceive (k : Fin 5) (cb : BlockIn)
  | creditReq
  | starvationHold (src : BitVec 16)
  | holdExpired (src : BitVec 16)
  | creditGrant
  | creditRefuse
  | creditReqResend (stag : BitVec 16)
  | rowAck
  | cancel
  | contextExpired (ctx : BitVec 12)
  | xferFault
  | transferTimeout (stag : BitVec 16)
  | fenceSignalMessage
  | fenceAck
  | fenceSignalResend (stag : BitVec 16)
  | mapInstall
  | mapAck
  | mapInstallResend (stag : BitVec 16)
  | streamPoison
  | linkDown
  | linkUp
  | pathHoldRelease (dest : BitVec 16)
  | linkRetrain (k : Fin 5)
  | retrainComplete (k : Fin 5)
  | retrainFailed (k : Fin 5)
  | laneFault (lane : Fin 36) (cause : BitVec 2)
  | swapReq
  | swapAck
  | laneRemap
  | swapDone
  | laneRetrainTimeout (lane : Fin 36)
  | linkTrain (arg : BitVec 32)
  | linkTrainComplete (r : TrainResult)
  | trainTimeout (k : Fin 5)
  | stackRequestSend (k : Fin 2)
  | readData (k : Fin 2) (h : BitVec 256) (d : Row)
  | callData (k : Fin 2) (h : BitVec 256) (d : Row)
  | writeAck (k : Fin 2) (h : BitVec 256)
  | progress (k : Fin 2) (h : BitVec 256)
  | fault (k : Fin 2) (h : BitVec 256)
  | cancelAck (k : Fin 2) (h : BitVec 256)
  | credit (k : Fin 2) (h : BitVec 256)
  | sopTimeout (k : Fin 2) (tag : BitVec 16)
  | cancelAckTimeout (k : Fin 2) (tag : BitVec 16)
  | stackPortDown (k : Fin 2) (cause : BitVec 2)
  | kpReadyChange (k : Fin 2) (v : Bool)
  | lostSweep (k : Fin 2)
  | kpEnable (k : Fin 2) (v : Bool)
  | mapLoad (w0 w1 w2 w3 : BitVec 32)
  | mapLoadTakeEffect
  | mapEntryTouch (eid : BitVec 8)
  | migrate (w0 w1 w2 w3 w4 : BitVec 32)
  | march (w0 w1 : BitVec 32)
  | marchBorrow (n : Fin 16)
  | marchYield (n : Fin 16)
  | rowTestTimeout (n : Fin 16)
  | marchReborrow (n : Fin 16)
  | marchComplete
  | scrub (w : BitVec 32)
  | scrubComplete (n : Fin 16)
  | slotCommit (w : BitVec 32)
  | drain (w : BitVec 32)
  | drainComplete (p : Fin 32)
  | zeroize (w : BitVec 32)
  | zeroizeDone
  | save
  | saveStart
  | saveComplete (ok : Bool)
  | saveTimeout
  | restart (w : BitVec 32)
  | canaryCal (w : BitVec 32)
  | calibrationComplete (n : Fin 16) (meas : BitVec 384)
  | powerSetOn
  | powerSetIdle
  | powerSetRetain
  | powerSetOff
  | idleReached
  | pwrRetAck
  | retainAckTimeout
  | retainExit
  | retainExitTimeout
  | pwrOffAck
  | offAckTimeout
  | railLoss (goods : BitVec 3)
  /-- `sec`: what the security core presents; none while it has not, or the time base does not advance (R338 stage 1) -/
  | powerGood (sec : Option SecValues)
  | stageQuickMarch (failed : List (BitVec 17))
  | stageCanaryCal (meas : List (BitVec 384))
  | stageDictionary
  | stageLinks (r : TrainResult)
  | stageMapRoute (cleared : Bool)
  | ready
  | stageTimeout (sub : BitVec 8)
  | housekeepingRound (h : HkSample)
  | backstopRound (h : HkSample)
  | groupFrozen (n : Fin 16)
  | hkTimeout
  | tbTimeout
  | securityChange (sec : SecValues)
  | secChgRelease
  | securityZeroize
  | debugObserve
  | debugIntrusive
  | debugLower (level : BitVec 2)
  | unlock (granted : Bool) (echo : BitVec 32)
  | unlockTimeout
  | injectEccSingle (target : BitVec 17) (word : BitVec 6) (bit : BitVec 8)
  | injectEccDouble (target : BitVec 17) (word : BitVec 6) (bit : BitVec 8)
  | injectDescParity (target : BitVec 17)
  | injectSlotParity (target : BitVec 17)
  | injectFlitCrc (target : BitVec 17)
  | injectSopCrc (target : BitVec 17)
  | injectCanary (target : BitVec 17) (bit : BitVec 8)
  | injectMapEcc (target : BitVec 17)
  | portHalt (v : BitVec 32)
  | fallbackTest (v : BitVec 8)
  | fallbackEngage
  | read (m : BdpMsg)
  | write (m : BdpMsg)
  | readBlock (m : BdpMsg)
  | command (m : BdpMsg)
  | poll (m : BdpMsg)
  | subscribe (m : BdpMsg)
  | event
  | mirrorRead (addr : BitVec 28) (wide : Bool)
  | mirrorWrite (addr : BitVec 28) (wide : Bool) (data : BitVec 64)
  | rowDataRead (n : Fin 16) (w : BeatWait)
  | rowDataWrite (n : Fin 16) (w : BeatWait)
  | windowAccessTimeout
  | slotEntryWrite (copy : Fin 2) (p : Fin 32) (k : Fin 256) (v : BitVec 16)
  | lfsrSeed (p : Fin 32) (v : BitVec 32)
  | epgroupWrite (c : Fin 16) (g : Fin 256) (v : BitVec 288)
  | routeWrite (package : BitVec 13) (v : BitVec 64)
  | allocWrite (b : Fin 512) (v : BitVec 8)
  | retiredMaskWrite (v : BitVec 512)
  | retireThresholdWrite (v : BitVec 8)
  | stallBoundWrite (v : BitVec 16)
  | counterClear (index : BitVec 16) (sub : BitVec 8)
  | counterClearAll
  | thresholdWrite (index : BitVec 16) (sub : BitVec 8) (v : BitVec 64)
  | failedStartsClear
  | failHistoryClear (i : Fin 8)
  | fawnThresholdWrite (v : BitVec 8)
  | bypass
  | identity
  | extest
  | intestScan
  | ijtag
  | frame (k : Fin 5) (picks : List (BitVec 2))
  | swapLaneLocked
  | arbLevelWrite (q : Fin 256) (v : BitVec 8)
deriving DecidableEq, Repr

end Sys2Proof
end

