-- ==== Sys2Proof/Decode.lean ====
section
/-!
DEFINITION. The command that a word spells by the table's bits.  No row of spec/opcode_table.json gives bits: a command
reaches the block over an interface of its own, so no word spells one.
-/

namespace Sys2Proof

/-- The command a word of the table spells: none, as no row gives bits. -/
def decodeTableWord (_nbits _w : Nat) : Option Instr := none

end Sys2Proof
end

