-- ==== Sys2Proof/Machine/Bits.lean ====
section
/-!
DEFINITION. Bit fields, byte order (R10), parity, the two CRCs (R154, R274) and SipHash-2-4 (R366).
-/

namespace Sys2Proof.Machine

/-- Bits `lo + w - 1` down to `lo` of `x`, as a number. -/
def fld {n : Nat} (x : BitVec n) (lo w : Nat) : Nat := (x.toNat >>> lo) % 2 ^ w

/-- Bit `i` of `x`. -/
def bitAt {n : Nat} (x : BitVec n) (i : Nat) : Bool := x.getLsbD i

/-- `x` with bits `lo + w - 1` down to `lo` set to `v`. -/
def putf {n : Nat} (x : BitVec n) (lo w v : Nat) : BitVec n :=
  BitVec.ofNat n (x.toNat - fld x lo w * 2 ^ lo + (v % 2 ^ w) * 2 ^ lo)

/-- `x` with bit `i` set to `b`. -/
def putBit {n : Nat} (x : BitVec n) (i : Nat) (b : Bool) : BitVec n := putf x i 1 b.toNat

/-- The fields of a structure, lowest first, each a width and a value, put together (R10). -/
def fields : List (Nat × Nat) → Nat
  | [] => 0
  | (w, v) :: t => v % 2 ^ w + fields t * 2 ^ w

/-- A structure of `n` bits from its fields, lowest first. -/
def pack (n : Nat) (l : List (Nat × Nat)) : BitVec n := BitVec.ofNat n (fields l)

/-- The low `n` bytes of a number, byte 0 first (R10). -/
def bytesOf : Nat → Nat → List Byte
  | 0, _ => []
  | n + 1, x => BitVec.ofNat 8 x :: bytesOf n (x / 256)

/-- The number that bytes spell, byte 0 first (R10). -/
def ofBytes : List Byte → Nat
  | [] => 0
  | b :: t => b.toNat + 256 * ofBytes t

/-- Equal slices of `w` bits from bit 0 up. -/
def slices (w : Nat) : Nat → Nat → List Nat
  | 0, _ => []
  | n + 1, x => x % 2 ^ w :: slices w n (x / 2 ^ w)

/-- The number whose `w`-bit slices from bit 0 up are the list's. -/
def unslice (w : Nat) : List Nat → Nat
  | [] => 0
  | v :: t => v % 2 ^ w + 2 ^ w * unslice w t

/-- Whether the low `n` bits of `x` hold an odd number of ones. -/
def oddOnes : Nat → Nat → Bool
  | 0, _ => false
  | n + 1, x => xor (x % 2 == 1) (oddOnes n (x / 2))

/-- How many of the low `n` bits of `x` are one. -/
def ones : Nat → Nat → Nat
  | 0, _ => 0
  | n + 1, x => x % 2 + ones n (x / 2)

/-- The positions of the ones among the low `n` bits of `x`, ascending from `i`. -/
def onesList (x : Nat) : List Nat → List Nat
  | [] => []
  | i :: t => if x.testBit i then i :: onesList x t else onesList x t

/-- Positions of the ones of a word. -/
def bitsSet {n : Nat} (x : BitVec n) : List Nat := onesList x.toNat (List.range n)

/-- `k` steps of a reflected CRC register with polynomial `poly`. -/
def crcSteps (poly : Nat) : Nat → Nat → Nat
  | 0, c => c
  | k + 1, c => crcSteps poly k (if c % 2 = 1 then (c / 2) ^^^ poly else c / 2)

/-- A reflected CRC over bytes: initial value and final XOR all ones. -/
def crcOver (poly : Nat) (l : List Byte) : BitVec 32 :=
  BitVec.ofNat 32 (l.foldl (fun c b => crcSteps poly 8 (c ^^^ b.toNat)) 0xFFFFFFFF ^^^ 0xFFFFFFFF)

/-- CRC-32C of R154: polynomial 0x1EDC_6F41, reflected. -/
def crc32c (l : List Byte) : BitVec 32 := crcOver 0x82F63B78 l

/-- The CRC-32 of R274: polynomial 0x04C1_1DB7, reflected. -/
def crc32 (l : List Byte) : BitVec 32 := crcOver 0xEDB88320 l

/-- One SipRound on the four words. -/
def sipRound (v : BitVec 64 × BitVec 64 × BitVec 64 × BitVec 64) : BitVec 64 × BitVec 64 × BitVec 64 × BitVec 64 :=
  let a := v.1 + v.2.1
  let b := v.2.1.rotateLeft 13 ^^^ a
  let a := a.rotateLeft 32
  let c := v.2.2.1 + v.2.2.2
  let d := v.2.2.2.rotateLeft 16 ^^^ c
  let a := a + d
  let d := d.rotateLeft 21 ^^^ a
  let c := c + b
  let b := b.rotateLeft 17 ^^^ c
  let c := c.rotateLeft 32
  (a, b, c, d)

/-- `k` SipRounds. -/
def sipRounds : Nat → BitVec 64 × BitVec 64 × BitVec 64 × BitVec 64 →
    BitVec 64 × BitVec 64 × BitVec 64 × BitVec 64
  | 0, v => v
  | k + 1, v => sipRounds k (sipRound v)

/-- SipHash-2-4 of a message of fewer than eight bytes: its one block holds the bytes and the length. -/
def sipHash (k0 k1 : BitVec 64) (l : List Byte) : BitVec 64 :=
  let m : BitVec 64 := BitVec.ofNat 64 (ofBytes l + l.length * 2 ^ 56)
  let v := (k0 ^^^ 0x736f6d6570736575#64, k1 ^^^ 0x646f72616e646f6d#64, k0 ^^^ 0x6c7967656e657261#64,
    k1 ^^^ 0x7465646279746573#64)
  let v := sipRounds 2 (v.1, v.2.1, v.2.2.1, v.2.2.2 ^^^ m)
  let v := sipRounds 4 (v.1 ^^^ m, v.2.1, v.2.2.1 ^^^ 0xff#64, v.2.2.2)
  v.1 ^^^ v.2.1 ^^^ v.2.2.1 ^^^ v.2.2.2

/-- The hash of a stream ID (R366): the low 24 bits, key bytes 0 to 7 as k0. -/
def streamHash (key : BitVec 128) (id : Nat) : Nat :=
  (sipHash (BitVec.ofNat 64 (fld key 0 64)) (BitVec.ofNat 64 (fld key 64 64)) (bytesOf 3 id)).toNat % 2 ^ 24

end Sys2Proof.Machine
end

