-- ==== Sys2Proof/Machine/Ecc.lean ====
section
/-!
DEFINITION. The SEC-DED code of the banks and of the residency map (R233 to R236, R207).
-/

namespace Sys2Proof.Machine

/-- The columns of data bits 0 to 83: the nine-bit values of weight 3 in ascending order (R234). -/
def lowColumns : List Nat :=
  [7, 11, 13, 14, 19, 21, 22, 25, 26, 28, 35, 37, 38, 41, 42, 44, 49, 50, 52, 56, 67, 69, 70, 73, 74, 76, 81, 82]
    ++ [84, 88, 97, 98, 100, 104, 112, 131, 133, 134, 137, 138, 140, 145, 146, 148, 152, 161, 162, 164, 168, 176, 193]
    ++ [194, 196, 200, 208, 224, 259, 261, 262, 265, 266, 268, 273, 274, 276, 280, 289, 290, 292, 296, 304, 321, 322]
    ++ [324, 328, 336, 352, 385, 386, 388, 392, 400, 416, 448]

/-- The columns of data bits 84 to 127: the first 44 nine-bit values of weight 5 in ascending order (R234). -/
def highColumns : List Nat :=
  [31, 47, 55, 59, 61, 62, 79, 87, 91, 93, 94, 103, 107, 109, 110, 115, 117, 118, 121, 122, 124, 143, 151, 155]
    ++ [157, 158, 167, 171, 173, 174, 179, 181, 182, 185, 186, 188, 199, 203, 205, 206, 211, 213, 214, 217]

/-- The columns of the 128 data bits (R234). -/
def columns : List Nat := lowColumns ++ highColumns

/-- The column of stored bit `i`: data bits 0 to 127, then check bits 0 to 8 (R234). -/
def columnOf (i : Nat) : Nat := if i < 128 then columns.getD i 0 else 2 ^ (i - 128)

/-- The XOR of the columns of the ones of `d`. -/
def xorColumns : List Nat → Nat → Nat
  | [], _ => 0
  | c :: t, d => (if d % 2 = 1 then c else 0) ^^^ xorColumns t (d / 2)

/-- The check bits written for data `d` (R234). -/
def checkBits (d : Nat) : Nat := xorColumns columns d

/-- A clean code word (R234). -/
def encodeWord (d : Nat) : Code := BitVec.ofNat 137 (d % 2 ^ 128 + checkBits (d % 2 ^ 128) * 2 ^ 128)

/-- A word written with the poison syndrome (R234). -/
def poisonWord (d : Nat) : Code := BitVec.ofNat 137 (d % 2 ^ 128 + (checkBits (d % 2 ^ 128) ^^^ 0x1FF) * 2 ^ 128)

/-- The data bits of a stored word. -/
def dataOf (c : Code) : Nat := c.toNat % 2 ^ 128

/-- The syndrome of a stored word (R235). -/
def syndromeOf (c : Code) : Nat := c.toNat / 2 ^ 128 ^^^ checkBits (dataOf c)

/-- Classes of a checked word (R235). -/
inductive WordClass where
  | clean | correctable | poison | uncorrectable
deriving DecidableEq, Repr

/-- The stored bit whose column is `s`, if any. -/
def bitOfColumn (s : Nat) : Option Nat := (List.range 137).find? fun i => columnOf i = s

/-- The class of a stored word (R235). -/
def classOf (c : Code) : WordClass :=
  let s := syndromeOf c
  if s = 0 then .clean else if s = 0x1FF then .poison else if (bitOfColumn s).isSome then .correctable
  else .uncorrectable

/-- The data bits a reader gets from a stored word: one damaged bit inverted, else as stored (R235, R237). -/
def deliveredData (c : Code) : Nat :=
  match classOf c with
  | .correctable =>
    match bitOfColumn (syndromeOf c) with
    | some i => if i < 128 then dataOf c ^^^ 2 ^ i else dataOf c
    | none => dataOf c
  | _ => dataOf c

/-- A stored word with bit `i` inverted. -/
def flipBit (c : Code) (i : Nat) : Code := c ^^^ BitVec.ofNat 137 (2 ^ i)

/-- The 36 words of a row: data bytes, then lane bytes (R233). -/
def wordsOf (r : Row) : List Nat := slices 128 36 r.toNat

/-- The row of 36 data words. -/
def rowOfWords (l : List Nat) : Row := BitVec.ofNat 4608 (unslice 128 l)

/-- Row bits stored as clean code words (R233, R234). -/
def encodeRow (r : Row) : List Code := (wordsOf r).map encodeWord

/-- Row bits stored with the poison syndrome in every word (R241). -/
def poisonRow (r : Row) : List Code := (wordsOf r).map poisonWord

/-- The stored words of a row with every stored bit zero: clean words of zero data (R317). -/
def zeroWords : List Code := List.replicate 36 0

end Sys2Proof.Machine
end

