-- ==== Sys2Proof/Machine/Formats.lean ====
section
/-!
DEFINITION. Element types, scale groups, layouts, the scale lane, rounding and overflow (R32 to R51), read-side
conditioning (R126 to R132), quarter-rows (R121), realignment (R136), the arithmetic of accumulate-on-write (R140),
FILL's constant (R66) and packed stack rows (R65).  Pure functions over rows.
-/

namespace Sys2Proof.Machine

/-- `TYPE`, `GROUP`, `MICRO` and `LAYOUT` of a format byte (R34). -/
def fmtType (f : Nat) : Nat := f % 8
def fmtGroup (f : Nat) : Nat := f / 8 % 4
def fmtMicro (f : Nat) : Bool := f / 32 % 2 == 1
def fmtLayout (f : Nat) : Nat := f / 64 % 4

/-- Element width in bits (R36). -/
def widthOf (f : Nat) : Nat := 2 ^ (fmtType f + 1)

/-- Elements per scale group (R39). -/
def groupOf (f : Nat) : Nat := 16 * 2 ^ fmtGroup f

/-- Bytes per scale group (R43). -/
def groupBytes (f : Nat) : Nat := groupOf f * widthOf f / 8

/-- Groups of a 512-byte row (R40). -/
def groupsOf (f : Nat) : Nat := 4096 / widthOf f / groupOf f

/-- Sub-blocks of 8 elements of a 512-byte row (R36). -/
def subsOf (f : Nat) : Nat := 4096 / widthOf f / 8

/-- The format is a permitted combination for a tile of `rb` row data bytes (R36, R40, R44, R46). -/
def fmtOk (f rb : Nat) : Bool :=
  decide (fmtType f < 5) && decide (groupsOf f ≤ 32) && decide (0 < groupsOf f)
    && (!fmtMicro f || (decide (1 ≤ fmtType f) && decide (fmtType f ≤ 3) && decide (2 ≤ fmtGroup f)))
    && decide (fmtLayout f ≠ 3)
    && (decide (fmtLayout f ≠ 1) || (decide (2 ≤ fmtGroup f) && !fmtMicro f))
    && (decide (fmtLayout f ≠ 2) || (decide (groupBytes f ≤ 128) && decide (rb = 512)))

/-- Row data bytes are whole groups (R43). -/
def wholeGroups (f rb : Nat) : Bool := rb % groupBytes f == 0

/-- The signed value of a `w`-bit pattern. -/
def signed (w v : Nat) : Int := if v % 2 ^ w < 2 ^ (w - 1) then (v % 2 ^ w : Nat) else (v % 2 ^ w : Nat) - (2 : Int) ^ w

/-- The `w`-bit two's complement pattern of a value. -/
def pattern (w : Nat) (x : Int) : Nat := (x % (2 : Int) ^ w).toNat

/-- Exponent code VOID (R41). -/
def voidExp : Nat := 0x80

/-- Exponent slot k of a row (R33). -/
def expOf (r : Row) (k : Nat) : Nat := fld r (4096 + 8 * k) 8

/-- Micro-offset field k: M000 to M063 in lane bytes 32 to 47, M064 to M127 in lane bytes 16 to 31 (R33). -/
def microOf (r : Row) (k : Nat) : Nat :=
  if k < 64 then fld r (4096 + 256 + 2 * k) 2 else fld r (4096 + 128 + 2 * (k - 64)) 2

/-- Lane fields `CONTRIB`, `FMT`, `ACC_EPOCH` (R33). -/
def contribOf (r : Row) : Nat := fld r (4096 + 384) 16
def tagOf (r : Row) : Nat := fld r (4096 + 400) 8
def epochOf (r : Row) : Nat := fld r (4096 + 408) 8

/-- A row taken apart: data patterns, exponent codes and micro-offsets, as a format reads them. -/
structure Parts where
  elems : List Nat
  exps : List Nat
  micros : List Nat
deriving DecidableEq, Repr

/-- Elements, exponents and micro-offsets of a row under a format (R37, R38). -/
def takeApart (f : Nat) (r : Row) : Parts where
  elems := slices (widthOf f) (4096 / widthOf f) (r.toNat % 2 ^ 4096)
  exps := (List.range (groupsOf f)).map (expOf r)
  micros := if fmtMicro f then (List.range (subsOf f)).map (microOf r) else []

/-- The list's first `n` items, `d` where it is shorter. -/
def padTo {α : Type} (d : α) (n : Nat) (l : List α) : List α := (l ++ List.replicate n d).take n

/-- The lane's 32 exponent bytes and 64 micro-offset fields M000 to M063 (R33, R35). -/
def laneOf (f : Nat) (exps micros : List Nat) (contrib epoch tag : Nat) : Nat :=
  if fmtMicro f then
    fields [(128, unslice 8 (padTo voidExp 16 exps)), (128, unslice 2 (padTo 0 64 (micros.drop 64))),
      (128, unslice 2 (padTo 0 64 micros)), (16, contrib), (8, tag), (8, epoch)]
  else
    fields [(256, unslice 8 (padTo voidExp 32 exps)), (128, 0), (16, contrib), (8, tag), (8, epoch)]

/-- A row from its parts under a format, with its bookkeeping (R32, R33, R35). -/
def putTogether (f : Nat) (p : Parts) (contrib epoch : Nat) : Row :=
  pack 4608 [(4096, unslice (widthOf f) p.elems), (512, laneOf f p.exps p.micros contrib epoch f)]

/-- The row that a read of an UNWRITTEN row returns (R57). -/
def blankRow : Row := pack 4608 [(4096, 0), (512, fields [(256, unslice 8 (List.replicate 32 voidExp)), (144, 0), (8, 7)])]

/-- Zero for the elements and micro-offsets of VOID groups (R42). -/
def blankVoid (f : Nat) (p : Parts) : Parts :=
  { elems := (List.range p.elems.length).zip p.elems |>.map fun e =>
      if p.exps.getD (e.1 / groupOf f) voidExp = voidExp then 0 else e.2
    exps := p.exps
    micros := (List.range p.micros.length).zip p.micros |>.map fun e =>
      if p.exps.getD (8 * e.1 / groupOf f) voidExp = voidExp then 0 else e.2 }

/-- One step of the 32-bit LFSR x^32 + x^22 + x^2 + x + 1 (R48). -/
def lfsrStep (s : BitVec 32) : BitVec 32 :=
  pack 32 [(1, (xor (xor (bitAt s 31) (bitAt s 21)) (xor (bitAt s 1) (bitAt s 0))).toNat), (31, s.toNat % 2 ^ 31)]

/-- `x / 2^s` rounded under `mode`, with the LFSR after it (R47, R48). -/
def roundShift (mode : Nat) (x : Int) (s : Nat) (l : BitVec 32) : Int × BitVec 32 :=
  if s = 0 then (x, l)
  else if mode = 0 then
    let q := x / (2 : Int) ^ s
    let r := x % (2 : Int) ^ s
    let h := (2 : Int) ^ (s - 1)
    (if r < h then q else if h < r then q + 1 else if q % 2 = 0 then q else q + 1, l)
  else if mode = 1 then (Int.tdiv x ((2 : Int) ^ s), l)
  else
    let l' := lfsrStep l
    let r : Nat := if s ≤ 32 then l'.toNat % 2 ^ s else l'.toNat * 2 ^ (s - 32)
    ((x + (r : Int)) / (2 : Int) ^ s, l')

/-- A list rounded in order, each element by its own shift. -/
def roundAll (mode : Nat) : List (Int × Nat) → BitVec 32 → List Int × BitVec 32
  | [], l => ([], l)
  | e :: t, l =>
    let a := roundShift mode e.1 e.2 l
    let b := roundAll mode t a.2
    (a.1 :: b.1, b.2)

/-- Least and greatest value of a `w`-bit element (R36). -/
def minOf (w : Nat) : Int := -((2 : Int) ^ (w - 1))
def maxOf (w : Nat) : Int := (2 : Int) ^ (w - 1) - 1

/-- The value fits the width. -/
def fits (w : Nat) (x : Int) : Bool := decide (minOf w ≤ x) && decide (x ≤ maxOf w)

/-- SATURATE (R49). -/
def clampTo (w : Nat) (x : Int) : Int := if x < minOf w then minOf w else if maxOf w < x then maxOf w else x

/-- The least shift, up to `fuel`, at which every value lies within the target's range times 2^s (R130). -/
def needShift (w : Nat) (l : List Int) : Nat → Nat → Nat
  | 0, s => s
  | k + 1, s =>
    if l.all (fun x => decide (minOf w * (2 : Int) ^ s ≤ x) && decide (x ≤ maxOf w * (2 : Int) ^ s)) then s
    else needShift w l k (s + 1)

/-- The list cut into runs of `n`. -/
def chunk {α : Type} (n : Nat) : Nat → List α → List (List α)
  | 0, _ => []
  | k + 1, l => l.take n :: chunk n k (l.drop n)

/-- A group requantized: elements, exponent code, micro-offsets, whether its exponent saturated, the LFSR after. -/
structure Requant where
  elems : List Int
  exp : Nat
  micros : List Nat
  sat : Bool
  lfsr : BitVec 32
deriving DecidableEq, Repr

/-- Requantize one group of I32 elements with exponent code `e` to width `w` (R130 to R132). -/
def requantGroup (w : Nat) (micro : Bool) (mode : Nat) (e : Nat) (q : List Int) (l : BitVec 32) : Requant :=
  if e = voidExp then ⟨q.map fun _ => 0, voidExp, if micro then List.replicate (q.length / 8) 0 else [], false, l⟩
  else
    let room := (127 - signed 8 e).toNat
    if micro then
      let subs := (chunk 8 (q.length / 8) q).map fun b => needShift w b 32 0
      let top := subs.foldl max 0
      let low := subs.foldl min 32
      let sg0 := max low (top - 3)
      let sat := decide (room < sg0)
      let sg := if sat then room else sg0
      let ms := subs.map fun s => if sat then min 3 (s - sg) else s - sg
      let r := roundAll mode ((List.range q.length).zip q |>.map fun x => (x.2, sg + ms.getD (x.1 / 8) 0)) l
      ⟨if sat then r.1.map (clampTo w) else r.1, pattern 8 (signed 8 e + sg), ms, sat, r.2⟩
    else
      let s0 := needShift w q 32 0
      let sat := decide (room < s0)
      let s := if sat then room else s0
      let r := roundAll mode (q.map fun x => (x, s)) l
      ⟨if sat then r.1.map (clampTo w) else r.1, pattern 8 (signed 8 e + s), [], sat, r.2⟩

/-- All groups of a row requantized in order: parts, groups whose exponent saturated, LFSR. -/
def requantAll (w : Nat) (micro : Bool) (mode : Nat) : List (Nat × List Int) → BitVec 32 → Parts × Nat × BitVec 32
  | [], l => (⟨[], [], []⟩, 0, l)
  | g :: t, l =>
    let a := requantGroup w micro mode g.1 g.2 l
    let b := requantAll w micro mode t a.lfsr
    (⟨a.elems.map (pattern w) ++ b.1.elems, a.exp :: b.1.exps, a.micros ++ b.1.micros⟩, a.sat.toNat + b.2.1, b.2.2)

/-- Rotate by `rot` bytes over rows i and i + 1 (R127). -/
def rotateParts (f rot : Nat) (a b : Parts) : Parts :=
  let w := widthOf f
  { elems := ((a.elems ++ b.elems).drop (rot * 8 / w)).take a.elems.length
    exps := ((a.exps ++ b.exps).drop (rot / groupBytes f)).take a.exps.length
    micros := ((a.micros ++ b.micros).drop (rot / w)).take a.micros.length }

/-- Transpose each run of 64 elements (R128). -/
def transposeParts (p : Parts) : Parts :=
  { p with elems := (List.range p.elems.length).map fun k =>
      p.elems.getD (k / 64 * 64 + 8 * (k % 8) + k % 64 / 8) 0 }

/-- Widen (R129): sign-extension, positions kept. -/
def widenParts (f g : Nat) (p : Parts) : Parts :=
  { p with elems := p.elems.map fun v => pattern (widthOf g) (signed (widthOf f) v) }

/-- Conditioning of one DELIVER row after ECC (R126 to R132) and the delivered row it forms (R120): source format
`f`, destination format `g`, row data bytes, rotate, transpose, rounding mode, source row and the next source row for
a rotate.  Answers the row, the groups whose exponent saturated and the LFSR. -/
def condition (f g rb rot : Nat) (transpose : Bool) (mode : Nat) (r nxt : Row) (l : BitVec 32) : Row × Nat × BitVec 32 :=
  let p := blankVoid f (takeApart f r)
  let p := if rot = 0 then p else rotateParts f rot p (blankVoid f (takeApart f nxt))
  let p := if transpose then transposeParts p else p
  let n := rb * 8 / widthOf f
  let k := rb / groupBytes f
  let p : Parts := ⟨p.elems.take n, p.exps.take k, p.micros.take (n / 8)⟩
  if fmtType f = fmtType g then (putTogether g p 0 0, 0, l)
  else if fmtType f = 4 then
    let q := (chunk (groupOf f) k (p.elems.map (signed 32)))
    let a := requantAll (widthOf g) (fmtMicro g) mode (p.exps.zip q) l
    (putTogether g a.1 0 0, a.2.1, a.2.2)
  else (putTogether g (widenParts f g p) 0 0, 0, l)

/-- Delivered bytes of a tile (R71). -/
def deliveredBytes (f g rb : Nat) : Nat := rb * widthOf g / widthOf f

/-- The quarter-row Qq of a row (R121). -/
def quarterOf (r : Row) (f q : Nat) : BitVec 1152 :=
  let gb := groupBytes f
  let k0 := 128 * q / gb
  let n := if gb ≤ 128 then 128 / gb else 1
  let exps := (List.range 8).map fun j => if j < n then expOf r (k0 + j) else voidExp
  let s0 := 128 * q * 8 / widthOf f / 8
  let micros := if fmtMicro f then (List.range (128 * 8 / widthOf f / 8)).map fun j => microOf r (s0 + j) else []
  pack 1152 [(1024, fld r (1024 * q) 1024), (64, unslice 8 exps), (64, unslice 2 micros)]

/-- Exponent slot of group k that a quarter-row for quarter q reports (R121). -/
def quarterExp (d : BitVec 1152) (f q k : Nat) : Nat := fld d (1024 + 8 * (k - 128 * q / groupBytes f)) 8

/-- Result of assembling: the parts, groups realigned, LFSR. -/
structure Assembled where
  parts : Parts
  realigned : Nat
  lfsr : BitVec 32
deriving DecidableEq, Repr

/-- The quarters a group of bytes from `lo` to `hi - 1` meets. -/
def quartersOf (lo hi : Nat) : List Nat := (List.range 4).filter fun q => decide (lo < 128 * (q + 1)) && decide (128 * q < hi)

/-- Align one group that several quarters hold (R136): per quarter its exponent code and elements. -/
def realignGroup (mode : Nat) (l : List (Nat × List Int)) (s : BitVec 32) : Nat × List Int × Bool × BitVec 32 :=
  let live := (l.filter fun e => e.1 ≠ voidExp).map fun e => signed 8 e.1
  match live with
  | [] => (voidExp, l.flatMap (fun e => e.2.map fun _ => 0), false, s)
  | x :: t =>
    let top := t.foldl max x
    let items := l.flatMap fun e =>
      if e.1 = voidExp then e.2.map fun _ => ((0 : Int), 0) else e.2.map fun q => (q, (top - signed 8 e.1).toNat)
    let r := roundAll mode items s
    (pattern 8 top, r.1, !(l.all fun e => e.1 = (l.headD (0, [])).1), r.2)

/-- A tile row assembled from quarter-rows (R135, R136) under format `f` with `rb` row data bytes; gaps are zero data
under VOID exponents. -/
def assemble (f rb mode : Nat) (quarters : List (Option (BitVec 1152))) (s : BitVec 32) : Assembled :=
  let w := widthOf f
  let gb := groupBytes f
  let data := unslice 1024 (quarters.map fun q => match q with | some d => fld d 0 1024 | none => 0)
  let elems := slices w (rb * 8 / w) data
  let expAt := fun q k => match quarters.getD q none with | some d => quarterExp d f q k | none => voidExp
  let micros := if fmtMicro f then
      (List.range (rb * 8 / w / 8)).map fun u =>
        let q := u * w / 128
        match quarters.getD q none with
        | some d => fld d (1088 + 2 * (u - 128 * q / w)) 2
        | none => 0
    else []
  let step := fun (acc : List Nat × List Nat × Nat × BitVec 32) (k : Nat) =>
    let qs := quartersOf (k * gb) ((k + 1) * gb)
    if qs.length ≤ 1 then
      (acc.1 ++ (elems.drop (k * groupOf f)).take (groupOf f), acc.2.1 ++ [expAt (k * gb / 128) k], acc.2.2.1, acc.2.2.2)
    else
      let per := 1024 / w
      let rows := qs.map fun q => (expAt q k, ((elems.drop (q * per)).take per).map (signed w))
      let r := realignGroup mode rows acc.2.2.2
      (acc.1 ++ r.2.1.map (pattern w), acc.2.1 ++ [r.1], acc.2.2.1 + r.2.2.1.toNat, r.2.2.2)
  let a := (List.range (rb / gb)).foldl step ([], [], 0, s)
  ⟨⟨a.1, a.2.1, micros⟩, a.2.2.1, a.2.2.2⟩

/-- One group added (R140): exponent code, elements, HEADROOM step taken, elements saturated, exponent saturated,
LFSR. -/
structure AccGroup where
  exp : Nat
  elems : List Int
  headroom : Bool
  saturated : Nat
  expSat : Bool
  lfsr : BitVec 32
deriving DecidableEq, Repr

/-- acc_group of R140: stored group, incoming group, rounding mode, whether the policy is HEADROOM. -/
def accGroup (oe : Nat) (old : List Int) (ne : Nat) (new : List Int) (mode : Nat) (headroom : Bool) (l : BitVec 32) :
    AccGroup :=
  if ne = voidExp then ⟨oe, old, false, 0, false, l⟩
  else if oe = voidExp then ⟨ne, new, false, 0, false, l⟩
  else
    let e := max (signed 8 oe) (signed 8 ne)
    let so := (e - signed 8 oe).toNat
    let sn := (e - signed 8 ne).toNat
    let a := roundAll mode (old.map fun x => (x, so)) l
    let b := roundAll mode (new.map fun x => (x, sn)) a.2
    let s := List.zipWith (· + ·) a.1 b.1
    let wide := (s.filter fun x => !fits 32 x).length
    if wide = 0 then ⟨pattern 8 e, s, false, 0, false, b.2⟩
    else if !headroom then ⟨pattern 8 e, s.map (clampTo 32), false, wide, false, b.2⟩
    else if e = 127 then ⟨127, s.map (clampTo 32), false, wide, true, b.2⟩
    else
      let c := roundAll mode (s.map fun x => (x, 1)) b.2
      ⟨pattern 8 (e + 1), c.1, true, 0, false, c.2⟩

/-- A row added into a row (R139 step 6): the sums of the first `k` groups, the other groups kept. -/
structure AccRow where
  parts : Parts
  headroom : Nat
  saturated : Nat
  expSat : Nat
  lfsr : BitVec 32
deriving DecidableEq, Repr

/-- Groups 0 to k − 1 of `new` added into `old` under format `f`. -/
def accRow (f k mode : Nat) (headroom : Bool) (old new : Parts) (l : BitVec 32) : AccRow :=
  let g := groupOf f
  let step := fun (acc : AccRow) (j : Nat) =>
    let a := accGroup (old.exps.getD j voidExp) (((old.elems.drop (j * g)).take g).map (signed 32))
      (new.exps.getD j voidExp) (((new.elems.drop (j * g)).take g).map (signed 32)) mode headroom acc.lfsr
    { parts := ⟨acc.parts.elems ++ a.elems.map (pattern 32), acc.parts.exps ++ [a.exp], []⟩
      headroom := acc.headroom + a.headroom.toNat
      saturated := acc.saturated + a.saturated
      expSat := acc.expSat + a.expSat.toNat
      lfsr := a.lfsr : AccRow }
  let r := (List.range k).foldl step ⟨⟨[], [], []⟩, 0, 0, 0, l⟩
  { r with parts := ⟨r.parts.elems ++ old.elems.drop (k * g), r.parts.exps ++ old.exps.drop k, []⟩ }

/-- The tile row that FILL writes: `value` in every element of `rb` bytes, `e` in their groups' slots (R66). -/
def fillRow (f rb value e : Nat) : Row :=
  let n := rb * 8 / widthOf f
  putTogether f ⟨List.replicate n (pattern (widthOf f) (signed 32 value)), List.replicate (rb / groupBytes f) e,
    if fmtMicro f then List.replicate (n / 8) 0 else []⟩ 0 0

/-- Stack bytes per row of a tile (R65): 576 full, else data, exponent bytes, micro-offset bytes, rounded up to 8. -/
def strideOf (packed : Bool) (f rb : Nat) : Nat :=
  if packed then
    let n := rb + rb / groupBytes f + (if fmtMicro f then (rb * 8 / widthOf f / 8 + 3) / 4 else 0)
    (n + 7) / 8 * 8
  else 576

/-- The stack bytes of a row at its stride, low bytes first (R65). -/
def toStack (packed : Bool) (f rb : Nat) (r : Row) : Row :=
  if packed then
    let k := rb / groupBytes f
    let u := rb * 8 / widthOf f / 8
    pack 4608 [(rb * 8, fld r 0 (rb * 8)), (8 * k, unslice 8 ((List.range k).map (expOf r))),
      (2 * u, if fmtMicro f then unslice 2 ((List.range u).map (microOf r)) else 0)]
  else r

/-- The row that stack bytes hold (R65): what a packed row does not store reads zero, VOID or zero. -/
def ofStack (packed : Bool) (f rb : Nat) (d : Row) : Row :=
  if packed then
    let k := rb / groupBytes f
    let u := rb * 8 / widthOf f / 8
    putTogether f ⟨slices (widthOf f) (rb * 8 / widthOf f) (fld d 0 (rb * 8)),
      slices 8 k (fld d (rb * 8) (8 * k)),
      if fmtMicro f then slices 2 u (fld d (rb * 8 + 8 * k) (2 * u)) else []⟩ 0 0
  else d

end Sys2Proof.Machine
end

