-- ==== Sys2Proof/Config.lean ====
section
/-!
DEFINITION. The free values of the model: constants without a body, so nothing in Lean can evaluate one or prove a
value of it.  Each is applied to a plain counter of the state or to operands (log 7).
-/

namespace Sys2Proof.Config

/-- Contents of the words that a bleating read returns (R109 calls them undefined); the argument is the state's
count of free values taken.  Log 7. -/
opaque freeRow : Nat → Row

/-- The host time base in ns at the n-th stamp the fabric takes (R3, R311, R321, R383).  The time base belongs to the
surroundings, so the reading is free.  Log 8. -/
opaque stampNs : Nat → BitVec 64

/-- Whether the estimate `num / den` sixteenths of a degree of R331 is reported rounded up: the spec gives the
estimate exactly and does not state how it becomes a whole number of sixteenths.  Log 7. -/
opaque proxyRoundsUp : Int → Nat → Bool

/-- The 36 stored words of 137 bits that a row holds after a restore of a march that did not read back equal (R252 calls them
the words as they now stand and does not give them); the argument is the state's count of free values taken.  Log 7. -/
opaque freeBits : Nat → BitVec 4932

/-- Length of the last chunk of a STREAM grant, less one, in units of 64 bytes: R198 has a short final chunk written at
its own length, and no field of R152 or R161 brings that length to the destination.  Applied to the CREDIT_REQ of the
grant and the chunk index.  Log 7. -/
opaque lastChunk : BitVec 512 → Nat → Fin 9

/-- The estimate from rate, in sixteenths of a degree, of a group whose reference rate is 0 (R331 divides by that rate and states no
result).  Log 7. -/
opaque zeroRateEstimate : Nat → Int

/-- The seed of `ALIGN`'s PRBS-13 of a frame number and a logical lane (R156 has it seeded from both and does not give the
function).  Log 7. -/
opaque alignSeed : BitVec 8 → Nat → BitVec 13

/-- Stack bytes of a packed row of a residency entry, less one, in units of 8 bytes: MIGRATE moves an entry's rows `at
their stride` (R186), and neither the entry (R206) nor the operation's arguments (R185) hold the format and the row bytes
that R65 forms a packed stride from.  Applied to the entry.  Log 7. -/
opaque packedStride : BitVec 128 → Fin 72

/-- A bit of the handshake stages as INTEST_SCAN shifts it out (R390): their contents are no state that the spec gives.  Applied to the
state's count of free values taken and the bit's place.  Log 7. -/
opaque stageBit : Nat → Nat → Bool

/-- A word of the parameter block (R383, R390): the spec gives the block's parameters and not their places in it.  Log 7. -/
opaque paramWord : BitVec 12 → BitVec 32

end Sys2Proof.Config
end

