-- ==== Sys2Proof/Machine/State.lean ====
section
/-!
DEFINITION. The state of one fabric instance as plain data, the reasons a step can stop, and the state after reset.
Every field's docstring gives its width or range, the rule of spec/ that names it and its reset value; `notes/` and
INVENTORY.md list the same.  A field marked "own" is the model's bookkeeping for something the spec describes in
words (an age, an order of issue).
-/

namespace Sys2Proof.Machine

/-- Why a step can stop with a fault. -/
inductive Fault where
  /-- Raised by every command but RAIL_LOSS and POWER_GOOD while a rail is outside its limits: R9 and R387 make no
  claim there.  Safe: the model stops where the part goes on undefined.  Log 2. -/
  | outsideLimits
deriving DecidableEq, Repr

/-- Why a step can be refused. -/
inductive Refusal where
  /-- A command whose meaning is not written.  Safe.  No arm of the finished model raises it. -/
  | notModelled (mnemonic : String)
deriving DecidableEq, Repr

/-- How a round's grant was made (R96, R100, R101, R228, R317). -/
inductive Grant where
  | owned | background | preempt | guard | exclusive
deriving DecidableEq, Repr

/-- What one leg of an instruction moves through its port. -/
inductive LegKind where
  /-- DELIVER: bank row read, conditioned, into the OP's delivery pipeline (R113, R126) -/
  | deliver
  /-- COLLECT or local COLLECT_ACC: assembled row written through the OP (R137) -/
  | collect
  /-- remote COLLECT_ACC: assembled row through OPc (R137) -/
  | accOut
  /-- remote COLLECT_ACC: the row from OPc onward through XPc to the link (R137) -/
  | accSend
  /-- MOVE, and the local share of a herd SPAN_MOVE: read into the receive buffer (R87, R172) -/
  | moveRead
  /-- the write that empties the receive buffer (R87) -/
  | moveWrite
  /-- SPAN_MOVE: bank row read and sent onto a link (R163) -/
  | spanRead
  /-- STACK_GET and STACK_CALL: received row written (R198) -/
  | stackWrite
  /-- STACK_PUT: bank row read and sent as WRITE_DATA (R198) -/
  | stackRead
  /-- FILL (R66) -/
  | fill
  /-- CLEAR (R15) -/
  | clear
deriving DecidableEq, Repr

/-- One leg of an issued instruction: the rows it moves through one port. -/
structure Leg where
  /-- what the leg moves. own -/
  kind : LegKind
  /-- the port, 0 to 31 (R85). own -/
  port : Nat
  /-- tile row of leg row 0 and the step to the next (R69: a herd share takes every D-th row). own -/
  first : Nat
  step : Nat
  /-- rows the leg moves in all. own -/
  total : Nat
  /-- rows moved, the rows of a discarded burst taken back (R101, R102). own -/
  next : Nat
  /-- rows moved at least once (R326 counts a restarted row once). own -/
  high : Nat
deriving DecidableEq, Repr

/-- Where a resolved operand lies (R67, R76). -/
inductive Loc where
  | none
  /-- a bank tile: instance, base bank, base row, logical row of tile row 0 -/
  | bank (inst b0 r0 j0 : Nat)
  /-- a stack tile: package stack number, byte address of logical row 0, logical row of tile row 0, packing -/
  | stack (num addr j0 : Nat) (pack : Bool)
deriving DecidableEq, Repr

/-- How far a request for credit has come (R161 to R163, R224). -/
inductive SegPhase where
  /-- not yet asked -/
  | idle
  /-- CREDIT_REQ sent, answer awaited -/
  | asked
  /-- refused; resent at round `at_` of the carrying XP -/
  | backoff (at_ : Nat)
  /-- granted, rows going out or ROW_ACK awaited -/
  | granted
  /-- ROW_ACK received -/
  | acked
deriving DecidableEq, Repr

/-- One segment of a transfer at its source: one CREDIT_REQ and the grant that answers it. -/
structure Seg where
  /-- `STAG` of R160 -/
  stag : BitVec 16
  /-- destination instance -/
  dest : BitVec 16
  /-- index of the leg whose rows the segment carries. own -/
  leg : Nat
  /-- first row (leg row) of the segment and rows asked for -/
  first : Nat
  count : Nat
  phase : SegPhase
  /-- rows granted and rows sent under the grant (R163) -/
  granted : Nat
  sent : Nat
  /-- receive context of the grant (R160) -/
  rctx : BitVec 12
  /-- consecutive refusals k (R224) -/
  refusals : Nat
  /-- consecutive housekeeping rounds the awaited answer has been outstanding (R183, R394) -/
  rounds : Nat
deriving DecidableEq, Repr

/-- A row held between two beats: in an XP's receive buffer (R87), with the marks it carries. -/
structure Held where
  leg : Nat
  idx : Nat
  row : Row
  poison : Bool
  bleat : Bool
deriving DecidableEq, Repr

/-- A remote fence signal that waits for FENCE_ACK (R74, R165, R183). -/
structure FSig where
  stag : BitVec 16
  refusals : Nat
  /-- round of XP0 at which a NOT_READY signal is sent again -/
  resumeAt : Option Nat
  rounds : Nat
deriving DecidableEq, Repr

/-- An abort that has begun and is not yet complete (R80, R81). -/
structure Abort where
  reason : BitVec 4
  addr : BitVec 38
  stack : BitVec 4
deriving DecidableEq, Repr

/-- An issued descriptor that has not completed (R73). -/
structure Flight where
  /-- order of first issue in the instance. own -/
  ord : Nat
  /-- issue sequence number, 6 bits (R123) -/
  seq : BitVec 6
  desc : Desc
  /-- map epoch tag, 16 bits (R76) -/
  meTag : BitVec 16
  /-- XP0 beat count at intake acceptance (R326, R327) -/
  since : Nat
  src : Loc
  dst : Loc
  /-- endpoint group entries as they stood at issue, by cluster (R119) -/
  groups : Tbl (BitVec 288)
  legs : List Leg
  segs : List Seg
  /-- rows of the tile not yet asked for, per destination share: share index to next leg row (R162). own -/
  asks : Tbl Nat
  /-- rows in a receive buffer on the way to their second beat (R87, R137) -/
  held : List Held
  /-- source row kept for a rotate's merge: its row index, and its poison and bleat marks (R105) -/
  carry : Option (Nat × Row × Bool × Bool)
  /-- rows done (R289 `ROWS_DONE`, R326) -/
  done : Nat
  /-- latency in XP0 beat times of each done row (R326) -/
  lats : List Nat
  fsig : Option FSig
  stopping : Option Abort
deriving DecidableEq, Repr

/-- An abort record, and the reissue it turns into (R82, R289). -/
structure AbortRec where
  ord : Nat
  desc : Desc
  reason : BitVec 4
  meTag : BitVec 16
  rowsDone : Nat
  addr : BitVec 38
  stack : BitVec 4
  since : Nat
deriving DecidableEq, Repr

/-- A descriptor waiting at intake (R287), with the XP0 beat count at its acceptance (R326). -/
structure Waiting where
  desc : Desc
  since : Nat
deriving DecidableEq, Repr

/-- What the head of a queue has passed (R75, R78, R226). -/
structure Head where
  /-- checks 1 to 11 passed -/
  checked : Bool
  /-- its `FWAIT` count consumed -/
  taken : Bool
  /-- an epoch wait already counted for it -/
  waited : Bool
  /-- it waits on a fence -/
  onFence : Bool
  /-- consecutive housekeeping rounds of that wait (R226) -/
  rounds : Nat
  /-- the long wait already reported -/
  reported : Bool
deriving DecidableEq, Repr

/-- A queue Q000 to Q255 (R73, R86, R111, R287). -/
structure Queue where
  /-- `ARB_LEVEL`, 0 to 3. R111. Reset 1 -/
  level : BitVec 8 := 1
  /-- `URGENT`, 1 bit. R111. Reset 0 -/
  urgent : Bool := false
  /-- `L3_QUOTA`, 8 bits. R111. Reset 16 -/
  quota : BitVec 8 := 16
  /-- `MAX_BURST`, 1 to 16. R111. Reset 16 -/
  maxBurst : BitVec 8 := 16
  /-- `Q_STATE`: 0 RUNNING, 1 STOPPING, 2 ABORTING, 3 HALTED. R287. Reset 0 -/
  qstate : BitVec 2 := 0
  /-- `Q_REASON`. R287. Reset 0 -/
  reason : BitVec 8 := 0
  /-- `Q_SEQ`, 6 bits. R123, R287. Reset 0 -/
  seq : BitVec 6 := 0
  /-- intake buffer, up to 8 descriptors, oldest first. R287. Reset empty -/
  intake : List Waiting := []
  /-- credits returned to the sequencer and not yet used, 0 to 8. R379. Reset 0 -/
  credits : Nat := 0
  /-- descriptors in flight, oldest first, at most 4 (R73). Reset none -/
  flights : List Flight := []
  /-- abort records in original issue order (R289). Reset none -/
  records : List AbortRec := []
  /-- aborted descriptors to issue again before any later one (R82). Reset none -/
  reissue : List AbortRec := []
  /-- what the head has passed (R75). Reset nothing -/
  head : Head := ⟨false, false, false, false, 0, false⟩
  /-- banks noted at a fence count's consumption, with the posted write each waits for and the first `ord` it holds back
  (R219). Reset none -/
  noted : List (Nat × Nat × Nat) := []
deriving DecidableEq, Repr

/-- A requester's standing on one port (R97 to R99, R227). -/
structure Req where
  /-- round number at which the standing request was made; none stands otherwise (R97). Reset none -/
  since : Option Nat := none
  /-- loss count L (R98). Reset 0 -/
  losses : Nat := 0
  /-- first round at which the requester is a candidate again (R98). Reset 0 -/
  backUntil : Nat := 0
  /-- background and preemption grants of this window (R99). Reset 0 -/
  used : Nat := 0
  /-- guard wait in rounds (R227). Reset 0 -/
  guard : Nat := 0
deriving DecidableEq, Repr

/-- A granted burst (R17, R88). -/
structure Burst where
  /-- requester code (R320) -/
  req : Nat
  /-- `ord` of the flight whose leg moves, 0 for other requesters. own -/
  ord : Nat
  /-- leg index. own -/
  leg : Nat
  grant : Grant
  /-- beats of the burst and beats moved -/
  len : Nat
  moved : Nat
  /-- leg row of the burst's first beat, where a discarded burst restarts (R101) -/
  first : Nat
  /-- round at which the request stood, and its guard wait at the grant (R101, R227) -/
  since : Nat
  guard : Nat
  /-- the beat under way has been counted as waiting for its bank, a buffer or a borrowed bank (R105, R107, R253). own -/
  waited : Bool
  /-- the beat under way has been counted as losing a tie (R106). own -/
  tied : Bool
  /-- the guard end of a non-preemptible burst has been counted (R229). own -/
  ended : Bool
  /-- no beat follows the one under way: preempted, halted or guard-ended (R101, R298). own -/
  lastBeat : Bool
deriving DecidableEq, Repr

/-- The round under way on a port. -/
inductive Round where
  /-- no round decided yet -/
  | idle
  /-- an empty round (R18) -/
  | empty
  | burst (b : Burst)
deriving DecidableEq, Repr

/-- A delivered row between OP and endpoints, with its sideband (R113, R122). -/
structure PipeRow where
  ord : Nat
  row : Row
  mcast : BitVec 16
  groups : Tbl (BitVec 288)
  /-- sideband of R122, 35 bits -/
  sb : BitVec 35
  /-- presentation order at the crossbar (R114): none until the row reaches the pipeline's head -/
  shown : Option Nat
  /-- a crossbar wait has been counted for the row (R115) -/
  waited : Bool
deriving DecidableEq, Repr

/-- A port OP0 to OP15, XP0 to XP15 (R85). -/
structure Port where
  /-- `FREEZE`, 1 bit. R103, R111. Reset 0 -/
  freeze : Bool := false
  /-- `ACTIVE_COPY`: copy B is active. R89, R111. Reset 0 (A) -/
  active : Bool := false
  /-- `COMMIT_PENDING`: handle of the pending SLOT_COMMIT. R94, R111. Reset none -/
  commit : Option (BitVec 16) := none
  /-- `WINDOW_COUNT`, 64 bits. R111. Reset 0 -/
  windows : BitVec 64 := 0
  /-- `ROUND_INDEX`, 8 bits: the round under way. R111. Reset 0 -/
  round : BitVec 8 := 0
  /-- rounds run since reset. own (ages, back-off and guard waits count them). Reset 0 -/
  rounds : Nat := 0
  /-- beat times completed by the round sequencer (R285, R327). own. Reset 0 -/
  beatTimes : Nat := 0
  /-- `LFSR_SEED`, 32 bits. R48, R111. Reset 0x0000_0001 -/
  seed : BitVec 32 := 1
  /-- `LFSR_STATE`, 32 bits. R48, R111. Reset 0x0000_0001 -/
  lfsr : BitVec 32 := 1
  /-- `BACKOFF_CAP`, 1 to 1,024. R98, R111. Reset 64 -/
  backoffCap : BitVec 16 := 64
  /-- the round under way (R17). Reset none -/
  cur : Round := .idle
  /-- the round decided during the last beat of the one under way (R95). Reset none -/
  next : Option Round := none
  /-- standing of each requester, by requester code (R97 to R99, R227). Reset none -/
  reqs : Tbl Req := []
  /-- last requester granted at each level, by level (R97). Reset none -/
  lastAt : Tbl (Option Nat) := []
  /-- dilution count (R333). Reset 0 -/
  dilution : Nat := 0
  /-- window boundary done for round 0 of the coming window (R99). own. Reset 0 -/
  wrapped : Bool := false
  /-- OP delivery pipeline of up to 8 rows, head first (R113). Reset empty -/
  pipe : List PipeRow := []
  /-- `OPn_BLEAT_N` or `XPn_BLEAT_N` asserted (R109, R383). Reset not asserted -/
  bleat : Bool := false
deriving DecidableEq, Repr

/-- A row on a cluster's bus and the members that have not latched it (R124). -/
structure BusRow where
  r : PipeRow
  wait : BitVec 256
  /-- consecutive housekeeping rounds it has stood (R125, R394) -/
  rounds : Nat
deriving DecidableEq, Repr

/-- An assembled row in a cluster's return buffer (R135, R137): four quarter-rows, none for a gap. -/
structure AsmRow where
  ord : Nat
  idx : Nat
  q0 : Option (BitVec 1152)
  q1 : Option (BitVec 1152)
  q2 : Option (BitVec 1152)
  q3 : Option (BitVec 1152)
deriving DecidableEq, Repr

/-- The collect a cluster runs (R133, R134). -/
structure OpenCollect where
  q : Nat
  ord : Nat
  /-- quarters needed, 1 to 4 -/
  need : Nat
  rows : Nat
  /-- supplier slot of each quarter 0 to 3; none is a gap -/
  sup : List (Option Nat)
  /-- row expected next on each quarter -/
  expect : List Nat
  /-- quarter-rows arrived and not yet assembled: quarter, row, data -/
  got : List (Nat × Nat × BitVec 1152)
  /-- next row to assemble -/
  next : Nat
  /-- consecutive housekeeping rounds each quarter has been awaited (R125) -/
  rounds : List Nat
deriving DecidableEq, Repr

/-- An endpoint cluster C0 to C15. -/
structure Cluster where
  /-- delivery buffer of two rows, oldest first (R113). Reset empty -/
  dbuf : List PipeRow := []
  /-- the row on the cluster bus (R124). Reset none -/
  bus : Option BusRow := none
  /-- unresponsive marks, 256 bits (R125, R147). Reset 0 -/
  unresp : BitVec 256 := 0
  /-- collects issued and not started: queue and `ord`, in issue order (R133). Reset none -/
  collects : List (Nat × Nat) := []
  /-- the collect that runs (R133). Reset none -/
  running : Option OpenCollect := none
  /-- return buffer of up to 32 assembled rows, oldest first (R137). Reset empty -/
  ret : List AsmRow := []
deriving DecidableEq, Repr

/-- A row of a bank held in its posted write buffer (R107). -/
structure Pwb where
  /-- number of the posted write. own (R219 notes it) -/
  id : Nat
  row : Nat
  words : List Code
  /-- words the write holds -/
  mask : BitVec 36
  /-- port that wrote it -/
  port : Nat
deriving DecidableEq, Repr

/-- The banks: stored bits, row state array and posted write buffers. -/
structure Store where
  /-- stored code words of each row, by row address; 36 words of 137 bits (R233). Reset zero (DESIGN CHOICE, log 6) -/
  rows : Tbl (List Code) := []
  /-- row state array, by row address div 8: 16 state bits and a parity bit (R52, R242). Reset UNWRITTEN (log 6) -/
  rstate : Tbl (BitVec 17) := []
  /-- posted write buffer of each bank (R107). Reset empty -/
  pwb : Tbl (Option Pwb) := []
  /-- posted writes accepted. own. Reset 0 -/
  posted : Nat := 0
  /-- rows in the reserved state 0b11 whose fault event has been raised (R55). own. Reset none -/
  told : Tbl Bool := []
deriving DecidableEq, Repr

/-- State of a link port (R188 `SPAN_STATE`, `IBEX_STATE`). -/
inductive LinkState where
  | absent | down | training | up | retraining | failed
deriving DecidableEq, Repr

/-- A flit waiting to leave a link, and the receive buffer it still occupies on the link it came by (R158). -/
structure TxFlit where
  /-- header bits 63 to 0 and body; `LSEQ` and CRC are set when it is sent -/
  bits : BitVec 4672
  /-- link, VC, hop class and whether it sits in the pool; link 5 where the buffer belongs to a count that has ended; none for
  the instance's own flits -/
  origin : Option (Nat × Nat × Nat × Bool)
deriving DecidableEq, Repr

/-- A sequenced flit kept until acknowledged (R155). -/
structure Sent where
  bits : BitVec 4672
  /-- the flit is the instance's own, not in transit. own -/
  home : Bool
  lseq : Nat
  /-- times sent -/
  tries : Nat
deriving DecidableEq, Repr

/-- A link port SP0 to SP3, IL0 (R148). -/
structure Link where
  /-- `SPAN_STATE` / `IBEX_STATE`. R188. Reset DOWN where present, ABSENT elsewhere -/
  st : LinkState := .absent
  /-- `SPAN_PARTNER` / `IBEX_PARTNER`, 16 bits. R188. Reset 0 -/
  partner : BitVec 16 := 0
  /-- `SPAN_PARTNER_PORT`, 8 bits. R188. Reset 0 -/
  pport : BitVec 8 := 0
  /-- flits waiting for each VC, by VC, oldest first (R157). Reset none -/
  txq : Tbl (List TxFlit) := []
  /-- retry buffer of 512 flits, oldest first (R155). Reset empty -/
  retry : List Sent := []
  /-- flits of the retry buffer still to be sent again, from `ACK_SEQ` + 1 (R155). Reset 0 -/
  replay : Nat := 0
  /-- `LSEQ` of the next sequenced flit, modulo 1,024 (R155). Reset 1 -/
  nextSeq : BitVec 10 := 1
  /-- `LSEQ` expected from the partner (R155). Reset 1 -/
  expect : BitVec 10 := 1
  /-- `ACK_SEQ` to return (R155). Reset 0 -/
  ackSeq : BitVec 10 := 0
  /-- a flit has been rejected, `NAK` is to be set (R155). Reset 0 -/
  nak : Bool := false
  /-- buffers of the partner taken, class-h buffer of VC v at 16v + h, and pools at 48 + v (R158). Reset 0 -/
  taken : Tbl Nat := []
  /-- running counts the partner last sent, at the same keys (R156). Reset 0 -/
  seen : Tbl Nat := []
  /-- running counts this end sends, at the same keys (R156). Reset 0 -/
  freed : Tbl Nat := []
  /-- `FRAME_NO` of the next frame, 8 bits (R156). Reset 0 -/
  frameNo : BitVec 8 := 0
  /-- `SWAP_CMD`, `SWAP_LOGICAL`, `SWAP_PHYSICAL`, `SWAP_FRAME` still to send, one a control block, oldest first (R156). Reset
  none -/
  swaps : List (BitVec 32) := []
  /-- the swap fields of the last control block that named a command not yet answered (R156, R178). Reset 0 -/
  heard : BitVec 32 := 0
  /-- only NULL flits leave until SWAP_DONE (R178). Reset 0 -/
  quiet : Bool := false
  /-- handle of the LINK_TRAIN that trains it, and `FULL`; a start trains with handle 0 (R174). Reset none -/
  train : Option (BitVec 16 × Bool) := none
  /-- the training has failed at PHY_UP by timeout (R174). Reset 0 -/
  timedOut : Bool := false
deriving DecidableEq, Repr

/-- One direction of an Ibex lane's role (R156 `LANE_STATUS`). -/
inductive LaneRole where
  | active | spare | failed | retraining
deriving DecidableEq, Repr

/-- A physical lane L00 to L35 (R176 to R178). -/
structure Lane where
  /-- role and logical lane of the receive direction. R156. Reset as untrained: lane l active on l, then spares -/
  rx : LaneRole := .failed
  rxLog : Nat := 0
  /-- role and logical lane of the transmit direction -/
  tx : LaneRole := .failed
  txLog : Nat := 0
  /-- `EYE_MARGIN`, 6 bits. R188. Reset 0 -/
  eye : BitVec 6 := 0
  /-- `IL_Lk_LOCK` at the last round (R381). Reset 0 (DESIGN CHOICE, log 6) -/
  lock : Bool := false
  /-- below `EYE_WARN` at the last round (R177). Reset 0 -/
  low : Bool := false
  /-- housekeeping rounds spent RETRAINING (R178). Reset 0 -/
  rounds : Nat := 0
deriving DecidableEq, Repr

/-- A swap in progress on IL0 (R178). -/
structure Swap where
  logical : Nat
  old : Nat
  new : Nat
  cause : BitVec 2
  /-- receiving end: SWAP_ACK seen.  Transmitting end: the lane has been remapped -/
  step : Bool
  /-- frame of the new mapping -/
  frame : BitVec 8
deriving DecidableEq, Repr

/-- What IL0 keeps between frames (R150, R178). -/
structure Ibex where
  /-- logical lane of the next 4-byte granule sent (R150). Reset 0 -/
  granule : Nat := 0
  /-- bits of each logical lane that wait for their codeword to fill: how many, and the bits, oldest lowest (R150). Reset
  none -/
  bits : Tbl (Nat × Nat) := []
  /-- lanes whose swap waits for the one this end has requested, and their causes (R178). Reset none -/
  swapWait : List (Nat × BitVec 2) := []
deriving DecidableEq, Repr

/-- A message taken off a link and not yet processed (R160). -/
structure Msg where
  bits : BitVec 512
  /-- link it came by, 0 to 4; 5 for the instance's own messages to itself -/
  link : Nat
deriving DecidableEq, Repr

/-- A ROW or STREAM flit sunk into an inbound buffer row (R159). -/
structure InFlit where
  bits : BitVec 4672
  /-- link it came by -/
  link : Nat
  /-- moved by the INBOUND burst under way, which may be discarded and restart (R102) -/
  moved : Bool
  /-- its row has been accepted once (R163) -/
  taken : Bool
deriving DecidableEq, Repr

/-- A receive context (R162, R163). -/
structure Ctx where
  src : BitVec 16
  /-- the CREDIT_REQ that was granted (R161) -/
  req : BitVec 512
  granted : Nat
  /-- flits arrived and rows accepted by a posted write buffer or the stack path -/
  arrived : Nat
  accepted : Nat
  /-- R142 applied to some row (R160 ROW_ACK status) -/
  poison : Bool
  /-- poison masks by chunk index (R200) -/
  masks : Tbl (BitVec 72)
  /-- consecutive housekeeping rounds without a flit (R164) -/
  rounds : Nat
deriving DecidableEq, Repr

/-- A starvation hold (R225). -/
structure Hold where
  src : BitVec 16
  /-- rows and contexts set aside so far, up to 16 and 1 -/
  rows : Nat
  ctx : Bool
  rounds : Nat
deriving DecidableEq, Repr

/-- A destination whose path changed (R171): rows of new grants wait until the old rows are acknowledged. -/
structure PathHold where
  dest : BitVec 16
  /-- source tags of the grants that had rows on the old path -/
  stags : List (BitVec 16)
deriving DecidableEq, Repr

/-- The operand domain end of the instance (R162, R167 to R172, R188, R224, R225). -/
structure Domain where
  /-- `PACKAGE_ID`, 16 bits, persistent. R173, R188. Reset 0 -/
  packageId : BitVec 16 := 0
  /-- `PACKAGE` in `INSTANCE_ID`, 13 bits. R28, R283. Reset 0 -/
  package : BitVec 13 := 0
  /-- `SOURCE_CAP`, 16 to 4,096. R188. Reset 1,024 -/
  sourceCap : BitVec 16 := 1024
  /-- `CREDIT_BACKOFF_CAP`, 16 bits. R231. Reset 1,024 -/
  backoffCap : BitVec 16 := 1024
  /-- `STARVE_THRESHOLD`, 8 bits. R231. Reset 8 -/
  starve : BitVec 8 := 8
  /-- `ROUTE` entries by package, 64 bits, persistent. R169, R188. Reset 0 -/
  route : Tbl (BitVec 64) := []
  /-- the route table is in use for routing (R188, R338 stage 6). Reset 0 -/
  routeInUse : Bool := false
  /-- span and Ibex ends known down by LINK_DOWN: die * 8 + port (R168). Reset none -/
  knownDown : List Nat := []
  /-- the LINK_DOWN or LINK_UP last forwarded about each link, by die * 8 + port (R168). Reset none -/
  spread : Tbl (BitVec 512) := []
  /-- package at the far end of each die's IL0 as LINK_UP and training tell it, by die (R170). Reset none -/
  exits : Tbl (BitVec 16) := []
  /-- receive contexts by `RCTX` (R162). Reset none -/
  ctxs : Tbl (Option Ctx) := []
  /-- inbound buffer rows that hold a flit, oldest first (R159, R162). Reset empty -/
  inbound : List InFlit := []
  /-- messages arrived and not yet processed, oldest first (R159). Reset none -/
  inbox : List Msg := []
  /-- starvation holds, at most 4 (R225). Reset none -/
  holds : List Hold := []
  /-- sources waiting for a hold, in order (R225). Reset none -/
  holdWait : List (BitVec 16) := []
  /-- consecutive refusals by source instance (R225). Reset 0 -/
  refusals : Tbl Nat := []
  /-- destinations whose path changed (R171). Reset none -/
  pathHolds : List PathHold := []
  /-- `STAG` chosen next (R160). DESIGN CHOICE (log 20). Reset 0 -/
  nextStag : BitVec 16 := 0
  /-- the order in which descriptors issued. own. Reset 0 -/
  issued : Nat := 0
deriving DecidableEq, Repr

/-- Who asked a stack for rows (R198). -/
inductive Owner where
  | flight (q ord : Nat)
  /-- a MIGRATE; `unit` is the first 64-byte unit of its stream that the request brings (R186) -/
  | migrate (handle : BitVec 16) (unit : Nat)
  | inbound (ctx : Nat)
  | mapLoad
deriving DecidableEq, Repr

/-- A stack request not yet sent (R195, R196). -/
structure Job where
  owner : Owner
  /-- `SOP_TYPE`: 1 READ, 2 WRITE, 4 CALL (R193) -/
  op : BitVec 8
  /-- the request header without its tag and CRC (R192) -/
  hdr : BitVec 256
  /-- owner's row index of request row 0, and rows -/
  base : Nat
  rows : Nat
  /-- it repeats rows that failed once (R202) -/
  again : Bool
deriving DecidableEq, Repr

/-- How a tag stands (R194, R202, R203). -/
inductive TagPhase where
  | running
  /-- CANCEL sent; its rows are asked for again when `retry` -/
  | cancelling (retry : Bool)
deriving DecidableEq, Repr

/-- An outstanding SOP tag. -/
structure SopTag where
  tag : BitVec 16
  job : Job
  /-- `INDEX` expected next, or sent next for a WRITE -/
  index : Nat
  /-- a response of the tag failed its CRC (R202) -/
  crcSeen : Bool
  phase : TagPhase
  /-- it has timed out (R204) -/
  late : Bool := false
deriving DecidableEq, Repr

/-- A row in a stack port's receive buffer (R195). -/
structure RxRow where
  owner : Owner
  /-- owner's row index -/
  idx : Nat
  data : Row
  poison : Bool
  pmask : BitVec 72
  /-- 64-byte units that the row brings: those of its request's stride (R65, R186) -/
  units : Nat := 9
deriving DecidableEq, Repr

/-- State of a stack port (R191). -/
inductive KpState where
  | absent | down | up | failed
deriving DecidableEq, Repr

/-- A stack port KP0, KP1 (R191 to R196). -/
structure KPort where
  /-- `KP_STATE`. R216. Reset DOWN where present, ABSENT elsewhere -/
  st : KpState := .absent
  /-- `KP_ENABLE`. R216. Reset 1 -/
  enable : Bool := true
  /-- the stack path's ready signal as last seen (R380). Reset 0 -/
  ready : Bool := false
  /-- `SOP_TIMEOUT_US`, 20 to 10,000. R216. Reset 200 -/
  timeout : BitVec 16 := 200
  /-- `SLOTS_FREED` and `UNITS_FREED` last received (R196). Reset 0 -/
  slotsSeen : BitVec 16 := 0
  unitsSeen : BitVec 32 := 0
  /-- request slots and write units held (R196; `SLOTS_HELD` R216). Reset 0 -/
  slots : Nat := 0
  units : Nat := 0
  /-- requests waiting to be sent, oldest first (R195). Reset none -/
  jobs : List Job := []
  /-- outstanding tags (R192). Reset none -/
  tags : List SopTag := []
  /-- receive buffer of 512 rows (R195). Reset empty -/
  rx : List RxRow := []
  /-- tag chosen next. DESIGN CHOICE (log 20). Reset 0 -/
  nextTag : BitVec 16 := 0
  /-- consecutive tags timed out (R204). Reset 0 -/
  timeouts : Nat := 0
  /-- a sweep for this port's stacks runs (R204, R216 `LOST_SWEEP`). Reset 0 -/
  sweep : Bool := false
deriving DecidableEq, Repr

/-- Who made a map change that has not completed (R77). -/
inductive ChangeBy where
  | descriptor (q ord : Nat)
  | load (handle : BitVec 16)
  | install (src : BitVec 16) (stag : BitVec 16)
  | drop
deriving DecidableEq, Repr

/-- A map change that has taken effect and not completed (R77). -/
structure MapChange where
  by_ : ChangeBy
  /-- entries it changed: first index and count for a run, or single indices -/
  entries : List Nat
  /-- ME as it stood before the change (R77) -/
  tag : BitVec 16
deriving DecidableEq, Repr

/-- MAP_LOAD in progress (R211, R212). -/
structure MapLoadRun where
  handle : BitVec 16
  w0 : BitVec 32
  w1 : BitVec 32
  w2 : BitVec 32
  w3 : BitVec 32
  /-- records read so far, 16 bytes each, in order -/
  recs : List (BitVec 128)
  /-- records a stack read is to bring (stack sources) -/
  awaited : Nat
  /-- a stack record row that arrived poisoned: its first record -/
  bad : Option Nat
  /-- every record read and checked -/
  checked : Bool
  /-- the epoch wait has been counted (R212) -/
  waited : Bool
  /-- it has taken effect: first index, entries, ME after -/
  effect : Option (Nat × Nat × BitVec 16)
deriving DecidableEq, Repr

/-- An install received and not yet applied because its entry drains (R186). -/
structure Install where
  src : BitVec 16
  bits : BitVec 512
  /-- its epoch wait has been counted -/
  waited : Bool
deriving DecidableEq, Repr

/-- The residency map (R206 to R214). -/
structure ResMap where
  /-- stored entries by index: 137-bit code words (R206, R207). Reset zero -/
  entries : Tbl Code := []
  /-- `MAP_EPOCH` ME, 16 bits. R76, R216. Reset 0x0000 -/
  epoch : BitVec 16 := 0
  /-- map changes that have not completed, oldest first (R77). Reset none -/
  changes : List MapChange := []
  /-- `FREE_LOW`, 32 bits. R213, R216. Reset 1,024 -/
  freeLow : BitVec 32 := 1024
  /-- the MAP_LOAD that runs (R212). Reset none -/
  load : Option MapLoadRun := none
  /-- installs waiting, up to 64 (R186). Reset none -/
  installs : List Install := []
deriving DecidableEq, Repr

/-- An entry of a MIGRATE on its way (R186). -/
structure MigEntry where
  ridx : Nat
  /-- resolved source: stack, base address, packing, stream ID, offset scale -/
  stack : Nat
  addr : Nat
  pack : Bool
  stream : BitVec 24
  oscale : BitVec 4
  /-- stack bytes of the entry's rows, and first byte of the entry in the stream -/
  bytes : Nat
  start : Nat
  /-- install: 0 not sent, 1 sent, 2 installed, 3 answered BUSY -/
  inst : Nat
  stag : BitVec 16
  refusals : Nat
  resumeAt : Nat
  rounds : Nat
deriving DecidableEq, Repr

/-- A MIGRATE in progress at its source (R185 to R187). -/
structure Migrate where
  handle : BitVec 16
  w0 : BitVec 32
  w1 : BitVec 32
  w2 : BitVec 32
  w3 : BitVec 32
  w4 : BitVec 32
  meTag : BitVec 16
  entries : List MigEntry
  segs : List Seg
  /-- chunks of the stream, chunks covered by segments, chunks sent -/
  chunks : Nat
  asked : Nat
  sent : Nat
  /-- destination ME of the last install -/
  destMe : BitVec 16
  /-- source entries dropped so far, and whether the wait of the next has been counted (R78, R186) -/
  dropped : Nat := 0
  dropWait : Bool := false
deriving DecidableEq, Repr

/-- A march engine's hold on one bank (R251 to R253). -/
structure Engine where
  bank : Nat
  /-- the engine has the bank -/
  borrowed : Bool
  /-- row under test (PRESERVING) -/
  row : Nat
  /-- operations done on the bank (DESTRUCTIVE) or in the row test (PRESERVING) -/
  op : Nat
  /-- saved raw bits (PRESERVING) -/
  saved : Option (List Code)
  /-- a claim stands, and it is urgent (R253) -/
  claim : Bool
  urgent : Bool
  /-- the row under test has mismatched -/
  bad : Bool
  /-- rows of the bank that have failed -/
  failed : List Nat
  /-- round of the XP at the last claim or yield, plus one; 0 before the bank's first yield (R253) -/
  quietFrom : Nat
  /-- no bank left -/
  finished : Bool
deriving DecidableEq, Repr

/-- MARCH in progress (R255). -/
structure MarchRun where
  handle : BitVec 16
  w0 : BitVec 32
  w1 : BitVec 32
  engines : Tbl (Option Engine)
  banks : Nat
  badBanks : Nat
  lowest : Option Nat
  highest : Option Nat
  yields : Nat
  abandoned : Nat
deriving DecidableEq, Repr

/-- SCRUB in progress on one group (R244 to R246). -/
structure ScrubRun where
  handle : BitVec 16
  w : BitVec 32
  visited : Nat
  skipped : Nat
  ce : Nat
  ue : Nat
  firstBad : Option Nat
  lastBad : Option Nat
  poisoned : Nat
  rewritten : Nat
deriving DecidableEq, Repr

/-- Storage integrity and maintenance (R237 to R257). -/
structure Integ where
  /-- `ECC_LOG_HEAD`, 0 to 15. R257. Reset 0 -/
  logHead : BitVec 8 := 0
  /-- `ECC_LOG_COUNT`, 32 bits saturating. R257. Reset 0 -/
  logCount : BitVec 32 := 0
  /-- `LOG_SEQ` of the next entry, 16 bits (R243). Reset 0 -/
  logSeq : BitVec 16 := 0
  /-- `ECC_LOG`, 16 entries of 64 bits. R243. Reset 0 -/
  log : Tbl (BitVec 64) := []
  /-- `REPAIR_ENABLE`. R257. Reset 1 -/
  repairOn : Bool := true
  /-- `FALLBACK_TEST`. R256, R257. Reset 0 -/
  fallTest : Bool := false
  /-- the fall-back arrangement of FALLBACK_TEST is in effect (R256). Reset 0 -/
  fallOn : Bool := false
  /-- groups whose XP goes next in the single master's region, its OP having gone first (R256). own. Reset 0 -/
  turn : BitVec 16 := 0
  /-- `ALLOC` of each bank: 0 FREE, 1 LIVE, 2 RETIRED. R247, R257. Reset 0 -/
  alloc : Tbl (BitVec 8) := []
  /-- `RETIRED_MASK`, 512 bits, persistent. R250, R257. Reset 0 -/
  retired : BitVec 512 := 0
  /-- `RETIRE_THRESHOLD`, 8 bits, persistent. R248, R257. Reset 3 -/
  retireAt : BitVec 8 := 3
  /-- `BANK_UE_COUNT` of each bank, 8 bits. R248, R257. Reset 0 -/
  ueCount : Tbl (BitVec 8) := []
  /-- repair queue of each group, 16 row addresses, oldest first (R237). Reset empty -/
  repairs : Tbl (List Nat) := []
  /-- the SCRUB of each group (R244). Reset none -/
  scrubs : Tbl (Option ScrubRun) := []
  /-- the MARCH that runs (R255). Reset none -/
  march : Option MarchRun := none
deriving DecidableEq, Repr

/-- A subscriber slot 0xC100 to 0xC107 (R304, R305, R324). -/
structure Sub where
  /-- `SUB_EID`, 8 bits. R304. Reset 0 -/
  eid : BitVec 8 := 0
  /-- `SUB_MASK`, 256 bits. R304. Reset 0 -/
  mask : BitVec 256 := 0
  /-- `SUB_SEQ`, 16 bits. R304. Reset 0 -/
  seq : BitVec 16 := 0
  /-- outbound queue of 32 records, oldest first (R324). Reset empty -/
  out : List (BitVec 256) := []
  /-- records were withheld since the last one sent (R324 `LOSS_BEFORE`). Reset 0 -/
  lost : Bool := false
deriving DecidableEq, Repr

/-- Events (R304, R305, R321 to R324). -/
structure Events where
  /-- `IRQ_MASK`, 256 bits. R304. Reset 0 -/
  irqMask : BitVec 256 := 0
  /-- `IRQ_ADDR`, 64 bits. R304. Reset 0 -/
  irqAddr : BitVec 64 := 0
  /-- `IRQ_DATA`, 32 bits. R304. Reset 0 -/
  irqData : BitVec 32 := 0
  /-- `EVENT_RATE`, 16 bits. R304. Reset 64 -/
  rate : BitVec 16 := 64
  /-- `EVENT_RING_HEAD`, 0 to 63. R304. Reset 0 -/
  ringHead : BitVec 8 := 0
  /-- `EVENT_SEQ`, 32 bits. R304. Reset 0 -/
  seq : BitVec 32 := 0
  /-- `EVENT_RING`, 64 records of 256 bits. R304. Reset 0 -/
  ring : Tbl (BitVec 256) := []
  /-- subscriber slots 0 to 7. R268, R304. Reset free -/
  subs : Tbl Sub := []
  /-- events of each code raised in this housekeeping round (R305). Reset 0 -/
  raised : Tbl Nat := []
  /-- codes with suppressed events not yet shown by `SUPPRESSED_BEFORE` (R321). Reset 0 -/
  muted : BitVec 256 := 0
deriving DecidableEq, Repr

/-- Counters, thresholds and histogram edges (R290 to R294, R327), keyed index * 256 + subindex. -/
structure Counts where
  /-- counters and histogram elements, 64 bits. R290 to R294. Reset 0 -/
  val : Tbl (BitVec 64) := []
  /-- thresholds, 64 bits. R291. Reset 0 -/
  thr : Tbl (BitVec 64) := []
  /-- thresholds already spent (R291). Reset none -/
  spent : Tbl Bool := []
  /-- edge_1 to edge_15 in beat times (R327). Reset from 2,000 Mbeat/s (R327 at 0.75 V) (DESIGN CHOICE, log 6) -/
  edges : List Nat := [128, 256, 512, 1024, 2048, 4096, 8192, 16384, 32768, 65536, 131072, 262144, 524288, 1048576,
    2097152]
deriving DecidableEq, Repr

/-- An outstanding long operation (R308, R310). -/
structure Op where
  handle : BitVec 16
  opcode : BitVec 8
  /-- status POLL reports while it waits: none when it runs (R310) -/
  pending : Option (BitVec 8)
  /-- `SELF` of R311 -/
  self : Bool
deriving DecidableEq, Repr

/-- DRAIN in progress on a port (R104). -/
structure DrainRun where
  handle : BitVec 16
  beats : Nat
  rounds : Nat
deriving DecidableEq, Repr

/-- SLOT_COMMIT in progress (R93, R94). -/
structure CommitRun where
  handle : BitVec 16
  mask : BitVec 32
  swapped : BitVec 32
  /-- round number of each selected port at acceptance -/
  start : Tbl Nat
  longest : Nat
  window : BitVec 64
deriving DecidableEq, Repr

/-- ZEROIZE in progress (R317, R357). -/
structure ZeroRun where
  /-- 0 when it runs without a handle (R357) -/
  handle : BitVec 16
  scope : BitVec 4
  /-- trigger code of R322 0x2D -/
  trigger : BitVec 8
  /-- FREEZE of each port before it began -/
  froze : BitVec 32
  /-- every port has been empty, and the scope is being cleared -/
  begun : Bool
  /-- rows written per group by the ZEROIZE requester -/
  rows : Tbl Nat
deriving DecidableEq, Repr

/-- Calibration under way (R319, R335, R337). -/
structure CalRun where
  /-- handle of CANARY_CAL, and groups it selected -/
  handle : BitVec 16
  mask : BitVec 16
  todo : BitVec 16
  low : BitVec 16
  done : BitVec 16
  lowest : BitVec 8
  lowestAt : BitVec 8
  most : BitVec 8
  mostAt : BitVec 8
  froze : BitVec 32
deriving DecidableEq, Repr

/-- Handles, completion ring and the operations that need no area of their own (R308 to R319). -/
structure LongOps where
  /-- `LAST_HANDLE`, 16 bits. R306. Reset 0x0000 -/
  last : BitVec 16 := 0
  /-- outstanding operations, at most 64 (R308). Reset none -/
  ops : List Op := []
  /-- `COMPLETION_HEAD`, 0 to 63. R306. Reset 0 -/
  head : BitVec 8 := 0
  /-- `COMPLETION_RING`, 64 records of 256 bits. R306, R311. Reset 0 -/
  ring : Tbl (BitVec 256) := []
  /-- DRAIN of each port (R104). Reset none -/
  drains : Tbl (Option DrainRun) := []
  /-- SLOT_COMMITs (R93). Reset none -/
  commits : List CommitRun := []
  /-- the ZEROIZE that runs (R317). Reset none -/
  zero : Option ZeroRun := none
  /-- the CANARY_CAL that runs (R319). Reset none -/
  cal : Option CalRun := none
  /-- LINK_TRAINs outstanding: handle and argument (R174). Reset none -/
  trains : List (BitVec 16 × BitVec 32) := []
  /-- MIGRATEs at their source, at most 4 (R185). Reset none -/
  migs : List Migrate := []
deriving DecidableEq, Repr

/-- A host window access to a bank row (R270). -/
structure RowAccess where
  /-- none for the window, else source endpoint and the request's header and tag -/
  path : Option (BitVec 8 × BitVec 128 × BitVec 4)
  ra : Nat
  offset : Nat
  /-- bytes to write; none for a read -/
  data : Option (List Byte)
deriving DecidableEq, Repr

/-- A request that the dictionary engine has not carried out yet (R263, R268, R271). -/
inductive Request where
  | message (m : BdpMsg)
  /-- a message past a limit of R268, to be answered in its turn -/
  | refused (m : BdpMsg)
  | mirrorRead (addr : BitVec 28) (wide : Bool)
  | mirrorWrite (addr : BitVec 28) (wide : Bool) (data : BitVec 64)
  /-- an operation started through `XB_CTRL` -/
  | block
deriving DecidableEq, Repr

/-- A COMMAND remembered for the duplicate check (R268). -/
structure CmdSeen where
  txn : BitVec 8
  index : BitVec 16
  count : BitVec 16
  payload : List Byte
  handle : BitVec 16
deriving DecidableEq, Repr

/-- The dictionary engine's own state (R263, R268 to R272). -/
structure Bdp where
  /-- `MAP_SELECT` and `ROW_SELECT` of the window path. R216, R263, R270. Reset 0 -/
  mapSel : BitVec 32 := 0
  rowSel : BitVec 32 := 0
  /-- selectors of up to 8 source endpoints, most recently used first: endpoint, `MAP_SELECT`, `ROW_SELECT`
  (R263). Reset none -/
  paths : List (BitVec 8 × BitVec 32 × BitVec 32) := []
  /-- the last 16 COMMANDs of each source endpoint, newest first (R268). Reset none -/
  seen : Tbl (List CmdSeen) := []
  /-- `XB_SELECT`, 32 bits. R271. Reset 0 (DESIGN CHOICE, log 6) -/
  xbSelect : BitVec 32 := 0
  /-- `XB_STATUS`, 32 bits. R271. Reset 0 (log 6) -/
  xbStatus : BitVec 32 := 0
  /-- `XB_CTRL` as last written, 32 bits. R271. Reset 0 (log 6) -/
  xbCtrl : BitVec 32 := 0
  /-- `WIN_ERROR`, 32 bits. R271. Reset 0 (log 6) -/
  winError : BitVec 32 := 0
  /-- `XB_DATA`, 576 bytes. R271. Reset 0 (log 6) -/
  xbData : Row := 0
  /-- high half of an 8-byte entry latched by a low-half read, by index * 256 + subindex (R272). Reset none -/
  latched : Tbl (Option (BitVec 32)) := []
  /-- low half of an 8-byte entry held by a low-half write, by index * 256 + subindex (R272). Reset none -/
  heldLow : Tbl (Option (BitVec 32)) := []
  /-- row accesses waiting for their HOST_WINDOW burst, oldest first (R270). Reset none -/
  accesses : List RowAccess := []
  /-- requests that wait while the engine carries out a row access, oldest first (R263, R268). Reset none -/
  waiting : List Request := []
  /-- the operation carried out last came from the window (R263). own. Reset 0 -/
  lastWindow : Bool := false
deriving DecidableEq, Repr

/-- A POWER_SET transition that runs (R347). -/
structure PSet where
  handle : BitVec 16
  target : BitVec 2
  start : BitVec 2
  /-- 0 quiesce, 1 waits for the ports to empty before retention or off entry, 2 waits for `PWR_RET_ACK`,
  3 waits for `PWR_RET_ACK` to fall, 4 start running, 5 waits for `PWR_OFF_ACK` -/
  phase : Nat
  /-- stamp taken at the start of the transition -/
  startNs : BitVec 64
  /-- off entry's record has been written (R351) -/
  recorded : Bool
  /-- status to complete with after a withdrawn retention request (R349) -/
  status : BitVec 8
deriving DecidableEq, Repr

/-- Power (R284, R346 to R352). -/
structure Power where
  /-- `POWER_STATE`: 0 ON, 1 IDLE, 2 RETAIN, 3 OFF. R284. Reset 0 -/
  st : BitVec 2 := 0
  /-- `POWER_QUEUED`: handle and target in the depth-1 slot. R284, R316. Reset none -/
  queued : Option (BitVec 16 × BitVec 2) := none
  /-- the transition that runs (R347). Reset none -/
  trans : Option PSet := none
  /-- `RAIL_GOOD`, bits 0 to 2. R284. Reset 7 (power is good at reset, log 4) -/
  goods : BitVec 3 := 7
  /-- `VDD_TRF_MV`, `VDD_NET_MV`, `VDD_RET_MV`, 16 bits each. R284. Reset 0 -/
  vtrf : BitVec 16 := 0
  vnet : BitVec 16 := 0
  vret : BitVec 16 := 0
  /-- `RATE_MIN`, 16 bits. R284. Reset 0 -/
  rateMin : BitVec 16 := 0
  /-- `GROUP_RATE` of each group, 16 bits. R284. Reset 0 -/
  rate : Tbl (BitVec 16) := []
  /-- `HOST_TIME_NS`, 64 bits. R284. Reset 0 -/
  hostNs : BitVec 64 := 0
  /-- `PWR_RET_REQ`, `PWR_OFF_REQ` as driven (R383). Reset 0 -/
  retReq : Bool := false
  offReq : Bool := false
  /-- intake is open (R345, R347). Reset 0 -/
  intakeOpen : Bool := false
  /-- a rail has left its limits outside a power sequence (R387). Reset 0 -/
  excursion : Bool := false
  /-- an off entry ended by OFF_ACK_TIMEOUT: intake stays closed, links and stack ports down (R351). own. Reset 0 -/
  parked : Bool := false
deriving DecidableEq, Repr

/-- Start-up (R301, R302, R338 to R345). -/
structure Start where
  /-- `START_STAGE`, 1 to 8. R301. Reset 1 -/
  stage : BitVec 8 := 1
  /-- `START_KIND`: warm. R301. Reset 0 COLD -/
  warm : Bool := false
  /-- a start runs (R352). Reset 1 (a cold start begins at power good) -/
  running : Bool := true
  /-- stage 6 has passed and READY is awaited (R338). own. Reset 0 -/
  done : Bool := false
  /-- the start that runs is a Fawn start (R341). own. Reset 0 -/
  fawnStart : Bool := false
  /-- a failure of a stage before 4 has already counted this start (R341). own. Reset 0 -/
  counted : Bool := false
  /-- banks retired by this start's quick march (R252, R338). own. Reset 0 -/
  stageRetired : BitVec 512 := 0
  /-- the throttle level is recomputed at the first round after stage 1 (R353). own. Reset 0 -/
  recompute : Bool := false
  /-- `FAILED_STARTS`, 0 to 7, persistent. R301. Reset 0 -/
  failed : BitVec 8 := 0
  /-- `FAWN_THRESHOLD`, 1 to 7, persistent. R301. Reset 3 -/
  fawnAt : BitVec 8 := 3
  /-- `FAWN`. R301. Reset 0 -/
  fawn : Bool := false
  /-- `START_COUNT`, 32 bits, persistent. R301. Reset 0 -/
  count : BitVec 32 := 0
  /-- `FAIL_HISTORY`, 8 records of 64 bits, persistent. R302. Reset 0 -/
  history : Tbl (BitVec 64) := []
  /-- handle of the RESTART that runs the start (R318). Reset none -/
  handle : Option (BitVec 16) := none
  /-- RESTART waits for the ports to empty before stage 1 (R315). Reset 0 -/
  entering : Bool := false
  /-- `MARCH` bit of that RESTART -/
  marchBit : Bool := false
  /-- stage 4 waits for its accounting save (R341). Reset 0 -/
  saving : Bool := false
  /-- housekeeping rounds stage 3 has waited for a valid reading (R338). Reset 0 -/
  tempWait : Nat := 0
  /-- the warm start of a withdrawn retention entry begins at stage 5 (R349). own. Reset 0 -/
  fromFive : Bool := false
  /-- a security zeroize is to run at stage 2 (R356). Reset 0 -/
  zeroAtTwo : Bool := false
deriving DecidableEq, Repr

/-- A group's calibration record (R331). -/
structure Anchor where
  temp : BitVec 16
  margin : Nat
  /-- reference rate and VDD_TRF reading, once a valid round has followed -/
  ref : Option (Nat × Nat)
deriving DecidableEq, Repr

/-- Housekeeping and thermal state (R299, R328 to R337). -/
structure Therm where
  /-- `DIODE_TEMP`, 16 bits signed. R299. Reset 0 -/
  diode : BitVec 16 := 0
  /-- `TEMP_VALID`. R299. Reset 0 -/
  valid : Bool := false
  /-- `TEMP_PROXY`, 16 bits signed. R299. Reset 0x8000, which R331 gives it before any group is anchored (log 107) -/
  proxy : BitVec 16 := 0x8000
  /-- `TEMP_IN_USE`, 16 bits signed. R299. Reset 0 -/
  inUse : BitVec 16 := 0
  /-- `THROTTLE_LEVEL`, 0 to 3. R299. Reset 0 -/
  level : BitVec 8 := 0
  /-- `THROTTLE_HELD`. R299. Reset 0 -/
  held : Bool := false
  /-- `THROTTLE_START`, 85 to 95, persistent; and the value in effect since the last round. R299, R300. Reset 95 -/
  start : BitVec 8 := 95
  startAct : BitVec 8 := 95
  /-- `SHUTDOWN_REQUESTED` (and `PWR_SHUTDOWN_REQ`). R299, R334. Reset 0 -/
  shutdown : Bool := false
  /-- `CANARY_THRESHOLD`, 1 to 62, persistent; and the value in effect. R299, R300. Reset 8 -/
  canary : BitVec 8 := 8
  canaryAct : BitVec 8 := 8
  /-- `DILUTION` of levels 1 to 3, persistent; and the values in effect. R299, R300. Reset 8, 4, 2 -/
  dil1 : BitVec 8 := 8
  dil2 : BitVec 8 := 4
  dil3 : BitVec 8 := 2
  dilAct1 : BitVec 8 := 8
  dilAct2 : BitVec 8 := 4
  dilAct3 : BitVec 8 := 2
  /-- `HK_ROUNDS`, 64 bits. R299. Reset 0 -/
  rounds : BitVec 64 := 0
  /-- `HK_PERIOD_US`, 32 bits. R299. Reset 0 -/
  period : BitVec 32 := 0
  /-- `FROZEN_GROUPS`, 16 bits. R299, R337. Reset 0 -/
  frozen : BitVec 16 := 0
  /-- groups whose collapse awaits its recalibration (R337). own. Reset 0 -/
  recal : BitVec 16 := 0
  /-- `CANARY_MARGIN` of each group. R299. Reset 0 -/
  margin : Tbl (BitVec 8) := []
  /-- `CANARY_TAPS` of each group. R299. Reset 0 -/
  taps : Tbl (BitVec 8) := []
  /-- `TAPS_ADDED` of each group. R299. Reset 0 -/
  added : Tbl (BitVec 8) := []
  /-- calibration record of each group (R331). Reset none -/
  anchors : Tbl (Option Anchor) := []
  /-- consecutive rounds each group's margin stood below the threshold (R337). Reset 0 -/
  lowRounds : Tbl Nat := []
  /-- groups whose margin has collapsed and that GROUP_FROZEN is to freeze (R337). own. Reset 0 -/
  collapsed : BitVec 16 := 0
  /-- readings of the last rounds, newest first: diode, `RATE_MIN`, rails (R330). Reset none -/
  hist : List (BitVec 16 × Nat × Nat × Nat × Nat) := []
  /-- the last invalid reading and rounds in range since a different one (R330). Reset none -/
  badTemp : Option (BitVec 16) := none
  goodRun : Nat := 0
  /-- consecutive rounds toward easing (R332). Reset 0 -/
  easeRun : Nat := 0
  /-- groups below the rate floor (R329 step 3). Reset 0 -/
  rateLow : BitVec 16 := 0
  /-- a valid rate sample has been taken since power good (R285). Reset 0 -/
  rated : Bool := false
  /-- beat times of each XP at the last sample (R285). Reset 0 -/
  beatBase : Tbl Nat := []
  /-- a time-base sample has been taken since power good (R285). Reset 0 -/
  sampled : Bool := false
  /-- the housekeeping partner or the time base failed to answer for the round to come (R384). Reset 0 -/
  hkLost : Bool := false
  tbLost : Bool := false
deriving DecidableEq, Repr

/-- Security and debug (R295 to R298, R354 to R367). -/
structure Sec where
  /-- `SEC_STATE`, 2 bits. R295. Reset 0 (DESIGN CHOICE until stage 1 latches it, log 6) -/
  st : BitVec 2 := 0
  /-- `SEC_EPOCH`, 32 bits. R295. Reset 0 (log 6) -/
  epoch : BitVec 32 := 0
  /-- `SEC_HASH_KEY`, 128 bits, and `SEC_KEY_VALID`. R354. Reset 0 (log 6) -/
  key : BitVec 128 := 0
  keyValid : Bool := false
  /-- `UNIQUE_ID`, 128 bits. R283. Reset 0 (log 6) -/
  uid : BitVec 128 := 0
  /-- `DEBUG_LEVEL`, 0 to 2. R295. Reset 0 -/
  level : BitVec 2 := 0
  /-- `DEBUG_REQUEST`, 0 to 2. R295. Reset 0 -/
  request : BitVec 8 := 0
  /-- `UNLOCK_STATUS`, 0 to 3. R295. Reset 0 -/
  unlock : BitVec 8 := 0
  /-- housekeeping rounds since the unlock request (R361). Reset 0 -/
  unlockRounds : Nat := 0
  /-- `ZEROIZE_COUNT`, 32 bits. R295. Reset 0 -/
  zeroCount : BitVec 32 := 0
  /-- `SEC_CHG_ACK`, `SEC_ZERO_DONE`, `SEC_UNLOCK_REQ` as driven. R355, R361. Reset 0 -/
  chgAck : Bool := false
  zeroDone : Bool := false
  unlockReq : Bool := false
  /-- the handshake under way changed the state or the epoch (R355, R356). Reset 0 -/
  changed : Bool := false
  /-- triggers of the self-started zeroizes that wait, oldest first (R356, R357). Reset none -/
  owed : List (BitVec 8) := []
  /-- the self-started zeroize that runs has closed intake (R357). Reset 0 -/
  zeroing : Bool := false
  /-- a security change arrived while it ran and is covered by it (R357). Reset 0 -/
  covered : Bool := false
  /-- retained pair of state and epoch (R356). Reset none -/
  retained : Option (BitVec 2 × BitVec 32) := none
  /-- `TRACE_QUEUES`, 256 bits. R295. Reset 0 -/
  traceQ : BitVec 256 := 0
  /-- `TRACE_HEAD`, 8 bits. R295. Reset 0 -/
  traceHead : BitVec 8 := 0
  /-- `TRACE_COUNT`, 32 bits. R295. Reset 0 -/
  traceCount : BitVec 32 := 0
  /-- `TRACE`, 256 records of 320 bits. R296. Reset 0 -/
  trace : Tbl (BitVec 320) := []
  /-- records of `TRACE` stored while nothing was hidden, bit y of record y (R364). Reset 0 -/
  traceRaw : BitVec 256 := 0
  /-- `INJECT`, 64 bits. R297. Reset 0 -/
  inject : BitVec 64 := 0
  /-- `INJECT_FIRED`, 32 bits. R295. Reset 0 -/
  fired : BitVec 32 := 0
  /-- `PORT_HALT`, 32 bits. R298. Reset 0 -/
  portHalt : BitVec 32 := 0
deriving DecidableEq, Repr

/-- A SAVE that waits or writes (R276 to R278). -/
structure SaveRun where
  /-- handles that share it, ascending; and whether the fabric started it -/
  handles : List (BitVec 16)
  self : Bool
  /-- housekeeping rounds deferred for temperature, and SAVE_DEFERRED raised -/
  deferred : Nat
  reported : Bool
  /-- snapshot of the copy's bytes, and target copy; empty while waiting -/
  bytes : List Byte
  toB : Bool
  /-- it carries the accounting save that stage 4 of a start waits for (R341) -/
  forStart : Bool
deriving DecidableEq, Repr

/-- The saved image (R273 to R279). -/
structure Image where
  /-- bytes of copies A and B in the non-volatile storage; empty is a region of 0xFF bytes (log 5). Reset empty -/
  a : List Byte := []
  b : List Byte := []
  /-- `IMAGE_SOURCE`: 0 EMPTY, 1 COPY_A, 2 COPY_B. R279. Reset 0 -/
  source : BitVec 8 := 0
  /-- `IMAGE_SEQ`, 32 bits. R279. Reset 0 -/
  seq : BitVec 32 := 0
  /-- `IMAGE_SKIPPED`, 16 bits. R279. Reset 0 -/
  skipped : BitVec 16 := 0
  /-- `SAVE_TIMEOUT_MS`, 16 bits. R279. Reset 500 -/
  timeout : BitVec 16 := 500
  /-- the SAVE that writes and the SAVE that waits (R278). Reset none -/
  writing : Option SaveRun := none
  waiting : Option SaveRun := none
  /-- the copy loaded or last written (R276). Reset none -/
  lastB : Option Bool := none
  /-- RWP entries have been loaded (R264). Reset 0 -/
  loaded : Bool := false
deriving DecidableEq, Repr

/-- Integration-time parameters (R14, R27, R167, R190, R265, R283, R331): inputs of `PRM_`, constant in operation.
The reset values are the model's reference integration (log 5). -/
structure Params where
  /-- die ID, 3 bits -/
  die : BitVec 3 := 0
  /-- instances N in the package, 2 to 8 -/
  dies : Nat := 8
  /-- span ports present, bit k for SPk -/
  spans : BitVec 4 := 0xF
  /-- Ibex lanes 0, 16 or 32 -/
  lanes : Nat := 32
  /-- stack ports present, bit k for KPk -/
  kps : BitVec 2 := 3
  /-- `SPAN_MAP` entry 4d + k (R167, R188) -/
  spanMap : Tbl (BitVec 8) := []
  /-- `STACK_MAP` entry s (R190, R216) -/
  stackMap : Tbl (BitVec 32) := []
  /-- `FULL_WIDE` of each cluster, 64 bits (R147) -/
  fullWide : Tbl (BitVec 64) := []
  /-- unpopulated slots of each cluster, the complement of `POPULATED` (R147) -/
  empty : Tbl (BitVec 256) := []
  /-- `BDP_VENDOR_ID` -/
  vendor : BitVec 16 := 0
  /-- `MACRO_VERSION`, major 1 -/
  version : BitVec 32 := 0x01000000
  /-- `PROCESS_CLASS` -/
  process : BitVec 8 := 0
  /-- `PARAM_SET_ID` -/
  setId : BitVec 32 := 0
  /-- `IMAGE_REGION_BYTES` -/
  region : BitVec 32 := 163840
  /-- Kr and Km in sixteenths of a degree (R331) -/
  kr : Int := 0
  km : Int := 0
deriving DecidableEq, Repr

/-- The wrapper (R390). -/
inductive Wrapper where
  | bypass | identity | extest | intestScan | ijtag
deriving DecidableEq, Repr

/-- What the 1687 network behind the wrapper reaches (R390): nothing, the canary margin of a group, the eye margin of a lane, a word of
the parameter block, the march engines. -/
inductive JtagAccess where
  | none
  | canary (n : Fin 16)
  | eye (lane : Fin 36)
  | param (addr : BitVec 12)
  | march (w0 w1 : BitVec 32)
deriving DecidableEq, Repr

/-- What stands at the wrapper's pins for its instructions (R390, log 111). -/
structure WrapperPins where
  /-- values shifted in at `WSI` for the boundary cells to drive. Reset none (DESIGN CHOICE, log 111) -/
  drive : List Bool := []
  /-- values on the fabric's inputs. Reset none (DESIGN CHOICE, log 111) -/
  inputs : List Bool := []
  /-- bits shifted in at `WSI` through the handshake stages. Reset none (DESIGN CHOICE, log 111) -/
  scan : List Bool := []
  /-- access of the 1687 network shifted in at `WSI`. Reset none (DESIGN CHOICE, log 111) -/
  access : JtagAccess := .none
deriving DecidableEq, Repr

/-- What the fabric has sent to its surroundings, newest first in `Fab.out`.  own: a record of outputs. -/
inductive Output where
  /-- credits returned to the sequencer: queue, count (R379) -/
  | queueCredit (q n : Nat)
  /-- row presented on a cluster's bus: `CLc_D_ROW`, `CLc_D_QTR`, `CLc_D_SB`, and the slots whose `D_REQ` rises, each with its
  `DQSEL` (R121, R122, R378) -/
  | deliver (c : Nat) (row : Row) (qtr : BitVec 4608) (sb : BitVec 35) (slots : List (Nat × Nat))
  /-- status notice: cluster, slot, `CLc_S_DATA`, `S_QMASK` (R378) -/
  | notice (c slot : Nat) (data : BitVec 50) (qmask : BitVec 4)
  /-- a BDP message: endpoint, tag, and its words in order, of which the first has `FIRST` and the last `LAST` (R266, R382) -/
  | message (eid : BitVec 8) (tag : BitVec 4) (words : List (BitVec 256))
  /-- message-signalled interrupt (R382) -/
  | interrupt (addr : BitVec 64) (data : BitVec 32)
  /-- SOP request header, and its data row (R380) -/
  | sop (k : Nat) (h : BitVec 256) (d : Option Row)
  /-- codewords completed on IL0: logical lane, physical lane, codeword (R150) -/
  | codewords (l : List (Nat × Nat × BitVec 5440))
  /-- a frame: its 64 flits and its control block (R151) -/
  | frame (k : Nat) (flits : List (BitVec 4704)) (cb : BitVec 2976)
  /-- accesses of 32 bytes that write a copy of the image from byte `addr` up: copy B or A, their data (R382) -/
  | nvWrite (copy : Bool) (addr : Nat) (words : List (BitVec 256))
  /-- accesses of 32 bytes that read the first `n` words of a copy, from byte 0 up (R382) -/
  | nvRead (copy : Bool) (n : Nat)
  /-- `CFG_RDATA` (R382) -/
  | window (data : BitVec 64)
  /-- reset of a link port's PHY, and of IL0 `IL_Lk_RESET` of each lane (R174, R381) -/
  | linkReset (k : Nat) (lanes : List Nat)
  /-- value shifted out by a wrapper instruction (R390) -/
  | wrapper (data : BitVec 168)
  /-- boundary cells in EXTEST: what they drive on the outputs, and what they captured from the inputs and shift out (R390) -/
  | boundary (driven captured : List Bool)
  /-- bits of the handshake stages shifted out in INTEST_SCAN (R390) -/
  | scan (bits : List Bool)
  /-- word read through the 1687 network (R390) -/
  | jtag (data : BitVec 32)
  /-- status of a dictionary access made by a command of its own row -/
  | status (code : BitVec 8)
  /-- value of a dictionary read made by a command of its own row -/
  | value (data : BitVec 128)
deriving DecidableEq, Repr

/-- Everything of the instance but its slot tables and its command queue. -/
structure Fab where
  prm : Params := {}
  store : Store := {}
  /-- ports by port number (R85). Reset `Port`'s defaults -/
  ports : Tbl Port := []
  /-- queues Q000 to Q255. Reset `Queue`'s defaults -/
  queues : Tbl Queue := []
  /-- fence counters F00 to F63, 16 bits (R74). Reset 0 -/
  fences : Tbl (BitVec 16) := []
  /-- `STALL_BOUND`, 256 to 65,535. R231. Reset 4,096 -/
  stallBound : BitVec 16 := 4096
  /-- `FENCE_WAIT_LIMIT`, 8 bits. R231. Reset 2 -/
  fenceLimit : BitVec 8 := 2
  /-- `EPGROUP` entry g of cluster c at 256c + g, 288 bits (R117). Reset 0 -/
  epgroups : Tbl (BitVec 288) := []
  /-- clusters C0 to C15. Reset `Cluster`'s defaults -/
  clusters : Tbl Cluster := []
  /-- presentations at the crossbar so far (R114). own. Reset 0 -/
  shown : Nat := 0
  /-- link ports SP0 to SP3 and IL0 at 4. Reset `Link`'s defaults, DOWN where present -/
  links : Tbl Link := []
  /-- lanes L00 to L35. Reset untrained mapping (R188 `LANE_MAP`) -/
  lanes : Tbl Lane := []
  /-- swap this end requested as receiver, and swap it makes as transmitter (R178). Reset none -/
  swapRx : Option Swap := none
  swapTx : Option Swap := none
  ibex : Ibex := {}
  /-- `EYE_WARN`, 1 to 63. R188. Reset 12 -/
  eyeWarn : BitVec 8 := 12
  /-- `EYE_SWAP`, 0 to 62. R188. Reset 6 -/
  eyeSwap : BitVec 8 := 6
  /-- `TRAIN_TIMEOUT_MS`, 10 to 5,000. R188. Reset 200 -/
  trainTimeout : BitVec 16 := 200
  dom : Domain := {}
  /-- stack ports KP0, KP1. Reset `KPort`'s defaults, DOWN where present -/
  kports : Tbl KPort := []
  map : ResMap := {}
  integ : Integ := {}
  ev : Events := {}
  cnt : Counts := {}
  lop : LongOps := {}
  bdp : Bdp := {}
  pwr : Power := {}
  start : Start := {}
  th : Therm := {}
  sec : Sec := {}
  img : Image := {}
  /-- wrapper instruction selected (R390). Reset BYPASS (DESIGN CHOICE, log 6) -/
  wir : Wrapper := .bypass
  /-- values that the boundary cells drive in EXTEST (R390). Reset none (DESIGN CHOICE, log 6) -/
  cells : List Bool := []
  pins : WrapperPins := {}
  /-- transfers whose `REQ` stands high at an isolated input of the MAIN interfaces, in the order they rose (R385). Reset none -/
  isolated : List Instr := []
  /-- outputs, newest first. own. Reset none -/
  out : List Output := []
  /-- free values taken so far. own (log 7). Reset 0 -/
  free : Nat := 0
  /-- stamps taken so far. own (log 8). Reset 0 -/
  stamps : Nat := 0
deriving DecidableEq, Repr

/-- The state of the block. -/
structure State where
  /-- slot tables: entry k of copy c (0 A, 1 B) of port p at (32c + p) * 256 + k, 16 bits (R89, R90).
  Reset 0x3C00 -/
  slots : Tbl (BitVec 16)
  /-- everything else the spec gives the instance -/
  fab : Fab
  /-- the commands that wait, first in, first out. own. Reset empty -/
  pending : List Instr
deriving DecidableEq, Repr

/-- The span map of the reference wiring of eight dies (R30, R167): SP0 of d to SP1 of d + 1, SP2 of d to SP3 of
d + 2, modulo 8. -/
def refSpanMap : Tbl (BitVec 8) :=
  (List.range 8).flatMap fun d =>
    [(4 * d, BitVec.ofNat 8 (0x80 + 8 * 1 + (d + 1) % 8)), (4 * d + 1, BitVec.ofNat 8 (0x80 + 8 * 0 + (d + 7) % 8)),
     (4 * d + 2, BitVec.ofNat 8 (0x80 + 8 * 3 + (d + 2) % 8)), (4 * d + 3, BitVec.ofNat 8 (0x80 + 8 * 2 + (d + 6) % 8))]

/-- The stack map of the reference integration: stack s on die s div 2, stack port s mod 2, 96 GB (log 5). -/
def refStackMap : Tbl (BitVec 32) :=
  (List.range 16).map fun s => (s, BitVec.ofNat 32 (96 * 65536 + 16 + 8 * (s % 2) + s / 2))

/-- The lanes before the first training (R188 `LANE_MAP`, R176): logical lane l on physical lane l, then spares. -/
def refLanes : Tbl Lane :=
  (List.range 36).map fun l =>
    if l < 32 then (l, { rx := .active, rxLog := l, tx := .active, txLog := l })
    else (l, { rx := .spare, tx := .spare })

/-- The machine right after reset: power has just become good from OFF and stage 1 is under way (R338); every
dictionary entry at its default; memory, queues and tables with nothing listed (logs 4, 5, 6). -/
def State.reset : State where
  slots := []
  fab :=
    { prm := { spanMap := refSpanMap, stackMap := refStackMap }
      links := (List.range 5).map fun k => (k, { st := .down })
      lanes := refLanes
      kports := [(0, { st := .down }), (1, { st := .down })] }
  pending := []

end Sys2Proof.Machine
end

