-- ==== Sys2Proof/Machine/Tables.lean ====
section
/-!
DEFINITION. The named operations over sparse tables: reading and writing one key.  A table reads its default at a
key it does not list; a write of the default takes the pair out, so equal contents are equal data.
-/

namespace Sys2Proof.Machine

variable {α : Type}

/-- The value at key `k`, the default `d` where no pair lists it. -/
def tget (d : α) : Tbl α → Nat → α
  | [], _ => d
  | e :: t, k => if e.1 = k then e.2 else tget d t k

/-- The table without key `k`. -/
def tdrop : Tbl α → Nat → Tbl α
  | [], _ => []
  | e :: t, k => if e.1 = k then tdrop t k else e :: tdrop t k

/-- The table with the pair `(k, v)` put before the first higher key. -/
def tput : Tbl α → Nat → α → Tbl α
  | [], k, v => [(k, v)]
  | e :: t, k, v => if k < e.1 then (k, v) :: e :: t else e :: tput t k v

/-- The table with key `k` reading `v`. -/
def tset [DecidableEq α] (d : α) (t : Tbl α) (k : Nat) (v : α) : Tbl α :=
  if v = d then tdrop t k else tput (tdrop t k) k v

/-- Keys strictly rise from `lo` on, and no pair holds the default. -/
def tcanonFrom [DecidableEq α] (d : α) : Nat → Tbl α → Bool
  | _, [] => true
  | lo, e :: t => decide (lo ≤ e.1) && decide (e.2 ≠ d) && tcanonFrom d (e.1 + 1) t

/-- The canonical form of a table. -/
def tcanon [DecidableEq α] (d : α) (t : Tbl α) : Bool := tcanonFrom d 0 t

/-- Every value put through `g`, pairs that reach the default taken out. -/
def tmap [DecidableEq α] (d : α) (g : Nat → α → α) (t : Tbl α) : Tbl α :=
  t.filterMap fun e => if g e.1 e.2 = d then none else some (e.1, g e.1 e.2)

end Sys2Proof.Machine
end

