-- ==== Sys2Proof/Machine/Ops.lean ====
section
/-!
DEFINITION. The named reads and writes of the parts of the state, the conditions that every command meets first, and
the free values.  Every meaning reaches the state through these.
-/

namespace Sys2Proof.Machine

/-- Port p (R85). -/
def portOf (f : Fab) (p : Nat) : Port := tget {} f.ports p
/-- `f` with port p put through `g`. -/
def onPort (f : Fab) (p : Nat) (g : Port → Port) : Fab := { f with ports := tset {} f.ports p (g (portOf f p)) }
/-- Queue q. -/
def queueOf (f : Fab) (q : Nat) : Queue := tget {} f.queues q
/-- `f` with queue q put through `g`. -/
def onQueue (f : Fab) (q : Nat) (g : Queue → Queue) : Fab := { f with queues := tset {} f.queues q (g (queueOf f q)) }
/-- Cluster c. -/
def clusterOf (f : Fab) (c : Nat) : Cluster := tget {} f.clusters c
/-- `f` with cluster c put through `g`. -/
def onCluster (f : Fab) (c : Nat) (g : Cluster → Cluster) : Fab :=
  { f with clusters := tset {} f.clusters c (g (clusterOf f c)) }
/-- Link port k: SP0 to SP3, IL0 at 4. -/
def linkOf (f : Fab) (k : Nat) : Link := tget {} f.links k
/-- `f` with link k put through `g`. -/
def onLink (f : Fab) (k : Nat) (g : Link → Link) : Fab := { f with links := tset {} f.links k (g (linkOf f k)) }
/-- Lane l. -/
def laneAt (f : Fab) (l : Nat) : Lane := tget {} f.lanes l
/-- `f` with lane l put through `g`. -/
def onLane (f : Fab) (l : Nat) (g : Lane → Lane) : Fab := { f with lanes := tset {} f.lanes l (g (laneAt f l)) }
/-- Stack port k. -/
def kportOf (f : Fab) (k : Nat) : KPort := tget {} f.kports k
/-- `f` with stack port k put through `g`. -/
def onKport (f : Fab) (k : Nat) (g : KPort → KPort) : Fab := { f with kports := tset {} f.kports k (g (kportOf f k)) }

/-- Fence counter (R74). -/
def fenceOf (f : Fab) (i : Nat) : BitVec 16 := tget 0 f.fences i
/-- `f` with a fence counter set. -/
def setFence (f : Fab) (i : Nat) (v : BitVec 16) : Fab := { f with fences := tset 0 f.fences i v }
/-- Endpoint group entry g of cluster c (R117). -/
def epgroupOf (f : Fab) (c g : Nat) : BitVec 288 := tget 0 f.epgroups (256 * c + g)

/-- The default of a slot entry (R90). -/
def slotDefault : BitVec 16 := 0x3C00
/-- Key of entry k of copy c of port p. -/
def slotKey (c p k : Nat) : Nat := (32 * c + p) * 256 + k
/-- Entry k of copy c of port p (R89). -/
def slotOf (t : Tbl (BitVec 16)) (c p k : Nat) : BitVec 16 := tget slotDefault t (slotKey c p k)
/-- The entry of the active copy (R89). -/
def activeSlot (t : Tbl (BitVec 16)) (f : Fab) (p k : Nat) : BitVec 16 := slotOf t (portOf f p).active.toNat p k

/-- A record put at the front of the outputs. -/
def emit (f : Fab) (o : Output) : Fab := { f with out := o :: f.out }

/-- The n-th stamp, and the state after it (R311, R321). -/
def takeStamp (f : Fab) : BitVec 64 × Fab := (Config.stampNs f.stamps, { f with stamps := f.stamps + 1 })

/-- A free row, and the state after it (log 7). -/
def takeFree (f : Fab) : Row × Fab := (Config.freeRow f.free, { f with free := f.free + 1 })

/-- Free stored words of a row, and the state after them (R252, log 7). -/
def takeFreeWords (f : Fab) : List Code × Fab :=
  ((List.range 36).map fun w => (Config.freeBits f.free).extractLsb' (137 * w) 137, { f with free := f.free + 1 })

/-- Instance ID (R28, R283). -/
def instanceId (f : Fab) : BitVec 16 := pack 16 [(3, f.prm.die.toNat), (13, f.dom.package.toNat)]

/-- The fabric is READY (R345). -/
def isReady (f : Fab) : Bool := (f.start.stage == 7 || f.start.stage == 8) && f.pwr.st == 0

/-- Fawn mode, or the fall-back arrangement selected for test (R256, R343): check 11, R110 and R256 apply. -/
def fallback (f : Fab) : Bool := f.start.fawn || f.integ.fallOn

/-- A start runs, and this stage of it (R338). -/
def atStage (f : Fab) (n : Nat) : Bool := f.start.running && f.start.stage.toNat == n && !f.start.done && !f.start.entering

/-- A power transition or a start runs (R352). -/
def moving (f : Fab) : Bool := f.pwr.trans.isSome || f.start.running

/-- Data hiding is in force (R364). -/
def hidden (f : Fab) : Bool := f.sec.st == 2 && f.sec.level.toNat < 2

/-- Beat times of XP0's round sequencer so far (R327). -/
def xp0Time (f : Fab) : Nat := (portOf f 16).beatTimes

/-- The stack port that serves a stack of this instance, if any (R65, R190). -/
def servingPort (f : Fab) (s : Nat) : Option Nat :=
  let e := tget 0 f.prm.stackMap s
  if bitAt e 4 && fld e 0 3 == f.prm.die.toNat then some (fld e 3 1) else none

/-- The stack map marks the stack present (R190). -/
def stackPresent (f : Fab) (s : Nat) : Bool := bitAt (tget 0 f.prm.stackMap s) 4

/-- Capacity of a stack in bytes (R190). -/
def stackBytes (f : Fab) (s : Nat) : Nat := fld (tget 0 f.prm.stackMap s) 16 16 * 10 ^ 9

/-- Which supply an interface needs (R370). -/
inductive Supply where
  /-- VDD_TRF and VDD_NET on, in ON or IDLE -/
  | main
  /-- any state but OFF -/
  | ret
  /-- none -/
  | off
deriving DecidableEq, Repr

/-- The interface is alive, and function is not suspended by the wrapper (R370, R390). -/
def alive (u : Supply) (f : Fab) : Bool :=
  match u with
  | .main => f.pwr.st.toNat ≤ 1 && bitAt f.pwr.goods 0 && bitAt f.pwr.goods 1 && f.wir != .extest && f.wir != .intestScan
  | .ret => f.pwr.st != 3 && f.wir != .extest && f.wir != .intestScan
  | .off => true

/-- The class-B channel into the MAIN interfaces on which a command is a transfer (R370, R378 to R380, R382): descriptors, the quarter
buses of the clusters, the responses of each stack port, the window. -/
def channelOf (c : Instr) : Option Nat :=
  match c with
  | .descriptorIntake _ _ => some 0
  | .returnQuarterRow c q _ _ => some (1 + 4 * c + q)
  | .readData k _ _ => some (65 + k)
  | .callData k _ _ => some (65 + k)
  | .writeAck k _ => some (65 + k)
  | .progress k _ => some (65 + k)
  | .fault k _ => some (65 + k)
  | .cancelAck k _ => some (65 + k)
  | .credit k _ => some (65 + k)
  | .mirrorRead _ _ => some 67
  | .mirrorWrite _ _ _ => some 67
  | _ => none

/-- The inputs of the MAIN interfaces are isolated (R385). -/
def isolating (f : Fab) : Bool := f.pwr.st == 2 && !f.pwr.excursion && f.wir != .extest && f.wir != .intestScan

/-- A `REQ` rises at an isolated input (R371, R385): it stays high, so its channel brings no other. -/
def holdInput (c : Instr) (f : Fab) : Fab :=
  if f.isolated.any fun x => channelOf x == channelOf c then f else { f with isolated := f.isolated ++ [c] }

/-- A transfer on a channel into the MAIN interfaces: its outcome `r`, or in RETAIN a `REQ` that waits (R385). -/
def onPin (c : Instr) (s : State) (r : Host.Outcome State Fault Refusal) : Host.Outcome State Fault Refusal :=
  if isolating s.fab then .next { s with fab := holdInput c s.fab } else r

/-- A command's effect `g` where its interface is alive, and no change where it is not (log 3); the fault of R9 while
a rail is outside its limits (log 2).  The effect reads the slot tables and does not write them. -/
def onFab (u : Supply) (s : State) (g : Tbl (BitVec 16) → Fab → Fab) : Host.Outcome State Fault Refusal :=
  if s.fab.pwr.excursion then .fault .outsideLimits
  else if alive u s.fab then .next { s with fab := g s.slots s.fab }
  else .next s

/-- The same for an effect that may write the slot tables. -/
def onAll (u : Supply) (s : State) (g : Tbl (BitVec 16) → Fab → Tbl (BitVec 16) × Fab) :
    Host.Outcome State Fault Refusal :=
  if s.fab.pwr.excursion then .fault .outsideLimits
  else if alive u s.fab then .next { s with slots := (g s.slots s.fab).1, fab := (g s.slots s.fab).2 }
  else .next s

/-- The same in an excursion too: RAIL_LOSS and POWER_GOOD (R387). -/
def onPower (s : State) (g : Tbl (BitVec 16) → Fab → Tbl (BitVec 16) × Fab) : Host.Outcome State Fault Refusal :=
  .next { s with slots := (g s.slots s.fab).1, fab := (g s.slots s.fab).2 }

/-- `g` applied over a list, left to right. -/
def each {α : Type} (l : List α) (g : Fab → α → Fab) (f : Fab) : Fab := l.foldl g f

/-- The effect `g` where `b` holds. -/
def when (b : Bool) (g : Fab → Fab) (f : Fab) : Fab := if b then g f else f

/-- Number from bit positions and values. -/
def place : List (Nat × Nat) → Nat
  | [] => 0
  | (lo, v) :: t => v * 2 ^ lo + place t

end Sys2Proof.Machine
end

