-- ==== Sys2Proof/Machine/Operands.lean ====
section
/-!
DEFINITION. The fields of a descriptor (R60), its operand forms (R63), row placement (R67 to R69), checks 1 to 11 of
R75 with the subcode and bit each reports, and how a descriptor is shown under data hiding (R365).
-/

namespace Sys2Proof.Machine

def dOp (d : Desc) : Nat := fld d 0 4
def dQclass (d : Desc) : Nat := fld d 4 2
def dFence (d : Desc) : Nat := fld d 6 6
def dFwait (d : Desc) : Bool := bitAt d 12
def dFsignal (d : Desc) : Bool := bitAt d 13
/-- Tile rows, 1 to 256. -/
def dRows (d : Desc) : Nat := fld d 14 8 + 1
/-- Row data bytes, 32 to 512. -/
def dBytes (d : Desc) : Nat := (fld d 22 4 + 1) * 32
def dSrcFmt (d : Desc) : Nat := fld d 26 8
def dDstFmt (d : Desc) : Nat := fld d 34 8
def dRound (d : Desc) : Nat := fld d 42 2
def dOvf (d : Desc) : Nat := fld d 44 1
def dStripe (d : Desc) : Nat := fld d 45 2
def dRotate (d : Desc) : Nat := fld d 47 9
def dTranspose (d : Desc) : Bool := bitAt d 56
def dCtag (d : Desc) : Nat := fld d 57 4
def dSrc (d : Desc) : BitVec 64 := BitVec.ofNat 64 (fld d 64 64)
def dDst (d : Desc) : BitVec 64 := BitVec.ofNat 64 (fld d 128 64)
def dMcast (d : Desc) : BitVec 16 := BitVec.ofNat 16 (fld d 192 16)
def dEpg (d : Desc) : Nat := fld d 208 8
def dEpoch (d : Desc) : Nat := fld d 216 8
def dOscale (d : Desc) : Nat := fld d 224 4
/-- Stream ID of a MAP_SET (R60). -/
def dStream (d : Desc) : Nat := fld d 192 24

/-- Banks of a stripe (R60). -/
def stripeOf (code : Nat) : Nat := 4 * 2 ^ code

/-- Kind of an operand (R63). -/
def kindOf (o : BitVec 64) : Nat := fld o 61 3

/-- Fields of a DIRECT operand. -/
def oInst (o : BitVec 64) : Nat := fld o 0 16
def oBank (o : BitVec 64) : Nat := fld o 16 9
def oRow (o : BitVec 64) : Nat := fld o 25 8
def oLocal (o : BitVec 64) : Bool := bitAt o 33
/-- Fields of a HERD operand. -/
def oHbank (o : BitVec 64) : Nat := fld o 0 12
def oHdie (o : BitVec 64) : Nat := fld o 9 3
def oHrow (o : BitVec 64) : Nat := fld o 12 8
def oDies (o : BitVec 64) : Nat := fld o 20 3 + 1
/-- Fields of an INDIRECT operand. -/
def oRidx (o : BitVec 64) : Nat := fld o 0 17
def oRoff (o : BitVec 64) : Nat := fld o 17 8
/-- Fields of a STACK operand. -/
def oAddr (o : BitVec 64) : Nat := fld o 0 38
def oStack (o : BitVec 64) : Nat := fld o 38 4
def oFunc (o : BitVec 64) : Nat := fld o 42 8
def oPack (o : BitVec 64) : Bool := bitAt o 50
/-- Fields of a CONST operand. -/
def oValue (o : BitVec 64) : Nat := fld o 0 32
def oExp (o : BitVec 64) : Nat := fld o 32 8
/-- Fields of a FENCE operand. -/
def oCount (o : BitVec 64) : Nat := fld o 0 16
def oFinst (o : BitVec 64) : Nat := fld o 16 16
def oRemote (o : BitVec 64) : Bool := bitAt o 32

/-- Lowest reserved bit of an operand of each kind (R63); kind 7 has no layout. -/
def kindBits (k : Nat) : Nat :=
  match k with
  | 0 => 0
  | 1 => 34
  | 2 => 23
  | 3 => 25
  | 4 => 51
  | 5 => 40
  | 6 => 33
  | _ => 61

/-- The instance a DIRECT operand names (R64). -/
def directInst (f : Fab) (o : BitVec 64) : Nat := if oLocal o then (instanceId f).toNat else oInst o

/-- Bank and row of logical row j (R67). -/
def placeBank (b0 r0 s j : Nat) : Nat × Nat := (b0 + j % s, r0 + j / s)

/-- Row address of logical row j (R67, R233). -/
def rowAddr (b0 r0 s j : Nat) : Nat := (b0 + j % s) * 256 + (r0 + j / s)

/-- The placement satisfies R68. -/
def placeOk (b0 r0 s jmax : Nat) : Bool := b0 % s == 0 && decide (r0 + jmax / s ≤ 255)

/-- Rows of share m of a tile of n rows over D dies (R69). -/
def shareRows (n dies m : Nat) : Nat := (n - m + dies - 1) / dies

/-- An opcode uses row shape (R62). -/
def usesRows (o : Nat) : Bool := 1 ≤ o && o ≤ 10
/-- An opcode uses row data bytes and formats (R62). -/
def usesFmt (o : Nat) : Bool := 1 ≤ o && o ≤ 9
/-- The descriptor requantizes (R71). -/
def requants (d : Desc) : Bool := dOp d == 1 && fmtType (dSrcFmt d) == 4 && fmtType (dDstFmt d) != 4

/-- A failure of R75: subcode and bit. -/
abbrev Failure := Nat × Nat

/-- The failure at the lowest bit among those whose condition holds. -/
def lowest (sub : Nat) : List (Bool × Nat) → Option Failure
  | [] => none
  | (bad, b) :: t =>
    match lowest sub t with
    | some e => if bad && b ≤ e.2 then some (sub, b) else some e
    | none => if bad then some (sub, b) else none

/-- Check 1, PARITY; `inv` inverts `PAR[0]` (R297). -/
def check1 (d : Desc) (inv : Bool) : Option Failure :=
  lowest 1 [(xor inv (xor (oddOnes 64 (fld d 0 64)) (bitAt d 252)), 252),
    (xor (oddOnes 64 (fld d 64 64)) (bitAt d 253), 253), (xor (oddOnes 64 (fld d 128 64)) (bitAt d 254), 254),
    (xor (oddOnes 60 (fld d 192 60)) (bitAt d 255), 255)]

/-- Check 2, OPCODE. -/
def check2 (d : Desc) : Option Failure := if dOp d = 15 then some (2, 0) else none

/-- Reserved parts of the operand at `base`, by its kind (R63, R65, R74, R210). -/
def operandReserved (op base : Nat) (o : BitVec 64) : List (Bool × Nat) :=
  let k := kindBits (kindOf o)
  [(k < 61 && fld o k (61 - k) != 0, base + k),
    (kindOf o == 4 && op != 8 && oFunc o != 0, base + 42),
    (kindOf o == 3 && (op == 11 || op == 12) && oRoff o != 0, base + 17),
    (kindOf o == 6 && !oRemote o && oFinst o != 0, base + 16)]

/-- Check 3, RESERVED_FIELD (R62). -/
def check3 (d : Desc) : Option Failure :=
  let o := dOp d
  let fenceOp := o == 13 || o == 14
  let target := o == 1 || o == 2 || o == 3 || o == 11
  lowest 3 <|
    [(fenceOp && dFwait d, 12), (fenceOp && dFsignal d, 13), (!usesRows o && fld d 14 8 != 0, 14),
      (!usesFmt o && fld d 22 4 != 0, 22), (!usesFmt o && dSrcFmt d != 0, 26), (!usesFmt o && dDstFmt d != 0, 34),
      (!(o == 3 || requants d) && dRound d != 0, 42), (o != 3 && dOvf d != 0, 44),
      (!usesRows o && dStripe d != 0, 45), (o != 1 && dRotate d != 0, 47), (o != 1 && dTranspose d, 56),
      (o != 3 && dCtag d != 0, 57), (fld d 61 3 != 0, 61)]
    ++ operandReserved o 64 (dSrc d) ++ operandReserved o 128 (dDst d)
    ++ [(!target && fld d 192 16 != 0, 192), (!target && dEpg d != 0, 208), (o != 3 && dEpoch d != 0, 216),
      (o != 11 && dOscale d != 0, 224), (fld d 228 24 != 0, 228)]

/-- Operand kinds an opcode permits for `SRC` (R62). -/
def srcKinds (o : Nat) : List Nat :=
  match o with
  | 1 | 4 | 5 | 7 => [1, 3]
  | 6 => [4, 3]
  | 8 => [4]
  | 9 => [5]
  | 11 => [1, 4]
  | 13 => [6]
  | _ => [0]

/-- Operand kinds an opcode permits for `DST` (R62). -/
def dstKinds (o : Nat) : List Nat :=
  match o with
  | 2 | 3 | 4 | 6 | 8 | 9 | 10 => [1, 3]
  | 5 => [1, 2, 3]
  | 7 => [4, 3]
  | 11 | 12 => [3]
  | 14 => [6]
  | _ => [0]

/-- Check 4, OPERAND_KIND. -/
def check4 (d : Desc) : Option Failure :=
  lowest 4 [(!(srcKinds (dOp d)).contains (kindOf (dSrc d)), 125), (!(dstKinds (dOp d)).contains (kindOf (dDst d)), 189)]

/-- Bytes the destination format is judged against (R71). -/
def judgedBytes (d : Desc) : Nat :=
  if dOp d = 1 then deliveredBytes (dSrcFmt d) (dDstFmt d) (dBytes d) else dBytes d

/-- Check 5, FORMAT. -/
def check5 (d : Desc) : Option Failure :=
  lowest 5 [(usesFmt (dOp d) && !fmtOk (dSrcFmt d) (dBytes d), 26),
    (usesFmt (dOp d) && !fmtOk (dDstFmt d) (judgedBytes d), 34), (dRound d == 3, 42)]

/-- R68 and R69 for a bank operand at `base` whose tile reaches logical row `jmax`. -/
def operandShape (f : Fab) (d : Desc) (base jmax : Nat) (o : BitVec 64) : List (Bool × Nat) :=
  let s := stripeOf (dStripe d)
  if dStripe d = 3 then []
  else if kindOf o = 1 then [(oBank o % s != 0, base + 16), (decide (255 < oRow o + jmax / s), base + 25)]
  else if kindOf o = 2 then
    [(oHbank o % s != 0, base), (decide (255 < oHrow o + jmax / oDies o / s), base + 12),
      (decide (f.prm.dies < oDies o), base + 20)]
  else []

/-- One descriptor reads and writes one bank location through DIRECT operands of one instance (R70). -/
def overlaps (f : Fab) (d : Desc) : Bool :=
  let s := stripeOf (dStripe d)
  let a := dSrc d
  let b := dDst d
  (dOp d == 4 || dOp d == 5) && kindOf a == 1 && kindOf b == 1 && directInst f a == directInst f b
    && oBank a == oBank b && decide (max (oRow a) (oRow b) - min (oRow a) (oRow b) < (dRows d + s - 1) / s)
    && decide ((max (oRow a) (oRow b) - min (oRow a) (oRow b)) * s < dRows d)

/-- Check 6, SHAPE.  A ROTATE that R70 does not admit is reported at `ROTATE`, and an overlap of source and destination at `SRC`
(log 101). -/
def check6 (f : Fab) (d : Desc) : Option Failure :=
  let o := dOp d
  let gb := groupBytes (dSrcFmt d)
  lowest 6 <|
    [(usesFmt o && !wholeGroups (dSrcFmt d) (dBytes d), 22), (usesRows o && dStripe d == 3, 45),
      (o == 1 && dRotate d != 0 && (dBytes d != 512 || dRotate d % gb != 0), 47)]
    ++ (if usesRows o then
        operandShape f d 64 (dRows d - 1 + (dRotate d != 0).toNat) (dSrc d) ++ operandShape f d 128 (dRows d - 1) (dDst d)
      else [])
    ++ [(usesRows o && dStripe d != 3 && overlaps f d, 64)]

/-- The format pair of a DELIVER is one of R71's. -/
def pairOk (d : Desc) : Bool :=
  let a := dSrcFmt d
  let b := dDstFmt d
  let s := fmtType a
  let t := fmtType b
  fmtGroup a == fmtGroup b && (dTranspose d || fmtLayout a == fmtLayout b)
    && ((s == t && fmtMicro a == fmtMicro b) || (s == 0 && (t == 1 || t == 2) && !fmtMicro a && !fmtMicro b)
      || (s == 1 && t == 2 && fmtMicro a == fmtMicro b) || (s == 4 && (t == 3 || t == 2 || t == 1)))

/-- `TRANSPOSE` meets R72. -/
def transposeOk (d : Desc) : Bool :=
  !dTranspose d || (fmtLayout (dSrcFmt d) + fmtLayout (dDstFmt d) == 1)

/-- Check 7, CONVERSION. -/
def check7 (d : Desc) : Option Failure :=
  let o := dOp d
  let n := judgedBytes d
  if o = 1 then
    lowest 7 [(n % 32 != 0 || decide (512 < n) || n == 0, 22), (!pairOk d, 34), (!transposeOk d, 56)]
  else if usesFmt o then
    lowest 7 [(o == 3 && (fmtType (dSrcFmt d) != 4 || fmtType (dDstFmt d) != 4), 26), (dSrcFmt d != dDstFmt d, 34)]
  else none

/-- Check 8, TARGET. -/
def check8 (d : Desc) : Option Failure :=
  let n := ones 16 (dMcast d).toNat
  lowest 8 [(dOp d == 1 && n == 0, 192), ((dOp d == 2 || dOp d == 3) && n != 1, 192)]

/-- R64 and R65 for the operand at `base`; `any` where the operand may name any instance.  Of a STACK_CALL, whose rows are the
engine's answer and not stack rows at `ADDR`, only `ADDR` itself must lie within the capacity (log 101). -/
def operandLocal (f : Fab) (d : Desc) (base : Nat) (any : Bool) (o : BitVec 64) : List (Bool × Nat) :=
  let k := kindOf o
  let n := strideOf (oPack o) (dSrcFmt d) (dBytes d) * dRows d
  let call := dOp d == 8
  let used := if call then 1 else n
  [(k == 1 && oLocal o && oInst o != 0, base), (k == 1 && !oLocal o && !any && oInst o != (instanceId f).toNat, base),
    (k == 4 && dOp d != 11 && oAddr o % 8 != 0, base),
    (k == 4 && dOp d != 11 && (servingPort f (oStack o)).isSome && decide (stackBytes f (oStack o) < oAddr o + used),
      base),
    (k == 4 && dOp d != 11 && (servingPort f (oStack o)).isNone, base + 38),
    (k == 4 && dOp d == 11 && !stackPresent f (oStack o), base + 38),
    (k == 2 && decide (f.prm.dies ≤ oHdie o), base),
    (k == 5 && !fits (widthOf (dDstFmt d)) (signed 32 (oValue o)), base)]

/-- Check 9, LOCALITY. -/
def check9 (f : Fab) (d : Desc) : Option Failure :=
  lowest 9 (operandLocal f d 64 (dOp d == 11) (dSrc d) ++ operandLocal f d 128 (dOp d == 5) (dDst d))

/-- Check 10, FENCE_COUNT. -/
def check10 (d : Desc) : Option Failure :=
  lowest 10 [(dOp d == 13 && oCount (dSrc d) == 0, 64), (dOp d == 13 && oRemote (dSrc d), 96),
    (dOp d == 14 && oCount (dDst d) == 0, 128)]

/-- Check 11, MODE: what Fawn mode and the fall-back arrangement do not admit (R75, R256, R343).  An opcode that uses a span or
stack port is reported at `OPCODE`, a MOVE between groups at the bank of `DST`; every SPAN_MOVE counts as using a span (logs 13,
101). -/
def check11 (f : Fab) (d : Desc) : Option Failure :=
  let o := dOp d
  let a := dSrc d
  let b := dDst d
  if fallback f then
    lowest 11 [(o == 5 || o == 6 || o == 7 || o == 8, 0),
      (o == 11 && kindOf a == 1 && directInst f a != (instanceId f).toNat, 64),
      (o == 4 && kindOf a == 1 && kindOf b == 1 && oBank a / 32 != oBank b / 32, 144),
      (o == 14 && oRemote b && oFinst b != (instanceId f).toNat, 144),
      (o == 1 && ones 16 (dMcast d).toNat != 1, 192)]
  else none

/-- The first failure of checks 1 to 11 (R75). -/
def checks (f : Fab) (d : Desc) (inv : Bool) : Option Failure :=
  (check1 d inv).or <| (check2 d).or <| (check3 d).or <| (check4 d).or <| (check5 d).or <| (check6 f d).or <|
    (check7 d).or <| (check8 d).or <| (check9 f d).or <| (check10 d).or (check11 f d)

/-- A FENCE_SIGNAL that is a local signal (R74, R83). -/
def localSignal (f : Fab) (d : Desc) : Bool :=
  dOp d == 14 && (!oRemote (dDst d) || oFinst (dDst d) == (instanceId f).toNat)

/-- The descriptor is never aborted (R83). -/
def neverAborted (f : Fab) (d : Desc) : Bool :=
  dOp d == 0 || dOp d == 11 || dOp d == 12 || dOp d == 13 || localSignal f d

/-- A descriptor as trace and abort records show it under data hiding (R365, R367). -/
def hideDesc (f : Fab) (d : Desc) : Desc :=
  if dOp d = 11 then
    let h := if f.sec.keyValid then streamHash f.sec.key (dStream d) else 0
    let d := putf d 192 24 h
    putBit d 255 (oddOnes 60 (fld d 192 60))
  else if dOp d = 9 then
    let d := putf d 64 40 0
    putBit d 253 (oddOnes 64 (fld d 64 64))
  else d

/-- An event record as it leaves (R364, R365, R367): while hiding is in force a MAP_ENTRY_LOST recorded before it came into force has
its stream ID bits transformed and carries `HIDDEN`. -/
def hideRecord (f : Fab) (r : BitVec 256) : BitVec 256 :=
  if hidden f && fld r 0 8 == 0x1F && !bitAt r 8 then
    putBit (putf r 160 24 (if f.sec.keyValid then streamHash f.sec.key (fld r 160 24) else 0)) 8 true
  else r

end Sys2Proof.Machine
end

