-- ==== Sys2Proof/Machine/Flags.lean ====
section
/-!
DEFINITION. What the block reports: counters and their thresholds (R290, R291, R325), events and their delivery
(R305, R321 to R324), the descriptor trace (R296) and the carrying out of an injected fault (R297).
-/

namespace Sys2Proof.Machine

/-- Key of a counter entry. -/
def cKey (x y : Nat) : Nat := x * 256 + y

/-- Value of the counter at OD x.y (R290). -/
def counterOf (f : Fab) (x y : Nat) : BitVec 64 := tget 0 f.cnt.val (cKey x y)

/-- Threshold of the counter at OD x.y (R291). -/
def thresholdOf (f : Fab) (x y : Nat) : BitVec 64 := tget 0 f.cnt.thr (cKey x y)

/-- The counter set to `v`; whether that reaches an armed threshold, which is then spent (R291). -/
def setCounter (f : Fab) (x y : Nat) (v : BitVec 64) : Fab × Bool :=
  let hit := thresholdOf f x y != 0 && !(tget false f.cnt.spent (cKey x y)) && decide ((thresholdOf f x y).toNat ≤ v.toNat)
  ({ f with cnt := { f.cnt with val := tset 0 f.cnt.val (cKey x y) v
                                spent := if hit then tset false f.cnt.spent (cKey x y) true else f.cnt.spent } }, hit)

/-- Payload of COUNTER_THRESHOLD (R322). -/
def thresholdPayload (f : Fab) (x y : Nat) : Nat := place [(0, x), (16, y), (64, (counterOf f x y).toNat)]

/-- Some subscription or `IRQ_MASK` selects the event code (R268, R323). -/
def selected (f : Fab) (code : Nat) : Bool :=
  bitAt f.ev.irqMask code || (List.range 8).any fun i => bitAt (tget {} f.ev.subs i).mask code

/-- An event record (R321). -/
def eventRecord (f : Fab) (code : Nat) (hid supp : Bool) (seq : BitVec 32) (stamp : BitVec 64) (payload : Nat) :
    BitVec 256 :=
  pack 256 [(8, code), (1, hid.toNat), (1, 0), (1, supp.toNat), (5, 0), (16, (instanceId f).toNat), (32, seq.toNat),
    (64, stamp.toNat), (128, payload)]

/-- A record placed in one subscriber's queue of 32 (R324); whether it was withheld. -/
def placeRecord (s : Sub) (r : BitVec 256) : Sub × Bool :=
  if 32 ≤ s.out.length then ({ s with lost := true }, true)
  else ({ s with out := s.out ++ [r] }, false)

/-- The record placed with every subscriber that selects the code; how many withheld it. -/
def placeAll (f : Fab) (code : Nat) (r : BitVec 256) : Tbl Sub × Nat :=
  (List.range 8).foldl (fun acc i =>
    let s := tget {} acc.1 i
    if bitAt s.mask code then
      let p := placeRecord s r
      (tset {} acc.1 i p.1, acc.2 + p.2.toNat)
    else acc) (f.ev.subs, 0)

/-- The event ring and the interrupt (R305, R323 step 2). -/
def ringRecord (f : Fab) (code : Nat) (r : BitVec 256) : Fab :=
  if bitAt f.ev.irqMask code then
    let f := { f with ev := { f.ev with ring := tset 0 f.ev.ring f.ev.ringHead.toNat r
                                        ringHead := BitVec.ofNat 8 ((f.ev.ringHead.toNat + 1) % 64) } }
    if f.ev.irqAddr = 0 then f else emit f (.interrupt f.ev.irqAddr f.ev.irqData)
  else f

/-- An event raised (R323): suppressed under `EVENT_RATE`, else recorded and delivered.  A counter that this itself
moves past its threshold raises COUNTER_THRESHOLD in turn; `fuel` bounds that chain, whose links each spend a
threshold. -/
def raiseWith : Nat → Nat → Nat → Bool → Fab → Fab
  | 0, _, _, _, f => f
  | fuel + 1, code, payload, hid, f =>
    if !selected f code then f
    else if f.ev.rate.toNat ≤ tget 0 f.ev.raised code then
      let c := setCounter f 0x8400 0x1C (counterOf f 0x8400 0x1C + 1)
      let f := { c.1 with ev := { c.1.ev with muted := putBit c.1.ev.muted code true } }
      if c.2 then raiseWith fuel 2 (thresholdPayload f 0x8400 0x1C) false f else f
    else
      let st := takeStamp f
      let f := st.2
      let r := eventRecord f code hid (bitAt f.ev.muted code) f.ev.seq st.1 payload
      let f := { f with ev := { f.ev with seq := f.ev.seq + 1, muted := putBit f.ev.muted code false
                                          raised := tset 0 f.ev.raised code (tget 0 f.ev.raised code + 1) } }
      let f := ringRecord f code r
      let p := placeAll f code r
      let f := { f with ev := { f.ev with subs := p.1 } }
      if p.2 = 0 then f
      else
        let c := setCounter f 0x8400 0x1D (counterOf f 0x8400 0x1D + BitVec.ofNat 64 p.2)
        if c.2 then raiseWith fuel 2 (thresholdPayload c.1 0x8400 0x1D) false c.1 else c.1

/-- An event raised with a payload (R322). -/
def raise (code payload : Nat) (f : Fab) : Fab := raiseWith 4 code payload false f

/-- `n` occurrences counted at OD x.y, and COUNTER_THRESHOLD when that reaches an armed threshold (R291, R325). -/
def count (x y n : Nat) (f : Fab) : Fab :=
  if n = 0 then f
  else
    let c := setCounter f x y (counterOf f x y + BitVec.ofNat 64 n)
    if c.2 then raise 2 (thresholdPayload c.1 x y) c.1 else c.1

/-- A counter that keeps the largest value seen (`MAX_BACKOFF`, R98). -/
def countMax (x y n : Nat) (f : Fab) : Fab :=
  if n ≤ (counterOf f x y).toNat then f
  else
    let c := setCounter f x y (BitVec.ofNat 64 n)
    if c.2 then raise 2 (thresholdPayload c.1 x y) c.1 else c.1

/-- Counters of a port (R292). -/
def countPort (p sub n : Nat) : Fab → Fab := count (0x8100 + p) sub n
/-- Counters of a cluster, queue, link port, stack port, bank group and of the instance (R293). -/
def countCluster (c sub n : Nat) : Fab → Fab := count (0x8140 + c) sub n
def countQueue (q sub n : Nat) : Fab → Fab := count (0x8200 + q) sub n
def countLink (k sub n : Nat) : Fab → Fab := count (0x8300 + k) sub n
def countStack (k sub n : Nat) : Fab → Fab := count (0x8310 + k) sub n
def countGroup (g sub n : Nat) : Fab → Fab := count (0x8320 + g) sub n
def countInst (sub n : Nat) : Fab → Fab := count 0x8400 sub n

/-- A counter cleared and its threshold armed again (R290, R291). -/
def clearCounter (x y : Nat) (f : Fab) : Fab :=
  { f with cnt := { f.cnt with val := tset 0 f.cnt.val (cKey x y) 0
                               spent := tset false f.cnt.spent (cKey x y) false } }

/-- A threshold written (R291): armed again, and spent at once with its event when already reached. -/
def writeThreshold (x y : Nat) (v : BitVec 64) (f : Fab) : Fab :=
  let reached := v != 0 && decide (v.toNat ≤ (counterOf f x y).toNat)
  let f := { f with cnt := { f.cnt with thr := tset 0 f.cnt.thr (cKey x y) v
                                        spent := tset false f.cnt.spent (cKey x y) reached } }
  if reached then raise 2 (thresholdPayload f x y) f else f

/-- A fence addition (R74): kept at 0xFFFF with FENCE_OVERFLOW when it would pass. -/
def addFence (i n : Nat) (requester inst : Nat) (f : Fab) : Fab :=
  let v := (fenceOf f i).toNat + n
  if 0xFFFF < v then raise 5 (place [(0, requester), (16, i), (32, inst)]) (setFence f i 0xFFFF)
  else setFence f i (BitVec.ofNat 16 v)

/-- A trace record written for a selected queue while the level is OBSERVE or INTRUSIVE (R296), transformed under
data hiding (R364, R365). -/
def traceAs (kind q seq me : Nat) (d : Desc) (f : Fab) : Fab :=
  if f.sec.level = 0 || !bitAt f.sec.traceQ q then f
  else
    let st := takeStamp f
    let f := st.2
    let shown := if hidden f then hideDesc f d else d
    let r : BitVec 320 := pack 320 [(256, shown.toNat), (8, q), (6, seq), (2, kind), (16, me), (32, st.1.toNat % 2 ^ 32)]
    { f with sec := { f.sec with trace := tset 0 f.sec.trace f.sec.traceHead.toNat r
                                 traceRaw := putBit f.sec.traceRaw f.sec.traceHead.toNat (!hidden f)
                                 traceHead := f.sec.traceHead + 1, traceCount := f.sec.traceCount + 1 } }

/-- Kind, target, word and bit of `INJECT` (R297). -/
def injKind (f : Fab) : Nat := fld f.sec.inject 0 4
def injTarget (f : Fab) : Nat := fld f.sec.inject 4 17
def injWord (f : Fab) : Nat := fld f.sec.inject 21 6
def injBit (f : Fab) : Nat := fld f.sec.inject 27 8

/-- The armed fault has been carried out (R297). -/
def injFired (f : Fab) : Fab :=
  { f with sec := { f.sec with inject := putf f.sec.inject 0 4 0, fired := f.sec.fired + 1 } }

/-- A change of debug level reported (R362). -/
def debugChange (old new : Nat) (f : Fab) : Fab := raise 0x2C (place [(0, old), (8, new)]) f

end Sys2Proof.Machine
end

