-- ==== Sys2Proof/Machine/Banks.lean ====
section
/-!
DEFINITION. The banks: the row state array (R52 to R56, R242), checked reads (R57, R109, R237), writes, merges and
poison (R35, R53, R54, R238 to R241), the posted write buffer (R107, R108), the error log (R243), retirement (R247 to
R250) and accumulate-on-write (R138 to R143).
-/

namespace Sys2Proof.Machine

/-- Bank and group of a row address (R13, R233). -/
def bankOf (ra : Nat) : Nat := ra / 256
def groupAt (ra : Nat) : Nat := ra / 8192

/-- The canonical form of the banks: in each table the keys strictly rise and no pair holds what an unlisted key reads, so
that equal contents are equal data. -/
def storeWf (s : Store) : Bool :=
  tcanon zeroWords s.rows && tcanon 0 s.rstate && tcanon none s.pwb && tcanon false s.told

/-- `f` with its banks put through `g`. -/
def onStore (f : Fab) (g : Store → Store) : Fab := { f with store := g f.store }

/-- The 17 stored bits of the eight rows of `ra` (R242). -/
def stateWord (s : Store) (ra : Nat) : BitVec 17 := tget 0 s.rstate (ra / 8)

/-- State of a row as stored (R52). -/
def rawState (s : Store) (ra : Nat) : Nat := fld (stateWord s ra) (2 * (ra % 8)) 2

/-- The 16 state bits with their parity bit: an even number of ones (log 12). -/
def withParity (v : Nat) : BitVec 17 := pack 17 [(16, v), (1, (oddOnes 16 v).toNat)]

/-- A row's state written, with fresh parity. -/
def setState (ra st : Nat) (s : Store) : Store :=
  let w := putf (stateWord s ra) (2 * (ra % 8)) 2 st
  { s with rstate := tset 0 s.rstate (ra / 8) (withParity (w.toNat % 2 ^ 16)), told := tset false s.told ra false }

/-- The array read at a row (R55, R242): bad parity makes all eight rows POISONED; a reserved state is reported once. -/
def checkState (ra : Nat) (f : Fab) : Fab :=
  let w := stateWord f.store ra
  if oddOnes 17 w.toNat then
    let f := onStore f fun s => { s with rstate := tset 0 s.rstate (ra / 8) (withParity 0xAAAA) }
    raise 0x12 (place [(8, ra / 8 * 8), (32, 1)]) (countGroup (groupAt ra) 7 1 f)
  else if rawState f.store ra = 3 && !(tget false f.store.told ra) then
    raise 0x12 (place [(8, ra)]) (onStore f fun s => { s with told := tset false s.told ra true })
  else f

/-- Stored words of a row in the array. -/
def arrayWords (s : Store) (ra : Nat) : List Code := tget zeroWords s.rows ra

/-- The posted write buffer of a row's bank, when it holds that row. -/
def bufferOf (s : Store) (ra : Nat) : Option Pwb :=
  match tget none s.pwb (bankOf ra) with
  | some b => if b.row = ra % 256 then some b else none
  | none => none

/-- Words with those of `new` where the mask holds. -/
def overlay (old new : List Code) (mask : BitVec 36) : List Code :=
  (List.range 36).map fun w => if bitAt mask w then new.getD w 0 else old.getD w 0

/-- Words of a row as the read-modify-write path sees them: buffered contents where held (R108). -/
def rmwWords (s : Store) (ra : Nat) : List Code :=
  match bufferOf s ra with
  | some b => overlay (arrayWords s ra) b.words b.mask
  | none => arrayWords s ra

/-- Words held by a write of the group's other port (R109). -/
def heldMask (s : Store) (ra p : Nat) : BitVec 36 :=
  match bufferOf s ra with
  | some b => if b.port = p then 0 else b.mask
  | none => 0

/-- A bank retired (R248, R250, R252): its entry, its mask bit, the count and the event. -/
def retireBank (b : Nat) (byMarch byMask : Bool) (f : Fab) : Fab :=
  let f := { f with integ := { f.integ with alloc := tset 0 f.integ.alloc b 2, retired := putBit f.integ.retired b true } }
  raise 0x13 (place [(0, b), (16, (tget 0 f.integ.ueCount b).toNat), (24, byMarch.toNat), (25, byMask.toNat)])
    (countInst 0x18 1 f)

/-- One fresh uncorrectable error in a bank (R248). -/
def freshError (b : Nat) (f : Fab) : Fab :=
  let n := min 255 ((tget 0 f.integ.ueCount b).toNat + 1)
  let f := { f with integ := { f.integ with ueCount := tset 0 f.integ.ueCount b (BitVec.ofNat 8 n) } }
  if f.integ.retireAt.toNat ≤ n && tget 0 f.integ.alloc b != 2 then retireBank b false false f else f

/-- An error log entry (R243) and its event: kind 0 CORRECTED, 1 UNCORRECTABLE; source and port as given. -/
def logError (ra word syn kind source port : Nat) (told : Bool) (f : Fab) : Fab :=
  let e : BitVec 64 := pack 64 [(17, ra), (6, word), (9, syn), (2, kind), (3, source), (5, port), (6, 0),
    (16, f.integ.logSeq.toNat)]
  let f := { f with integ := { f.integ with
    log := tset 0 f.integ.log f.integ.logHead.toNat e
    logHead := BitVec.ofNat 8 ((f.integ.logHead.toNat + 1) % 16)
    logCount := if f.integ.logCount = 0xFFFFFFFF then f.integ.logCount else f.integ.logCount + 1
    logSeq := f.integ.logSeq + 1 } }
  let f := countGroup (groupAt ra) (1 + kind) 1 f
  if told then raise (0x10 + kind) e.toNat f else f

/-- A row placed in its group's repair queue of 16 (R237). -/
def queueRepair (ra : Nat) (f : Fab) : Fab :=
  let q := tget [] f.integ.repairs (groupAt ra)
  if !f.integ.repairOn || q.contains ra then f
  else if 16 ≤ q.length then countGroup (groupAt ra) 6 1 f
  else { f with integ := { f.integ with repairs := tset [] f.integ.repairs (groupAt ra) (q ++ [ra]) } }

/-- A row taken out of its group's repair queue. -/
def dropRepair (ra : Nat) (f : Fab) : Fab :=
  { f with integ := { f.integ with
    repairs := tset [] f.integ.repairs (groupAt ra) ((tget [] f.integ.repairs (groupAt ra)).filter (· ≠ ra)) } }

/-- Words of a list with their index, those of `skip` left out. -/
def checkedWords (ws : List Code) (skip : BitVec 36) : List (Nat × Code) :=
  ((List.range 36).zip ws).filter fun e => !bitAt skip e.1

/-- The log, counts and events of a checked read of a row that was POISONED (`was`) or not (R237, R243). -/
def reportWords (ra source port : Nat) (was : Bool) (ws : List (Nat × Code)) (f : Fab) : Fab :=
  let f := each ws (fun f e =>
    match classOf e.2 with
    | .correctable => logError ra e.1 (syndromeOf e.2) 0 source port true f
    | .uncorrectable => logError ra e.1 (syndromeOf e.2) 1 source port true f
    | .poison => countGroup (groupAt ra) 3 1 f
    | .clean => f) f
  when (!was && ws.any fun e => classOf e.2 = .uncorrectable) (freshError (bankOf ra)) f

/-- What a read hands on: the row, its poison mark and its bleat mark. -/
structure Got where
  row : Row
  poison : Bool
  bleat : Bool
deriving DecidableEq, Repr

/-- A read of a row through port p for requester `req` (R57, R58, R109, R237). -/
def readRow (p req ra : Nat) (f : Fab) : Got × Fab :=
  let f := checkState ra f
  let st := rawState f.store ra
  if st = 0 then
    let f := countPort p 0x0D 1 f
    (⟨blankRow, false, false⟩, raise 8 (place [(0, p), (8, ra), (32, req)]) f)
  else
    let ws := rmwWords f.store ra
    let skip := heldMask f.store ra p
    let seen := checkedWords ws skip
    let f := reportWords ra 0 p (st != 1) seen f
    let bad := seen.any fun e => classOf e.2 = .uncorrectable
    let f := when (st = 1 && bad) (fun f => onStore f (setState ra 2)) f
    let f := when (seen.any fun e => classOf e.2 = .correctable) (queueRepair ra) f
    let free := if skip = 0 then (0, f) else takeFree f
    let f := free.2
    let data := (List.range 36).map fun w => if bitAt skip w then fld free.1 (128 * w) 128 else deliveredData (ws.getD w 0)
    let poison := st != 1 || bad || seen.any fun e => classOf e.2 = .poison
    (⟨rowOfWords data, poison, skip != 0⟩, f)

/-- A beat returned with `BLEAT` set (R109, R112, R383): counted once, the port's bleat signal low, the event with the row whose
held words it read. -/
def noteBleat (p req ra : Nat) (bleat : Bool) (f : Fab) : Fab :=
  when bleat (fun f =>
    raise 9 (place [(0, p), (8, ra), (32, req)]) (countPort p 0x0C 1 (onPort f p fun x => { x with bleat := true }))) f

/-- The format check of a read (R38). -/
def checkTag (p req ra : Nat) (fmt : Nat) (state : Nat) (r : Row) (f : Fab) : Fab :=
  if state = 0 || tagOf r = fmt then f
  else raise 7 (place [(0, p), (8, ra), (32, req), (48, tagOf r), (56, fmt)]) (countPort p 0x13 1 f)

/-- The lane bytes that a write of `rb` data bytes under format `g` sets (R35, R54). -/
def laneMask (g rb : Nat) : Nat :=
  let k := rb / groupBytes g
  let u := rb * 8 / widthOf g / 8
  let slot := fun b => decide (b < k) || decide (groupsOf g ≤ b)
  let sub := fun u0 => decide (u0 < u) || decide (subsOf g ≤ u0)
  unslice 1 ((List.range 64).map fun b =>
    (if b < 16 then slot b
     else if b < 32 then (if fmtMicro g then sub (64 + 4 * (b - 16)) else slot b)
     else if b < 48 then (if fmtMicro g then sub (4 * (b - 32)) else true)
     else true).toNat)

/-- The 576 bytes that a tile write sets: its data bytes and its lane bytes. -/
def tileMask (g rb : Nat) : Nat := if rb = 512 then 2 ^ 576 - 1 else 2 ^ rb - 1 + laneMask g rb * 2 ^ 512

/-- How much of word w a byte mask covers: none, part or all of its 16 bytes. -/
def coverOf (bm w : Nat) : Nat := bm / 2 ^ (16 * w) % 2 ^ 16

/-- The 128-bit mask of a 16-byte mask. -/
def wideMask (m : Nat) : Nat := unslice 8 ((slices 1 16 m).map fun b => b * 255)

/-- A word's data with the covered bytes of `new` over `old`. -/
def mergeWord (m old new : Nat) : Nat :=
  let w := wideMask m
  (new &&& w) ||| (old &&& (2 ^ 128 - 1 - w))

/-- The write needs a merge (R238): a word covered in part, or a POISONED row not covered whole. -/
def needsMerge (bm : Nat) (poisoned : Bool) : Bool :=
  (List.range 36).any (fun w => coverOf bm w != 0 && coverOf bm w != 0xFFFF) || (poisoned && bm != 2 ^ 576 - 1)

/-- An armed ECC injection on a write of row `ra` that stores word `WORD` (R297 kinds 1 and 2). -/
def injectWords (ra : Nat) (mask : BitVec 36) (ws : List Code) (f : Fab) : List Code × Fab :=
  let k := injKind f
  if (k = 1 || k = 2) && injTarget f = ra && bitAt mask (injWord f) then
    let w := injWord f
    let c := ws.getD w 0
    let c := flipBit c (injBit f)
    let c := if k = 2 then flipBit c ((injBit f + 1) % 137) else c
    (ws.set w c, injFired f)
  else (ws, f)

/-- All 36 words of a row stored in the array without the posted write buffer: ZEROIZE and the march engines (R251, R252, R297,
R317). -/
def storeRow (ra : Nat) (ws : List Code) (f : Fab) : Fab :=
  let i := injectWords ra (BitVec.allOnes 36) ws f
  onStore i.2 fun s => { s with rows := tset zeroWords s.rows ra i.1 }

/-- Words accepted into the bank's posted write buffer, and the row's state with them (R56, R107). -/
def postWords (p ra : Nat) (ws : List Code) (mask : BitVec 36) (state : Nat) (f : Fab) : Fab :=
  let i := injectWords ra mask ws f
  onStore i.2 fun s =>
    let s := setState ra state s
    let b : Pwb := match bufferOf s ra with
      | some b => ⟨b.id, ra % 256, overlay b.words i.1 mask, b.mask ||| mask, p⟩
      | none => ⟨s.posted, ra % 256, i.1, mask, p⟩
    { s with pwb := tset none s.pwb (bankOf ra) (some b), posted := s.posted + 1 }

/-- A posted write buffer can take a write of row `ra`: it is empty, or holds that row and the write goes through the
read-modify-write path (R107, R239). -/
def bufferTakes (s : Store) (ra : Nat) (rmw : Bool) : Bool :=
  match tget none s.pwb (bankOf ra) with
  | none => true
  | some b => rmw && decide (b.row = ra % 256)

/-- The buffered row of a bank written into the array (R107). -/
def retireBuffer (b : Nat) (s : Store) : Store :=
  match tget none s.pwb b with
  | none => s
  | some w =>
    let ra := 256 * b + w.row
    { s with rows := tset zeroWords s.rows ra (overlay (arrayWords s ra) w.words w.mask), pwb := tset none s.pwb b none }

/-- What a merge stores for word w found as `c` (R240): clean, or with the poison syndrome. -/
def mergedWord (bm w : Nat) (c : Code) (new : Nat) : Code :=
  let m := coverOf bm w
  if m = 0xFFFF then encodeWord new
  else
    match classOf c with
    | .clean => encodeWord (mergeWord m (dataOf c) new)
    | .correctable => encodeWord (mergeWord m (deliveredData c) new)
    | _ => poisonWord (mergeWord m (dataOf c) new)

/-- The log, counts and events of a merge (R240): a word covered whole raises no uncorrectable-error event. -/
def reportMerge (ra port : Nat) (was : Bool) (bm : Nat) (ws : List Code) (f : Fab) : Fab :=
  let l := (List.range 36).zip ws
  let f := each l (fun f e =>
    match classOf e.2 with
    | .correctable => logError ra e.1 (syndromeOf e.2) 0 1 port true f
    | .uncorrectable => logError ra e.1 (syndromeOf e.2) 1 1 port (coverOf bm e.1 != 0xFFFF) f
    | .poison => countGroup (groupAt ra) 3 1 f
    | .clean => f) f
  when (!was && ws.any fun c => classOf c = .uncorrectable) (freshError (bankOf ra)) f

/-- A row that a write has left without a CORRECTABLE word leaves its group's repair queue (R237). -/
def settleRepair (ra : Nat) (f : Fab) : Fab :=
  if (tget [] f.integ.repairs (groupAt ra)).contains ra && (rmwWords f.store ra).all fun c => classOf c != .correctable then
    dropRepair ra f
  else f

/-- Bytes `bm` of a row written through port p (R35, R53 to R56, R238 to R241).  `fresh` is the whole row to write
where the row is UNWRITTEN; `poison` writes every word with the poison syndrome. -/
def writeRow (p ra : Nat) (new fresh : Row) (bm : Nat) (poison : Bool) (f : Fab) : Fab :=
  let f := checkState ra f
  let st := rawState f.store ra
  let all : BitVec 36 := BitVec.allOnes 36
  if st = 0 then
    if poison then postWords p ra (poisonRow fresh) all 2 f else postWords p ra (encodeRow fresh) all 1 f
  else if bm = 2 ^ 576 - 1 then
    settleRepair ra (if poison then postWords p ra (poisonRow new) all 2 f else postWords p ra (encodeRow new) all 1 f)
  else if needsMerge bm (st != 1) || poison then
    let ws := rmwWords f.store ra
    let f := reportMerge ra p (st != 1) bm ws f
    let f := countGroup (groupAt ra) 4 1 f
    let nw := wordsOf new
    let out := (List.range 36).map fun w => mergedWord bm w (ws.getD w 0) (nw.getD w 0)
    let out := if st = 3 then (List.range 36).map fun w =>
        if coverOf bm w = 0xFFFF then out.getD w 0 else poisonWord (dataOf (out.getD w 0))
      else out
    let out := if poison then out.map fun c => poisonWord (dataOf c) else out
    let state := if st = 3 || poison || out.any (fun c => classOf c = .poison) then 2 else 1
    settleRepair ra (postWords p ra out all state f)
  else
    let mask : BitVec 36 := BitVec.ofNat 36 (unslice 1 ((List.range 36).map fun w => (coverOf bm w == 0xFFFF).toNat))
    settleRepair ra (postWords p ra (encodeRow new) mask 1 f)

/-- A tile row written by an instruction (R35, R54): its row under format `g` with `rb` data bytes. -/
def writeTile (p ra g rb : Nat) (r : Row) (poison : Bool) (f : Fab) : Fab := writeRow p ra r r (tileMask g rb) poison f

/-- A row as a copy writes it under format `g` (R35): data, exponents and micro-offsets of the tile, with the
bookkeeping given. -/
def copyRow (g rb : Nat) (r : Row) (contrib epoch : Nat) : Row :=
  let p := takeApart g r
  let n := rb * 8 / widthOf g
  putTogether g ⟨p.elems.take n, p.exps.take (rb / groupBytes g), p.micros.take (n / 8)⟩ contrib epoch

/-- CLEAR of a row (R15): only its entry of the row state array. -/
def clearRow (ra : Nat) (f : Fab) : Fab := dropRepair ra (onStore (checkState ra f) (setState ra 0))

/-- An incoming contribution (R139). -/
structure Contribution where
  parts : Parts
  tag : Nat
  epoch : Nat
  fmt : Nat
  round : Nat
  headroom : Bool
  bytes : Nat
deriving DecidableEq, Repr

/-- How a contribution ended. -/
inductive AccEnd where
  | added | repeated | poisoned
deriving DecidableEq, Repr

/-- A contribution applied to row `ra` through port p (R138 to R143). -/
def accumulate (p req ra : Nat) (c : Contribution) (f : Fab) : AccEnd × Fab :=
  let f := checkState ra f
  let st := rawState f.store ra
  let ws := rmwWords f.store ra
  let seen := checkedWords ws 0
  let f := when (st != 0) (reportWords ra 2 p (st != 1) seen) f
  let bad := st != 0 && seen.any fun e => classOf e.2 = .uncorrectable
  let f := when (st = 1 && bad) (fun f => onStore f (setState ra 2)) f
  let f := when (st != 0 && seen.any fun e => classOf e.2 = .correctable) (queueRepair ra) f
  if 2 ≤ st || bad || (st = 1 && seen.any fun e => classOf e.2 = .poison) then
    (.poisoned, raise 0x0F (place [(0, p), (8, ra), (32, c.tag), (40, c.epoch)]) (countPort p 0x1A 1 f))
  else
    let old := if st = 0 then blankRow else rowOfWords (ws.map deliveredData)
    let touch := st = 1 && epochOf old != c.epoch
    let f := when touch (countPort p 0x16 1) f
    let set := if st = 0 || touch then 0 else contribOf old
    if set.testBit c.tag then (.repeated, countPort p 0x15 1 f)
    else
      let f := checkTag p req ra c.fmt st old f
      let a := accRow c.fmt (c.bytes / groupBytes c.fmt) c.round c.headroom (takeApart c.fmt old) c.parts (portOf f p).lfsr
      let r := putTogether c.fmt a.parts (set ||| 2 ^ c.tag) c.epoch
      let f := onPort f p fun x => { x with lfsr := a.lfsr }
      let f := countPort p 0x19 a.expSat (countPort p 0x18 a.saturated (countPort p 0x17 a.headroom f))
      let f := countPort p 0x14 1 f
      (.added, settleRepair ra (postWords p ra (encodeRow r) (BitVec.allOnes 36) 1 f))

/-- Counts of rows in each state (R286): UNWRITTEN, WRITTEN, POISONED. -/
def rowCounts (s : Store) : Nat × Nat × Nat :=
  let l := s.rstate.flatMap fun e => slices 2 8 (e.2.toNat % 2 ^ 16)
  let w := (l.filter (· == 1)).length
  let p := (l.filter fun v => decide (2 ≤ v)).length
  (131072 - w - p, w, p)

end Sys2Proof.Machine
end

