-- ==== Sys2Proof/Machine/Groups.lean ====
section
/-!
DEFINITION. Endpoint groups and who latches or supplies which quarter (R116, R117, R134), and the notices of the endpoint
status channel (R124, R378), and the row that an OP presents to the crossbar (R113 to R115).
-/

namespace Sys2Proof.Machine

/-- Members of a group entry, ascending (R117). -/
def memberList (g : BitVec 288) : List Nat := onesList g.toNat (List.range 256)

/-- Slot e belongs to a full-wide endpoint (R116, R147). -/
def fullWide (f : Fab) (c e : Nat) : Bool := bitAt (tget 0 f.prm.fullWide c) (e / 4)

/-- Slot e is populated (R116, R147). -/
def populated (f : Fab) (c e : Nat) : Bool := !bitAt (tget 0 f.prm.empty c) e

/-- The endpoint at slot e is not marked unresponsive (R125). -/
def responsive (f : Fab) (c e : Nat) : Bool := !bitAt (clusterOf f c).unresp e

/-- Quarter that a quarter-wide member at slot e latches (R117). -/
def quarterAt (f : Fab) (c : Nat) (g : BitVec 288) (e : Nat) : Nat :=
  match fld g 256 2 with
  | 0 => e % 4
  | 1 => ((memberList g).filter fun m => decide (m < e) && !fullWide f c m).length % 4
  | _ => fld g 258 2

/-- Quarters that member e latches. -/
def quartersAt (f : Fab) (c : Nat) (g : BitVec 288) (e : Nat) : List Nat :=
  if fullWide f c e then [0, 1, 2, 3] else [quarterAt f c g e]

/-- Responsive members of a group. -/
def responders (f : Fab) (c : Nat) (g : BitVec 288) : List Nat := (memberList g).filter (responsive f c)

/-- Supplier of quarter q: the lowest responsive member that latches it (R134). -/
def supplierOf (f : Fab) (c : Nat) (g : BitVec 288) (q : Nat) : Option Nat :=
  (responders f c g).find? fun e => (quartersAt f c g e).contains q

/-- Quarters a collect needs (R134). -/
def neededQuarters (d : Desc) : Nat := (dBytes d + 127) / 128

/-- Suppliers of a collect's quarters, in quarter order. -/
def suppliersOf (f : Fab) (c : Nat) (g : BitVec 288) (d : Desc) : List (Option Nat) :=
  (List.range (neededQuarters d)).map (supplierOf f c g)

/-- Clusters a mask selects, ascending. -/
def clustersOf (m : BitVec 16) : List Nat := bitsSet m

/-- `CLc_S_DATA` (R378). -/
def noticeData (code q seq rowsM1 rbM1 fmt slot : Nat) : BitVec 50 :=
  pack 50 [(4, code), (8, q), (6, seq), (8, rowsM1), (4, rbM1), (8, fmt), (8, slot), (4, 0)]

/-- A notice sent to slots of a cluster, those marked unresponsive left out (R124, R125). -/
def notify (c : Nat) (slots : List Nat) (data : BitVec 50) (qmask : Nat → BitVec 4) (f : Fab) : Fab :=
  each (slots.filter (responsive f c)) (fun f e => emit f (.notice c e data (qmask e))) f

/-- Clusters that the head of OP p's pipeline is bound for. -/
def headMask (f : Fab) (p : Nat) : BitVec 16 :=
  match (portOf f p).pipe with
  | r :: _ => r.mcast
  | [] => 0

/-- Presentation order of the head of OP p's pipeline. -/
def headShown (f : Fab) (p : Nat) : Option Nat :=
  match (portOf f p).pipe with
  | r :: _ => r.shown
  | [] => none

/-- The crossbar can move the head of OP p now (R113, R114): every selected cluster's buffer has room, and no older beat
waits for one of those links. -/
def canCross (f : Fab) (p : Nat) : Bool :=
  match headShown f p with
  | none => false
  | some n =>
    let mine := headMask f p
    let older := (List.range 16).any fun o => o != p && (headMask f o &&& mine) != 0 && match headShown f o with
      | some m => decide (m < n)
      | none => false
    (clustersOf mine).all (fun c => decide ((clusterOf f c).dbuf.length < 2)) && !older

/-- The row at the head of OP p's pipeline is presented to the crossbar (R113), and counted when it cannot move at its
first presentation (R115). -/
def presentHead (p : Nat) (f : Fab) : Fab :=
  match (portOf f p).pipe with
  | [] => f
  | r :: t =>
    if r.shown.isSome then f
    else
      let f := { f with shown := f.shown + 1 }
      let f := onPort f p fun x => { x with pipe := { r with shown := some (f.shown - 1) } :: t }
      if canCross f p then f
      else countPort p 0x1B 1 (onPort f p fun x => { x with pipe := x.pipe.modifyHead fun r => { r with waited := true } })

end Sys2Proof.Machine
end

