-- ==== Sys2Proof/Machine/Resmap.lean ====
section
/-!
DEFINITION. The residency map: entries as stored (R206, R207), resolution (R208, R209), map changes and their epochs
(R76 to R79, R210, R213), and how long an entry drains.
-/

namespace Sys2Proof.Machine

/-- Stored code word of entry i (R207). -/
def mapCode (f : Fab) (i : Nat) : Code := tget 0 f.map.entries i
/-- `f` with the code word of entry i. -/
def setMapCode (i : Nat) (c : Code) (f : Fab) : Fab := { f with map := { f.map with entries := tset 0 f.map.entries i c } }
/-- Entry i written: bit 63 is not stored (R206, R207). -/
def putEntry (i : Nat) (e : BitVec 128) (f : Fab) : Fab := setMapCode i (encodeWord (putBit e 63 false).toNat) f
/-- Data bits of entry i as stored. -/
def entryBits (f : Fab) (i : Nat) : BitVec 128 := BitVec.ofNat 128 (dataOf (mapCode f i))

/-- Fields of an entry (R206). -/
def eValid (e : BitVec 128) : Bool := bitAt e 0
def eIsStack (e : BitVec 128) : Bool := bitAt e 1
def eHealth (e : BitVec 128) : Nat := fld e 2 2
def eOscale (e : BitVec 128) : Nat := fld e 4 4
def eStream (e : BitVec 128) : Nat := fld e 8 24
def eEpoch (e : BitVec 128) : Nat := fld e 32 16
def eTouch (e : BitVec 128) : Nat := fld e 48 8
def eInst (e : BitVec 128) : Nat := fld e 64 16
def eBank (e : BitVec 128) : Nat := fld e 80 9
def eRow (e : BitVec 128) : Nat := fld e 89 8
def eAddr (e : BitVec 128) : Nat := fld e 64 38
def eStack (e : BitVec 128) : Nat := fld e 102 4
def ePack (e : BitVec 128) : Bool := bitAt e 106

/-- A read of entry i (R207): corrected and written back, or lost. -/
def readEntry (i : Nat) (f : Fab) : BitVec 128 × Fab :=
  let c := mapCode f i
  let hit := injKind f == 8 && injTarget f == i
  let f := when hit injFired f
  match hit, classOf c with
  | false, .clean => (BitVec.ofNat 128 (dataOf c), f)
  | false, .correctable =>
    let e : BitVec 128 := BitVec.ofNat 128 (deliveredData c)
    (e, countInst 0x12 1 (putEntry i e f))
  | _, _ =>
    let lost : BitVec 128 := pack 128 [(2, 0), (2, 2)]
    let f := countInst 0x13 1 (putEntry i lost f)
    let id := eStream (BitVec.ofNat 128 (dataOf c))
    let shown := if !hidden f then id else if f.sec.keyValid then streamHash f.sec.key id else 0
    (lost, raiseWith 4 0x1F (place [(0, i), (32, shown)]) (hidden f) f)

/-- Entry i drains: a change of it has taken effect and not completed (R77). -/
def draining (f : Fab) (i : Nat) : Bool := f.map.changes.any fun c => c.entries.contains i

/-- A MIGRATE that has not completed holds entry i (R186). -/
def migrating (f : Fab) (i : Nat) : Bool := f.lop.migs.any fun m => m.entries.any fun e => e.ridx == i

/-- Every descriptor in flight with its queue (R73). -/
def allFlights (f : Fab) : List (Nat × Flight) := f.queues.flatMap fun e => e.2.flights.map fun x => (e.1, x)

/-- Map opcode. -/
def isMapOp (d : Desc) : Bool := dOp d == 11 || dOp d == 12

/-- The epoch value still tags something in flight (R78). -/
def epochTagged (f : Fab) (t : BitVec 16) : Bool :=
  (allFlights f).any (fun e => e.2.meTag == t) || f.map.changes.any (fun c => c.tag == t)
    || f.lop.migs.any fun m => m.meTag == t

/-- A map change of these entries has to wait (R78, R186, R212). -/
def changeWaits (f : Fab) (l : List Nat) : Bool :=
  l.any (fun i => draining f i || migrating f i) || epochTagged f (f.map.epoch + 1)

/-- How far behind ME a tag stands. -/
def tagAge (f : Fab) (t : BitVec 16) : Nat := (f.map.epoch - t).toNat

/-- The oldest map change may complete: nothing tagged before it took effect remains in flight (R77). -/
def oldestChangeDone (f : Fab) : Option MapChange :=
  match f.map.changes with
  | [] => none
  | c :: _ =>
    let age := tagAge f c.tag
    if (allFlights f).any (fun e => !isMapOp e.2.desc && decide (age ≤ tagAge f e.2.meTag))
        || f.lop.migs.any (fun m => decide (age ≤ tagAge f m.meTag)) then none
    else some c

/-- Entries neither valid nor draining (R213). -/
def freeEntries (f : Fab) : Nat :=
  let valid := f.map.entries.filter fun e => eValid (BitVec.ofNat 128 (dataOf e.2))
  let drain := (f.map.changes.flatMap fun c => c.entries).filter fun i => !eValid (entryBits f i)
  131072 - valid.length - drain.length

/-- MAP_LOW, once per downward crossing of `FREE_LOW` (R213). -/
def mapLow (before : Nat) (f : Fab) : Fab :=
  let n := freeEntries f
  if f.map.freeLow.toNat ≤ before && n < f.map.freeLow.toNat then
    raise 0x20 (place [(0, n), (32, f.map.freeLow.toNat)]) f
  else f

/-- A map change takes effect (R77): its entries are written with the new ME, and ME advances by one. -/
def takeEffect (who : ChangeBy) (writes : List (Nat × BitVec 128)) (f : Fab) : Fab :=
  let before := freeEntries f
  let me := f.map.epoch
  let f := each writes (fun f w => putEntry w.1 (putf w.2 32 16 (me + 1).toNat) f) f
  let f := { f with map := { f.map with epoch := me + 1
                                        changes := f.map.changes ++ [⟨who, (writes.map (·.1)).dedup, me⟩] } }
  mapLow before f

/-- The entry a MAP_SET writes, but for its epoch (R79, R210). -/
def mapSetBits (f : Fab) (d : Desc) : BitVec 128 :=
  let o := dSrc d
  if kindOf o = 4 then
    pack 128 [(1, 1), (1, 1), (2, 0), (4, dOscale d), (24, dStream d), (32, 0), (38, oAddr o), (4, oStack o),
      (1, (oPack o).toNat)]
  else
    pack 128 [(1, 1), (1, 0), (2, 0), (4, dOscale d), (24, dStream d), (32, 0), (16, directInst f o), (9, oBank o),
      (8, oRow o)]

/-- A stack port is UP for a stack of this instance (R191, R208). -/
def stackUp (f : Fab) (s : Nat) : Bool :=
  match servingPort f s with
  | some k => (kportOf f k).st = .up
  | none => false

/-- Logical rows a tile reaches beyond its first: `ROWS_M1`, one more under a rotate (R68). -/
def reachOf (d : Desc) : Nat := dRows d - 1 + (dOp d == 1 && dRotate d != 0).toNat

/-- An operand resolved (R208): none when the entry fails.  An instance of the domain is one whose die is below N (R27, R28;
log 101). -/
def resolveOne (isDst : Bool) (d : Desc) (o : BitVec 64) (f : Fab) : Option Loc × Fab :=
  match kindOf o with
  | 1 => (some (.bank (directInst f o) (oBank o) (oRow o) 0), f)
  | 4 => (some (.stack (oStack o) (oAddr o) 0 (oPack o)), f)
  | 3 =>
    let r := readEntry (oRidx o) f
    let e := r.1
    let f := r.2
    let j0 := oRoff o * 2 ^ eOscale e
    let wantStack := (dOp d == 6 && !isDst) || (dOp d == 7 && isDst)
    let anywhere := isDst && (dOp d == 3 || dOp d == 5) && decide (eInst e % 8 < f.prm.dies)
    let good := eValid e && eHealth e == 0 && eIsStack e == wantStack
    if wantStack then
      let fitsIn := decide (eAddr e + (j0 + dRows d) * strideOf (ePack e) (dSrcFmt d) (dBytes d) ≤ stackBytes f (eStack e))
      (if good && stackUp f (eStack e) && fitsIn then some (.stack (eStack e) (eAddr e) j0 (ePack e)) else none, f)
    else
      let here := anywhere || eInst e == (instanceId f).toNat
      let placed := placeOk (eBank e) (eRow e) (stripeOf (dStripe d)) (j0 + reachOf d)
      (if good && here && placed then some (.bank (eInst e) (eBank e) (eRow e) j0) else none, f)
  | _ => (some .none, f)

/-- One more resolution of entry i counted (R209). -/
def touchEntry (i : Nat) (f : Fab) : Fab :=
  let e := entryBits f i
  countInst 0x0F 1 (putEntry i (putf e 48 8 (min 255 (eTouch e + 1))) f)

/-- Both operands resolved in one step (R76, R208, R209): their places, or the bit of the first that failed.  In the
fall-back arrangement a MOVE between groups does not suit its destination (R256, R343; log 13). -/
def resolveBoth (d : Desc) (f : Fab) : (Loc × Loc ⊕ Nat) × Fab :=
  let a := resolveOne false d (dSrc d) f
  let b := resolveOne true d (dDst d) a.2
  let f := b.2
  let cross := match a.1, b.1 with
    | some (.bank _ x _ _), some (.bank _ y _ _) => fallback f && dOp d == 4 && x / 32 != y / 32
    | _, _ => false
  let dst := if cross then none else b.1
  match a.1, dst with
  | some x, some y => (.inl (x, y), f)
  | x, y =>
    let f := countInst 0x10 (x.isNone.toNat + y.isNone.toNat) f
    (.inr (if x.isNone then 64 else 128), f)

/-- The resolutions of an issued descriptor counted (R209). -/
def touchBoth (d : Desc) (f : Fab) : Fab :=
  when (kindOf (dDst d) == 3 && !isMapOp d) (touchEntry (oRidx (dDst d)))
    (when (kindOf (dSrc d) == 3) (touchEntry (oRidx (dSrc d))) f)

/-- An entry as a read of it shows it: with `DRAINING` (R206). -/
def shownEntry (f : Fab) (i : Nat) (e : BitVec 128) : BitVec 128 := putBit e 63 (draining f i)

end Sys2Proof.Machine
end

