-- ==== Sys2Proof/Machine/Records.lean ====
section
/-!
DEFINITION. Handles, completion records and what stands for a long operation between its acceptance and its record
(R308 to R313).
-/

namespace Sys2Proof.Machine

/-- `f` with its long operations put through `g`. -/
def onLop (f : Fab) (g : LongOps → LongOps) : Fab := { f with lop := g f.lop }

/-- Status codes (R313). -/
def sOk : Nat := 0
def sPartial : Nat := 1
def sState : Nat := 2
def sSecurity : Nat := 3
def sTemperature : Nat := 4
def sQueued : Nat := 5
def sAborted : Nat := 6
def sFault : Nat := 7
def sTimeout : Nat := 8
def sBorrowed : Nat := 9
def sMapFull : Nat := 0x0A

/-- The handle is outstanding (R308). -/
def outstanding (f : Fab) (h : BitVec 16) : Bool := f.lop.ops.any fun o => o.handle == h

/-- The first handle after `h` that may be issued: not 0x0000 and not outstanding (R308); `fuel` is more than the 64 that
can stand in the way. -/
def nextHandle (f : Fab) : Nat → BitVec 16 → BitVec 16
  | 0, h => h + 1
  | n + 1, h => if h + 1 = 0 || outstanding f (h + 1) then nextHandle f n (h + 1) else h + 1

/-- A handle issued for an operation (R308); none when 64 are outstanding. -/
def takeHandle (opcode : Nat) (self : Bool) (f : Fab) : Option (BitVec 16) × Fab :=
  if 64 ≤ f.lop.ops.length then (none, f)
  else
    let h := nextHandle f 70 f.lop.last
    (some h, onLop f fun l => { l with last := h, ops := l.ops ++ [⟨h, BitVec.ofNat 8 opcode, none, self⟩] })

/-- What POLL reports for an operation while it waits (R310). -/
def setPending (h : BitVec 16) (st : Option Nat) (f : Fab) : Fab :=
  onLop f fun l => { l with ops := l.ops.map fun o =>
    if o.handle = h then { o with pending := st.map (BitVec.ofNat 8) } else o }

/-- An operation completes (R311, R312): its record, the end of its handle, LONG_OP_DONE. -/
def completeWith (h : BitVec 16) (status r0 r1 r2 r3 : Nat) (followed : Bool) (f : Fab) : Fab :=
  match f.lop.ops.find? fun o => o.handle == h with
  | none => f
  | some o =>
    let st := takeStamp f
    let f := st.2
    let r : BitVec 256 := pack 256 [(16, h.toNat), (8, o.opcode.toNat), (8, status), (1, followed.toNat),
      (1, o.self.toNat), (30, 0), (64, st.1.toNat), (32, r0), (32, r1), (32, r2), (32, r3)]
    let f := onLop f fun l => { l with ring := tset 0 l.ring l.head.toNat r
                                       head := BitVec.ofNat 8 ((l.head.toNat + 1) % 64)
                                       ops := l.ops.filter fun o => o.handle != h }
    raise 1 (place [(0, h.toNat), (16, o.opcode.toNat), (24, status), (32, followed.toNat), (64, r0 % 2 ^ 32),
      (96, r1 % 2 ^ 32)]) f

/-- The same without `FOLLOWED`. -/
def completeOp (h : BitVec 16) (status r0 r1 r2 r3 : Nat) (f : Fab) : Fab := completeWith h status r0 r1 r2 r3 false f

end Sys2Proof.Machine
end

