-- ==== Sys2Proof/Machine/Rounds.lean ====
section
/-!
DEFINITION. Rounds and windows of a port (R17, R18, R93, R99, R111), and the end of a burst, whether it stands or is
discarded (R101, R102, R227, R229).
-/

namespace Sys2Proof.Machine

/-- A flight of queue q put through `g`. -/
def onFlight (q ord : Nat) (g : Flight → Flight) (f : Fab) : Fab :=
  onQueue f q fun x => { x with flights := x.flights.map fun y => if y.ord = ord then g y else y }

/-- The flight with this order in queue q. -/
def flightOf (f : Fab) (q ord : Nat) : Option Flight := (queueOf f q).flights.find? fun x => x.ord == ord

/-- Leg i of a flight put through `g`. -/
def onLeg (i : Nat) (g : Leg → Leg) (x : Flight) : Flight := { x with legs := x.legs.modify i g }

/-- A requester's standing on a port put through `g`. -/
def onReq (p r : Nat) (g : Req → Req) (f : Fab) : Fab :=
  onPort f p fun x => { x with reqs := tset {} x.reqs r (g (tget {} x.reqs r)) }

/-- One SLOT_COMMIT told that port p swaps after `n` more rounds than are counted (R94). -/
def commitStep (p n : Nat) (rounds : Nat) (window : BitVec 64) (c : CommitRun) : CommitRun :=
  if !bitAt c.mask p then c
  else
    let ran := rounds + n - tget 0 c.start p
    let low := !(List.range p).any fun i => bitAt c.mask i
    { c with swapped := putBit c.swapped p true, longest := max c.longest ran, window := if low then window else c.window }

/-- SLOT_COMMITs whose every port has swapped complete (R93, R94). -/
def endCommits (f : Fab) : Fab :=
  let ready := f.lop.commits.filter fun c => c.swapped == c.mask
  let f := onLop f fun l => { l with commits := l.commits.filter fun c => c.swapped != c.mask }
  each ready (fun f c => completeOp c.handle sOk c.mask.toNat c.longest (c.window.toNat % 2 ^ 32) 0 f) f

/-- A window boundary of port p (R93, R99, R111): the window count, quota counts and masks, and a pending commit.
`n` is 1 while round 255 still runs. -/
def boundary (p n : Nat) (f : Fab) : Fab :=
  let f := onPort f p fun x => { x with windows := x.windows + 1, reqs := tmap {} (fun _ r => { r with used := 0 }) x.reqs }
  let x := portOf f p
  match x.commit with
  | none => f
  | some h =>
    let f := onPort f p fun x => { x with active := !x.active, commit := none }
    let step := fun (c : CommitRun) => if c.handle = h then commitStep p n x.rounds x.windows c else c
    endCommits <| onLop f fun l => { l with commits := l.commits.map step }

/-- A round of port p ends, and the round decided meanwhile begins (R17, R95).  A burst of ZEROIZE in IDLE is no round: the position
in the window is held (R18, R357). -/
def finishRound (p : Nat) (f : Fab) : Fab :=
  if f.pwr.st != 0 then onPort f p fun x => { x with cur := .idle, next := none }
  else
  let x := portOf f p
  let f := onPort f p fun x => { x with round := x.round + 1, rounds := x.rounds + 1, cur := x.next.getD .idle, next := none }
  let f :=
    if x.round = 255 then
      if x.wrapped then onPort f p fun x => { x with wrapped := false } else boundary p 0 f
    else f
  let tick := fun (i : Nat) (d : Option DrainRun) => if i = p then d.map fun d => { d with rounds := d.rounds + 1 } else d
  let f := onLop f fun l => { l with drains := tmap none tick l.drains }
  if p = 0 then
    each ((f.queues.filter fun e => e.2.head.onFence).map (·.1)) (fun f q => countQueue q 3 1 f) f
  else f

/-- An empty round of port p ends: one beat time (R18), counted (R112). -/
def finishEmpty (p : Nat) (f : Fab) : Fab :=
  finishRound p (countPort p 8 1 (onPort f p fun x => { x with beatTimes := x.beatTimes + 1 }))

/-- The leg sends rows onto a span, Ibex or stack link (R100). -/
def sendsOut (k : LegKind) : Bool := k == .spanRead || k == .accSend || k == .stackRead

/-- The burst's leg takes back the rows of a discarded burst (R101, R102); a row sent onto a link is not sent twice (R100;
log 22). -/
def takeBack (b : Burst) (f : Fab) : Fab :=
  if b.req < 256 then onFlight b.req b.ord (onLeg b.leg fun l => if sendsOut l.kind then l else { l with next := b.first }) f
  else if b.req = 0x105 then
    let keep := fun (l : MapLoadRun) => { l with recs := l.recs.take (32 * b.first), bad := l.bad.bind fun n => if n < 32 * b.first then some n else none }
    { f with map := { f.map with load := f.map.load.map keep } }
  else if b.req = 0x100 then
    let stream := match tget none f.dom.ctxs b.leg with
      | some c => fld c.req 48 8 == 2
      | none => true
    let back := fun (x : InFlit) => if fld x.bits 26 12 = b.leg then { x with moved := false } else x
    if stream then f else { f with dom := { f.dom with inbound := f.dom.inbound.map back } }
  else f

/-- The burst under way on a port, if any. -/
def burstOf (x : Port) : Option Burst :=
  match x.cur with
  | .burst b => some b
  | _ => none

/-- The burst decided for the next round, if any. -/
def nextBurst (x : Port) : Option Burst :=
  match x.next with
  | some (.burst b) => some b
  | _ => none

/-- A burst discarded before its end: its request stands again with its original age and a guard wait (R101, R227,
R229, R298), and the round ends.  A later burst of the same queue decided behind it does not begin (R218). -/
def discardBurst (p guard : Nat) (b : Burst) (f : Fab) : Fab :=
  let f := takeBack b f
  let f := onReq p b.req (fun r => { r with since := some b.since, guard := guard }) f
  let late := match nextBurst (portOf f p) with
    | some n => n.req == b.req && !(n.ord == b.ord && n.leg == b.leg)
    | none => false
  finishRound p (if late then onPort f p fun x => { x with next := some .empty } else f)

/-- A queue's request on every port withdrawn, for an abort or a halt (R98, R227). -/
def withdrawQueue (q : Nat) (f : Fab) : Fab :=
  { f with ports := tmap {} (fun _ x => { x with reqs := tset {} x.reqs q { used := (tget {} x.reqs q).used } }) f.ports }

/-- Bursts of an aborted flight end at the beat boundary on every port, and none decided for it begins (R81). -/
def endBurstsOf (q ord : Nat) (f : Fab) : Fab :=
  each (f.ports.map (·.1)) (fun f p =>
    let mine := fun (b : Option Burst) => match b with
      | some b => b.req == q && b.ord == ord
      | none => false
    let f := if mine (nextBurst (portOf f p)) then onPort f p fun x => { x with next := some .empty } else f
    if mine (burstOf (portOf f p)) then finishRound p f else f) f

end Sys2Proof.Machine
end

