-- ==== Sys2Proof/Machine/Routes.lean ====
section
/-!
DEFINITION. Paths through the package and routes between packages (R167 to R170).
-/

namespace Sys2Proof.Machine

/-- Span map entry of port k of die d (R167). -/
def spanEntry (f : Fab) (d k : Nat) : BitVec 8 := tget 0 f.prm.spanMap (4 * d + k)
def spanDie (f : Fab) (d k : Nat) : Nat := fld (spanEntry f d k) 0 3
def spanPort (f : Fab) (d k : Nat) : Nat := fld (spanEntry f d k) 3 2

/-- A link port of this instance is UP. -/
def linkUp (f : Fab) (k : Nat) : Bool := (linkOf f k).st = .up

/-- A link port of this instance carries a path: it is UP, or retrains and holds its flits (R180). -/
def carries (f : Fab) (k : Nat) : Bool := (linkOf f k).st == .up || (linkOf f k).st == .retraining

/-- One end of a span link is not known to be down. -/
def endUp (f : Fab) (d k : Nat) : Bool :=
  if d = f.prm.die.toNat then carries f k else !f.dom.knownDown.contains (8 * d + k)

/-- The span link at port k of die d is UP as this die knows it (R168). -/
def spanUp (f : Fab) (d k : Nat) : Bool :=
  bitAt (spanEntry f d k) 7 && decide (d < f.prm.dies) && endUp f d k && endUp f (spanDie f d k) (spanPort f d k)

/-- One round of shortening the distances to die t. -/
def relaxDist (f : Fab) (t : Nat) (l : List Nat) : List Nat :=
  (List.range 8).map fun d =>
    if d = t then 0
    else ((List.range 4).filter (spanUp f d)).foldl (fun m k => min m (1 + l.getD (spanDie f d k) 99)) 99

/-- `n` such rounds. -/
def relaxTimes (f : Fab) (t : Nat) : Nat → List Nat → List Nat
  | 0, l => l
  | n + 1, l => relaxTimes f t n (relaxDist f t l)

/-- Fewest UP span links from each die to die t, 99 where there is no path (R168). -/
def distTo (f : Fab) (t : Nat) : List Nat :=
  relaxTimes f t 8 ((List.range 8).map fun d => if d = t then 0 else 99)

/-- The span port this die sends traffic for die t to: a shortest path, the lowest port first (R168). -/
def spanTo (f : Fab) (t : Nat) : Option Nat :=
  let l := distTo f t
  let own := f.prm.die.toNat
  let n := l.getD own 99
  if 99 ≤ n then none
  else (List.range 4).find? fun k => spanUp f own k && l.getD (spanDie f own k) 99 + 1 == n

/-- Package at the far end of IL0 of die d, when that link is UP (R170) or retrains (R180). -/
def exitOf (f : Fab) (d : Nat) : Option Nat :=
  if d = f.prm.die.toNat then if carries f 4 then some (fld (linkOf f 4).partner 3 13) else none
  else
    let e := tget 0 f.dom.exits d
    if bitAt e 15 then some (fld e 0 13) else none

/-- The port toward exit die d. -/
def portToward (f : Fab) (d : Nat) : Option Nat := if d = f.prm.die.toNat then some 4 else spanTo f d

/-- One route judged: its port, and whether its partner differs (R170). -/
def judgeRoute (f : Fab) (valid : Bool) (die next : Nat) : Option Nat × Bool :=
  if !valid then (none, false)
  else
    match exitOf f die with
    | none => (none, false)
    | some p => if p = next then (portToward f die, false) else (none, true)

/-- The link port traffic for an instance leaves by, 5 for this instance itself, and the route mismatches met
(R168, R170). -/
def routeTo (f : Fab) (inst : Nat) : Option Nat × Nat :=
  let own := (instanceId f).toNat
  if inst = own then (some 5, 0)
  else if inst / 8 = own / 8 then (if inst % 8 < f.prm.dies then spanTo f (inst % 8) else none, 0)
  else
    let e := if f.dom.routeInUse then tget 0 f.dom.route (inst / 8) else 0
    let a := judgeRoute f (bitAt e 0) (fld e 1 3) (fld e 4 13)
    match a.1 with
    | some k => (some k, 0)
    | none =>
      let b := judgeRoute f (bitAt e 17) (fld e 18 3) (fld e 21 13)
      (b.1, a.2.toNat + b.2.toNat)

/-- `routeTo` with its mismatches counted (R170). -/
def findRoute (inst : Nat) (f : Fab) : Option Nat × Fab :=
  let r := routeTo f inst
  (r.1, countInst 3 r.2 f)

end Sys2Proof.Machine
end

