-- ==== Sys2Proof/Machine/Wire.lean ====
section
/-!
DEFINITION. Flits and messages as the instance forms them (R152, R153, R160, R161) and hands them to a link (R157).
-/

namespace Sys2Proof.Machine

/-- Header and body of a flit, `LSEQ` zero until it is sent (R152). -/
def flitOf (ftype vc hops dest ctx trow : Nat) (last poison bleat : Bool) (body : Row) : BitVec 4672 :=
  pack 4672 [(4, ftype), (2, vc), (4, hops), (16, dest), (12, ctx), (8, trow), (10, 0), (1, last.toNat), (1, poison.toNat),
    (1, bleat.toNat), (5, 0), (4608, body.toNat)]

/-- Fields of a flit (R152). -/
def fType {n : Nat} (b : BitVec n) : Nat := fld b 0 4
def fVc {n : Nat} (b : BitVec n) : Nat := fld b 4 2
def fHops {n : Nat} (b : BitVec n) : Nat := fld b 6 4
def fDest {n : Nat} (b : BitVec n) : Nat := fld b 10 16
def fCtx {n : Nat} (b : BitVec n) : Nat := fld b 26 12
def fCount {n : Nat} (b : BitVec n) : Nat := fld b 26 4
def fTrow {n : Nat} (b : BitVec n) : Nat := fld b 38 8
def fLseq {n : Nat} (b : BitVec n) : Nat := fld b 46 10
def fLast {n : Nat} (b : BitVec n) : Bool := bitAt b 56
def fPoison {n : Nat} (b : BitVec n) : Bool := bitAt b 57
def fBleat {n : Nat} (b : BitVec n) : Bool := bitAt b 58
def fBody {n : Nat} (b : BitVec n) : Row := BitVec.ofNat 4608 (fld b 64 4608)

/-- A flit placed in a link's queue of its VC (R157). -/
def queueFlit (k : Nat) (t : TxFlit) (f : Fab) : Fab :=
  onLink f k fun l => { l with txq := tset [] l.txq (fVc t.bits) (tget [] l.txq (fVc t.bits) ++ [t]) }

/-- A message with its type, source and fields (R160). -/
def msgOf (f : Fab) (mtype : Nat) (l : List (Nat × Nat)) : BitVec 512 :=
  BitVec.ofNat 512 (place ([(0, mtype), (16, (instanceId f).toNat)] ++ l))

/-- Virtual channel of a message type (R160): 3 for a type that is reserved. -/
def msgVc (t : Nat) : Nat :=
  if t = 1 || t = 5 || t = 7 || t = 9 || t = 0x0B then 0
  else if t = 2 || t = 3 || t = 4 || t = 6 || t = 8 || t = 0x0A then 1
  else if t = 0x10 || t = 0x11 then 2 else 3

/-- A message sent to an instance; whether a route exists.  The instance's own messages to itself are processed
without a link (R74).  Each message takes a flit of its own (log 14). -/
def sendMsg (dest : Nat) (m : BitVec 512) (f : Fab) : Bool × Fab :=
  let r := findRoute dest f
  match r.1 with
  | none => (false, r.2)
  | some k =>
    if k = 5 then (true, { r.2 with dom := { r.2.dom with inbox := r.2.dom.inbox ++ [⟨m, 5⟩] } })
    else
      let t := fld m 0 8
      (true, queueFlit k ⟨flitOf 3 (msgVc t) 0 dest 1 0 false false false (BitVec.ofNat 4608 m.toNat), none⟩ r.2)

/-- An answer sent: one that finds no route is dropped, and its source's wait ends under R183 (log 14). -/
def answer (dest : Nat) (m : BitVec 512) (f : Fab) : Fab := (sendMsg dest m f).2

/-- Source tags whose answers are awaited: of segments, remote signals and installs (R160, R183). -/
def stagsOut (f : Fab) : List (BitVec 16) :=
  (allFlights f).flatMap (fun e => e.2.segs.map (·.stag) ++ (e.2.fsig.map (·.stag)).toList)
    ++ f.lop.migs.flatMap fun m => m.segs.map (·.stag) ++ (m.entries.filter fun e => e.inst != 0).map (·.stag)

/-- The first tag from `t` on that is not in use. -/
def freshStag (used : List (BitVec 16)) : Nat → BitVec 16 → BitVec 16
  | 0, t => t
  | n + 1, t => if used.contains t then freshStag used n (t + 1) else t

/-- A source tag (R160): the next one whose answer is not awaited (log 20). -/
def takeStag (f : Fab) : BitVec 16 × Fab :=
  let used := stagsOut f
  let t := freshStag used used.length f.dom.nextStag
  (t, { f with dom := { f.dom with nextStag := t + 1 } })

end Sys2Proof.Machine
end

