-- ==== Sys2Proof/Machine/Transfers.lean ====
section
/-!
DEFINITION. What becomes of an issued descriptor: rows done and latencies (R326, R327), completion and fences (R73, R74),
aborts (R80, R81, R164, R203), the credit requests of a source (R161 to R163, R172, R224) and SOP requests as they are
formed (R192, R195, R203).
-/

namespace Sys2Proof.Machine

/-- How many consecutive indices from `k` on satisfy `has`, at most `fuel`. -/
def runFrom (has : Nat → Bool) : Nat → Nat → Nat
  | 0, _ => 0
  | n + 1, k => if has k then 1 + runFrom has n (k + 1) else 0

/-- Latency of a row done now (R326, R327): a 32-bit saturating count of XP0 beat times. -/
def latencyNow (f : Fab) (x : Flight) : Nat := min 0xFFFFFFFF (xp0Time f - x.since)

/-- Row `idx` of leg `i` is done; a row done before is not counted again (R326). -/
def rowDone (q ord i idx : Nat) (f : Fab) : Fab :=
  onFlight q ord (fun x =>
    match x.legs[i]? with
    | some l =>
      if idx < l.high then x
      else { (onLeg i (fun l => { l with high := idx + 1 }) x) with done := x.done + 1, lats := x.lats ++ [latencyNow f x] }
    | none => x) f

/-- `n` rows acknowledged from afar (R326). -/
def rowsAcked (q ord n : Nat) (f : Fab) : Fab :=
  onFlight q ord (fun x => { x with done := x.done + n, lats := x.lats ++ List.replicate n (latencyNow f x) }) f

/-- Bucket of a latency (R327). -/
def bucketOf (edges : List Nat) (t : Nat) : Nat := (edges.filter fun e => decide (e ≤ t)).length

/-- Rows of a completed descriptor counted in their histogram (R294, R326). -/
def countRows (x : Flight) (f : Fab) : Fab :=
  each (List.range 16) (fun f j =>
    count (0x8500 + dQclass x.desc) j (x.lats.filter fun t => bucketOf f.cnt.edges t == j).length f) f

/-- A queue with nothing left in flight that is STOPPING is HALTED (R288). -/
def settleStop (q : Nat) (f : Fab) : Fab :=
  let x := queueOf f q
  if x.qstate = 1 && x.flights.isEmpty then onQueue f q fun x => { x with qstate := 3 } else f

/-- The SOP header of R192 but for its CRC. -/
def sopHeader (type status tag stack addr func : Nat) (packed last : Bool)
    (rowsM1 index fmt rbM1 stride8 queue qclass pmask : Nat) : BitVec 256 :=
  pack 256 [(8, type), (8, status), (16, tag), (4, stack), (4, 0), (38, addr), (8, func), (1, packed.toNat), (1, last.toNat),
    (8, rowsM1), (8, index), (8, fmt), (4, rbM1), (4, 0), (10, stride8), (8, queue), (2, qclass), (72, pmask)]

/-- Fields of an SOP header (R192). -/
def sType (h : BitVec 256) : Nat := fld h 0 8
def sStatus (h : BitVec 256) : Nat := fld h 8 8
def sTag (h : BitVec 256) : Nat := fld h 16 16
def sStack (h : BitVec 256) : Nat := fld h 32 4
def sAddr (h : BitVec 256) : Nat := fld h 40 38
def sPack (h : BitVec 256) : Bool := bitAt h 86
def sLast (h : BitVec 256) : Bool := bitAt h 87
def sRows (h : BitVec 256) : Nat := fld h 88 8 + 1
def sIndex (h : BitVec 256) : Nat := fld h 96 8
def sFmt (h : BitVec 256) : Nat := fld h 104 8
/-- Bytes of a row of the message. -/
def sStride (h : BitVec 256) : Nat := fld h 120 10 * 8
def sPmask (h : BitVec 256) : BitVec 72 := BitVec.ofNat 72 (fld h 140 72)
def sCrc (h : BitVec 256) : BitVec 32 := BitVec.ofNat 32 (fld h 224 32)

/-- CRC of a message: header bits 223 to 0, then its data bytes (R192). -/
def sopCrc (h : BitVec 256) (d : Option Row) : BitVec 32 :=
  crc32c (bytesOf 28 h.toNat ++ (match d with
    | some r => bytesOf (sStride h) r.toNat
    | none => []))

/-- A message sent to the stack path, with its CRC; an armed injection inverts the CRC of a request (R297). -/
def sendSop (k : Nat) (h : BitVec 256) (d : Option Row) (f : Fab) : Fab :=
  let crc := sopCrc h d
  let hit := injKind f == 6 && fld f.sec.inject 4 1 == k && d.isNone
  let f := when hit injFired f
  emit f (.sop k (putf h 224 32 (if hit then ~~~crc else crc).toNat) d)

/-- A stack port's tag put through `g`. -/
def onTag (k : Nat) (tag : BitVec 16) (g : SopTag → SopTag) (f : Fab) : Fab :=
  onKport f k fun x => { x with tags := x.tags.map fun t => if t.tag = tag then g t else t }

/-- CANCEL sent for a tag (R202, R203). -/
def cancelTag (k : Nat) (t : SopTag) (retry : Bool) (f : Fab) : Fab :=
  match t.phase with
  | .cancelling _ => onTag k t.tag (fun t => { t with phase := .cancelling retry }) f
  | .running =>
    onTag k t.tag (fun t => { t with phase := .cancelling retry })
      (sendSop k (sopHeader 5 0 t.tag.toNat 0 0 0 false false 0 0 0 0 0 0 0 0) none f)

/-- Everything a stack port holds for an owner is let go: jobs and received rows dropped, tags cancelled (R203). -/
def dropOwner (o : Owner) (f : Fab) : Fab :=
  each [0, 1] (fun f k =>
    let f := onKport f k fun x => { x with jobs := x.jobs.filter fun j => j.owner != o, rx := x.rx.filter fun r => r.owner != o }
    each ((kportOf f k).tags.filter fun t => t.job.owner == o) (fun f t => cancelTag k t false f) f) f

/-- Some tag of an owner is still outstanding. -/
def ownerBusy (o : Owner) (f : Fab) : Bool :=
  [0, 1].any fun k => (kportOf f k).tags.any fun t => t.job.owner == o

/-- The group entry of cluster c as it stood at the issue of a flight (R119). -/
def groupAtIssue (x : Flight) (c : Nat) : BitVec 288 := tget 0 x.groups c

/-- ABORT notices of a flight (R124), and its collect taken out of its cluster (R133). -/
def abortClusters (q : Nat) (x : Flight) (f : Fab) : Fab :=
  let d := x.desc
  let data := noticeData 1 q x.seq.toNat 0 0 0 0
  if dOp d = 1 then
    each (clustersOf (dMcast d)) (fun f c => notify c (memberList (groupAtIssue x c)) data (fun _ => 0) f) f
  else if dOp d = 2 || dOp d = 3 then
    each (clustersOf (dMcast d)) (fun f c =>
      let sup := match (clusterOf f c).running with
        | some r => if r.ord = x.ord then r.sup else suppliersOf f c (groupAtIssue x c) d
        | none => suppliersOf f c (groupAtIssue x c) d
      let f := notify c (sup.filterMap id).dedup data (fun _ => 0) f
      onCluster f c fun y =>
        { y with collects := y.collects.filter fun e => e.2 != x.ord
                 running := match y.running with
                   | some r => if r.ord = x.ord then none else some r
                   | none => none
                 ret := y.ret.filter fun r => r.ord != x.ord }) f
  else f

/-- CANCEL sent for every grant of a transfer that is not acknowledged (R164). -/
def cancelGrants (segs : List Seg) (f : Fab) : Fab :=
  each (segs.filter fun g => g.phase == .granted) (fun f g =>
    answer g.dest.toNat (msgOf f 5 [(48, g.rctx.toNat)]) f) f

/-- A flight has moved all it has to move (R73). -/
def flightDone (x : Flight) : Bool := !x.legs.isEmpty && decide (dRows x.desc ≤ x.done)

/-- A flight an abort reaches: not one of R83's, not done, and not aborted already. -/
def abortable (f : Fab) (x : Flight) : Bool := !neverAborted f x.desc && !flightDone x && x.stopping.isNone

/-- An in-flight instruction is aborted (R80, R81): its bursts end at this beat boundary, what it holds is let go, and the
queue is ABORTING. -/
def abortFlight (q ord reason addr stack : Nat) (f : Fab) : Fab :=
  match flightOf f q ord with
  | none => f
  | some x =>
    if !abortable f x then f
    else
      let f := endBurstsOf q ord f
      let f := abortClusters q x f
      let f := cancelGrants x.segs f
      let f := dropOwner (.flight q ord) f
      let f := { f with ports := tmap {} (fun _ p => { p with pipe := p.pipe.filter fun r => r.ord != ord }) f.ports }
      let f := each (List.range 16) (fun f p => presentHead p f) f
      let f := withdrawQueue q f
      let f := onFlight q ord (fun y =>
        { y with stopping := some ⟨BitVec.ofNat 4 reason, BitVec.ofNat 38 addr, BitVec.ofNat 4 stack⟩
                 segs := [], held := [], fsig := none }) f
      onQueue f q fun y =>
        if y.qstate = 2 then y else { y with qstate := 2, reason := BitVec.ofNat 8 reason }

/-- Every flight that satisfies `p` is aborted. -/
def abortWhere (p : Nat → Flight → Bool) (reason : Nat) (f : Fab) : Fab :=
  each ((allFlights f).filter fun e => p e.1 e.2) (fun f e => abortFlight e.1 e.2.ord reason 0 0 f) f

/-- An earlier descriptor of the queue has not completed and has not been dropped (R74). -/
def earlierPending (y : Queue) (ord : Nat) : Bool :=
  y.flights.any (fun z => decide (z.ord < ord)) || y.records.any (fun r => decide (r.ord < ord))
    || y.reissue.any fun r => decide (r.ord < ord)

/-- Remote fence signals of a queue whose turn has come are sent (R74); one without a route is aborted (R183). -/
def sendSignals (q : Nat) (f : Fab) : Fab :=
  let l := (queueOf f q).flights.filter fun x => dOp x.desc == 14 && !localSignal f x.desc && x.fsig.isNone
    && x.stopping.isNone && !earlierPending (queueOf f q) x.ord
  each l (fun f x =>
    let o := dDst x.desc
    let st := takeStag f
    let s := sendMsg (oFinst o) (msgOf f 7 [(32, st.1.toNat), (48, dFence x.desc), (64, oCount o)]) st.2
    if s.1 then onFlight q x.ord (fun y => { y with fsig := some ⟨st.1, 0, none, 0⟩ }) s.2
    else abortFlight q x.ord 4 0 0 s.2) f

/-- A flight completes (R73): its rows are counted, its fence signalled, and it leaves the queue. -/
def completeFlight (q ord : Nat) (f : Fab) : Fab :=
  match flightOf f q ord with
  | none => f
  | some x =>
    let d := x.desc
    let own := (instanceId f).toNat
    let f := onQueue f q fun y => { y with flights := y.flights.filter fun z => z.ord != ord }
    let f := countRows x f
    let f := if dOp d = 14 then
        if localSignal f d then addFence (dFence d) (oCount (dDst d)) q own f else f
      else when (dFsignal d && dOp d != 13) (addFence (dFence d) 1 q own) f
    sendSignals q (settleStop q (traceAs 1 q x.seq.toNat x.meTag.toNat d f))

/-- Where the rows of leg `l` land: instance, bank, row and logical row of tile row 0 (R67, R69, R161). -/
def legTarget (f : Fab) (x : Flight) (l : Leg) : Nat × Nat × Nat × Nat :=
  let o := dDst x.desc
  if kindOf o = 2 then ((instanceId f).toNat / 8 * 8 + (oHdie o + l.first) % f.prm.dies, oHbank o % 512, oHrow o, 0)
  else
    match x.dst with
    | .bank i b r j => (i, b, r, j)
    | _ => (0, 0, 0, 0)

/-- A CREDIT_REQ (R161). -/
def creditReq (f : Fab) (q : Nat) (x : Flight) (l : Leg) (first n stag : Nat) : BitVec 512 :=
  let d := x.desc
  let t := legTarget f x l
  let acc := dOp d == 3
  let only := fun v => if acc then v else 0
  msgOf f 1 [(32, stag), (48, acc.toNat), (56, n - 1), (64, first), (72, t.2.2.1), (80, t.2.1), (89, dStripe d),
    (96, dDstFmt d), (104, dBytes d / 32 - 1), (108, only (dRound d)), (110, only (dOvf d)), (112, only (dCtag d)),
    (120, only (dEpoch d)), (128, q), (136, x.seq.toNat), (142, dQclass d), (192, t.2.2.2)]

/-- Rows of a collect assembled in its cluster, consecutive from `k`. -/
def assembledFrom (f : Fab) (x : Flight) (k : Nat) : Nat :=
  match clustersOf (dMcast x.desc) with
  | c :: _ => runFrom (fun i => (clusterOf f c).ret.any fun r => r.ord == x.ord && r.idx == i) 256 k
  | [] => 0

/-- The next request for credit that leg `i` may make: its first row and how many (R162, R163; log 15). -/
def nextAsk (f : Fab) (x : Flight) (i : Nat) (l : Leg) : Option (Nat × Nat) :=
  let a := tget 0 x.asks i
  let n := match l.kind with
    | .spanRead => l.total - a
    | .accSend => assembledFrom f x a
    | _ => 0
  let waiting := x.segs.any fun g => g.leg == i && (g.phase == .asked || match g.phase with
    | .backoff _ => true
    | _ => false)
  let held := (x.segs.filter fun g => match g.phase with
    | .granted => decide (g.sent < g.granted)
    | .acked => false
    | _ => true).length
  if n = 0 || waiting || 4 ≤ held then none else some (a, n)

/-- Leg `i` of a flight asks for the credit it may ask for; with no route left the transfer ends with FAULT (R170). -/
def askLeg (q ord i : Nat) (f : Fab) : Fab :=
  match flightOf f q ord with
  | none => f
  | some x =>
    match x.legs[i]? with
    | none => f
    | some l =>
      match nextAsk f x i l with
      | none => f
      | some (a, n) =>
        let st := takeStag f
        let dest := (legTarget f x l).1
        let s := sendMsg dest (creditReq f q x l a n st.1.toNat) st.2
        if s.1 then
          onFlight q ord (fun x => { x with segs := x.segs ++
            [⟨st.1, BitVec.ofNat 16 dest, i, a, n, .asked, 0, 0, 0, 0, 0⟩] }) s.2
        else abortFlight q ord 4 0 0 s.2

/-- Every leg of a flight asks (R163: at most four unexhausted grants). -/
def askMore (q ord : Nat) (f : Fab) : Fab :=
  match flightOf f q ord with
  | none => f
  | some x => if x.stopping.isSome then f else each (List.range x.legs.length) (fun f i => askLeg q ord i f) f

end Sys2Proof.Machine
end

