-- ==== Sys2Proof/Machine/Moves.lean ====
section
/-!
DEFINITION. MIGRATE at its source: its stream, its segments, its stack reads, its installs and drops (R185 to R187, R198,
R200), and the installs of a destination (R186).
-/

namespace Sys2Proof.Machine

/-- Rows of new grants for this destination wait for an old path to clear (R171). -/
def pathHeld (f : Fab) (g : Seg) : Bool :=
  f.dom.pathHolds.any fun h => h.dest == g.dest && !h.stags.contains g.stag

/-- Bytes padded to a multiple of 64 (R186). -/
def padded (n : Nat) : Nat := (n + 63) / 64 * 64

/-- A MIGRATE's stream bytes in all. -/
def streamBytes (m : Migrate) : Nat := (m.entries.map fun e => padded e.bytes).sum

/-- Chunks that hold bytes of an entry: first and last. -/
def entryChunks (e : MigEntry) : Nat × Nat := (e.start / 576, (e.start + padded e.bytes - 1) / 576)

/-- Every grant of an entry has been acknowledged (R186). -/
def entryAcked (m : Migrate) (e : MigEntry) : Bool :=
  let c := entryChunks e
  decide (c.2 < m.asked)
    && m.segs.all fun g => decide (c.2 < g.first) || decide (g.first + g.count ≤ c.1) || g.phase == .acked

/-- Fields of MIGRATE's arguments (R185). -/
def mgDrop (m : Migrate) : Bool := bitAt m.w0 27
def mgMap (m : Migrate) : Bool := bitAt m.w0 28
def mgDest (m : Migrate) : Nat := fld m.w1 0 16
def mgStack (m : Migrate) : Nat := fld m.w1 16 4
def mgRidx (m : Migrate) : Nat := fld m.w2 0 17
/-- Destination stack address of a byte of the stream. -/
def mgAddr (m : Migrate) (byte : Nat) : Nat := m.w3.toNat * 64 + byte

/-- The MIGRATE with a handle. -/
def migOf (f : Fab) (h : BitVec 16) : Option Migrate := f.lop.migs.find? fun m => m.handle == h

/-- A MIGRATE put through `g`. -/
def onMig (h : BitVec 16) (g : Migrate → Migrate) (f : Fab) : Fab :=
  onLop f fun l => { l with migs := l.migs.map fun m => if m.handle = h then g m else m }

/-- Result words of MIGRATE (R187); `srcMe` is the source's ME after the drops, or 0. -/
def migrateWords (m : Migrate) (srcMe : Nat) : Nat × Nat × Nat × Nat :=
  let open' := m.entries.find? fun e => if mgMap m then e.inst != 2 else !entryAcked m e
  ((m.entries.filter fun e => e.inst == 2).length, min (m.sent * 9) (streamBytes m / 64), m.destMe.toNat + srcMe * 2 ^ 16,
    match open' with
    | some e => e.ridx
    | none => 0xFFFFFFFF)

/-- The owner of a row or a request is this MIGRATE. -/
def ofMigrate (h : BitVec 16) (o : Owner) : Bool :=
  match o with
  | .migrate x _ => x == h
  | _ => false

/-- Everything a MIGRATE holds on the stack ports is let go. -/
def dropMigrate (h : BitVec 16) (f : Fab) : Fab :=
  each [0, 1] (fun f k =>
    let f := onKport f k fun x => { x with jobs := x.jobs.filter fun j => !ofMigrate h j.owner
                                           rx := x.rx.filter fun r => !ofMigrate h r.owner }
    each ((kportOf f k).tags.filter fun t => ofMigrate h t.job.owner) (fun f t => cancelTag k t false f) f) f

/-- A stack entry's bits as an install writes it (R186). -/
def installBits (m : BitVec 512) : BitVec 128 :=
  pack 128 [(1, 1), (1, 1), (2, 0), (4, fld m 96 4), (24, fld m 72 24), (32, 0), (38, fld m 112 38), (4, fld m 104 4),
    (1, fld m 100 1)]

/-- An install applied as a MAP_SET is, and its MAP_ACK with the ME after it (R77, R186). -/
def applyInstall (i : Install) (f : Fab) : Fab :=
  let f := takeEffect (.install i.src (BitVec.ofNat 16 (fld i.bits 32 16))) [(fld i.bits 48 17, installBits i.bits)] f
  answer i.src.toNat (msgOf f 0x0A [(32, fld i.bits 32 16), (48, 0), (56, f.map.epoch.toNat)]) f

/-- Waiting installs whose entries no longer drain are applied, oldest first (R78, R186). -/
def applyInstalls (f : Fab) : Fab :=
  each f.map.installs (fun f i =>
    if changeWaits f [fld i.bits 48 17] then f
    else applyInstall i { f with map := { f.map with installs := f.map.installs.erase i } }) f

/-- A MIGRATE ends with a status (R187, R315): its grants cancelled, its stack reads withdrawn; installs that waited for its
entries go on. -/
def endMigrate (h : BitVec 16) (status srcMe : Nat) (f : Fab) : Fab :=
  match migOf f h with
  | none => f
  | some m =>
    let w := migrateWords m srcMe
    let f := dropMigrate h (cancelGrants m.segs f)
    let f := onLop f fun l => { l with migs := l.migs.filter fun m => m.handle != h }
    applyInstalls (completeOp h status w.1 w.2.1 w.2.2.1 w.2.2.2 f)

/-- The source entries of a MIGRATE dropped in order as MAP_DROPs, each a map change that waits when R78 says so and is counted
once then (R78, R186, R217); after the last the MIGRATE completes. -/
def dropEntries (h : BitVec 16) : Nat → Fab → Fab
  | 0, f => f
  | n + 1, f =>
    match migOf f h with
    | none => f
    | some m =>
      match m.entries[m.dropped]? with
      | none => endMigrate h sOk f.map.epoch.toNat f
      | some e =>
        let rest := onLop f fun l => { l with migs := l.migs.filter fun m => m.handle != h }
        if changeWaits rest [e.ridx] then
          if m.dropWait then f else countInst 0x11 1 (onMig h (fun m => { m with dropWait := true }) f)
        else dropEntries h n (onMig h (fun m => { m with dropped := m.dropped + 1, dropWait := false }) (takeEffect .drop [(e.ridx, 0)] f))

/-- The MIGRATE is done once its stream is acknowledged and its entries are installed; its drops take effect first, each
when R78 lets it (R186, R187). -/
def finishMigrate (h : BitVec 16) (f : Fab) : Fab :=
  match migOf f h with
  | none => f
  | some m =>
    let done := m.asked == m.chunks && m.segs.all (fun g => g.phase == .acked) && (!mgMap m || m.entries.all fun e => e.inst == 2)
    if !done then f
    else if !mgDrop m then endMigrate h sOk 0 f
    else dropEntries h (m.entries.length + 1) f

/-- The CREDIT_REQ of a STREAM segment (R161): chunk indices count from the segment's first. -/
def streamReq (f : Fab) (m : Migrate) (first n stag : Nat) : BitVec 512 :=
  msgOf f 1 [(32, stag), (48, 2), (56, n - 1), (144, mgAddr m (576 * first)), (184, mgStack m)]

/-- A segment of a MIGRATE put through `g`. -/
def onMigSeg (h stag : BitVec 16) (g : Seg → Seg) (f : Fab) : Fab :=
  onMig h (fun m => { m with segs := m.segs.map fun x => if x.stag = stag && x.phase != .idle then g x else x }) f

/-- One more segment asked for, a remainder of a partial grant first, while fewer than four grants are unexhausted
(R163, R186). -/
def askStream (h : BitVec 16) : Nat → Fab → Fab
  | 0, f => f
  | n + 1, f =>
    match migOf f h with
    | none => f
    | some m =>
      let busy := m.segs.filter fun g => g.phase != .idle && g.phase != .acked && !(g.phase == .granted && g.sent == g.granted)
      let rest := m.segs.find? fun g => g.phase == .idle
      let fresh := min 256 (m.chunks - m.asked)
      let want := match rest with
        | some g => (g.first, g.count)
        | none => (m.asked, fresh)
      if 4 ≤ busy.length || want.2 = 0 then f
      else
        let st := takeStag f
        let s := sendMsg (mgDest m) (streamReq f m want.1 want.2 st.1.toNat) st.2
        if !s.1 then endMigrate h sFault 0 s.2
        else
          let seg : Seg := ⟨st.1, BitVec.ofNat 16 (mgDest m), 0, want.1, want.2, .asked, 0, 0, 0, 0, 0⟩
          let others := m.segs.filter fun g => !(g.phase == .idle && g.first == want.1)
          askStream h n (onMig h (fun m => { m with segs := others ++ [seg], asked := max m.asked (want.1 + want.2) }) s.2)

/-- One stack read of a MIGRATE: `rows` rows of `stride` bytes from `addr` (R198). -/
def queueRead (h : BitVec 16) (stack addr unit rows stride : Nat) (f : Fab) : Fab :=
  match servingPort f stack with
  | none => endMigrate h sFault 0 f
  | some k =>
    if (kportOf f k).st != .up then endMigrate h sFault 0 f
    else
      let j : Job := ⟨.migrate h unit, 1, sopHeader 1 0 0 stack addr 0 false false (rows - 1) 0 0 0 (stride / 8) 0 0 0, 0, rows, false⟩
      onKport f k fun x => { x with jobs := x.jobs ++ [j] }

/-- The stack reads of a granted segment (R198): for each entry in it unformatted chunks, and one row of what remains. -/
def readSegment (h : BitVec 16) (m : Migrate) (first n : Nat) (f : Fab) : Fab :=
  each m.entries (fun f e =>
    let lo := max (576 * first) e.start
    let hi := min (576 * (first + n)) (e.start + e.bytes)
    if hi ≤ lo then f
    else
      let whole := (hi - lo) / 576
      let left := (hi - lo) % 576
      let addr := e.addr + (lo - e.start)
      let f := if whole = 0 then f else queueRead h e.stack addr (lo / 64) whole 576 f
      if left = 0 then f else queueRead h e.stack (addr + 576 * whole) (lo / 64 + 9 * whole) 1 left f) f

/-- First 64-byte unit of the stream that a received row holds. -/
def rowUnit (r : RxRow) : Nat :=
  match r.owner with
  | .migrate _ u => u + 9 * r.idx
  | _ => 0

/-- The received row that holds a unit of a MIGRATE's stream. -/
def unitRow (f : Fab) (h : BitVec 16) (v : Nat) : Option RxRow :=
  [0, 1].findSome? fun k => (kportOf f k).rx.find? fun r => ofMigrate h r.owner && decide (rowUnit r ≤ v) && decide (v < rowUnit r + r.units)

/-- Units of chunk c of a stream. -/
def chunkUnits (m : Migrate) (c : Nat) : List Nat := (List.range (min 9 (streamBytes m / 64 - 9 * c))).map fun i => 9 * c + i

/-- The bytes of a chunk and its poison mask, once every unit of it has been received (R186, R200). -/
def chunkOf (f : Fab) (m : Migrate) (c : Nat) : Option (Row × BitVec 72) :=
  let l := chunkUnits m c
  if l.all fun v => (unitRow f m.handle v).isSome then
    let slice := fun (v : Nat) => match unitRow f m.handle v with
      | some r => (fld r.data (512 * (v - rowUnit r)) 512, if r.poison then fld r.pmask (8 * (v - rowUnit r)) 8 else 0)
      | none => (0, 0)
    some (BitVec.ofNat 4608 (unslice 512 (l.map fun v => (slice v).1)), BitVec.ofNat 72 (unslice 8 (l.map fun v => (slice v).2)))
  else none

/-- The next chunk that a MIGRATE can send, under any of its grants (R223). -/
def nextChunk (f : Fab) (m : Migrate) : Option (Seg × Row × BitVec 72) :=
  m.segs.findSome? fun g =>
    if g.phase == .granted && decide (g.sent < g.granted) && !pathHeld f g then
      (chunkOf f m (g.first + g.sent)).map fun c => (g, c.1, c.2)
    else none

/-- Received rows whose every unit has been sent are let go (R195). -/
def dropSent (h : BitVec 16) (g : Seg) (sent : Nat) (f : Fab) : Fab :=
  let old := fun (r : RxRow) => ofMigrate h r.owner && decide (9 * g.first ≤ rowUnit r)
    && decide (rowUnit r + r.units ≤ 9 * (g.first + sent))
  each [0, 1] (fun f k => onKport f k fun x => { x with rx := x.rx.filter fun r => !old r }) f

/-- Every chunk that can go out is sent as a STREAM flit, a STREAM_POISON before a poisoned one (R186, R200). -/
def pumpStream (h : BitVec 16) : Nat → Fab → Fab
  | 0, f => f
  | n + 1, f =>
    match migOf f h with
    | none => f
    | some m =>
      match nextChunk f m with
      | none => f
      | some (g, row, mask) =>
        let p := mask != 0
        let note := msgOf f 0x0B [(48, g.rctx.toNat), (64, g.sent), (72, mask.toNat)]
        let f := if p then answer g.dest.toNat note f else f
        let r := findRoute g.dest.toNat f
        match r.1 with
        | none => endMigrate h sFault 0 r.2
        | some k =>
          let b := flitOf 2 0 0 g.dest.toNat g.rctx.toNat g.sent (g.sent + 1 == g.granted) p false row
          let f := dropSent h g (g.sent + 1) (queueFlit k ⟨b, none⟩ r.2)
          let f := onMigSeg h g.stag (fun x => { x with sent := x.sent + 1 }) f
          pumpStream h n (onMig h (fun m => { m with sent := m.sent + 1 }) f)

/-- All that a MIGRATE can do now; it is held in IDLE (R315). -/
def driveMigrate (h : BitVec 16) (f : Fab) : Fab := if f.pwr.st = 0 then askStream h 4 (pumpStream h 1024 f) else f

/-- A grant for a segment of a MIGRATE (R163): a remainder of it is to be asked for again. -/
def grantStream (h stag : BitVec 16) (rctx n : Nat) (f : Fab) : Fab :=
  match (migOf f h).bind fun m => (m.segs.find? fun g => g.stag == stag && g.phase == .asked).map fun g => (m, g) with
  | none => f
  | some (m, g) =>
    let n := min n g.count
    let rest : List Seg :=
      if n < g.count then [⟨0, g.dest, 0, g.first + n, g.count - n, .idle, 0, 0, 0, 0, 0⟩] else []
    let f := onMigSeg h stag (fun g => { g with phase := .granted, granted := n, count := n, rctx := BitVec.ofNat 12 rctx
                                                refusals := 0, rounds := 0 }) f
    let f := onMig h (fun m => { m with segs := m.segs ++ rest }) f
    driveMigrate h (readSegment h m g.first n f)

/-- MAP_INSTALL sent for one entry (R186). -/
def sendInstall (h : BitVec 16) (k : Nat) (stag : BitVec 16) (f : Fab) : Fab :=
  match migOf f h with
  | none => f
  | some m =>
    match m.entries[k]? with
    | none => f
    | some e =>
      let msg := msgOf f 9 [(32, stag.toNat), (48, (mgRidx m + k) % 2 ^ 17), (72, e.stream.toNat), (96, e.oscale.toNat),
        (100, e.pack.toNat), (104, mgStack m), (112, mgAddr m e.start % 2 ^ 38)]
      let s := sendMsg (mgDest m) msg f
      if s.1 then onMig h (fun m => { m with entries := m.entries.modify k fun e => { e with inst := 1, stag := stag } }) s.2
      else endMigrate h sFault 0 s.2

/-- MAP_INSTALL sent for every entry whose grants are acknowledged (R186). -/
def sendInstalls (h : BitVec 16) (f : Fab) : Fab :=
  match migOf f h with
  | none => f
  | some m =>
    if !mgMap m then f
    else
      let ready := (List.range m.entries.length).filter fun k => match m.entries[k]? with
        | some e => e.inst == 0 && entryAcked m e
        | none => false
      each ready (fun f k => let st := takeStag f; sendInstall h k st.1 st.2) f

/-- A ROW_ACK for a segment of a MIGRATE (R163, R186). -/
def ackStream (h stag : BitVec 16) (f : Fab) : Fab :=
  let f := onMigSeg h stag (fun g => { g with phase := .acked }) f
  finishMigrate h (sendInstalls h (driveMigrate h f))

end Sys2Proof.Machine
end

