-- ==== Sys2Proof/Machine/Queues.lean ====
section
/-!
DEFINITION. Queues: intake (R379, R287), the checks and the issue of a head (R73 to R75, R78, R82, R219), completion,
aborts as they end (R81), queue control (R288), and the command of each opcode.
-/

namespace Sys2Proof.Machine

/-- Credits due to the sequencer for a queue's free places, returned while intake is open (R379). -/
def creditQueue (q : Nat) (f : Fab) : Fab :=
  let x := queueOf f q
  let n := 8 - x.intake.length - x.credits
  if f.pwr.intakeOpen && n != 0 then
    emit (onQueue f q fun x => { x with credits := x.credits + n }) (.queueCredit q n)
  else f

/-- Credits for every queue, as intake opens (R345, R348, R357). -/
def creditAll (f : Fab) : Fab := each (List.range 256) (fun f q => creditQueue q f) f

/-- The head of a queue: a descriptor to be issued again comes before any at intake (R82). -/
inductive HeadItem where
  | none
  | fresh (w : Waiting)
  | again (r : AbortRec)
deriving DecidableEq, Repr

/-- Head of a queue. -/
def headItem (x : Queue) : HeadItem :=
  match x.reissue, x.intake with
  | r :: _, _ => .again r
  | [], w :: _ => .fresh w
  | [], [] => .none

/-- The head taken off its queue; a place freed at intake is credited (R379). -/
def takeHead (q : Nat) (f : Fab) : Fab :=
  match headItem (queueOf f q) with
  | .none => f
  | .again _ => onQueue f q fun x => { x with reissue := x.reissue.drop 1 }
  | .fresh _ =>
    creditQueue q (onQueue f q fun x => { x with intake := x.intake.drop 1, head := ⟨false, false, false, false, 0, false⟩ })

/-- A descriptor refused and skipped (R75, R82): a count this attempt consumed is added back. -/
def refuseHead (q : Nat) (d : Desc) (sub bit : Nat) (f : Fab) : Fab :=
  let fresh := match headItem (queueOf f q) with
    | .fresh _ => true
    | _ => false
  let taken := (queueOf f q).head.taken
  let f := takeHead q f
  let f := when (fresh && taken) (addFence (dFence d) (if dOp d = 13 then oCount (dSrc d) else 1) q (instanceId f).toNat) f
  let f := raise 3 (place [(0, q), (8, dOp d), (16, sub), (24, bit)]) (countQueue q 2 1 f)
  sendSignals q (traceAs 3 q 0 0 d f)

/-- The count the head of a queue waits for, if it waits on a fence (R74). -/
def soughtCount (d : Desc) : Option Nat :=
  if dOp d = 13 then some (oCount (dSrc d)) else if dFwait d then some 1 else none

/-- Posted writes that stand in the banks now (R219). -/
def postedNow (f : Fab) : List (Nat × Nat × Nat) :=
  f.store.pwb.filterMap fun e => e.2.map fun b => (e.1, b.id, f.dom.issued)

/-- A noted posted write has not been written into the array yet (R219). -/
def notedHeld (f : Fab) (n : Nat × Nat × Nat) : Bool :=
  match tget none f.store.pwb n.1 with
  | some b => b.id == n.2.1
  | none => false

/-- The head's fence count consumed and the banks noted (R74, R219). -/
def consumeFence (q : Nat) (d : Desc) (n : Nat) (f : Fab) : Fab :=
  let f := setFence f (dFence d) (fenceOf f (dFence d) - BitVec.ofNat 16 n)
  onQueue f q fun x => { x with noted := ((x.noted.filter (notedHeld f)) ++ postedNow f).dedup
                                head := { x.head with taken := true, onFence := false, rounds := 0, reported := false } }

/-- OP and XP that reach a bank (R15, R85). -/
def opOf (b : Nat) : Nat := b / 32
def xpOf (b : Nat) : Nat := 16 + b / 32

/-- A leg at its start. -/
def mkLeg (k : LegKind) (p first step total : Nat) : Leg := ⟨k, p, first, step, total, 0, 0⟩

/-- Bank of a resolved operand. -/
def locBank : Loc → Nat
  | .bank _ b _ _ => b
  | _ => 0

/-- Instance of a resolved operand. -/
def locInst : Loc → Nat
  | .bank i _ _ _ => i
  | _ => 0

/-- The rows an instruction moves, port by port (R15, R87, R137, R172, R198). -/
def legsOf (f : Fab) (d : Desc) (src dst : Loc) : List Leg :=
  let n := dRows d
  let own := (instanceId f).toNat
  let sx := xpOf (locBank src)
  let dx := xpOf (locBank dst)
  match dOp d with
  | 1 => [mkLeg .deliver (opOf (locBank src)) 0 1 n]
  | 2 => [mkLeg .collect (opOf (locBank dst)) 0 1 n]
  | 3 =>
    if locInst dst = own then [mkLeg .collect (opOf (locBank dst)) 0 1 n]
    else
      let c := (clustersOf (dMcast d)).headD 0
      [mkLeg .accOut c 0 1 n, mkLeg .accSend (16 + c) 0 1 n]
  | 4 => [mkLeg .moveRead sx 0 1 n, mkLeg .moveWrite dx 0 1 n]
  | 5 =>
    let o := dDst d
    if kindOf o = 2 then
      ((List.range (oDies o)).filter fun m => decide (m < n)).flatMap fun m =>
        if (oHdie o + m) % f.prm.dies = f.prm.die.toNat then
          [mkLeg .moveRead sx m (oDies o) (shareRows n (oDies o) m),
            mkLeg .moveWrite (xpOf (oHbank o % 512)) m (oDies o) (shareRows n (oDies o) m)]
        else [mkLeg .spanRead sx m (oDies o) (shareRows n (oDies o) m)]
    else if locInst dst = own then [mkLeg .moveRead sx 0 1 n, mkLeg .moveWrite dx 0 1 n]
    else [mkLeg .spanRead sx 0 1 n]
  | 6 => [mkLeg .stackWrite dx 0 1 n]
  | 8 => [mkLeg .stackWrite dx 0 1 n]
  | 7 => [mkLeg .stackRead sx 0 1 n]
  | 9 => [mkLeg .fill dx 0 1 n]
  | 10 => [mkLeg .clear dx 0 1 n]
  | _ => []

/-- The stack request an instruction makes, and its port (R198). -/
def jobOf (f : Fab) (q ord : Nat) (d : Desc) (src dst : Loc) : Option (Nat × Job) :=
  let n := dRows d
  let make := fun (op num addr j0 : Nat) (packed : Bool) =>
    let stride := strideOf packed (dSrcFmt d) (dBytes d)
    let a := if op = 4 then addr else addr + j0 * stride
    (servingPort f num).map fun k => (k, (⟨.flight q ord, BitVec.ofNat 8 op,
      sopHeader op 0 0 num a (if op = 4 then oFunc (dSrc d) else 0) packed false (n - 1) 0 (dDstFmt d) (dBytes d / 32 - 1)
        (stride / 8) q (dQclass d) 0, 0, n, false⟩ : Job))
  match dOp d, src, dst with
  | 6, .stack s a j p, _ => make 1 s a j p
  | 8, .stack s a j p, _ => make 4 s a j p
  | 7, _, .stack s a j p => make 2 s a j p
  | _, _, _ => none

/-- What an instruction sets going at its issue (R73, R77, R80, R133). -/
def launch (q ord : Nat) (d : Desc) (src dst : Loc) (f : Fab) : Fab :=
  match dOp d with
  | 0 => completeFlight q ord f
  | 13 => completeFlight q ord f
  | 11 => takeEffect (.descriptor q ord) [(oRidx (dDst d), mapSetBits f d)] f
  | 12 => takeEffect (.descriptor q ord) [(oRidx (dDst d), 0)] f
  | 14 => sendSignals q f
  | 5 => askMore q ord f
  | _ =>
    let f := if dOp d = 2 || dOp d = 3 then
        each (clustersOf (dMcast d)) (fun f c => onCluster f c fun y => { y with collects := y.collects ++ [(q, ord)] }) f
      else f
    if dOp d = 3 && locInst dst != (instanceId f).toNat && (routeTo f (locInst dst)).1.isNone then abortFlight q ord 4 0 0 f
    else if dOp d = 6 || dOp d = 7 || dOp d = 8 then
      match jobOf f q ord d src dst with
      | some (k, j) =>
        if (kportOf f k).st = .up then onKport f k fun x => { x with jobs := x.jobs ++ [j] } else abortFlight q ord 4 0 0 f
      | none => abortFlight q ord 4 0 0 f
    else f

/-- The order of issue that the head of a queue bears: its own again, or the next (R82). -/
def issueOrd (q : Nat) (f : Fab) : Nat :=
  match headItem (queueOf f q) with
  | .again r => r.ord
  | _ => f.dom.issued

/-- XP0 beat count at the acceptance of the head of a queue (R326). -/
def issueSince (q : Nat) (f : Fab) : Nat :=
  match headItem (queueOf f q) with
  | .again r => r.since
  | .fresh w => w.since
  | .none => 0

/-- The flight of a descriptor at its issue: tagged with ME, its places resolved, its group entries as they stand (R76,
R119, R123). -/
def newFlight (q : Nat) (d : Desc) (src dst : Loc) (f : Fab) : Flight :=
  { ord := issueOrd q f, seq := (queueOf f q).seq, desc := d, meTag := f.map.epoch, since := issueSince q f, src := src, dst := dst
    groups := (clustersOf (if dOp d = 1 || dOp d = 2 || dOp d = 3 then dMcast d else 0)).filterMap fun c =>
      if epgroupOf f c (dEpg d) = 0 then none else some (c, epgroupOf f c (dEpg d))
    legs := legsOf f d src dst, segs := [], asks := [], held := [], carry := none, done := 0, lats := [], fsig := none, stopping := none }

/-- The next order of issue, when the head takes it. -/
def countIssue (q : Nat) (f : Fab) : Fab :=
  if issueOrd q f = f.dom.issued then { f with dom := { f.dom with issued := f.dom.issued + 1 } } else f

/-- A flight put among those of its queue in order of issue; `SEQ` advances (R123). -/
def joinFlight (q : Nat) (x : Flight) (f : Fab) : Fab :=
  onQueue f q fun y => { y with seq := y.seq + 1
                                flights := (y.flights.filter fun z => decide (z.ord < x.ord)) ++ [x]
                                  ++ y.flights.filter fun z => decide (x.ord < z.ord) }

/-- The head taken into flight (R73, R123), its resolutions and its issue counted (R209, R293). -/
def enlist (q : Nat) (d : Desc) (src dst : Loc) (f : Fab) : Fab :=
  let x := newFlight q d src dst f
  traceAs 0 q x.seq.toNat x.meTag.toNat d
    (countQueue q 1 1 (touchBoth d (joinFlight q x (takeHead q (countIssue q f)))))

/-- The head issues (R73). -/
def issueHead (q : Nat) (d : Desc) (src dst : Loc) (f : Fab) : Fab :=
  launch q (issueOrd q f) d src dst (enlist q d src dst f)

/-- Check 13 (R75, R170): a route to every destination of a SPAN_MOVE. -/
def routed (f : Fab) (d : Desc) (dst : Loc) : Bool :=
  if dOp d != 5 then true
  else
    let o := dDst d
    if kindOf o = 2 then
      ((List.range (oDies o)).filter fun m => decide (m < dRows d)).all fun m =>
        (routeTo f ((instanceId f).toNat / 8 * 8 + (oHdie o + m) % f.prm.dies)).1.isSome
    else (routeTo f (locInst dst)).1.isSome

/-- The head's fence: whether it may go on, and the state after the test (R74). -/
def passFence (q : Nat) (d : Desc) (f : Fab) : Bool × Fab :=
  match soughtCount d with
  | none => (true, f)
  | some n =>
    if (queueOf f q).head.taken then (true, f)
    else if n ≤ (fenceOf f (dFence d)).toNat then (true, consumeFence q d n f)
    else (false, onQueue f q fun x => { x with head := { x.head with onFence := true } })

/-- Resolution, checks 12 and 13 and issue (R75, R76, R78): a map change whose entry drains waits, counted once. -/
def resolveHead (q : Nat) (d : Desc) (f : Fab) : Fab :=
  if isMapOp d then
    if changeWaits f [oRidx (dDst d)] then
      if (queueOf f q).head.waited then f
      else countInst 0x11 1 (onQueue f q fun x => { x with head := { x.head with waited := true } })
    else issueHead q d .none .none f
  else
    let r := resolveBoth d f
    match r.1 with
    | .inr bit => refuseHead q d 12 bit r.2
    | .inl (src, dst) => if routed r.2 d dst then issueHead q d src dst r.2 else refuseHead q d 13 128 r.2

/-- A fresh head past checks 1 to 11: a place in flight, its fence, then the rest (R73, R74).  The place is asked for before the fence,
so a head behind four in flight neither tests its fence nor counts a wait (log 101). -/
def advanceHead (q : Nat) (d : Desc) (f : Fab) : Fab :=
  if 4 ≤ (queueOf f q).flights.length then f
  else
    let p := passFence q d f
    if p.1 then resolveHead q d p.2 else p.2

/-- Checks 1 to 11 on a fresh head, with an armed parity injection (R75, R297). -/
def checkHead (q : Nat) (d : Desc) (f : Fab) : Fab :=
  if (queueOf f q).head.checked then advanceHead q d f
  else
    let inv := injKind f == 3 && injTarget f % 256 == q
    let f := when inv injFired f
    match checks f d inv with
    | some e => refuseHead q d e.1 e.2 f
    | none => advanceHead q d (onQueue f q fun x => { x with head := { x.head with checked := true } })

/-- The queue's head is taken as far as it can go, when its opcode is `op` or the reserved one (R73, R75, R82; log 16). -/
def runHead (op q : Nat) (f : Fab) : Fab :=
  let x := queueOf f q
  if !isReady f || x.qstate != 0 then f
  else
    match headItem x with
    | .none => f
    | .again r =>
      if dOp r.desc != op || decide (4 ≤ x.flights.length) then f
      else resolveHead q r.desc f
    | .fresh w => if dOp w.desc = op || dOp w.desc = 15 then checkHead q w.desc f else f

/-- A descriptor handed to a queue (R379): accepted where a place is free, else discarded and counted. -/
def intake (q : Nat) (d : Desc) (f : Fab) : Fab :=
  let x := queueOf f q
  if x.intake.length < 8 then
    onQueue f q fun x => { x with intake := x.intake ++ [⟨d, xp0Time f⟩], credits := x.credits - 1 }
  else countQueue q 2 1 f

/-- The flight with this sequence number completes when it has done all it has to (R73). -/
def completeSeq (q : Nat) (sq : BitVec 6) (f : Fab) : Fab :=
  let x := queueOf f q
  match x.flights.find? fun y => y.seq == sq && y.stopping.isNone with
  | none => f
  | some y =>
    let signal := dOp y.desc == 14 && localSignal f y.desc && !earlierPending x y.ord
    if flightDone y || signal then completeFlight q y.ord f else f

/-- The oldest map change completes when nothing tagged earlier remains (R77, R212). -/
def completeChange (f : Fab) : Fab :=
  match oldestChangeDone f with
  | none => f
  | some c =>
    let f := { f with map := { f.map with changes := f.map.changes.drop 1 } }
    match c.by_ with
    | .descriptor q ord => completeFlight q ord f
    | .load h =>
      match f.map.load with
      | some l =>
        let e := l.effect.getD (0, 0, 0)
        let first := if fld l.w0 0 2 = 1 then e.1 else 0xFFFFFFFF
        completeOp h sOk e.2.1 first e.2.2.toNat 0xFFFFFFFF { f with map := { f.map with load := none } }
      | none => f
    | .install _ _ => f
    | .drop => f

/-- MAP_CHANGE_COMPLETE (R77), and the installs and drops of sessions that waited on it (R186). -/
def changeDone (f : Fab) : Fab :=
  let f := applyInstalls (completeChange f)
  each (f.lop.migs.map (·.handle)) (fun f h => finishMigrate h f) f

/-- An abort record and the event of one aborted flight (R81, R289). -/
def recordAbort (q : Nat) (x : Flight) (f : Fab) : Fab :=
  match x.stopping with
  | none => f
  | some a =>
    let r : AbortRec := ⟨x.ord, x.desc, a.reason, x.meTag, x.done, a.addr, a.stack, x.since⟩
    let f := onQueue f q fun y =>
      { y with flights := y.flights.filter fun z => z.ord != x.ord
               records := (y.records.filter fun z => decide (z.ord < x.ord)) ++ [r]
                 ++ y.records.filter fun z => decide (x.ord < z.ord) }
    let f := countQueue q 5 1 f
    let f := traceAs 2 q x.seq.toNat x.meTag.toNat x.desc f
    raise 4 (place [(0, q), (8, a.reason.toNat), (12, x.seq.toNat), (18, x.done), (64, a.addr.toNat), (102, a.stack.toNat)]) f

/-- The abort of a queue is complete when no beat of an aborted instruction remains (R81, R203): the queue halts. -/
def completeAbort (q : Nat) (f : Fab) : Fab :=
  let x := queueOf f q
  let l := x.flights.filter fun y => y.stopping.isSome
  if x.qstate != 2 || l.any fun y => ownerBusy (.flight q y.ord) f then f
  else
    let f := each l (fun f y => recordAbort q y f) f
    withdrawQueue q (onQueue f q fun x => { x with qstate := 3 })

/-- STOP (R288). -/
def stopQueue (q : Nat) (f : Fab) : Fab :=
  let x := queueOf f q
  if x.qstate = 0 then
    settleStop q (onQueue f q fun x => { x with qstate := 1, reason := 5 })
  else f

/-- ABORT and ABORT_SWITCH (R80, R288): every abortable flight is aborted; with none the queue is HALTED at once. -/
def abortQueue (q reason : Nat) (f : Fab) : Fab :=
  let x := queueOf f q
  if 2 ≤ x.qstate.toNat then f
  else
    let l := x.flights.filter (abortable f)
    let f := onQueue f q fun x => { x with qstate := 2, reason := BitVec.ofNat 8 reason }
    let f := each l (fun f y => abortFlight q y.ord reason 0 0 f) f
    if (queueOf f q).flights.any fun y => y.stopping.isSome then f
    else withdrawQueue q (onQueue f q fun x => { x with qstate := 3 })

/-- RESUME in either mode from HALTED (R82, R288, R289): every aborted descriptor, one that an earlier resume has not issued again yet
among them, is issued again in the original order or dropped. -/
def resumeQueue (q : Nat) (again : Bool) (f : Fab) : Fab :=
  let f := onQueue f q fun x => { x with qstate := 0, reason := 0, records := []
                                         reissue := if again then x.records ++ x.reissue else [] }
  sendSignals q f

/-- A write of `Q_CONTROL` (R287, R288): its status and effect. -/
def writeControl (q v : Nat) (f : Fab) : Nat × Fab :=
  let halted := (queueOf f q).qstate == 3
  match v with
  | 1 => (0, stopQueue q f)
  | 2 => (0, abortQueue q 1 f)
  | 3 => (0, abortQueue q 2 f)
  | 4 => if halted then (0, resumeQueue q true f) else (6, f)
  | 5 => if halted then (0, resumeQueue q false f) else (6, f)
  | _ => (0x0B, f)

/-- A dictionary write made by a row of its own: refused with STATE in RETAIN (R264), else carried out, its status put out
(log 17). -/
def byWrite (g : Fab → Nat × Fab) (f : Fab) : Fab :=
  if f.pwr.st = 2 then emit f (.status 6) else emit (g f).2 (.status (BitVec.ofNat 8 (g f).1))

/-- A long fence wait of a queue's head reported once (R226). -/
def longWait (q : Nat) (f : Fab) : Fab :=
  let x := queueOf f q
  match headItem x with
  | .fresh w =>
    if x.head.onFence && f.fenceLimit != 0 && f.fenceLimit.toNat ≤ x.head.rounds && !x.head.reported then
      let d := w.desc
      let f := onQueue f q fun x => { x with head := { x.head with reported := true } }
      raise 6 (place [(0, q), (8, dFence d), (16, (fenceOf f (dFence d)).toNat), (32, (soughtCount d).getD 0)])
        (countQueue q 4 1 f)
    else f
  | _ => f

/-- DESCRIPTOR_INTAKE. -/
def execDescriptorIntake (q : Fin 256) (d : Desc) (s : State) : Host.Outcome State Fault Refusal :=
  onPin (.descriptorIntake q d) s (onFab .main s fun _ f => intake q d f)
/-- NOP (R61, R73). -/
def execNop (q : Fin 256) (s : State) : Host.Outcome State Fault Refusal := onFab .main s fun _ f => runHead 0 q f
/-- DELIVER (R73, R126). -/
def execDeliver (q : Fin 256) (s : State) : Host.Outcome State Fault Refusal := onFab .main s fun _ f => runHead 1 q f
/-- COLLECT (R73, R133). -/
def execCollect (q : Fin 256) (s : State) : Host.Outcome State Fault Refusal := onFab .main s fun _ f => runHead 2 q f
/-- COLLECT_ACC (R73, R137, R139). -/
def execCollectAcc (q : Fin 256) (s : State) : Host.Outcome State Fault Refusal := onFab .main s fun _ f => runHead 3 q f
/-- MOVE (R73, R87). -/
def execMove (q : Fin 256) (s : State) : Host.Outcome State Fault Refusal := onFab .main s fun _ f => runHead 4 q f
/-- SPAN_MOVE (R73, R172). -/
def execSpanMove (q : Fin 256) (s : State) : Host.Outcome State Fault Refusal := onFab .main s fun _ f => runHead 5 q f
/-- STACK_GET (R73, R198). -/
def execStackGet (q : Fin 256) (s : State) : Host.Outcome State Fault Refusal := onFab .main s fun _ f => runHead 6 q f
/-- STACK_PUT (R73, R198). -/
def execStackPut (q : Fin 256) (s : State) : Host.Outcome State Fault Refusal := onFab .main s fun _ f => runHead 7 q f
/-- STACK_CALL (R73, R198). -/
def execStackCall (q : Fin 256) (s : State) : Host.Outcome State Fault Refusal := onFab .main s fun _ f => runHead 8 q f
/-- FILL (R66, R73). -/
def execFill (q : Fin 256) (s : State) : Host.Outcome State Fault Refusal := onFab .main s fun _ f => runHead 9 q f
/-- CLEAR (R15, R73). -/
def execClear (q : Fin 256) (s : State) : Host.Outcome State Fault Refusal := onFab .main s fun _ f => runHead 10 q f
/-- MAP_SET (R77, R79). -/
def execMapSet (q : Fin 256) (s : State) : Host.Outcome State Fault Refusal := onFab .main s fun _ f => runHead 11 q f
/-- MAP_DROP (R77, R210). -/
def execMapDrop (q : Fin 256) (s : State) : Host.Outcome State Fault Refusal := onFab .main s fun _ f => runHead 12 q f
/-- FENCE_WAIT (R74). -/
def execFenceWait (q : Fin 256) (s : State) : Host.Outcome State Fault Refusal := onFab .main s fun _ f => runHead 13 q f
/-- FENCE_SIGNAL (R74). -/
def execFenceSignal (q : Fin 256) (s : State) : Host.Outcome State Fault Refusal := onFab .main s fun _ f => runHead 14 q f
/-- DESCRIPTOR_COMPLETE (R73). -/
def execDescriptorComplete (q : Fin 256) (sq : BitVec 6) (s : State) : Host.Outcome State Fault Refusal :=
  onFab .main s fun _ f => completeSeq q sq f
/-- MAP_CHANGE_COMPLETE (R77). -/
def execMapChangeComplete (s : State) : Host.Outcome State Fault Refusal := onFab .main s fun _ f => changeDone f
/-- ABORT_COMPLETE (R81). -/
def execAbortComplete (q : Fin 256) (s : State) : Host.Outcome State Fault Refusal :=
  onFab .main s fun _ f => completeAbort q f
/-- STOP (R288). -/
def execStop (q : Fin 256) (s : State) : Host.Outcome State Fault Refusal := onFab .ret s fun _ f => byWrite (writeControl q 1) f
/-- ABORT (R288). -/
def execAbort (q : Fin 256) (s : State) : Host.Outcome State Fault Refusal :=
  onFab .ret s fun _ f => byWrite (writeControl q 2) f
/-- ABORT_SWITCH (R288). -/
def execAbortSwitch (q : Fin 256) (s : State) : Host.Outcome State Fault Refusal :=
  onFab .ret s fun _ f => byWrite (writeControl q 3) f
/-- RESUME_REISSUE (R82, R288). -/
def execResumeReissue (q : Fin 256) (s : State) : Host.Outcome State Fault Refusal :=
  onFab .ret s fun _ f => byWrite (writeControl q 4) f
/-- RESUME_DISCARD (R82, R288). -/
def execResumeDiscard (q : Fin 256) (s : State) : Host.Outcome State Fault Refusal :=
  onFab .ret s fun _ f => byWrite (writeControl q 5) f
/-- FENCE_LONG_WAIT (R226). -/
def execFenceLongWait (q : Fin 256) (s : State) : Host.Outcome State Fault Refusal :=
  onFab .main s fun _ f => longWait q f

end Sys2Proof.Machine
end

