-- ==== Sys2Proof/Machine/Legs.lean ====
section
/-!
DEFINITION. The rows and banks of a leg (R67, R69, R127), how many of its rows can move now (R87, R88), and what keeps a
queue's burst from being ready (R218).
-/

namespace Sys2Proof.Machine

/-- Requester codes (R320). -/
def rInbound : Nat := 0x100
def rHost : Nat := 0x101
def rScrub : Nat := 0x102
def rMarch : Nat := 0x103
def rZero : Nat := 0x104
def rLoad : Nat := 0x105

/-- Row address of logical row `i` of a resolved bank operand. -/
def locRow (d : Desc) (x : Loc) (i : Nat) : Nat :=
  match x with
  | .bank _ b r j => rowAddr b r (stripeOf (dStripe d)) (j + i)
  | _ => 0

/-- Tile row of leg row k (R69). -/
def tileRow (l : Leg) (k : Nat) : Nat := l.first + l.step * k

/-- Row address that leg row k reads (R67). -/
def readAddr (x : Flight) (l : Leg) (k : Nat) : Nat := locRow x.desc x.src (tileRow l k)

/-- Row address that leg row k writes (R67, R69). -/
def writeAddr (x : Flight) (l : Leg) (k : Nat) : Nat :=
  let o := dDst x.desc
  if kindOf o = 2 then rowAddr (oHbank o % 512) (oHrow o) (stripeOf (dStripe x.desc)) k
  else locRow x.desc x.dst (tileRow l k)

/-- Row addresses that the beat of leg row k accesses in its banks; `carried` when the rotate's first row is kept from the
beat before (R105). -/
def beatRows (x : Flight) (l : Leg) (k : Nat) : List Nat :=
  match l.kind with
  | .deliver => if dRotate x.desc = 0 then [readAddr x l k] else [readAddr x l k, readAddr x l (k + 1)]
  | .moveRead => [readAddr x l k]
  | .spanRead => [readAddr x l k]
  | .stackRead => [readAddr x l k]
  | .accOut => []
  | .accSend => []
  | _ => [writeAddr x l k]

/-- Banks of `n` leg rows from `k` on. -/
def banksFrom (x : Flight) (l : Leg) (k n : Nat) : List Nat :=
  (((List.range n).flatMap fun i => beatRows x l (k + i)).map bankOf).dedup

/-- Port of the leg that a row in a receive buffer goes on to. -/
def nextPort (x : Flight) (i : Nat) : Nat :=
  match x.legs[i + 1]? with
  | some l => l.port
  | none => 32

/-- Rows of a flight in the receive buffer of port p and not yet accepted by their second beat. -/
def heldAt (x : Flight) (p : Nat) : Nat :=
  (x.held.filter fun h => match x.legs[h.leg]? with
    | some l => l.port == p && decide (l.next ≤ h.idx)
    | none => false).length

/-- Receive buffer rows of port p that a granted burst has reserved and not filled (R87). -/
def reservedBy (f : Fab) (p : Nat) (b : Option Burst) : Nat :=
  match b with
  | none => 0
  | some b =>
    if 256 ≤ b.req then 0
    else
      match flightOf f b.req b.ord with
      | none => 0
      | some x =>
        match x.legs[b.leg]? with
        | none => 0
        | some l => if (l.kind == .moveRead || l.kind == .accOut) && nextPort x b.leg == p then b.len - b.moved else 0

/-- Free rows of port p's 32-row receive buffer (R87). -/
def roomAt (f : Fab) (p : Nat) : Nat :=
  let held := ((allFlights f).map fun e => heldAt e.2 p).sum
  let kept := (f.ports.map fun e => reservedBy f p (burstOf e.2) + reservedBy f p (nextBurst e.2)).sum
  32 - held - kept

/-- The receive context an inbound flit names (R152). -/
def ctxOf (f : Fab) (i : Nat) : Option Ctx := tget none f.dom.ctxs i

/-- `MODE` of a CREDIT_REQ: 0 WRITE, 1 ACCUMULATE, 2 STREAM (R161). -/
def cMode (m : BitVec 512) : Nat := fld m 48 8

/-- Stack of a STREAM grant, and the port that serves it (R161, R163). -/
def streamStack (m : BitVec 512) : Nat := fld m 184 4

/-- A row of a transfer is covered by a grant (R163). -/
def granted (x : Flight) (i k : Nat) : Bool :=
  x.segs.any fun g => g.leg == i && g.phase == .granted && decide (g.first ≤ k) && decide (k < g.first + g.granted)

/-- The grant whose rows leg `i` sends next: the oldest with rows left (R163, R223). -/
def openGrant (f : Fab) (x : Flight) (i : Nat) : Option Seg :=
  x.segs.find? fun g => g.leg == i && g.phase == .granted && decide (g.sent < g.granted) && !pathHeld f g

/-- Rows received for an owner in either stack port's buffer. -/
def rxRows (f : Fab) (o : Owner) : List RxRow := [0, 1].flatMap fun k => (kportOf f k).rx.filter fun r => r.owner == o

/-- The WRITE under which a flight's rows go to a stack, with its port. -/
def writeTag (f : Fab) (o : Owner) : Option (Nat × SopTag) :=
  [0, 1].findSome? fun k => ((kportOf f k).tags.find? fun t => t.job.owner == o && t.job.op == 2 && t.phase == .running).map
    fun t => (k, t)

/-- Write units that the rows of a WRITE need each (R196). -/
def unitsOf (j : Job) : Nat := max 1 ((sStride j.hdr + 63) / 64)

/-- Request slots and write units of stack port k that a granted burst has reserved and not used (R196, R222). -/
def keptBy (f : Fab) (k : Nat) (b : Option Burst) : Nat × Nat :=
  match b with
  | none => (0, 0)
  | some b =>
    if b.req < 256 then
      match (flightOf f b.req b.ord).bind (·.legs[b.leg]?), writeTag f (.flight b.req b.ord) with
      | some l, some (p, t) => if l.kind == .stackRead && p == k then (0, (b.len - b.moved) * unitsOf t.job) else (0, 0)
      | _, _ => (0, 0)
    else if b.req = rInbound then
      match ctxOf f b.leg with
      | some c => if cMode c.req = 2 && servingPort f (streamStack c.req) == some k then (b.len - b.moved, 9 * (b.len - b.moved)) else (0, 0)
      | none => (0, 0)
    else (0, 0)

/-- Request slots and write units of stack port k that no granted burst has reserved (R196, R222). -/
def stackRoom (f : Fab) (k : Nat) : Nat × Nat :=
  let kept := f.ports.flatMap fun e => [keptBy f k (burstOf e.2), keptBy f k (nextBurst e.2)]
  ((kportOf f k).slots - (kept.map (·.1)).sum, (kportOf f k).units - (kept.map (·.2)).sum)

/-- Rows that leg `i` could move now, from its next row on (R87, R88). -/
def legAvail (f : Fab) (q : Nat) (x : Flight) (i : Nat) (l : Leg) : Nat :=
  let left := l.total - l.next
  match l.kind with
  | .deliver => left
  | .fill => left
  | .clear => left
  | .collect => min left (assembledFrom f x l.next)
  | .accOut => min (min left (assembledFrom f x l.next)) (min (runFrom (granted x (i + 1)) 256 l.next) (roomAt f (nextPort x i)))
  | .accSend =>
    match openGrant f x i with
    | none => 0
    | some g => min (g.granted - g.sent) (runFrom (fun k => x.held.any fun h => h.leg == i && h.idx == k) 256 (g.first + g.sent))
  | .moveRead => min left (roomAt f (nextPort x i))
  | .moveWrite => min left (runFrom (fun k => x.held.any fun h => h.leg == i && h.idx == k) 256 l.next)
  | .spanRead =>
    match openGrant f x i with
    | none => 0
    | some g => g.granted - g.sent
  | .stackWrite => min left (runFrom (fun k => (rxRows f (.flight q x.ord)).any fun r => r.idx == k) 256 l.next)
  | .stackRead =>
    match writeTag f (.flight q x.ord) with
    | none => 0
    | some (k, t) => min (t.job.rows - t.index) ((stackRoom f k).2 / unitsOf t.job)

/-- First leg row of the burst that leg `i` would move next. -/
def legStart (f : Fab) (q : Nat) (x : Flight) (i : Nat) (l : Leg) : Nat :=
  match l.kind with
  | .accSend => match openGrant f x i with
    | some g => g.first + g.sent
    | none => l.next
  | .spanRead => match openGrant f x i with
    | some g => g.first + g.sent
    | none => l.next
  | .stackRead => match writeTag f (.flight q x.ord) with
    | some (_, t) => t.job.base + t.index
    | none => l.next
  | _ => l.next

/-- First row of leg i that may still have a beat, as port p judges it: a burst of the leg under way on another port may yet be
discarded, by a preemption or a halt, and moves its rows again from its first (R100 to R102, R218, R298). -/
def againFrom (f : Fab) (q p : Nat) (x : Flight) (i : Nat) (l : Leg) : Nat :=
  match burstOf (portOf f l.port) with
  | some b =>
    let mine := l.port != p && b.req == q && b.ord == x.ord && b.leg == i
    let discardable := (b.grant == .background || f.sec.level == 2) && !(sendsOut l.kind && b.moved != 0)
    if mine && discardable then min l.next b.first else l.next
  | none => l.next

/-- Banks that still await a beat of a flight, as port p judges it (R218). -/
def awaited (f : Fab) (q p : Nat) (x : Flight) : List Nat :=
  ((List.range x.legs.length).zip x.legs).flatMap fun e =>
    let k := againFrom f q p x e.1 e.2
    banksFrom x e.2 k (e.2.total - k)

/-- A bank of the burst that port p would grant still awaits a beat of an earlier burst of the queue (R218). -/
def blocked (f : Fab) (q p : Nat) (x : Flight) (banks : List Nat) : Bool :=
  (queueOf f q).flights.any fun z =>
    decide (z.ord < x.ord) && z.stopping.isNone && (awaited f q p z).any fun b => banks.contains b

/-- The burst a queue would move next on a port: flight, leg, first row, rows available (R86, R87, R218). -/
def wantOf (f : Fab) (q p : Nat) : Option (Nat × Nat × Nat × Nat) :=
  let y := queueOf f q
  (y.flights.filter fun x => x.stopping.isNone).findSome? fun x =>
    ((List.range x.legs.length).zip x.legs).findSome? fun e =>
      if e.2.port != p then none
      else
        let n := legAvail f q x e.1 e.2
        let k := legStart f q x e.1 e.2
        if n = 0 || blocked f q p x (banksFrom x e.2 k (min n 16)) then none else some (x.ord, e.1, k, n)

end Sys2Proof.Machine
end

