-- ==== Sys2Proof/Machine/Integrity.lean ====
section
/-!
DEFINITION. The maintenance engines of a group: scrub visits and repair writes (R237, R244 to R246), the march engine
(R251 to R255) and what a borrowed bank does to other accesses (R253, R254).
-/

namespace Sys2Proof.Machine

/-- `f` with its integrity state put through `g`. -/
def onInteg (f : Fab) (g : Integ → Integ) : Fab := { f with integ := g f.integ }

/-- The march engine of group n. -/
def engineOf (f : Fab) (n : Nat) : Option Engine :=
  match f.integ.march with
  | some m => tget none m.engines n
  | none => none

/-- The engine of group n put through `g`. -/
def onEngine (n : Nat) (g : Engine → Engine) (f : Fab) : Fab :=
  let next := fun (m : MarchRun) => tset none m.engines n ((tget none m.engines n).map g)
  onInteg f fun i => { i with march := i.march.map fun m => { m with engines := next m } }

/-- The MARCH put through `g`. -/
def onMarch (g : MarchRun → MarchRun) (f : Fab) : Fab := onInteg f fun i => { i with march := i.march.map g }

/-- Fields of MARCH's arguments (R255). -/
def mFirstBank (m : MarchRun) : Nat := fld m.w0 0 9
def mLastBank (m : MarchRun) : Nat := fld m.w0 9 9
def mPreserving (m : MarchRun) : Bool := fld m.w0 18 2 == 1
def mAlg (m : MarchRun) : Nat := fld m.w0 20 2
def mFirstRow (m : MarchRun) : Nat := fld m.w1 0 8
def mLastRow (m : MarchRun) : Nat := fld m.w1 8 8

/-- The bank is borrowed by a march: none, or whether the run preserves (R253). -/
def borrowedBy (f : Fab) (b : Nat) : Option Bool :=
  match f.integ.march, engineOf f (b / 32) with
  | some m, some e => if e.borrowed && e.bank == b then some (mPreserving m) else none
  | _, _ => none

/-- The bank is under a DESTRUCTIVE run (R254). -/
def destroyed (f : Fab) (b : Nat) : Bool := borrowedBy f b == some false

/-- An access to a bank under a DESTRUCTIVE run is counted and reported (R254). -/
def reportBorrowed (b requester : Nat) (f : Fab) : Fab :=
  raise 0x15 (place [(0, b), (16, requester)]) (countInst 0x1A 1 f)

/-- A claim on a bank that a PRESERVING run has borrowed (R253). -/
def claimBank (b : Nat) (urgent : Bool) (f : Fab) : Fab :=
  onEngine (b / 32) (fun e => { e with claim := true, urgent := e.urgent || urgent }) f

/-- The 137 bits a background puts at word w of row r (R236, R251): `inv` for a "1" operation. -/
def patternWord (bg w r : Nat) (inv : Bool) : Code :=
  let one : Code := BitVec.allOnes 137
  let odd : Code := BitVec.ofNat 137 ((4 ^ 69 - 1) / 3 * 2)
  let base : Code := match bg with
    | 0 => 0
    | 1 => if (w + r) % 2 = 1 then one else 0
    | 2 => if w / 4 % 2 = 1 then ~~~odd else odd
    | _ => if r % 2 = 1 then one else 0
  if inv then ~~~base else base

/-- A row of a background. -/
def patternRow (bg r : Nat) (inv : Bool) : List Code := (List.range 36).map fun w => patternWord bg w r inv

/-- One march element: descending, and its operations as (write, one). -/
abbrev Element := Bool × List (Bool × Bool)

/-- Elements of an algorithm over one background (R251). -/
def elementsOf (alg : Nat) : List Element :=
  if alg = 0 then [(false, [(true, false)]), (false, [(false, false), (true, true)]), (true, [(false, true), (true, false)])]
  else
    [(false, [(true, false)]), (false, [(false, false), (true, true)]), (false, [(false, true), (true, false)]),
      (true, [(false, false), (true, true)]), (true, [(false, true), (true, false)]), (false, [(false, false)])]

/-- Operations of an algorithm over one bank and one background. -/
def opsPerBg (alg : Nat) : Nat := if alg = 0 then 1280 else 2560

/-- Operations of an algorithm over one bank (R251). -/
def opsOf (alg : Nat) : Nat := if alg = 2 then 10240 else opsPerBg alg

/-- Row, write and one of operation i among a list of elements. -/
def findOp : List Element → Nat → Nat × Bool × Bool
  | [], _ => (0, false, false)
  | e :: t, i =>
    let n := e.2.length
    if i < 256 * n then
      let r := i / max 1 n
      let o := e.2.getD (i % max 1 n) (false, false)
      (if e.1 then 255 - r else r, o.1, o.2)
    else findOp t (i - 256 * n)

/-- Operation i of a DESTRUCTIVE algorithm: background, row, write, one. -/
def marchOp (alg i : Nat) : Nat × Nat × Bool × Bool := (i / opsPerBg alg, findOp (elementsOf alg) (i % opsPerBg alg))

/-- A failing row found (R255): counted, reported, and kept in the summary. -/
def marchFail (ra : Nat) (preserving : Bool) (f : Fab) : Fab :=
  let n := ra / 8192
  let seen := match engineOf f n with
    | some e => e.failed.contains (ra % 256)
    | none => true
  if seen then f
  else
    let f := onEngine n (fun e => { e with failed := ra % 256 :: e.failed }) f
    let f := onMarch (fun m => { m with lowest := some (min ra (m.lowest.getD ra)), highest := some (max ra (m.highest.getD ra)) }) f
    raise 0x14 (place [(0, ra), (24, preserving.toNat)]) (countInst 0x19 1 f)

/-- The engine of group n is done with its bank: the next bank of the range in the group, or none (R251, R252). -/
def finishBank (n : Nat) (f : Fab) : Fab :=
  match f.integ.march, engineOf f n with
  | some m, some e =>
    let bad := !e.failed.isEmpty
    let f := onMarch (fun m => { m with banks := m.banks + 1, badBanks := m.badBanks + bad.toNat }) f
    let f := when (bad && !mPreserving m) (retireBank e.bank true false) f
    let last := e.bank % 32 == 31 || e.bank == mLastBank m
    onEngine n (fun e => { e with bank := if last then e.bank else e.bank + 1, borrowed := false, row := mFirstRow m, op := 0
                                  saved := none, claim := false, urgent := false, bad := false, failed := [], quietFrom := 0
                                  finished := last }) f
  | _, _ => f

/-- Operations that the engine of group n could move now: none while it has no bank or must yield (R253). -/
def marchWants (f : Fab) (n : Nat) : Nat :=
  match f.integ.march, engineOf f n with
  | some m, some e =>
    if !e.borrowed || e.finished then 0
    else if mPreserving m then (if e.claim && (e.urgent || e.op == 0) then 0 else 19 - e.op)
    else opsOf (mAlg m) - e.op
  | _, _ => 0

/-- A restore that did not read back equal (R252): the row's words are as they now stand, which the spec leaves open. -/
def badRestore (ra : Nat) (f : Fab) : Fab :=
  let r := takeFreeWords f
  onStore r.2 fun s => { s with rows := tset zeroWords s.rows ra r.1 }

/-- One operation of the engine of group n; `bad` when a read did not match (R251, R252). -/
def marchBeat (n : Nat) (bad : Bool) (f : Fab) : Fab :=
  match f.integ.march, engineOf f n with
  | some m, some e =>
    if mPreserving m then
      let ra := 256 * e.bank + e.row
      let isRead := e.op == 18 || (1 ≤ e.op && e.op ≤ 16 && (e.op - 1) % 2 == 1)
      let f :=
        if e.op = 0 then onEngine n (fun e => { e with saved := some (arrayWords f.store ra) }) f
        else if e.op = 17 then storeRow ra (e.saved.getD zeroWords) f
        else if isRead then when bad (fun f => marchFail ra true (if e.op = 18 then badRestore ra f else f)) f
        else storeRow ra (patternRow ((e.op - 1) / 4) e.row ((e.op - 1) % 4 == 2)) f
      if e.op < 18 then onEngine n (fun e => { e with op := e.op + 1 }) f
      else if e.row < mLastRow m then onEngine n (fun e => { e with row := e.row + 1, op := 0, saved := none }) f
      else finishBank n f
    else
      let o := marchOp (mAlg m) e.op
      let ra := 256 * e.bank + o.2.1
      let f :=
        if o.2.2.1 then storeRow ra (patternRow o.1 o.2.1 o.2.2.2) f
        else when bad (marchFail ra false) f
      if e.op + 1 < opsOf (mAlg m) then onEngine n (fun e => { e with op := e.op + 1 }) f else finishBank n f
  | _, _ => f

/-- A DESTRUCTIVE run takes a bank: all its rows UNWRITTEN with fresh parity (R252). -/
def wipeStates (b : Nat) (f : Fab) : Fab :=
  onStore f fun s => { s with rstate := s.rstate.filter fun e => e.1 / 32 != b, told := s.told.filter fun e => e.1 / 256 != b }

/-- The saved row written back through the posted write buffer, and the bank yielded (R253); `n` is the engine's group. -/
def yieldBank (n : Nat) (f : Fab) : Fab :=
  match engineOf f n with
  | none => f
  | some e =>
    let ra := 256 * e.bank + e.row
    let mid := e.op != 0
    let f := match e.saved with
      | some ws => when mid (storeRow ra ws) f
      | none => f
    let f := onMarch (fun m => { m with yields := min 0xFFFF (m.yields + 1)
                                        abandoned := min 0xFFFF (m.abandoned + mid.toNat) }) f
    onEngine n (fun e => { e with borrowed := false, op := 0, saved := none, claim := false, urgent := false, bad := false
                                  quietFrom := (portOf f (16 + n)).rounds + 1 }) f

/-- An access to a bank that a PRESERVING run has yielded and will borrow again starts its quiet time anew (R253). -/
def disturb (l : List Nat) (f : Fab) : Fab :=
  each ((l.map bankOf).dedup) (fun f b =>
    match engineOf f (b / 32) with
    | some e =>
      if e.bank = b && !e.borrowed && e.quietFrom != 0 then
        onEngine (b / 32) (fun e => { e with quietFrom := (portOf f (16 + b / 32)).rounds + 1 }) f
      else f
    | none => f) f

/-- The engine of group n takes its bank. -/
def borrowBank (n : Nat) (f : Fab) : Fab :=
  match f.integ.march, engineOf f n with
  | some m, some e =>
    let f := onEngine n (fun e => { e with borrowed := true, claim := false, urgent := false }) f
    when (!mPreserving m && e.op == 0) (wipeStates e.bank) f
  | _, _ => f

/-- Result words of MARCH (R255). -/
def marchWords (m : MarchRun) : Nat × Nat × Nat × Nat :=
  let row := fun (r : Option Nat) => match r with
    | some ra => ra + 2 ^ 31
    | none => 0
  (m.banks + m.badBanks * 2 ^ 10, row m.lowest, row m.highest, min 0xFFFF m.yields + min 0xFFFF m.abandoned * 2 ^ 16)

/-- Fields of SCRUB's argument (R244). -/
def scFirstBank (w : BitVec 32) : Nat := fld w 4 5
def scLastBank (w : BitVec 32) : Nat := fld w 9 5
def scFirstRow (w : BitVec 32) : Nat := fld w 14 8
def scLastRow (w : BitVec 32) : Nat := fld w 22 8

/-- Visits of a SCRUB. -/
def scrubTotal (w : BitVec 32) : Nat := (scLastBank w - scFirstBank w + 1) * (scLastRow w - scFirstRow w + 1)

/-- Row address of visit i in row-major order (R244). -/
def scrubRow (w : BitVec 32) (i : Nat) : Nat :=
  let nb := scLastBank w - scFirstBank w + 1
  (fld w 0 4 * 32 + scFirstBank w + i % nb) * 256 + scFirstRow w + i / nb

/-- The SCRUB of group n put through `g`. -/
def onScrub (n : Nat) (g : ScrubRun → ScrubRun) (f : Fab) : Fab :=
  onInteg f fun i => { i with scrubs := tset none i.scrubs n ((tget none i.scrubs n).map g) }

/-- Visits and repairs the SCRUB requester of group n could move now (R237, R244, R246). -/
def scrubWants (f : Fab) (n : Nat) : Nat :=
  let repairs := (tget [] f.integ.repairs n).length
  match tget none f.integ.scrubs n with
  | none => repairs
  | some s =>
    let wait := s.visited < scrubTotal s.w && borrowedBy f (bankOf (scrubRow s.w s.visited)) == some true
    if repairs = 0 && wait then 0 else repairs + (scrubTotal s.w - s.visited)

/-- What a corrected rewrite stores for a word (R240, R245). -/
def mendedWord (c : Code) : Code :=
  match classOf c with
  | .clean => c
  | .correctable => encodeWord (deliveredData c)
  | _ => poisonWord (dataOf c)

/-- A row of state `st` rewritten with its correctable words corrected and the others with the poison syndrome (R237, R245).  A
POISONED row stays POISONED and the reserved state stays (R53, R55; log 100). -/
def mendRow (p ra st : Nat) (ws : List Code) (f : Fab) : Fab :=
  let out := ws.map mendedWord
  let bad := out.any fun c => classOf c == .poison
  settleRepair ra (postWords p ra out (BitVec.allOnes 36) (if st = 1 && bad then 2 else st) f)

/-- What checking words does to a row of state `st` where no rewrite follows: a WRITTEN row with an uncorrectable word becomes
POISONED (R53). -/
def markPoisoned (ra st : Nat) (ws : List Code) (f : Fab) : Fab :=
  when (st = 1 && ws.any fun c => classOf c == .uncorrectable) (fun f => onStore f (setState ra 2)) f

/-- Row address of the SCRUB requester's next beat in group n, and whether that beat writes the row back (R237, R245): a repair
of a row that still holds a CORRECTABLE word, and a visit that its words call to rewrite. -/
def scrubWrites (f : Fab) (n : Nat) : Bool :=
  let has := fun (ws : List (Nat × Code)) k => ws.any fun e => classOf e.2 == k
  match tget [] f.integ.repairs n with
  | ra :: _ => rawState f.store ra != 0 && has (checkedWords (rmwWords f.store ra) 0) .correctable
  | [] =>
    match tget none f.integ.scrubs n with
    | some s =>
      let ra := scrubRow s.w s.visited
      let seen := checkedWords (rmwWords f.store ra) (heldMask f.store ra (16 + n))
      rawState f.store ra != 0 && ((has seen .correctable && bitAt s.w 30) || has seen .uncorrectable)
    | none => false

/-- A repair write (R237): the row at the head of the group's queue is read again, corrected and written back; a row that no longer
holds a CORRECTABLE word leaves the queue without a write. -/
def repairBeat (n : Nat) (f : Fab) : Fab :=
  match tget [] f.integ.repairs n with
  | [] => f
  | ra :: rest =>
    let f := onInteg f fun i => { i with repairs := tset [] i.repairs n rest }
    if destroyed f (bankOf ra) then reportBorrowed (bankOf ra) 0x102 f
    else
      let f := checkState ra f
      let st := rawState f.store ra
      if st = 0 then f
      else
        let ws := rmwWords f.store ra
        let f := reportWords ra 4 (16 + n) (st != 1) (checkedWords ws 0) f
        if ws.any fun c => classOf c == .correctable then countGroup n 5 1 (mendRow (16 + n) ra st ws f)
        else markPoisoned ra st ws f

/-- One scrub visit (R245, R246). -/
def visitBeat (n : Nat) (f : Fab) : Fab :=
  match tget none f.integ.scrubs n with
  | none => f
  | some s =>
    let ra := scrubRow s.w s.visited
    let f := checkState ra f
    let st := rawState f.store ra
    if st = 0 then onScrub n (fun s => { s with visited := s.visited + 1, skipped := s.skipped + 1 }) f
    else
      let ws := rmwWords f.store ra
      let held := heldMask f.store ra (16 + n)
      let f := noteBleat (16 + n) rScrub ra (held != 0) f
      let first := checkedWords ws held
      let has := fun (l : List (Nat × Code)) k => l.any fun e => classOf e.2 == k
      let again := (has first .correctable && bitAt s.w 30) || has first .uncorrectable
      -- the merge read of a rewrite checks the words that the visit's read did not get (R109, R245)
      let seen := if again then checkedWords ws 0 else first
      let f := reportWords ra 3 (16 + n) (st != 1) seen f
      let is := fun k => (seen.filter fun e => classOf e.2 == k).length
      let ce := is .correctable
      let ue := is .uncorrectable
      let f := if again then mendRow (16 + n) ra st ws f else f
      let failing := ce + ue + is .poison != 0
      let gra := ra % 8192
      let poisoned := decide (2 ≤ rawState f.store ra)
      onScrub n (fun s => { s with visited := s.visited + 1, ce := s.ce + ce, ue := s.ue + ue
                                   firstBad := if failing then some (s.firstBad.getD gra) else s.firstBad
                                   lastBad := if failing then some gra else s.lastBad
                                   poisoned := s.poisoned + poisoned.toNat, rewritten := s.rewritten + again.toNat }) f

/-- Row address the SCRUB requester of group n accesses next, and whether it writes. -/
def scrubNext (f : Fab) (n : Nat) : Option Nat :=
  match tget [] f.integ.repairs n with
  | ra :: _ => some ra
  | [] =>
    match tget none f.integ.scrubs n with
    | some s => if s.visited < scrubTotal s.w then some (scrubRow s.w s.visited) else none
    | none => none

/-- One beat of the SCRUB requester: a repair first, else a visit (R237). -/
def scrubBeat (n : Nat) (f : Fab) : Fab := if (tget [] f.integ.repairs n).isEmpty then visitBeat n f else repairBeat n f

/-- Result words of SCRUB (R246). -/
def scrubWords (s : ScrubRun) : Nat × Nat × Nat × Nat :=
  let bad := match s.firstBad, s.lastBad with
    | some a, some b => a + b * 2 ^ 16 + 2 ^ 31
    | _, _ => 0
  (s.visited + s.skipped * 2 ^ 14 + fld s.w 0 4 * 2 ^ 28, min 0xFFFF s.ce + min 0xFFFF s.ue * 2 ^ 16, bad,
    s.poisoned + s.rewritten * 2 ^ 14)

/-- SCRUB of a group ends with its summary (R246). -/
def endScrub (n status : Nat) (f : Fab) : Fab :=
  match tget none f.integ.scrubs n with
  | none => f
  | some s =>
    let w := scrubWords s
    completeOp s.handle status w.1 w.2.1 w.2.2.1 w.2.2.2 (onInteg f fun i => { i with scrubs := tset none i.scrubs n none })

/-- The MARCH ends with its summary (R255); a PRESERVING run restores the rows it holds. -/
def endMarch (status : Nat) (f : Fab) : Fab :=
  match f.integ.march with
  | none => f
  | some m =>
    let restore := fun (f : Fab) (n : Nat) =>
      match engineOf f n with
      | some e => match e.saved with
        | some ws =>
          if e.borrowed then storeRow (256 * e.bank + e.row) ws f else f
        | none => f
      | none => f
    let f := each (List.range 16) restore f
    let w := marchWords m
    completeOp m.handle status w.1 w.2.1 w.2.2.1 w.2.2.2 (onInteg f fun i => { i with march := none })

end Sys2Proof.Machine
end

