-- ==== Sys2Proof/Machine/Ports.lean ====
section
/-!
DEFINITION. The decision of a port's next round: its requesters and what each could move (R86, R87), slot entries
(R89 to R92), the order of R96, background ranking, back-off and quotas (R97 to R99), guard grants and preemption
(R100, R101, R227, R228), the fall-back arbitration (R110), dilution (R333) and the emptiness of a port (R104).
-/

namespace Sys2Proof.Machine

/-- Row address of tile row `t` of a grant (R163). -/
def grantRow (m : BitVec 512) (t : Nat) : Nat := rowAddr (fld m 80 9) (fld m 72 8) (stripeOf (fld m 89 2)) (fld m 192 12 + t)

/-- XP that an inbound flit goes through (R163): its bank's, and for a STREAM chunk XP `RCTX` mod 16 (DESIGN CHOICE,
log 21); 32 when its context is gone. -/
def inPort (f : Fab) (b : BitVec 4672) : Nat :=
  match ctxOf f (fCtx b) with
  | none => 32
  | some c => if cMode c.req = 2 then 16 + fCtx b % 16 else xpOf (bankOf (grantRow c.req (fTrow b)))

/-- Banks that the rows of a receive context lie in (R163, R254). -/
def ctxBanks (c : Ctx) : List Nat :=
  if cMode c.req = 2 then [] else (List.range c.granted).map fun i => bankOf (grantRow c.req (fld c.req 64 8 + i))

/-- A STREAM chunk can be handed to the stack path now: a request slot and write units are held and no granted burst has reserved
them (R196, R222). -/
def streamRoom (f : Fab) (m : BitVec 512) : Bool :=
  match servingPort f (streamStack m) with
  | some k => (kportOf f k).st != .up || (0 < (stackRoom f k).1 && 9 ≤ (stackRoom f k).2)
  | none => true

/-- A STREAM_POISON for a chunk of a context waits to be processed (R200). -/
def notePending (f : Fab) (i t : Nat) : Bool :=
  f.dom.inbox.any fun m => fld m.bits 0 8 == 0x0B && fld m.bits 48 12 == i && fld m.bits 64 8 == t

/-- Inbound flits that XP p has still to move, oldest first. -/
def inboundAt (f : Fab) (p : Nat) : List InFlit := f.dom.inbound.filter fun x => !x.moved && inPort f x.bits == p

/-- What INBOUND would move next on XP p: context, and flits of it in a row (R87). -/
def inboundWant (f : Fab) (p : Nat) : Option (Nat × Nat) :=
  match inboundAt f p with
  | [] => none
  | x :: t =>
    match ctxOf f (fCtx x.bits) with
    | none => none
    | some c =>
      if cMode c.req = 2 then
        if streamRoom f c.req && !notePending f (fCtx x.bits) (fTrow x.bits) then some (fCtx x.bits, 1) else none
      else some (fCtx x.bits, ((x :: t).takeWhile fun y => fCtx y.bits == fCtx x.bits).length)

/-- The power transition that runs is in this phase. -/
def inPhase (f : Fab) (n : Nat) : Bool :=
  match f.pwr.trans with
  | some t => t.phase == n
  | none => false

/-- Ports have stopped granting for a transition, an entry or a RESTART (R315, R348, R349, R351). -/
def leaving (f : Fab) : Bool :=
  inPhase f 0 || inPhase f 1 || inPhase f 2 || inPhase f 5 || f.pwr.parked || f.start.entering

/-- The ZEROIZE requester is served: in ON but during a quiesce, for a security zeroize, and at the entry to RETAIN or OFF,
which finishes a ZEROIZE first (R315, R317, R357). -/
def zeroGoes (f : Fab) : Bool :=
  f.sec.zeroing || inPhase f 1 || (f.pwr.st == 0 && !inPhase f 0 && !f.pwr.parked)

/-- Rows that the ZEROIZE requester has still to write in group n (R317). -/
def zeroLeft (f : Fab) (n : Nat) : Nat :=
  match f.lop.zero with
  | some z => if z.begun && bitAt z.scope 0 && zeroGoes f then 8192 - tget 0 z.rows n else 0
  | none => 0

/-- Rows or operations of a burst under way that have not moved and belong to requester `r`. -/
def inFlight (x : Port) (r : Nat) : Nat :=
  match x.cur with
  | .burst b => if b.req = r then b.len - b.moved else 0
  | _ => 0

/-- Row address of bank row `r` of a MAP_LOAD's source (R67, R211). -/
def loadRow (l : MapLoadRun) (r : Nat) : Nat := rowAddr (fld l.w1 1 9) (fld l.w1 10 8) (stripeOf (fld l.w1 18 2)) r

/-- Rows of banks that a MAP_LOAD reads, and how many of them it has read (R211). -/
def loadRows (l : MapLoadRun) : Nat := (fld l.w0 2 13 + 32) / 32
def loadDone (l : MapLoadRun) : Nat := (l.recs.length + 31) / 32

/-- Bank rows that the MAP_LOAD has still to read through XP p (R211, R212). -/
def loadWants (f : Fab) (p : Nat) : Nat :=
  match f.map.load with
  | some l =>
    if fld l.w0 0 2 = 2 || bitAt l.w1 0 || xpOf (bankOf (loadRow l 0)) != p then 0 else loadRows l - loadDone l
  | none => 0

/-- The burst that requester `r` would move next on port p: flight, leg or context, first row, how many (R86, R87). -/
def wantsOf (f : Fab) (p r : Nat) : Option (Nat × Nat × Nat × Nat) :=
  let some' := fun n => if n = 0 then none else some (0, 0, 0, n)
  if r < 256 then wantOf f r p
  else if p < 16 then none
  else if r = rInbound then (inboundWant f p).map fun w => (0, w.1, 0, w.2)
  else if r = rHost then some' (min 1 ((f.bdp.accesses.filter fun a => xpOf (bankOf a.ra) == p).length - inFlight (portOf f p) r))
  else if r = rScrub then some' (scrubWants f (p - 16) - inFlight (portOf f p) r)
  else if r = rMarch then some' (marchWants f (p - 16) - inFlight (portOf f p) r)
  else if r = rLoad then some' (loadWants f p - inFlight (portOf f p) r)
  else some' (zeroLeft f (p - 16) - inFlight (portOf f p) r)

/-- `n` of a list's first items that satisfy `c` put through `g`. -/
def markFirst {α : Type} (c : α → Bool) (g : α → α) : Nat → List α → List α
  | 0, l => l
  | _ + 1, [] => []
  | n + 1, x :: t => if c x then g x :: markFirst c g n t else x :: markFirst c g (n + 1) t

/-- The first segment that satisfies `c` put through `g`. -/
def onSeg (c : Seg → Bool) (g : Seg → Seg) (x : Flight) : Flight := { x with segs := markFirst c g 1 x.segs }

/-- The grant that a leg's next row goes out under. -/
def isOpen (f : Fab) (i : Nat) (g : Seg) : Bool :=
  g.leg == i && g.phase == .granted && decide (g.sent < g.granted) && !pathHeld f g

/-- `n` rows of a leg counted as moved, for the judgement of what could move after them (R95). -/
def passRows (q ord i n : Nat) (f : Fab) : Fab :=
  match flightOf f q ord with
  | none => f
  | some x =>
    match x.legs[i]? with
    | none => f
    | some l =>
      let f := onFlight q ord (fun x => onLeg i (fun l => { l with next := l.next + n })
        (if l.kind = .spanRead || l.kind = .accSend then onSeg (isOpen f i) (fun g => { g with sent := g.sent + n }) x else x)) f
      match l.kind, writeTag f (.flight q ord) with
      | .stackRead, some (k, t) => onTag k t.tag (fun t => { t with index := t.index + n }) f
      | _, _ => f

/-- The state as the burst under way on port p will leave it, for judging requests made behind it (R95). -/
def ahead (p : Nat) (f : Fab) : Fab :=
  match (portOf f p).cur with
  | .burst b =>
    if b.req < 256 then passRows b.req b.ord b.leg (b.len - b.moved) f
    else if b.req = rInbound then
      let mine := fun (x : InFlit) => !x.moved && fCtx x.bits == b.leg && inPort f x.bits == p
      { f with dom := { f.dom with inbound := markFirst mine (fun x => { x with moved := true }) (b.len - b.moved) f.dom.inbound } }
    else f
  | _ => f

/-- Requesters that stand ready on port p (R86, R87), ascending by code; ZEROIZE apart. -/
def readyOn (f : Fab) (p : Nat) : List Nat :=
  let f := ahead p f
  ((f.queues.map (·.1)).filter fun q => (wantOf f q p).isSome)
    ++ [rInbound, rHost, rScrub, rMarch, rLoad].filter fun r => (wantsOf f p r).isSome

/-- Level of a requester in background ranking (R86), one higher so that SCRUB and MARCH stand at 0, which rank as one level
(log 99); a MAP_LOAD reads at the lowest arbitration level, that of a level-0 queue (R212; log 99). -/
def levelOf (f : Fab) (r : Nat) : Nat :=
  if r < 256 then (queueOf f r).level.toNat + 1 else if r ≤ rHost then 3 else if r = rLoad then 1 else 0

/-- The requester is masked by its quota (R99); `fresh` when the round opens a window. -/
def masked (f : Fab) (p r : Nat) (fresh : Bool) : Bool :=
  r < 256 && (queueOf f r).level == 3
    && decide ((queueOf f r).quota.toNat ≤ if fresh then 0 else (tget {} (portOf f p).reqs r).used)

/-- The port grants nothing but to ZEROIZE: frozen, halted, in a frozen group, calibrated by a start, or leaving its state
(R103, R298, R335, R337, R348). -/
def stillPort (f : Fab) (p : Nat) : Bool :=
  (portOf f p).freeze || bitAt f.sec.portHalt p || bitAt f.th.frozen (p % 16) || atStage f 3 || leaving f

/-- Requests as they stand now (R97): a requester newly ready begins its age, one no longer ready ends it (R227). -/
def refreshReqs (p : Nat) (f : Fab) : Fab :=
  let ready := readyOn f p
  let now := (portOf f p).rounds
  let begin' := fun (t : Tbl Req) (r : Nat) =>
    let q := tget {} t r
    if q.since.isSome then t else tset {} t r { q with since := some now }
  onPort f p fun x =>
    let kept := tmap {} (fun r q => if ready.contains r then q else { q with since := none, guard := 0 }) x.reqs
    { x with reqs := ready.foldl begin' kept }

/-- One round counted in the guard waits of the requesters that stood ready during it (R227). -/
def tickGuards (p : Nat) (f : Fab) : Fab :=
  if stillPort f p then f
  else
    let ready := readyOn f p
    let counts := fun r (q : Req) => q.since.isSome && ready.contains r && r ≤ rHost && !masked f p r false
    onPort f p fun x => { x with reqs := tmap {} (fun r q => if counts r q then { q with guard := q.guard + 1 } else q) x.reqs }

/-- Age of a standing request at round `now` (R97). -/
def ageOf (now : Nat) (q : Req) : Nat := min 0xFFFF (now - q.since.getD now)

/-- Guarded requesters among those that stand ready: the one with the greatest guard wait, lowest code first (R228). -/
def guardedOf (f : Fab) (p : Nat) (ready : List Nat) : Option Nat :=
  let x := portOf f p
  let g := fun r => (tget {} x.reqs r).guard
  let l := ready.filter fun r => r ≤ rHost && decide (f.stallBound.toNat ≤ g r)
  let top := (l.map g).foldl max 0
  l.find? fun r => g r == top

/-- A round granted to requester `r` (R88, R98, R99): its burst, and the end of its request. -/
def grantTo (p r : Nat) (how : Grant) (bm1 : Nat) (f : Fab) : Round × Fab :=
  match wantsOf (ahead p f) p r with
  | none => (.empty, f)
  | some w =>
    let x := portOf f p
    let q := tget {} x.reqs r
    let most := if r < 256 then (queueOf f r).maxBurst.toNat else 16
    let len := max 1 (min (bm1 + 1) (min most w.2.2.2))
    let b : Burst := ⟨r, w.1, w.2.1, how, len, 0, w.2.2.1, q.since.getD x.rounds, q.guard, false, false, false, false⟩
    let charged := r < 256 && (queueOf f r).level == 3 && (how == .background || how == .preempt)
    let f := onReq p r (fun q => { used := q.used + charged.toNat }) f
    let f := match how with
      | .owned => countPort p 2 1 f
      | .background => countPort p 3 1 f
      | .preempt => countPort p 4 1 f
      | .guard => countPort p 0x0F 1 f
      | .exclusive => f
    (.burst b, f)

/-- A candidate that was not chosen for round `m` has lost it (R98). -/
def loseRound (p m : Nat) (f : Fab) (r : Nat) : Fab :=
  let f := countPort p 5 1 f
  if rHost < r then f
  else
    let x := portOf f p
    let l := (tget {} x.reqs r).losses + 1
    let back := min (2 ^ min (l - 1) 16) x.backoffCap.toNat
    countMax (0x8100 + p) 7 back (onReq p r (fun q => { q with losses := l, backUntil := m + back + 1 }) f)

/-- Background ranking for round `m` (R97): the requester chosen among `ready`.  Where no requester has been granted at a level yet
its rotation starts at the lowest code, and only a ranking moves it (log 99). -/
def rankRound (p m bm1 : Nat) (ready : List Nat) (f : Fab) : Round × Fab :=
  let x := portOf f p
  let cands := ready.filter fun r => decide ((tget {} x.reqs r).backUntil ≤ m) && !masked f p r false
  let top := (cands.map (levelOf f)).foldl max 0
  let best := cands.filter fun r => levelOf f r == top
  let age := fun r => ageOf x.rounds (tget {} x.reqs r)
  let oldest := (best.map age).foldl max 0
  let best := best.filter fun r => age r == oldest
  let after := match tget none x.lastAt top with
    | some w => best.filter fun r => decide (w < r)
    | none => best
  match (after ++ best).head? with
  | none => (.empty, f)
  | some w =>
    let f := onPort f p fun x => { x with lastAt := tset none x.lastAt top (some w) }
    grantTo p w .background bm1 (each (cands.filter (· ≠ w)) (loseRound p m) f)

/-- The fall-back arbitration (R110): the highest level, and among equals the lowest code. -/
def plainRound (p : Nat) (ready : List Nat) (f : Fab) : Round × Fab :=
  let top := (ready.map (levelOf f)).foldl max 0
  match ready.find? fun r => levelOf f r == top with
  | none => (.empty, f)
  | some w => grantTo p w .background 15 f

/-- Entry of round k, the shadow's when a commit swaps before it (R89, R93). -/
def entryFor (slots : Tbl (BitVec 16)) (x : Port) (p k : Nat) (crossing : Bool) : BitVec 16 :=
  slotOf slots (xor x.active (crossing && x.commit.isSome)).toNat p k

/-- Fields of a slot entry (R90). -/
def eQueue (e : BitVec 16) : Nat := fld e 0 8
def eKind (e : BitVec 16) : Nat := fld e 8 2
def eBurst (e : BitVec 16) : Nat := fld e 10 4
def eOdd (e : BitVec 16) : Bool := oddOnes 16 e.toNat

/-- Owner of an OWNED or INBOUND round (R90). -/
def ownerOf (e : BitVec 16) : Option Nat :=
  if eKind e = 1 then some (eQueue e) else if eKind e = 3 then some rInbound else none

/-- Dilution N of the throttle level, 0 at level 0 (R333). -/
def dilutionOf (f : Fab) : Nat :=
  match f.th.level.toNat with
  | 0 => 0
  | 1 => f.th.dilAct1.toNat
  | 2 => f.th.dilAct2.toNat
  | _ => f.th.dilAct3.toNat

/-- The throttle forces the port's next round idle (R333). -/
def forcedIdle (f : Fab) (p : Nat) : Bool :=
  let n := dilutionOf f
  n != 0 && decide (n - 1 ≤ (portOf f p).dilution)

/-- Port whose leg sent a ROW flit of this instance that waits at a link, 32 when none is known. -/
def flitSender (f : Fab) (t : TxFlit) : Nat :=
  if t.origin.isSome || fType t.bits != 1 then 32
  else
    ((allFlights f).findSome? fun e => (e.2.segs.find? fun g =>
      g.dest.toNat == fDest t.bits && g.rctx.toNat == fCtx t.bits && g.phase != .acked).bind fun g =>
        (e.2.legs[g.leg]?).map (·.port)).getD 32

/-- No beat of a granted burst, no posted write and no row on its way to a link belongs to the port. -/
def portClear (f : Fab) (p : Nat) : Bool :=
  let x := portOf f p
  let posted := f.store.pwb.any fun e => match e.2 with
    | some b => b.port == p
    | none => false
  let waiting := f.links.any fun e => e.2.txq.any fun q => q.2.any fun t => flitSender f t == p
  (burstOf x).isNone && (nextBurst x).isNone && !posted && (p < 16 || !waiting)

/-- Rows of a flight that port p has read and that lie in its own receive buffer. -/
def ownHeld (x : Flight) (p : Nat) : Bool :=
  x.held.any fun h => match x.legs[h.leg]?, x.legs[h.leg - 1]? with
    | some l, some r => l.port == p && r.port == p && decide (l.next ≤ h.idx)
    | _, _ => false

/-- The port is empty (R104; log 28). -/
def portEmpty (f : Fab) (p : Nat) : Bool := portClear f p && (p < 16 || (allFlights f).all fun e => !ownHeld e.2 p)

/-- ZEROIZE begins to clear once every port is empty (R317): a BANKS scope empties the receive buffers itself, and one that
the fabric started waits for its aborts (R357; log 28). -/
def beginZero (f : Fab) : Fab :=
  match f.lop.zero with
  | some z =>
    let clear := (List.range 32).all fun p => if bitAt z.scope 0 then portClear f p else portEmpty f p
    let aborted := !f.sec.zeroing || (allFlights f).all fun e => e.2.stopping.isNone
    if !z.begun && clear && aborted then onLop f fun l => { l with zero := some { z with begun := true } } else f
  | none => f

/-- Round decided for index k, number m of port p, by the order of R96; an owned round that a guard grant takes counts as unused
(log 99). -/
def chooseRound (slots : Tbl (BitVec 16)) (p k m : Nat) (f : Fab) : Round × Fab :=
  let f := refreshReqs p (beginZero f)
  let n := dilutionOf f
  if bitAt f.th.frozen (p % 16) then (.empty, f)
  else if forcedIdle f p then (.empty, onPort f p fun x => { x with dilution := x.dilution - (n - 1) })
  else if 16 ≤ p && zeroLeft f (p - 16) != 0 then grantTo p rZero .exclusive 15 f
  else if stillPort f p then (.empty, f)
  else
    let ready := readyOn f p
    if fallback f then plainRound p ready f
    else
      let hit := injKind f == 4 && injTarget f == p
      let f := when hit injFired f
      let e := activeSlot slots f p k
      let e := if hit then e ^^^ 0x8000 else e
      if eOdd e then (.empty, raise 0x0A (place [(0, p), (8, k), (16, e.toNat)]) (countPort p 0x0E 1 f))
      else if eKind e = 2 then (.empty, f)
      else
        match ownerOf e with
        | some w =>
          if ready.contains w then grantTo p w .owned (eBurst e) f
          else
            let f := countPort p 9 1 f
            match guardedOf f p ready with
            | some g => grantTo p g .guard (eBurst e) f
            | none => rankRound p m (eBurst e) ready f
        | none =>
          match guardedOf f p ready with
          | some g => grantTo p g .guard (eBurst e) f
          | none => rankRound p m (eBurst e) ready f

/-- The port runs rounds (R18, R298): in ON and not halted, or while ZEROIZE writes through it. -/
def portRuns (f : Fab) (p : Nat) : Bool :=
  (f.pwr.st == 0 && !bitAt f.sec.portHalt p) || (16 ≤ p && zeroLeft f (p - 16) != 0)

/-- Round 255 runs and its window boundary has not been done (R93, R99). -/
def atBoundary (x : Port) : Bool := x.cur != .idle && x.round == 255 && !x.wrapped

/-- The window boundary of a port, done once before the decision for round 0 (R93, R99); the round that ends is counted in the guard
waits under the masks of its own window (R227). -/
def crossWindow (p : Nat) (f : Fab) : Fab :=
  if atBoundary (portOf f p) then onPort (boundary p 1 (tickGuards p f)) p fun x => { x with wrapped := true } else f

/-- The round under way is counted in the guard waits, once, as the next is decided (R227), and the window boundary passes. -/
def closeRound (p : Nat) (f : Fab) : Fab :=
  if (portOf f p).wrapped then f
  else if atBoundary (portOf f p) then crossWindow p f
  else tickGuards p f

/-- The decision is due: no round runs, an empty one runs, or a burst is at its last beat (R95).  In IDLE no round runs, and only a
burst of ZEROIZE begins (R18, R357). -/
def decisionDue (f : Fab) (p : Nat) : Bool :=
  let x := portOf f p
  portRuns f p && match x.cur with
    | .idle => true
    | .empty => true
    | .burst b => x.next.isNone && b.moved + 1 == b.len && f.pwr.st == 0

/-- The burst of ZEROIZE that begins on an XP in IDLE, where the position in the window is held (R18, R357; log 102). -/
def idleBurst (slots : Tbl (BitVec 16)) (p : Nat) (f : Fab) : Fab :=
  let x := portOf f p
  let r := chooseRound slots p x.round.toNat x.rounds f
  match r.1 with
  | .burst b => onPort r.2 p fun x => { x with cur := .burst b, next := none }
  | _ => r.2

/-- The decision of the next round (R95, R96); it ends the empty round during which it is made (R18). -/
def decideNext (slots : Tbl (BitVec 16)) (p : Nat) (f : Fab) : Fab :=
  if !decisionDue f p then f
  else if f.pwr.st != 0 then idleBurst slots p f
  else
    let x := portOf f p
    let f := closeRound p f
    match x.cur with
    | .idle =>
      let r := chooseRound slots p x.round.toNat x.rounds f
      onPort r.2 p fun x => { x with cur := r.1 }
    | .empty =>
      let r := chooseRound slots p ((x.round.toNat + 1) % 256) (x.rounds + 1) f
      finishEmpty p (onPort r.2 p fun x => { x with next := some r.1 })
    | .burst _ =>
      let r := chooseRound slots p ((x.round.toNat + 1) % 256) (x.rounds + 1) f
      onPort r.2 p fun x => { x with next := some r.1 }

/-- A burst may be preempted (R100): by background ranking, and not a link or stack send past its first beat. -/
def preemptible (f : Fab) (b : Burst) : Bool :=
  let sends := match flightOf f b.req b.ord with
    | some x => match x.legs[b.leg]? with
      | some l => sendsOut l.kind
      | none => false
    | none => false
  b.grant == .background && !(sends && b.moved != 0)

/-- Who would preempt the burst under way on port p, and how (R101, R228).  The burst's own requester would own the next round all the
same, since its request would stand again (R96); it does not preempt its own burst, and of several URGENT queues of the greatest
age the lowest preempts (log 99). -/
def preemptBy (slots : Tbl (BitVec 16)) (f : Fab) (p : Nat) (b : Burst) : Option (Nat × Grant) :=
  let x := portOf f p
  let crossing := x.round == 255 && !x.wrapped
  let e := entryFor slots x p ((x.round.toNat + 1) % 256) crossing
  if fallback f || stillPort f p || forcedIdle f p || eOdd e || eKind e == 2 then none
  else
    let stands := readyOn f p
    let ready := stands.filter fun r => r != b.req
    let owned := match ownerOf e with
      | some w => w == b.req || stands.contains w
      | none => false
    if owned then none
    else
      match guardedOf f p ready with
      | some g => some (g, .guard)
      | none =>
        let reqs := x.reqs
        let urgent := ready.filter fun r => r < 256 && (queueOf f r).level == 3 && (queueOf f r).urgent
          && !masked f p r crossing && decide ((tget ({} : Req) reqs r).backUntil ≤ x.rounds + 1)
        let age := fun r => ageOf x.rounds (tget {} reqs r)
        let top := (urgent.map age).foldl max 0
        (urgent.find? fun r => age r == top).map fun r => (r, .preempt)

/-- The check at the start of a beat (R101): when a preemption holds, the beat is the burst's last and the next round is
the preempting grant. -/
def checkPreempt (slots : Tbl (BitVec 16)) (p : Nat) (f : Fab) : Fab :=
  match (portOf f p).cur with
  | .burst b =>
    if b.moved + 1 == b.len || b.lastBeat || b.waited || b.tied || !preemptible f b then f
    else
      let f := refreshReqs p f
      match preemptBy slots f p b with
      | none => f
      | some (r, how) =>
        let x := portOf f p
        let e := entryFor slots x p ((x.round.toNat + 1) % 256) (x.round == 255 && !x.wrapped)
        let f := countPort p 6 1 (closeRound p f)
        let g := grantTo p r how (eBurst e) f
        onPort g.2 p fun x => { x with next := some g.1, cur := .burst { b with lastBeat := true } }
  | _ => f

/-- A bank that a burst on port p has still to access (R254). -/
def burstBanks (f : Fab) (p : Nat) (b : Option Burst) : List Nat :=
  match b with
  | none => []
  | some b =>
    let left := b.len - b.moved
    if b.req < 256 then
      match flightOf f b.req b.ord with
      | none => []
      | some x => match x.legs[b.leg]? with
        | some l => banksFrom x l (b.first + b.moved) left
        | none => []
    else if b.req = rInbound then
      match ctxOf f b.leg with
      | some c => if cMode c.req = 2 then []
        else ((inboundAt f p).take left).map fun x => bankOf (grantRow c.req (fTrow x.bits))
      | none => []
    else if b.req = rHost then (f.bdp.accesses.map fun a => bankOf a.ra).take 1
    else if b.req = rScrub then
      let repairs := ((tget [] f.integ.repairs (p - 16)).take left).map bankOf
      match tget none f.integ.scrubs (p - 16) with
      | some s => repairs ++ (List.range (left - repairs.length)).map fun i => bankOf (scrubRow s.w (s.visited + i))
      | none => repairs
    else if b.req = rLoad then
      match f.map.load with
      | some l => (List.range left).map fun i => bankOf (loadRow l (loadDone l + i))
      | none => []
    else []

/-- The engine of group n can take its bank: the posted write buffer is empty, no burst granted on the group's ports has a beat left
for it, and no receive grant covers it (R254). -/
def canBorrow (f : Fab) (n : Nat) : Bool :=
  match engineOf f n with
  | none => false
  | some e =>
    let clear := fun p => !(burstBanks f p (burstOf (portOf f p))).contains e.bank
      && !(burstBanks f p (nextBurst (portOf f p))).contains e.bank
    let granted := f.dom.ctxs.any fun c => match c.2 with
      | some c => (ctxBanks c).contains e.bank
      | none => false
    !e.borrowed && !e.finished && (tget none f.store.pwb e.bank).isNone && clear n && clear (16 + n) && !granted

/-- ROUND_DECISION (R96). -/
def execRoundDecision (p : Fin 32) (s : State) : Host.Outcome State Fault Refusal :=
  onFab .main s fun slots f => decideNext slots p f
/-- WINDOW_BOUNDARY (R93, R99). -/
def execWindowBoundary (p : Fin 32) (s : State) : Host.Outcome State Fault Refusal :=
  onFab .main s fun _ f => when (portRuns f p && f.pwr.st == 0) (crossWindow p) f
/-- DILUTION_FORCED_IDLE (R333): the decision while the throttle forces the round idle. -/
def execDilutionForcedIdle (p : Fin 32) (s : State) : Host.Outcome State Fault Refusal :=
  onFab .main s fun slots f => when (forcedIdle f p) (decideNext slots p) f

end Sys2Proof.Machine
end

