-- ==== Sys2Proof/Machine/Loads.lean ====
section
/-!
DEFINITION. The record reads of MAP_LOAD: what its arguments say, the check of its records, and one bank row of them read as a beat
of requester LONG_OPERATION (R211, R212, R254, R320).
-/

namespace Sys2Proof.Machine

/-- The MAP_LOAD that runs ends (R212, R315): entries it has written, if it took effect, stay written. -/
def endLoad (status : Nat) (bad : Option Nat) (f : Fab) : Fab :=
  match f.map.load with
  | none => f
  | some l =>
    let f := { f with map := { f.map with load := none } }
    let e := l.effect.getD (0, 0, 0)
    let first := if fld l.w0 0 2 = 1 && l.effect.isSome then e.1 else 0xFFFFFFFF
    completeOp l.handle status e.2.1 first e.2.2.toNat (bad.getD 0xFFFFFFFF) (dropOwner .mapLoad f)

/-- Fields of MAP_LOAD's arguments (R211). -/
def lMode (l : MapLoadRun) : Nat := fld l.w0 0 2
def lCount (l : MapLoadRun) : Nat := fld l.w0 2 13 + 1
def lStack (l : MapLoadRun) : Bool := bitAt l.w1 0
def lBase (l : MapLoadRun) : Nat := fld l.w3 0 17

/-- The MAP_LOAD put through `g`. -/
def onLoad (g : MapLoadRun → MapLoadRun) (f : Fab) : Fab := { f with map := { f.map with load := f.map.load.map g } }

/-- A record fails its check (R212), but for its source row. -/
def recordBad (f : Fab) (l : MapLoadRun) (e : BitVec 128) : Bool :=
  !eValid e || eHealth e != 0 || eEpoch e != 0 || eTouch e != 0 || fld e 56 7 != 0 || fld e 124 4 != 0
    || (!eIsStack e && fld e 97 10 != 0) || (lMode l == 1 && fld e 107 17 != 0) || (eIsStack e && !stackPresent f (eStack e))

/-- Indices that are valid or draining, as a table. -/
def busyEntries (f : Fab) : Tbl Bool :=
  let valid := (f.map.entries.filter fun e => eValid (BitVec.ofNat 128 (dataOf e.2))).map fun e => (e.1, true)
  (f.map.changes.flatMap fun c => c.entries).foldl (fun t i => tset false t i true) valid

/-- Lowest run of `n` entries from `c` up that avoids the busy ones, in ascending order (R212). -/
def findRun (n : Nat) : Nat → Tbl Bool → Nat
  | c, [] => c
  | c, e :: t => if e.1 < c then findRun n c t else if c + n ≤ e.1 then c else findRun n (e.1 + 1) t

/-- First index of the run an ALLOCATE would take, if there is one (R212). -/
def allocRun (f : Fab) (l : MapLoadRun) : Option Nat :=
  let c := findRun (lCount l) (lBase l) (busyEntries f)
  if c + lCount l ≤ 131072 then some c else none

/-- Every record has been read: the first failing one ends the operation, and so does a full map (R212). -/
def checkLoad (f : Fab) : Fab :=
  match f.map.load with
  | none => f
  | some l =>
    let n := (l.recs.takeWhile fun e => !recordBad f l e).length
    let n := match l.bad with
      | some b => min n b
      | none => n
    if n < lCount l then endLoad sFault (some n) f
    else if lMode l = 1 && (allocRun f l).isNone then endLoad sMapFull none f
    else onLoad (fun l => { l with checked := true }) f

/-- One bank row of records read through its XP (R211, R212): UNWRITTEN and POISONED rows fail their records; after the last row the
records are checked. -/
def readRecords (p : Nat) (f : Fab) : Fab :=
  match f.map.load with
  | none => f
  | some l =>
    let r := loadDone l
    let ra := loadRow l r
    let blank := rawState (checkState ra f).store ra == 0
    let g := readRow p rLoad ra f
    let n := min 32 (lCount l - 32 * r)
    let recs := (slices 128 n g.1.row.toNat).map (BitVec.ofNat 128)
    let bad := blank || g.1.poison
    let f := onLoad (fun l => { l with recs := l.recs ++ recs, bad := if bad then some (l.bad.getD (32 * r)) else l.bad })
      (noteBleat p rLoad ra g.1.bleat g.2)
    when (r + 1 == loadRows l) checkLoad f

end Sys2Proof.Machine
end

