-- ==== Sys2Proof/Machine/Beat.lean ====
section
/-!
DEFINITION. Beats: what one row of a burst does at its banks (R105 to R109, R126, R137 to R143, R163, R198, R199, R241),
what a waiting beat waits on (R219, R222, R253, R254), the end of a burst, posted writes retiring (R107) and guard ends
(R229).
-/

namespace Sys2Proof.Machine

/-- A row read for an instruction under its source format (R38, R57, R109, R237). -/
def fetchRow (p q ra fmt : Nat) (f : Fab) : Got × Fab :=
  let g := readRow p q ra f
  (g.1, checkTag p q ra fmt (rawState g.2.store ra) g.1.row g.2)

/-- The one row that a beat reads, with the beat's bleat (R109). -/
def fetchBeat (p q ra fmt : Nat) (f : Fab) : Got × Fab :=
  let g := fetchRow p q ra fmt f
  (g.1, noteBleat p q ra g.1.bleat g.2)

/-- A row sent onward with its mark counted (R241, R258). -/
def countPoison (p : Nat) (poison : Bool) : Fab → Fab := countPort p 0x11 poison.toNat

/-- Sideband of a delivered row (R122). -/
def sideband (q k : Nat) (x : Flight) (bleat poison : Bool) : BitVec 35 :=
  let d := x.desc
  pack 35 [(8, k), (1, (k + 1 == dRows d).toNat), (8, dDstFmt d), (1, bleat.toNat), (1, poison.toNat), (8, q),
    (6, x.seq.toNat), (2, dQclass d)]

/-- One row of a DELIVER read, conditioned and put into the pipeline (R105, R113, R126). -/
def deliverRow (p q : Nat) (x : Flight) (l : Leg) (k : Nat) (f : Fab) : Fab :=
  let d := x.desc
  let fresh := fetchRow p q (readAddr x l k) (dSrcFmt d)
  let a := match x.carry with
    | some c => if c.1 = k && dRotate d != 0 then ((⟨c.2.1, c.2.2.1, c.2.2.2⟩ : Got), f) else fresh f
    | none => fresh f
  let b := if dRotate d = 0 then a else fetchRow p q (readAddr x l (k + 1)) (dSrcFmt d) a.2
  let f := b.2
  let c := condition (dSrcFmt d) (dDstFmt d) (dBytes d) (dRotate d) (dTranspose d) (dRound d) a.1.row b.1.row (portOf f p).lfsr
  let poison := a.1.poison || b.1.poison
  let bleat := a.1.bleat || b.1.bleat
  let f := noteBleat p q (if a.1.bleat then readAddr x l k else readAddr x l (k + 1)) bleat f
  let f := countPoison p poison (countPort p 0x1C c.2.1 f)
  let r : PipeRow := ⟨x.ord, c.1, dMcast d, x.groups, sideband q k x bleat poison, none, false⟩
  let f := onPort f p fun y => { y with lfsr := c.2.2, pipe := y.pipe ++ [r] }
  let kept := if dRotate d = 0 then none else some (k + 1, b.1.row, b.1.poison, b.1.bleat)
  presentHead p (onFlight q x.ord (fun y => { y with carry := kept }) f)

/-- The assembled row a collect moves next, with its cluster. -/
def returnRow (f : Fab) (x : Flight) (k : Nat) : Option AsmRow :=
  match clustersOf (dMcast x.desc) with
  | c :: _ => (clusterOf f c).ret.find? fun r => r.ord == x.ord && r.idx == k
  | [] => none

/-- A row assembled through OP p from its quarters, realigned groups counted (R135, R136). -/
def formReturn (p : Nat) (d : Desc) (a : AsmRow) (f : Fab) : Parts × Fab :=
  let quarters := [a.q0, a.q1, a.q2, a.q3].take (neededQuarters d)
  let r := assemble (dSrcFmt d) (dBytes d) (dRound d) quarters (portOf f p).lfsr
  (r.parts, countPort p 0x1D r.realigned (onPort f p fun x => { x with lfsr := r.lfsr }))

/-- One row of a COLLECT written, or of a local COLLECT_ACC accumulated (R35, R137, R139). -/
def collectRow (p q : Nat) (x : Flight) (l : Leg) (k : Nat) (f : Fab) : Fab :=
  match returnRow f x k with
  | none => f
  | some a =>
    let d := x.desc
    let r := formReturn p d a f
    let ra := writeAddr x l k
    if dOp d = 2 then writeTile p ra (dDstFmt d) (dBytes d) (putTogether (dDstFmt d) r.1 0 0) false r.2
    else (accumulate p q ra ⟨r.1, dCtag d, dEpoch d, dDstFmt d, dRound d, dOvf d == 1, dBytes d⟩ r.2).2

/-- A row put into a receive buffer for the leg after `i`; a restarted read of a row already accepted adds nothing (R102). -/
def holdRow (q : Nat) (x : Flight) (i k : Nat) (row : Row) (poison bleat : Bool) (f : Fab) : Fab :=
  onFlight q x.ord (fun y =>
    match y.legs[i + 1]? with
    | some l =>
      let past := if l.kind = .accSend then y.segs.any fun g => g.leg == i + 1 && decide (g.first ≤ k) && decide (k < g.first + g.sent)
        else decide (k < l.next)
      if past then y
      else { y with held := (y.held.filter fun h => !(h.leg == i + 1 && h.idx == k)) ++ [⟨i + 1, k, row, poison, bleat⟩] }
    | none => y) f

/-- A ROW flit of this instance sent under a grant (R152, R163); a transfer left without a route ends with FAULT
(R170). -/
def sendRow (q : Nat) (x : Flight) (i k : Nat) (g : Seg) (row : Row) (poison bleat : Bool) (f : Fab) : Fab :=
  let r := findRoute g.dest.toNat f
  match r.1 with
  | none => abortFlight q x.ord 4 0 0 r.2
  | some port =>
    let last := g.sent + 1 == g.granted
    let b := flitOf 1 0 0 g.dest.toNat g.rctx.toNat k last poison bleat row
    let f := queueFlit port ⟨b, none⟩ r.2
    let sent := onSeg (fun y => y.stag == g.stag) fun y => { y with sent := y.sent + 1 }
    onFlight q x.ord (fun y => { sent y with held := y.held.filter fun h => !(h.leg == i && h.idx == k) }) f

/-- The header of row `t.index` of a WRITE (R192, R199). -/
def dataHeader (t : SopTag) (poison : Bool) (pmask : Nat) : BitVec 256 :=
  let h := t.job.hdr
  sopHeader 3 poison.toNat t.tag.toNat (sStack h) 0 0 (sPack h) (t.index + 1 == t.job.rows) 0 t.index (sFmt h) (fld h 112 4)
    (fld h 120 10) (fld h 130 8) (fld h 138 2) pmask

/-- A row of a WRITE sent, with the units it takes, and its counts (R196, R217). -/
def sendData (k : Nat) (t : SopTag) (row : Row) (poison : Bool) (pmask : Nat) (f : Fab) : Fab :=
  let f := sendSop k (dataHeader t poison pmask) (some row) f
  let f := countStack k 0x11 poison.toNat (countStack k 5 (sStride t.job.hdr) (countStack k 2 1 f))
  let f := onTag k t.tag (fun t => { t with index := t.index + 1 }) f
  onKport f k fun x => { x with units := x.units - (sStride t.job.hdr + 63) / 64 }

/-- Packing of an instruction's stack operand (R65, R206). -/
def packOf (l : Loc) : Bool :=
  match l with
  | .stack _ _ _ p => p
  | _ => false

/-- The effect of the beat of leg row k of leg i on port p (R15, R87, R137, R163, R198). -/
def moveRow (p q : Nat) (x : Flight) (i : Nat) (l : Leg) (k : Nat) (f : Fab) : Fab :=
  let d := x.desc
  let g := dDstFmt d
  let rb := dBytes d
  match l.kind with
  | .deliver => deliverRow p q x l k f
  | .collect => rowDone q x.ord i k (collectRow p q x l k f)
  | .accOut =>
    match returnRow f x k with
    | none => f
    | some a =>
      let r := formReturn p d a f
      holdRow q x i k (putTogether g r.1 0 0) false false r.2
  | .accSend =>
    match openGrant f x i, x.held.find? fun h => h.leg == i && h.idx == k with
    | some s, some h => sendRow q x i k s h.row h.poison h.bleat f
    | _, _ => f
  | .moveRead =>
    let r := fetchBeat p q (readAddr x l k) (dSrcFmt d) f
    holdRow q x i k r.1.row r.1.poison r.1.bleat (countPoison p r.1.poison r.2)
  | .moveWrite =>
    match x.held.find? fun h => h.leg == i && h.idx == k with
    | none => f
    | some h =>
      let r := copyRow g rb h.row (contribOf h.row) (epochOf h.row)
      rowDone q x.ord i k (writeTile p (writeAddr x l k) g rb r h.poison f)
  | .spanRead =>
    match openGrant f x i with
    | none => f
    | some s =>
      let r := fetchBeat p q (readAddr x l k) (dSrcFmt d) f
      sendRow q x i k s r.1.row r.1.poison r.1.bleat (countPoison p r.1.poison r.2)
  | .stackWrite =>
    match (rxRows f (.flight q x.ord)).find? fun r => r.idx == k with
    | none => f
    | some r =>
      let row := ofStack (packOf x.src) (dSrcFmt d) rb r.data
      let keep := dOp d == 6
      let out := copyRow g rb row (if keep then contribOf row else 0) (if keep then epochOf row else 0)
      rowDone q x.ord i k (writeTile p (writeAddr x l k) g rb out r.poison f)
  | .stackRead =>
    match writeTag f (.flight q x.ord) with
    | none => f
    | some (port, t) =>
      let r := fetchBeat p q (readAddr x l k) (dSrcFmt d) f
      sendData port t (toStack (packOf x.dst) (dSrcFmt d) rb r.1.row) r.1.poison 0 (countPoison p r.1.poison r.2)
  | .fill =>
    let o := dSrc d
    rowDone q x.ord i k (writeTile p (writeAddr x l k) g rb (fillRow g rb (oValue o) (oExp o)) false f)
  | .clear => rowDone q x.ord i k (clearRow (writeAddr x l k) f)

/-- The leg reads banks. -/
def readsBank (k : LegKind) : Bool := k == .deliver || k == .moveRead || k == .spanRead || k == .stackRead
/-- The leg writes a posted write buffer. -/
def writesBank (k : LegKind) : Bool := k == .collect || k == .moveWrite || k == .stackWrite || k == .fill

/-- A write of bytes `bm` of row `ra` goes through the read-modify-write path (R238, R239). -/
def mergesAt (s : Store) (ra bm : Nat) (poison : Bool) : Bool :=
  let st := rawState s ra
  st != 0 && bm != 2 ^ 576 - 1 && (needsMerge bm (st != 1) || poison)

/-- The row of a held or received row that leg row k writes is poisoned. -/
def poisonAt (f : Fab) (q : Nat) (x : Flight) (i : Nat) (l : Leg) (k : Nat) : Bool :=
  match l.kind with
  | .moveWrite => x.held.any fun h => h.leg == i && h.idx == k && h.poison
  | .stackWrite => (rxRows f (.flight q x.ord)).any fun r => r.idx == k && r.poison
  | _ => false

/-- The beat's bank access goes through the read-modify-write path (R138, R239). -/
def rmwBeat (f : Fab) (q : Nat) (x : Flight) (i : Nat) (l : Leg) (k : Nat) : Bool :=
  let d := x.desc
  writesBank l.kind && (dOp d == 3
    || mergesAt f.store (writeAddr x l k) (tileMask (dDstFmt d) (dBytes d)) (poisonAt f q x i l k))

/-- What keeps a beat from moving. -/
inductive Gate where
  | go
  /-- the beat is not presented, or waits without a count: a noted bank (R219), a full pipeline (R113) -/
  | hold
  /-- a posted write buffer is occupied (R107) -/
  | full
  /-- a bank that a PRESERVING march has borrowed (R253) -/
  | borrow (b : Nat)
  /-- a bank under a DESTRUCTIVE run (R254) -/
  | refused (b : Nat)
deriving DecidableEq, Repr

/-- The gate of the banks that rows `l` lie in. -/
def bankGate (f : Fab) (l : List Nat) : Gate :=
  match (l.map bankOf).find? (destroyed f) with
  | some b => .refused b
  | none =>
    match (l.map bankOf).find? fun b => borrowedBy f b == some true with
    | some b => .borrow b
    | none => .go

/-- A bank noted at a fence still holds back this flight's reads (R219). -/
def notedAt (f : Fab) (q ord : Nat) (rows : List Nat) : Bool :=
  (queueOf f q).noted.any fun n => notedHeld f n && decide (n.2.2 ≤ ord) && (rows.map bankOf).contains n.1

/-- Row addresses that the beat of leg row k accesses now: a rotate keeps the row it has read (R105). -/
def accessRows (x : Flight) (l : Leg) (k : Nat) : List Nat :=
  match x.carry with
  | some c => if l.kind == .deliver && c.1 == k then (beatRows x l k).drop 1 else beatRows x l k
  | none => beatRows x l k

/-- What keeps the beat of leg row k from moving (R107, R113, R219, R253, R254). -/
def gateOf (f : Fab) (p q : Nat) (x : Flight) (i : Nat) (l : Leg) (k : Nat) : Gate :=
  let rows := accessRows x l k
  match bankGate f rows with
  | .go =>
    if readsBank l.kind && notedAt f q x.ord rows then .hold
    else if l.kind == .deliver && decide (8 ≤ (portOf f p).pipe.length) then .hold
    else if writesBank l.kind && !(rows.all fun ra => bufferTakes f.store ra (rmwBeat f q x i l k)) then .full
    else .go
  | e => e

/-- The next flit of a burst of context `i`. -/
def nextFlit (f : Fab) (i : Nat) : Option InFlit := f.dom.inbound.find? fun x => !x.moved && fCtx x.bits == i

/-- The row of a flit goes through the read-modify-write path (R138, R239). -/
def flitMerges (f : Fab) (c : Ctx) (x : InFlit) : Bool :=
  cMode c.req == 1
    || mergesAt f.store (grantRow c.req (fTrow x.bits)) (tileMask (fld c.req 96 8) ((fld c.req 104 4 + 1) * 32)) (fPoison x.bits)

/-- The gate of a write of row `ra`, through the read-modify-write path or not (R107, R239, R253, R254). -/
def writeGate (f : Fab) (ra : Nat) (rmw : Bool) : Gate :=
  match bankGate f [ra] with
  | .go => if bufferTakes f.store ra rmw then .go else .full
  | e => e

/-- What keeps an inbound row from its bank. -/
def flitGate (f : Fab) (c : Ctx) (x : InFlit) : Gate := writeGate f (grantRow c.req (fTrow x.bits)) (flitMerges f c x)

/-- Bytes that a host write covers (R270). -/
def hostMask (a : RowAccess) (l : List Byte) : Nat := (2 ^ l.length - 1) * 2 ^ a.offset

/-- What keeps a host window access from its bank (R270). -/
def hostGate (f : Fab) (a : RowAccess) : Gate :=
  match a.data with
  | none => bankGate f [a.ra]
  | some l => writeGate f a.ra (mergesAt f.store a.ra (hostMask a l) false)

/-- What keeps the SCRUB requester of group n from the row of its next beat: a write buffer only where the beat writes (R237,
R245). -/
def scrubGate (f : Fab) (n ra : Nat) : Gate := if scrubWrites f n then writeGate f ra true else bankGate f [ra]

/-- Row addresses that the beat under way on port p would access now, none where something keeps it from moving. -/
def beatTargets (f : Fab) (p : Nat) : List Nat :=
  let n := p - 16
  let open' := fun (g : Gate) (l : List Nat) => if g == .go then l else []
  match burstOf (portOf f p) with
  | none => []
  | some b =>
    if b.req < 256 then
      match flightOf f b.req b.ord with
      | none => []
      | some x => match x.legs[b.leg]? with
        | some l =>
          let k := legStart f b.req x b.leg l
          open' (gateOf f p b.req x b.leg l k) (accessRows x l k)
        | none => []
    else if b.req = rInbound then
      match ctxOf f b.leg, nextFlit f b.leg with
      | some c, some x => if cMode c.req = 2 then [] else open' (flitGate f c x) [grantRow c.req (fTrow x.bits)]
      | _, _ => []
    else if b.req = rHost then
      match f.bdp.accesses.find? fun a => xpOf (bankOf a.ra) == p with
      | some a => open' (hostGate f a) [a.ra]
      | none => []
    else if b.req = rScrub then
      match scrubNext f n with
      | some ra => open' (scrubGate f n ra) (if rawState f.store ra = 0 then [] else [ra])
      | none => []
    else if b.req = rMarch then
      match engineOf f n with
      | some e => [256 * e.bank + e.row]
      | none => []
    else if b.req = rLoad then
      match f.map.load with
      | some l => open' (bankGate f [loadRow l (loadDone l)]) [loadRow l (loadDone l)]
      | none => []
    else [8192 * n]

/-- The burst under way on port p put through `g`. -/
def onBurst (p : Nat) (g : Burst → Burst) (f : Fab) : Fab :=
  onPort f p fun x => match x.cur with
    | .burst b => { x with cur := .burst (g b) }
    | _ => x

/-- The beat under way waits: counted once at counter `sub` of the port (R105, R107, R253). -/
def waitBeat (p sub : Nat) (f : Fab) : Fab :=
  match burstOf (portOf f p) with
  | some b => if b.waited then f else onBurst p (fun b => { b with waited := true }) (countPort p sub 1 f)
  | none => f

/-- The beat under way has lost a tie to the group's other port: one conflict stall, whatever it waited for before (R106, R112). -/
def loseTie (p : Nat) (f : Fab) : Fab :=
  match burstOf (portOf f p) with
  | some b => if b.tied then f else onBurst p (fun b => { b with tied := true }) (countPort p 0x0B 1 f)
  | none => f

/-- The wait for a bank cycle that the surroundings report for a beat that accesses its bank (R105, R106). -/
def cycleWait (p : Nat) (w : BeatWait) (access : Bool) (f : Fab) : Fab :=
  match w with
  | .stripe => when access (waitBeat p 0x0A) f
  | .conflict => when (access && decide (16 ≤ p)) (loseTie p) f
  | .both => when access (fun f => when (decide (16 ≤ p)) (loseTie p) (waitBeat p 0x0A f)) f
  | _ => f

/-- In the single master's region of the fall-back arrangement port p's beat has to wait (R256): an OP's beat goes ahead of its XP's,
and the XP's then ahead of a later OP beat. -/
def regionWaits (f : Fab) (p : Nat) : Bool :=
  let n := p % 16
  fallback f && if p < 16 then bitAt f.integ.turn n && !(beatTargets f (16 + n)).isEmpty
    else !bitAt f.integ.turn n && !(beatTargets f n).isEmpty

/-- The wait of a beat for the region counted as R106 counts it. -/
def regionWait (p : Nat) (f : Fab) : Fab := if p < 16 then waitBeat p 0x0A f else loseTie p f

/-- A beat that accesses rows `l` begins: the bleat of the port's last beat is over (R383), and the turn in the group's region passes
(R256). -/
def beginBeat (p : Nat) (l : List Nat) (f : Fab) : Fab :=
  let f := onPort f p fun x => { x with bleat := false }
  if fallback f && !l.isEmpty then
    let behind := decide (p < 16) && !(beatTargets f (16 + p)).isEmpty
    onInteg f fun i => { i with turn := putBit i.turn (p % 16) behind }
  else f

/-- Buffer rows that a finished burst no longer needs are let go, and a collect whose last row is accepted ends in its
cluster (R102, R133, R137, R163, R195). -/
def settleBurst (b : Burst) (f : Fab) : Fab :=
  if b.req = rInbound then
    let stream := match ctxOf f b.leg with
      | some c => cMode c.req == 2
      | none => false
    if stream then f else { f with dom := { f.dom with inbound := f.dom.inbound.filter fun x => !(x.moved && fCtx x.bits == b.leg) } }
  else if 256 ≤ b.req then f
  else
    match flightOf f b.req b.ord with
    | none => f
    | some x =>
      match x.legs[b.leg]? with
      | none => f
      | some l =>
        match l.kind with
        | .moveWrite =>
          onFlight b.req b.ord (fun x => { x with held := x.held.filter fun h => !(h.leg == b.leg && decide (h.idx < l.next)) }) f
        | .stackWrite =>
          let o := Owner.flight b.req b.ord
          each [0, 1] (fun f k => onKport f k fun y => { y with rx := y.rx.filter fun r => !(r.owner == o && decide (r.idx < l.next)) }) f
        | .collect | .accOut =>
          each (clustersOf (dMcast x.desc)) (fun f c => onCluster f c fun y =>
            { y with ret := y.ret.filter fun r => !(r.ord == b.ord && decide (r.idx < l.next))
                     running := match y.running with
                       | some r => if r.ord == b.ord && l.next == l.total then none else some r
                       | none => none }) f
        | _ => f

/-- A beat has moved through port p (R48, R105, R112, R333): the burst goes on, ends, or is discarded (R101). -/
def afterBeat (p : Nat) (f : Fab) : Fab :=
  match burstOf (portOf f p) with
  | none => f
  | some _ =>
    let f := countPort p 1 1 f
    let f := onPort f p fun x => { x with dilution := x.dilution + 1, beatTimes := x.beatTimes + 1 }
    let tick := fun (i : Nat) (d : Option DrainRun) => if i = p then d.map fun d => { d with beats := d.beats + 1 } else d
    let f := onLop f fun l => { l with drains := tmap none tick l.drains }
    let f := onBurst p (fun b => { b with moved := b.moved + 1, waited := false, tied := false }) f
    match burstOf (portOf f p) with
    | none => f
    | some b =>
      if b.lastBeat then discardBurst p b.guard b f
      else if b.len ≤ b.moved then finishRound p (settleBurst b f)
      else f

/-- The burst under way on port p ends without a further beat, nothing of it discarded. -/
def cutBurst (p : Nat) (f : Fab) : Fab := finishRound p f

/-- A beat of a queue's burst (R105). -/
def queueBeat (p : Nat) (b : Burst) (w : BeatWait) (f : Fab) : Fab :=
  match flightOf f b.req b.ord with
  | none => cutBurst p f
  | some x =>
    match x.legs[b.leg]? with
    | none => cutBurst p f
    | some l =>
      let k := legStart f b.req x b.leg l
      let f := when (b.moved == 0) (onBurst p fun b => { b with first := k }) f
      match gateOf f p b.req x b.leg l k with
      | .refused n => abortFlight b.req b.ord 4 0 0 (reportBorrowed n b.req f)
      | .borrow n =>
        let hurry := ((queueOf f b.req).level == 3 && (queueOf f b.req).urgent) || decide (f.stallBound.toNat ≤ b.guard)
        waitBeat p 0x12 (claimBank n hurry f)
      | .hold => f
      | .full => waitBeat p 0x0A f
      | .go =>
        let rows := accessRows x l k
        if regionWaits f p && !rows.isEmpty then regionWait p f
        else
        let merges := rmwBeat f b.req x b.leg l k && rawState f.store (writeAddr x l k) != 0
        let f := beginBeat p rows (cycleWait p w (readsBank l.kind || merges) f)
        let f := moveRow p b.req x b.leg l k (disturb rows f)
        if (flightOf f b.req b.ord).all fun y => y.stopping.isSome then f
        else
          let f := onFlight b.req b.ord (onLeg b.leg fun l => { l with next := max l.next (k + 1) }) f
          let f := afterBeat p f
          when (l.kind == .spanRead || l.kind == .accSend || l.kind == .accOut) (askMore b.req b.ord) f

/-- A beat of the SCRUB requester (R237, R244, R253, R254). -/
def scrubBurst (p : Nat) (w : BeatWait) (f : Fab) : Fab :=
  let n := p - 16
  match scrubNext f n with
  | none => cutBurst p f
  | some ra =>
    let visit := (tget [] f.integ.repairs n).isEmpty
    let rows := if rawState f.store ra = 0 then [] else [ra]
    match scrubGate f n ra with
    | .refused b =>
      if visit then cutBurst p (endScrub n sBorrowed (reportBorrowed b rScrub f)) else afterBeat p (scrubBeat n f)
    | .borrow b => if visit then f else waitBeat p 0x12 (claimBank b false f)
    | .go =>
      if regionWaits f p && !rows.isEmpty then regionWait p f
      else
      let f := beginBeat p rows (cycleWait p w (!rows.isEmpty) f)
      afterBeat p (scrubBeat n (if visit then f else disturb rows f))
    | _ => waitBeat p 0x0A f

/-- A beat of the MARCH requester: one operation; a burst left without operations ends (R252, R253). -/
def marchBurst (p : Nat) (w : BeatWait) (f : Fab) : Fab :=
  if marchWants f (p - 16) = 0 then cutBurst p f
  else if regionWaits f p then regionWait p f
  else afterBeat p (marchBeat (p - 16) (w == .mismatch) (beginBeat p (beatTargets f p) (cycleWait p w true f)))

/-- A beat of requester LONG_OPERATION: one row of a MAP_LOAD's records (R212, R253, R254, R320). -/
def loadBurst (p : Nat) (w : BeatWait) (f : Fab) : Fab :=
  match f.map.load with
  | none => cutBurst p f
  | some l =>
    let ra := loadRow l (loadDone l)
    let f := onBurst p (fun b => if b.moved = 0 then { b with first := loadDone l } else b) f
    match bankGate f [ra] with
    | .refused b => cutBurst p (endLoad sBorrowed none (reportBorrowed b rLoad f))
    | .borrow b => waitBeat p 0x12 (claimBank b false f)
    | _ =>
      if regionWaits f p then regionWait p f
      else afterBeat p (readRecords p (disturb [ra] (beginBeat p [ra] (cycleWait p w (rawState f.store ra != 0) f))))

/-- A beat of the ZEROIZE requester: one row set to zero and UNWRITTEN (R317). -/
def zeroBurst (p : Nat) (f : Fab) : Fab :=
  match f.lop.zero with
  | none => cutBurst p f
  | some z =>
    let n := p - 16
    let i := tget 0 z.rows n
    let ra := 8192 * n + i
    let f := onStore (storeRow ra zeroWords (beginBeat p [ra] f)) (setState ra 0)
    afterBeat p (onLop f fun l => { l with zero := some { z with rows := tset 0 z.rows n (i + 1) } })

/-- A beat of the burst under way on port p (R101, R105). -/
def runBeat (slots : Tbl (BitVec 16)) (p : Nat) (w : BeatWait) (f : Fab) : Fab :=
  let f := checkPreempt slots p f
  match burstOf (portOf f p) with
  | none => f
  | some b =>
    if b.req < 256 then queueBeat p b w f
    else if b.req = rScrub then scrubBurst p w f
    else if b.req = rMarch then marchBurst p w f
    else if b.req = rLoad then loadBurst p w f
    else if b.req = rZero then zeroBurst p f
    else f

/-- A posted write buffer writes its row into the array (R107). -/
def retireAt (b : Nat) (f : Fab) : Fab :=
  let f := onStore f (retireBuffer b)
  beginZero { f with queues := tmap {} (fun _ x => { x with noted := x.noted.filter (notedHeld f) }) f.queues }

/-- A beat has waited `STALL_BOUND` beat times (R229): a preemptible burst is ended before it, any other is counted once. -/
def guardEnd (p : Nat) (w : GuardWait) (f : Fab) : Fab :=
  match burstOf (portOf f p) with
  | none => f
  | some b =>
    let pre := preemptible f b
    if b.ended && !pre then f
    else
      let code := match w with
        | .crossbar => 1
        | .bankCycle => 2
        | .writeBuffer => 3
        | .borrowed => 4
      let f := raise 0x0B (place [(0, p), (8, (!pre).toNat), (9, code), (16, b.req)]) (countPort p 0x10 1 f)
      if pre then discardBurst p f.stallBound.toNat b f else onBurst p (fun b => { b with ended := true }) f

/-- BEAT (R105). -/
def execBeat (p : Fin 32) (w : BeatWait) (s : State) : Host.Outcome State Fault Refusal :=
  onFab .main s fun slots f => runBeat slots p w f
/-- POSTED_WRITE_RETIRE (R107). -/
def execPostedWriteRetire (b : Fin 512) (s : State) : Host.Outcome State Fault Refusal :=
  onFab .main s fun _ f => retireAt b f
/-- GUARD_END (R229). -/
def execGuardEnd (p : Fin 32) (w : GuardWait) (s : State) : Host.Outcome State Fault Refusal :=
  onFab .main s fun _ f => guardEnd p w f

end Sys2Proof.Machine
end

