-- ==== Sys2Proof/Machine/Fec.lean ====
section
/-!
DEFINITION. The encoding of IL0: RS(544,514) over 10-bit symbols and the striping of frame bytes over the logical lanes (R150),
and the PRBS-13 of `ALIGN` (R156).  The spec gives neither the field's polynomial nor the generator: they are those of the
IEEE 802.3 code of that name (log 104).
-/

namespace Sys2Proof.Machine

/-- Twice an element of GF(2^10), modulo x^10 + x^3 + 1. -/
def gfDouble (a : Nat) : Nat := if 512 ≤ a then (2 * a) ^^^ 0x409 else 2 * a

/-- The product of an element and the low `n` bits of another. -/
def gfTimes : Nat → Nat → Nat → Nat
  | 0, _, _ => 0
  | n + 1, a, b => (if b % 2 = 1 then a else 0) ^^^ gfTimes n (gfDouble a) (b / 2)

/-- The product of two elements of GF(2^10). -/
def gfMul (a b : Nat) : Nat := gfTimes 10 a b

/-- A power of the primitive element. -/
def gfPow : Nat → Nat
  | 0 => 1
  | n + 1 => gfDouble (gfPow n)

/-- A polynomial, lowest coefficient first, times x + r. -/
def timesRoot (r : Nat) (p : List Nat) : List Nat := List.zipWith Nat.xor (0 :: p) (p.map (gfMul r) ++ [0])

/-- The generator of RS(544,514): its roots are the first 30 powers of the primitive element. -/
def rsGenerator : List Nat := (List.range 30).foldl (fun p i => timesRoot (gfPow i) p) [1]

/-- One symbol divided into the remainder, lowest coefficient first. -/
def rsStep (g reg : List Nat) (m : Nat) : List Nat :=
  let fb := m ^^^ reg.getLastD 0
  List.zipWith (fun a c => a ^^^ gfMul fb c) (0 :: reg.dropLast) g

/-- The 30 parity symbols of a message, in the order sent. -/
def rsParity (g msg : List Nat) : List Nat := (msg.foldl (rsStep (g.take 30)) (List.replicate 30 0)).reverse

/-- The codeword of 5,140 data bits (R150): 514 symbols, then their parity. -/
def codeword (d : Nat) : BitVec 5440 :=
  let s := slices 10 514 d
  BitVec.ofNat 5440 (unslice 10 (s ++ rsParity rsGenerator s))

/-- What a logical lane that holds `n` bits `v` has after 32 more: what it keeps, and the codeword they complete. -/
def addGranule (n v g : Nat) : (Nat × Nat) × Option (BitVec 5440) :=
  let w := v + g * 2 ^ n
  if 5140 ≤ n + 32 then ((n + 32 - 5140, w / 2 ^ 5140), some (codeword (w % 2 ^ 5140))) else ((n + 32, w), none)

/-- Granules of a frame's bytes: 147 of each flit, 93 of the control block (R150, R151). -/
def granulesOf (flits : List (BitVec 4704)) (cb : BitVec 2976) : List Nat :=
  (flits.flatMap fun w => slices 32 147 w.toNat) ++ slices 32 93 cb.toNat

/-- The next bit of the PRBS-13 of x^13 + x^12 + x^2 + x + 1, bit j of `r` being the bit j + 1 places earlier (log 104). -/
def prbsNext (r : Nat) : Nat := (r + r / 2 + r / 2 ^ 11 + r / 2 ^ 12) % 2

/-- `n` bits of the PRBS-13, the first lowest. -/
def prbsBits : Nat → Nat → Nat
  | 0, _ => 0
  | n + 1, r => prbsNext r + 2 * prbsBits n ((2 * r + prbsNext r) % 2 ^ 13)

/-- `ALIGN` of a frame whose first granule goes to logical lane `first` of `lanes` (R156): its 48 granules carry, lane by lane
as R150 deals them, the sequence of the lane (log 104). -/
def alignField (lanes first : Nat) (frame : BitVec 8) : Nat :=
  unslice 32 ((List.range 48).map fun i =>
    let lane := (first + 9452 + i) % lanes
    prbsBits (32 * (i / lanes) + 32) (Config.alignSeed frame lane).toNat / 2 ^ (32 * (i / lanes)))

end Sys2Proof.Machine
end

