-- ==== Sys2Proof/Machine/Network.lean ====
section
/-!
DEFINITION. The crossbar and the endpoint clusters: delivery to endpoints (R113 to R125), collects, quarter-rows and
their assembly (R133 to R137), and unresponsive endpoints (R125, R147).
-/

namespace Sys2Proof.Machine

/-- Members that a bus row waits for, as a mask (R124). -/
def waitMask (f : Fab) (c : Nat) (r : PipeRow) : BitVec 256 :=
  BitVec.ofNat 256 (fld (tget 0 r.groups c) 0 256) &&& ~~~(clusterOf f c).unresp

/-- Format of a delivered row (R122). -/
def sbFmt (s : BitVec 35) : Nat := fld s 9 8

/-- `CLc_D_QTR` of a delivered row (R121, R378). -/
def quarterRows (row : Row) (fmt : Nat) : BitVec 4608 :=
  pack 4608 ((List.range 4).map fun q => (1152, (quarterOf row fmt q).toNat))

/-- The slots whose `D_REQ` rises for a row that waits for members `m` of its group, each with its `DQSEL` (R117, R378): zero for
a full-wide one. -/
def selects (f : Fab) (c : Nat) (r : PipeRow) (m : BitVec 256) : List (Nat × Nat) :=
  (bitsSet m).map fun e => (e, if fullWide f c e then 0 else quarterAt f c (tget 0 r.groups c) e)

/-- What the cluster puts on its bus for a row that waits for members `m` (R378). -/
def busOutput (f : Fab) (c : Nat) (r : PipeRow) (m : BitVec 256) : Output :=
  .deliver c r.row (quarterRows r.row (sbFmt r.sb)) r.sb (selects f c r m)

/-- The cluster takes rows from its delivery buffer while its bus is free (R119, R124); a row for no responsive member
only counts. -/
def fillBus (c : Nat) : Nat → Fab → Fab
  | 0, f => f
  | n + 1, f =>
    let y := clusterOf f c
    match y.bus, y.dbuf with
    | none, r :: t =>
      let f := onCluster f c fun y => { y with dbuf := t }
      let m := waitMask f c r
      if m = 0 then fillBus c n (countCluster c 1 1 f)
      else emit (onCluster f c fun y => { y with bus := some ⟨r, m, 0⟩ }) (busOutput f c r m)
    | _, _ => f

/-- Queue and tile row of a delivered row (R122). -/
def sbQueue (s : BitVec 35) : Nat := fld s 19 8
def sbSeq (s : BitVec 35) : Nat := fld s 27 6
def sbRow (s : BitVec 35) : Nat := fld s 0 8

/-- The crossbar moves the head of OP n to every selected cluster together (R113). -/
def crossMove (n : Nat) (f : Fab) : Fab :=
  if !canCross f n then f
  else
    match (portOf f n).pipe with
    | [] => f
    | r :: t =>
      let f := onPort f n fun x => { x with pipe := t }
      let f := rowDone (sbQueue r.sb) r.ord 0 (sbRow r.sb) f
      let f := each (clustersOf r.mcast) (fun f c => fillBus c 3 (onCluster f c fun y => { y with dbuf := y.dbuf ++ [r] })) f
      presentHead n f

/-- A member no longer waited for: the row leaves the bus when it was the last (R124). -/
def latchOff (c e : Nat) (f : Fab) : Fab :=
  match (clusterOf f c).bus with
  | none => f
  | some b =>
    let m := putBit b.wait e false
    if m = 0 then fillBus c 3 (onCluster f c fun y => { y with bus := none })
    else onCluster f c fun y => { y with bus := some { b with wait := m } }

/-- An endpoint latches the row on its cluster's bus (R124). -/
def ackDelivery (c e : Nat) (f : Fab) : Fab :=
  match (clusterOf f c).bus with
  | some b => when (bitAt b.wait e) (latchOff c e) f
  | none => f

/-- Rows in a cluster's return buffer that their OP has not accepted (R137). -/
def returnHeld (f : Fab) (c : Nat) : Nat :=
  ((clusterOf f c).ret.filter fun r => match (clusterOf f c).running with
    | some o => match flightOf f o.q r.ord with
      | some x => match x.legs.head? with
        | some l => decide (l.next ≤ r.idx)
        | none => false
      | none => false
    | none => false).length

/-- Quarter `k` of a collect is a gap (R135). -/
def gapAt (f : Fab) (c : Nat) (o : OpenCollect) (k : Nat) : Bool :=
  match o.sup.getD k none with
  | some e => !responsive f c e
  | none => true

/-- Quarter `k` of row `i` as it arrived. -/
def gotAt (o : OpenCollect) (k i : Nat) : Option (BitVec 1152) :=
  (o.got.find? fun g => g.1 == k && g.2.1 == i).map fun g => g.2.2

/-- Rows assembled as far as their quarters and the return buffer allow, at most `fuel` (R135, R137). -/
def assembleRows (c : Nat) : Nat → Fab → Fab
  | 0, f => f
  | n + 1, f =>
    match (clusterOf f c).running with
    | none => f
    | some o =>
      let quarters := List.range o.need
      let here := quarters.all fun k => (gotAt o k o.next).isSome || gapAt f c o k
      if o.rows ≤ o.next || !here || 32 ≤ returnHeld f c then f
      else
        let i := o.next
        let gaps := quarters.filter fun k => (gotAt o k i).isNone
        let seq := match flightOf f o.q o.ord with
          | some x => x.seq.toNat
          | none => 0
        let f := each gaps (fun f k =>
          raise 0x0D (place [(0, c), (4, k), (16, o.q), (24, seq), (32, i)]) (countCluster c 2 1 f)) f
        let row : AsmRow := ⟨o.ord, i, gotAt o 0 i, gotAt o 1 i, gotAt o 2 i, gotAt o 3 i⟩
        let past := (List.range 4).map fun k => if gaps.contains k then max (i + 1) (o.expect.getD k 0) else o.expect.getD k 0
        let o := { o with next := i + 1, got := o.got.filter fun g => g.2.1 != i, expect := past }
        assembleRows c n (onCluster f c fun y => { y with running := some o, ret := y.ret ++ [row] })

/-- Assembly, and the credit a remote COLLECT_ACC may ask for then (R137, R163). -/
def advanceCollect (c : Nat) (f : Fab) : Fab :=
  let f := assembleRows c 256 f
  match (clusterOf f c).running with
  | some o => askMore o.q o.ord f
  | none => f

/-- The cluster starts its next collect (R133) with COLLECT_OPEN to its suppliers (R124). -/
def startCollect (c : Nat) (f : Fab) : Fab :=
  let y := clusterOf f c
  match y.running, y.collects with
  | none, (q, ord) :: t =>
    let f := onCluster f c fun y => { y with collects := t }
    match flightOf f q ord with
    | none => f
    | some x =>
      let d := x.desc
      let sup := suppliersOf f c (groupAtIssue x c) d
      let data := noticeData 2 q x.seq.toNat (dRows d - 1) (dBytes d / 32 - 1) (dSrcFmt d) 0
      let mask := fun e => BitVec.ofNat 4 (place ((List.range 4).map fun k => (k, (sup.getD k none == some e).toNat)))
      let f := notify c (sup.filterMap id).dedup data mask f
      let o : OpenCollect := ⟨q, ord, sup.length, dRows d, sup, [0, 0, 0, 0], [], 0, [0, 0, 0, 0]⟩
      advanceCollect c (onCluster f c fun y => { y with running := some o })
  | _, _ => f

/-- The return buffer has room for row `i` of the running collect (R125, R137). -/
def roomFor (f : Fab) (c : Nat) (o : OpenCollect) (i : Nat) : Bool := decide (returnHeld f c + (i + 1 - o.next) ≤ 32)

/-- A quarter-row discarded (R134): counted and reported with its slot, the tile row expected and the one received. -/
def wrongReturn (c slot expect trow : Nat) (f : Fab) : Fab :=
  raise 0x0E (place [(0, c), (8, slot % 256), (16, expect % 256), (24, trow % 256)]) (countCluster c 3 1 f)

/-- A quarter-row that no collect awaits from anyone is discarded (R134, R385); the slot and the row expected, which the rule does not
give then, are free (log 103). -/
def strayReturn (c trow : Nat) (f : Fab) : Fab :=
  let t := takeFree f
  wrongReturn c (fld t.1 0 8) (fld t.1 8 8) trow t.2

/-- A quarter-row returned on quarter bus `k` (R134): accepted, withheld for want of room, or discarded. -/
def returnQuarter (c k trow : Nat) (d : BitVec 1152) (f : Fab) : Fab :=
  match (clusterOf f c).running with
  | none => strayReturn c trow f
  | some o =>
    match o.sup.getD k none with
    | none => strayReturn c trow f
    | some e =>
      if !responsive f c e || trow != o.expect.getD k 0 then wrongReturn c e (o.expect.getD k 0) trow f
      else if !roomFor f c o trow then f
      else
        let o := { o with got := o.got ++ [(k, trow, d)], expect := o.expect.set k (trow + 1), rounds := o.rounds.set k 0 }
        advanceCollect c (onCluster f c fun y => { y with running := some o })

/-- The quarter awaited from supplier e across two rounds, if any (R125, R394). -/
def lateQuarter (f : Fab) (c e : Nat) : Option OpenCollect :=
  match (clusterOf f c).running with
  | some o => if (List.range o.need).any fun k => o.sup.getD k none == some e && decide (2 ≤ o.rounds.getD k 0) then some o else none
  | none => none

/-- A collect no longer awaits anything from supplier e: its rounds begin anew (R125). -/
def forgetRounds (e : Nat) (o : OpenCollect) : OpenCollect :=
  { o with rounds := (List.range 4).map fun k => if o.sup.getD k none == some e then 0 else o.rounds.getD k 0 }

/-- The mark of an unresponsive endpoint (R125): its count, its event, and the rows and collects it held up. -/
def markEndpoint (c e q seq kind : Nat) (f : Fab) : Fab :=
  let f := onCluster f c fun y => { y with unresp := putBit y.unresp e true, running := y.running.map (forgetRounds e) }
  let f := raise 0x0C (place [(0, c), (8, e), (16, q), (24, seq), (30, kind)]) (countCluster c 4 1 f)
  advanceCollect c (latchOff c e f)

/-- An endpoint has failed to latch or to return across two housekeeping rounds (R125, R394). -/
def unresponsive (c e : Nat) (f : Fab) : Fab :=
  if !responsive f c e then f
  else
    let late := match (clusterOf f c).bus with
      | some b => if bitAt b.wait e && decide (2 ≤ b.rounds) then some b.r else none
      | none => none
    match late, lateQuarter f c e with
    | some r, _ => markEndpoint c e (sbQueue r.sb) (sbSeq r.sb) 0 f
    | none, some o => markEndpoint c e o.q (match flightOf f o.q o.ord with
      | some x => x.seq.toNat
      | none => 0) 1 f
    | none, none => f

/-- A write of `UNRESPONSIVE_k` (R147): each mark written 1 is cleared, and RELEASE sent (R125). -/
def clearMarks (c k : Nat) (v : BitVec 64) (f : Fab) : Fab :=
  let slots := ((bitsSet v).map fun j => 64 * k + j).filter fun e => bitAt (clusterOf f c).unresp e
  each slots (fun f e =>
    let f := onCluster f c fun y => { y with unresp := putBit y.unresp e false }
    notify c [e] (noticeData 3 0 0 0 0 0 e) (fun _ => 0) f) f

/-- CROSSBAR_MOVE (R113). -/
def execCrossbarMove (n : Fin 16) (s : State) : Host.Outcome State Fault Refusal := onFab .main s fun _ f => crossMove n f
/-- ENDPOINT_DELIVERY_ACK (R124). -/
def execEndpointDeliveryAck (c : Fin 16) (e : Fin 256) (s : State) : Host.Outcome State Fault Refusal :=
  onFab .main s fun _ f => ackDelivery c e f
/-- COLLECT_START (R133). -/
def execCollectStart (c : Fin 16) (s : State) : Host.Outcome State Fault Refusal :=
  onFab .main s fun _ f => startCollect c f
/-- RETURN_QUARTER_ROW (R134). -/
def execReturnQuarterRow (c : Fin 16) (quarter : Fin 4) (trow : BitVec 8) (d : BitVec 1152) (s : State) :
    Host.Outcome State Fault Refusal :=
  onPin (.returnQuarterRow c quarter trow d) s (onFab .main s fun _ f => returnQuarter c quarter trow.toNat d f)
/-- ENDPOINT_UNRESPONSIVE (R125). -/
def execEndpointUnresponsive (c : Fin 16) (e : Fin 256) (s : State) : Host.Outcome State Fault Refusal :=
  onFab .main s fun _ f => unresponsive c e f
/-- UNRESPONSIVE_CLEAR (R147). -/
def execUnresponsiveClear (c : Fin 16) (k : Fin 4) (v : BitVec 64) (s : State) : Host.Outcome State Fault Refusal :=
  onFab .ret s fun _ f => byWrite (fun f => (0, clearMarks c k v f)) f

end Sys2Proof.Machine
end

