-- ==== Sys2Proof/Machine/Links.lean ====
section
/-!
DEFINITION. The link layer: frames, flits, retry and credit (R150 to R160), forwarding (R158, R168, R170), link and path
changes (R171, R180 to R182), lane sparing (R176 to R179) and training (R174, R175).
-/

namespace Sys2Proof.Machine

/-- Ports of the package map that are wired, one link left out (R30, R167). -/
def wired (f : Fab) (out : Nat × Nat) (d k : Nat) : Bool :=
  bitAt (spanEntry f d k) 7 && (d, k) != out && (spanDie f d k, spanPort f d k) != out

/-- Dies one link from die d. -/
def nearDies (f : Fab) (out : Nat × Nat) (d : Nat) : List Nat := ((List.range 4).filter (wired f out d)).map (spanDie f d)

/-- Any two dies are at most two hops apart with one link left out. -/
def twoHops (f : Fab) (out : Nat × Nat) : Bool :=
  let n := f.prm.dies
  (List.range n).all fun a => (List.range n).all fun b =>
    a == b || (nearDies f out a).any fun c => c == b || (nearDies f out c).contains b

/-- The span map meets R30 and R167. -/
def mapMeets (f : Fab) : Bool :=
  let all := (List.range f.prm.dies).flatMap fun d => (List.range 4).map fun k => (d, k)
  twoHops f (99, 0) && all.all fun e => !bitAt (spanEntry f e.1 e.2) 7 || twoHops f e

/-- The lowest port at die d on a shortest path to die t (R168). -/
def hopFrom (f : Fab) (t d : Nat) : Option Nat :=
  let l := distTo f t
  if 99 ≤ l.getD d 99 then none
  else (List.range 4).find? fun k => spanUp f d k && l.getD (spanDie f d k) 99 + 1 == l.getD d 99

/-- Span links crossed from die d to die t, as 8 * die + port. -/
def walkTo (f : Fab) (t : Nat) : Nat → Nat → List Nat
  | 0, _ => []
  | n + 1, d =>
    if d = t then []
    else match hopFrom f t d with
      | some k => (8 * d + k) :: walkTo f t n (spanDie f d k)
      | none => []

/-- Exit die that an instance of another package is reached by (R170). -/
def exitFor (f : Fab) (inst : Nat) : Option Nat :=
  let e := if f.dom.routeInUse then tget 0 f.dom.route (inst / 8) else 0
  if (judgeRoute f (bitAt e 0) (fld e 1 3) (fld e 4 13)).1.isSome then some (fld e 1 3)
  else if (judgeRoute f (bitAt e 17) (fld e 18 3) (fld e 21 13)).1.isSome then some (fld e 18 3)
  else none

/-- The path to an instance as this die knows it: the links crossed in the package, IL0 of die d as 8 * d + 4. -/
def pathTo (f : Fab) (inst : Nat) : List Nat :=
  let own := f.prm.die.toNat
  if inst / 8 = (instanceId f).toNat / 8 then walkTo f (inst % 8) 8 own
  else match exitFor f inst with
    | some d => walkTo f d 8 own ++ [8 * d + 4]
    | none => []

/-- Segments of a flight or a MIGRATE with rows under a grant. -/
def openSegs (f : Fab) : List Seg :=
  ((allFlights f).flatMap (fun e => e.2.segs) ++ f.lop.migs.flatMap fun m => m.segs).filter fun g => g.phase == .granted

/-- Instances this one has business with: segments, and remote signals. -/
def farEnds (f : Fab) : List Nat :=
  (((allFlights f).flatMap fun e => e.2.segs) ++ f.lop.migs.flatMap fun m => m.segs).map (·.dest.toNat)
    ++ ((allFlights f).filter fun e => e.2.fsig.isSome).map fun e => oFinst (dDst e.2.desc)

/-- Transfers, signals and MIGRATEs bound for an instance that no route reaches end with FAULT (R170, R182, R183). -/
def dropFarEnd (dest : Nat) (f : Fab) : Fab :=
  let toward := fun (l : List Seg) => l.any fun g => g.dest.toNat == dest && g.phase != .acked
  let f := abortWhere (fun _ x => toward x.segs || (x.fsig.isSome && oFinst (dDst x.desc) == dest)) 4 f
  each (f.lop.migs.filter fun m => toward m.segs) (fun f m => endMigrate m.handle sFault 0 f) f

/-- A path that changed (R171): rows of new grants are held until the old path's rows are acknowledged. -/
def settlePath (old : Nat × List Nat) (f : Fab) : Fab :=
  if pathTo f old.1 = old.2 then f
  else if (routeTo f old.1).1.isNone then dropFarEnd old.1 f
  else
    let stags := ((openSegs f).filter fun g => g.dest.toNat == old.1 && g.sent != 0).map (·.stag)
    if stags.isEmpty then f
    else
      let rest := f.dom.pathHolds.filter fun h => h.dest.toNat != old.1
      let kept := (f.dom.pathHolds.filter fun h => h.dest.toNat == old.1).flatMap (·.stags)
      { f with dom := { f.dom with pathHolds := rest ++ [⟨BitVec.ofNat 16 old.1, (kept ++ stags).dedup⟩] } }

/-- A change of links or routes, with what it does to the paths in use (R168, R171, R182). -/
def withPaths (g : Fab → Fab) (f : Fab) : Fab :=
  let old := ((farEnds f).dedup).map fun d => (d, pathTo f d)
  each old (fun f e => settlePath e f) (g f)

/-- The hold of a destination is over once its old rows are acknowledged or cancelled (R171). -/
def releaseHold (dest : Nat) (f : Fab) : Fab :=
  let busy := fun (h : PathHold) => (openSegs f).any fun g => h.stags.contains g.stag
  { f with dom := { f.dom with pathHolds := f.dom.pathHolds.filter fun h => h.dest.toNat != dest || busy h } }

/-- A message of the MAINTENANCE channel sent to each UP span partner but the one at port k (R168). -/
def spreadMsg (m : BitVec 512) (k : Nat) (f : Fab) : Fab :=
  each ((List.range 4).filter fun j => linkUp f j && j != k) (fun f j =>
    queueFlit j ⟨flitOf 3 2 0 (linkOf f j).partner.toNat 1 0 false false false (BitVec.ofNat 4608 m.toNat), none⟩ f) f

/-- LINK_DOWN (0x10) or LINK_UP (0x11) about port k of this die sent to each UP span partner (R168, R180). -/
def tellPartners (mtype k : Nat) (f : Fab) : Fab :=
  spreadMsg (msgOf f mtype [(32, f.prm.die.toNat), (40, k), (48, (linkOf f k).partner.toNat)]) k f

/-- The buffer that a flit in transit occupies on the link it came by is free again (R158): counted for its sender. -/
def freeOrigin (o : Option (Nat × Nat × Nat × Bool)) (f : Fab) : Fab :=
  match o with
  | some (j, v, h, pool) =>
    if 4 < j then f
    else
      let key := if pool then 48 + v else 16 * v + h
      onLink f j fun l => { l with freed := tset 0 l.freed key (tget 0 l.freed key + 1) }
  | none => f

/-- Link k's counts of freed buffers begin anew (R156): flits that came by it before are in none of them. -/
def forgetOrigins (k : Nat) (f : Fab) : Fab :=
  let forget (t : TxFlit) : TxFlit := { t with origin := t.origin.map fun o => if o.1 = k then (5, o.2) else o }
  { f with links := f.links.map fun e => (e.1, { e.2 with txq := e.2.txq.map fun q => (q.1, q.2.map forget) }) }

/-- A flit found without a route (R170). -/
def missRoute (dest k : Nat) (f : Fab) : Fab := raise 0x17 (place [(0, dest), (16, k)]) (countInst 2 1 f)

/-- Flits of a lost link, its retry buffer first, placed on the new paths with their `HOPS` unchanged (R171). -/
def reinject (k : Nat) (f : Fab) : Fab :=
  let l := linkOf f k
  let kept := l.retry.map fun s => ((⟨putf s.bits 46 10 0, none⟩ : TxFlit), s.home)
  let queued := (l.txq.flatMap (·.2)).map fun t => (t, t.origin.isNone)
  let f := onLink f k fun l => { l with txq := [], retry := [], replay := 0 }
  each (kept ++ queued) (fun f e =>
    let r := findRoute (fDest e.1.bits) f
    match r.1 with
    | some j => if j = 5 then freeOrigin e.1.origin r.2 else queueFlit j e.1 r.2
    | none => freeOrigin e.1.origin (if e.2 then r.2 else missRoute (fDest e.1.bits) k r.2)) f

/-- No lane swap is under way on IL0 (R178). -/
def clearSwaps (k : Nat) (f : Fab) : Fab :=
  if k = 4 then { f with swapRx := none, swapTx := none, ibex := { f.ibex with swapWait := [] } } else f

/-- A link leaves UP for a state in which it carries nothing (R171, R174, R180). -/
def dropLink (k : Nat) (st : LinkState) (f : Fab) : Fab :=
  withPaths (fun f => reinject k (onLink f k fun l => { l with st := st, quiet := false, heard := 0, swaps := [] })) (clearSwaps k f)

/-- A link becomes FAILED (R179, R180): counted, reported and spread. -/
def failLink (k : Nat) (f : Fab) : Fab :=
  let f := raise 0x18 (place [(0, k), (16, (linkOf f k).partner.toNat)]) (countLink k 0x0C 1 f)
  tellPartners 0x10 k (dropLink k .failed f)

/-- A link enters RETRAINING (R180): its flits are held. -/
def retrainLink (k : Nat) (f : Fab) : Fab :=
  if linkUp f k then countLink k 0x0B 1 (onLink f k fun l => { l with st := .retraining }) else f

/-- Retraining has succeeded (R180): the link replays and is UP. -/
def retrained (k : Nat) (f : Fab) : Fab :=
  if (linkOf f k).st = .retraining then
    let f := onLink f k fun l => { l with st := .up, replay := l.retry.length, nak := false }
    raise 0x19 (place [(0, k), (16, (linkOf f k).partner.toNat)]) f
  else f

/-- Key of the buffer a flit of VC v and hop class h takes at the far end: the pool first (R158; log 23). -/
def creditKey (l : Link) (v h : Nat) : Option Nat :=
  if tget 0 l.taken (48 + v) < 112 then some (48 + v)
  else if tget 0 l.taken (16 * v + h) = 0 then some (16 * v + h)
  else none

/-- A flit has a buffer at the far end: its class's or one of the pool (R158). -/
def hasCredit (l : Link) (v : Nat) (t : TxFlit) : Bool := (creditKey l v (fHops t.bits)).isSome

/-- The flit of a VC that can leave (R155, R158): the oldest whose class has a buffer, so that a class waits for no other. -/
def leaver (l : Link) (v : Nat) : Option TxFlit := (tget [] l.txq v).find? (hasCredit l v)

/-- A flit of the VC can leave. -/
def canLeave (l : Link) (v : Nat) : Bool := (leaver l v).isSome

/-- A flit with its CRC (R152, R154), inverted under injection (R297). -/
def sealFlit (b : BitVec 4672) (bad : Bool) : BitVec 4704 :=
  let c := crc32c (bytesOf 584 b.toNat)
  pack 4704 [(4672, b.toNat), (32, (if bad then ~~~c else c).toNat)]

/-- A sequenced flit put on the wire. -/
def putWire (k : Nat) (b : BitVec 4672) (f : Fab) : BitVec 4704 × Fab :=
  let hit := injKind f == 5 && fld f.sec.inject 4 3 == k
  (sealFlit b hit, countLink k 1 1 (when hit injFired f))

/-- One flit slot of a frame (R151, R155, R157): a replayed flit, else the VC picked, else the lowest VC that can send,
else a NULL flit. -/
def fillSlot (k : Nat) (pick : Nat) (f : Fab) : BitVec 4704 × Fab :=
  let l := linkOf f k
  let null := (sealFlit 0 false, f)
  if l.quiet then null
  else if l.replay != 0 then
    let i := l.retry.length - l.replay
    match l.retry[i]? with
    | none => null
    | some s =>
      let f := onLink f k fun l => { l with replay := l.replay - 1, retry := l.retry.modify i fun s => { s with tries := s.tries + 1 } }
      putWire k s.bits f
  else if 512 ≤ l.retry.length then null
  else
    match (pick :: [0, 1, 2]).find? (canLeave l) with
    | none => null
    | some v =>
      match leaver l v with
      | none => null
      | some t =>
        match creditKey l v (fHops t.bits) with
        | none => null
        | some key =>
          let b := putf t.bits 46 10 l.nextSeq.toNat
          let f := onLink f k fun l =>
            { l with txq := tset [] l.txq v ((tget [] l.txq v).eraseP (hasCredit l v))
                     taken := tset 0 l.taken key (tget 0 l.taken key + 1)
                     retry := l.retry ++ [⟨b, t.origin.isNone, l.nextSeq.toNat, 1⟩], nextSeq := l.nextSeq + 1 }
          putWire k b (freeOrigin t.origin f)

/-- The slots of a frame. -/
def fillSlots (k : Nat) : List Nat → Fab → List (BitVec 4704) × Fab
  | [], f => ([], f)
  | v :: t, f =>
    let a := fillSlot k v f
    let b := fillSlots k t a.2
    (a.1 :: b.1, b.2)

/-- Code of a lane role (R156). -/
def roleCode (r : LaneRole) : Nat :=
  match r with
  | .active => 0
  | .spare => 1
  | .failed => 2
  | .retraining => 3

/-- The link control block of port k (R156); `align` is the content of `ALIGN`. -/
def controlBlock (k : Nat) (align : Nat) (f : Fab) : BitVec 2976 :=
  let l := linkOf f k
  let cls := unslice 8 ((List.range 48).map fun i => tget 0 l.freed i)
  let pools := unslice 16 ((List.range 3).map fun v => tget 0 l.freed (48 + v))
  let head := fields [(32, 0xC35AA53C), (8, l.frameNo.toNat), (10, l.ackSeq.toNat), (1, l.nak.toNat), (29, 0), (384, cls),
    (48, pools), (16, (instanceId f).toNat), (8, k), (200, 0)]
  if k = 4 then
    let lane := fun i => let x := laneAt f i; x.eye.toNat + roleCode x.rx * 64 + x.rxLog % 64 * 256
    let body := head + 2 ^ 736 * fields [(576, unslice 16 ((List.range 36).map lane)), (32, (l.swaps.headD 0).toNat), (64, 0), (1536, align)]
    BitVec.ofNat 2976 (body + 2 ^ 2944 * (crc32c (bytesOf 368 body)).toNat)
  else BitVec.ofNat 2976 (head + 2 ^ 736 * (crc32c (bytesOf 92 head)).toNat)

/-- Granules dealt to the logical lanes (R150): the codewords they complete, latest first. -/
def dealGranules (lanes : Nat) : List Nat → Ibex → List (Nat × BitVec 5440) → Ibex × List (Nat × BitVec 5440)
  | [], x, l => (x, l)
  | g :: t, x, l =>
    let lane := x.granule % lanes
    let old := tget (0, 0) x.bits lane
    let r := addGranule old.1 old.2 g
    dealGranules lanes t { x with granule := (lane + 1) % lanes, bits := tset (0, 0) x.bits lane r.1 }
      (match r.2 with
        | some w => (lane, w) :: l
        | none => l)

/-- Physical lane that a logical lane is sent on (R176, R178). -/
def txLane (f : Fab) (log : Nat) : Nat :=
  ((List.range 36).find? fun i => (laneAt f i).tx = .active && (laneAt f i).txLog == log).getD log

/-- The frame's bytes on the lanes of IL0, as codewords (R150). -/
def sendLanes (flits : List (BitVec 4704)) (cb : BitVec 2976) (f : Fab) : Fab :=
  let d := dealGranules f.prm.lanes (granulesOf flits cb) f.ibex []
  emit { f with ibex := d.1 } (.codewords (d.2.reverse.map fun e => (e.1, txLane f e.1, e.2)))

/-- A frame of port k (R151, R155, R156), on IL0 in codewords too (R150); a flit sent for the eighth time puts the link into
retraining. -/
def sendFrame (k : Nat) (picks : List (BitVec 2)) (f : Fab) : Fab :=
  if !linkUp f k then f
  else
    let s := fillSlots k ((List.range 64).map fun i => (picks.getD i 0).toNat) f
    let align := if k = 4 then alignField f.prm.lanes f.ibex.granule (linkOf f k).frameNo else 0
    let cb := controlBlock k align s.2
    let f := emit s.2 (.frame k s.1 cb)
    let f := when (k == 4) (sendLanes s.1 cb) f
    let f := onLink f k fun l => { l with frameNo := l.frameNo + 1, nak := false, swaps := l.swaps.drop 1 }
    if (linkOf f k).retry.any fun s => decide (8 ≤ s.tries) then retrainLink k f else f

/-- Named bits of a message type (R160, R161). -/
def msgUsed (t : Nat) : List (Nat × Nat) :=
  match t with
  | 1 => [(32, 16), (48, 8), (56, 8), (64, 8), (72, 8), (80, 9), (89, 2), (96, 8), (104, 4), (108, 2), (110, 1), (112, 4),
      (120, 8), (128, 8), (136, 6), (142, 2), (144, 38), (184, 4), (192, 12)]
  | 2 => [(32, 16), (48, 12), (64, 8)]
  | 3 => [(32, 16), (48, 8)]
  | 4 => [(32, 16), (48, 12), (72, 8)]
  | 5 => [(48, 12)]
  | 6 => [(32, 16), (48, 12), (72, 8)]
  | 7 => [(32, 16), (48, 6), (64, 16)]
  | 8 => [(32, 16), (48, 8)]
  | 9 => [(32, 16), (48, 17), (72, 24), (96, 4), (100, 1), (104, 4), (112, 38)]
  | 0x0A => [(32, 16), (48, 8), (56, 16)]
  | 0x0B => [(48, 12), (64, 8), (72, 72)]
  | 0x10 => [(32, 3), (40, 3), (48, 16)]
  | 0x11 => [(32, 3), (40, 3), (48, 16)]
  | _ => []

/-- The message is well formed on this VC (R160). -/
def msgOk (m : BitVec 512) (vc : Nat) : Bool :=
  let t := fld m 0 8
  let used := place (((0, 8) :: (16, 16) :: msgUsed t).map fun (e : Nat × Nat) => (e.1, 2 ^ e.2 - 1))
  !(msgUsed t).isEmpty && msgVc t == vc && m.toNat &&& used == m.toNat

/-- Messages of a flit taken off link k (R159, R160). -/
def sinkMessages (k : Nat) (b : BitVec 4672) (f : Fab) : Fab :=
  each (List.range (fCount b)) (fun f i =>
    let m : BitVec 512 := BitVec.ofNat 512 (fld b (64 + 512 * i) 512)
    if msgOk m (fVc b) then { f with dom := { f.dom with inbox := f.dom.inbox ++ [⟨m, k⟩] } } else countLink k 4 1 f) f

/-- A ROW or STREAM flit sunk into its reserved inbound row, or discarded as an orphan (R159, R163, R164). -/
def sinkRow (k : Nat) (b : BitVec 4672) (f : Fab) : Fab :=
  match ctxOf f (fCtx b) with
  | none => countInst 0x0C 1 f
  | some c =>
    if c.granted ≤ c.arrived || (cMode c.req == 2) != (fType b == 2) then countInst 0x0C 1 f
    else
      let c := { c with arrived := c.arrived + 1, rounds := 0 }
      { f with dom := { f.dom with ctxs := tset none f.dom.ctxs (fCtx b) (some c), inbound := f.dom.inbound ++ [⟨b, k, false, false⟩] } }

/-- A flit accepted on link k (R158, R170): sunk here, forwarded, or discarded; `pool` tells the buffer it took (log 23). -/
def takeFlit (k : Nat) (b : BitVec 4672) (pool : Bool) (f : Fab) : Fab :=
  let v := fVc b
  let h := fHops b
  let from_ := some (k, v, h, pool)
  if fDest b = (instanceId f).toNat then freeOrigin from_ (if fType b = 3 then sinkMessages k b f else sinkRow k b f)
  else if h = 15 then freeOrigin from_ (raise 0x16 (place [(0, fDest b), (16, k), (20, v)]) (countInst 1 1 f))
  else
    let r := findRoute (fDest b) f
    match r.1 with
    | none => freeOrigin from_ (missRoute (fDest b) k r.2)
    | some j => countLink j 6 1 (queueFlit j ⟨putf b 6 4 (h + 1), from_⟩ r.2)

/-- A flit's header is one a receiver accepts (R154): type, VC, reserved bits, and for a message its count. -/
def headOk (b : BitVec 4672) : Bool :=
  let t := fType b
  decide (t ≤ 3) && fVc b != 3 && fld b 59 5 == 0
    && (t != 3 || (decide (1 ≤ fCount b) && decide (fCount b ≤ 9) && fld b 30 8 == 0))

/-- A flit received on link k (R154, R155). -/
def receiveFlit (k : Nat) (w : BitVec 4704) (pool : Bool) (f : Fab) : Fab :=
  let b : BitVec 4672 := BitVec.ofNat 4672 (fld w 0 4672)
  let reject := fun (f : Fab) => onLink f k fun l => { l with nak := true }
  if !linkUp f k then f
  else if (crc32c (bytesOf 584 b.toNat)).toNat != fld w 4672 32 then reject (countLink k 3 1 f)
  else if !headOk b then reject (countLink k 4 1 f)
  else if fType b = 0 then f
  else if fLseq b != (linkOf f k).expect.toNat then reject f
  else
    let f := onLink f k fun l => { l with ackSeq := l.expect, expect := l.expect + 1 }
    takeFlit k b pool (countLink k 2 1 f)

/-- Width of a credit count (R156). -/
def creditWidth (key : Nat) : Nat := if key < 48 then 8 else 16

/-- A running count in a control block (R156). -/
def creditIn (cb : BitVec 2976) (key : Nat) : Nat := if key < 48 then fld cb (80 + 8 * key) 8 else fld cb (464 + 16 * (key - 48)) 16

/-- Credit returned by a control block. -/
def takeCredit (cb : BitVec 2976) (l : Link) (key : Nat) : Link :=
  let now := creditIn cb key
  let d := (now + 2 ^ creditWidth key - tget 0 l.seen key) % 2 ^ creditWidth key
  { l with taken := tset 0 l.taken key (tget 0 l.taken key - d), seen := tset 0 l.seen key now }

/-- Flits up to `a` acknowledged (R155). -/
def ackFlits (a : Nat) (l : Link) : Link :=
  if l.retry.any fun s => s.lseq == a then
    let rest := (l.retry.dropWhile fun s => s.lseq != a).drop 1
    { l with retry := rest, replay := min l.replay rest.length }
  else l

/-- The codewords of a frame counted on IL0 (R150, R189): symbols corrected, and codewords that failed. -/
def countFec (k : Nat) (fec : List (Option (Fin 16))) (f : Fab) : Fab :=
  if k = 4 && linkUp f 4 then
    countLink 4 8 (fec.filter (·.isNone)).length (countLink 4 7 ((fec.filterMap id).map (·.val)).sum f)
  else f

/-- A control block received on link k (R155, R156). -/
def receiveBlock (k : Nat) (cb : BitVec 2976) (f : Fab) : Fab :=
  let n := if k = 4 then 368 else 92
  let good := (crc32c (bytesOf n cb.toNat)).toNat == fld cb (8 * n) 32 && fld cb 0 32 == 0xC35AA53C
  if !linkUp f k || !good then f
  else if k = 4 && decide (3 < fld cb 1312 8) then countLink k 4 1 f
  else
    let f := onLink f k fun l => (List.range 51).foldl (takeCredit cb) (ackFlits (fld cb 40 10) l)
    let f := if bitAt cb 50 then
        countLink k 5 1 (onLink f k fun l => { l with replay := l.retry.length })
      else f
    if k != 4 then f
    else
      let f := if f.swapTx.isNone then
          each (List.range 36) (fun f i =>
            let x := fld cb (736 + 16 * i) 16
            let role := match x / 64 % 4 with
              | 0 => LaneRole.active
              | 1 => .spare
              | 2 => .failed
              | _ => .retraining
            onLane f i fun l => { l with tx := role, txLog := x / 256 % 64 }) f
        else f
      if fld cb 1312 8 = 0 then f else onLink f 4 fun l => { l with heard := BitVec.ofNat 32 (fld cb 1312 32) }

/-- Fields of the swap command received. -/
def heardCmd (f : Fab) : Nat := fld (linkOf f 4).heard 0 8
def heardLog (f : Fab) : Nat := fld (linkOf f 4).heard 8 8
def heardPhys (f : Fab) : Nat := fld (linkOf f 4).heard 16 8
def heardFrame (f : Fab) : Nat := fld (linkOf f 4).heard 24 8

/-- A swap command to send in a control block of its own, after those that wait (R156). -/
def tellSwap (cmd log phys frame : Nat) (f : Fab) : Fab :=
  onLink f 4 fun l => { l with swaps := l.swaps ++ [pack 32 [(8, cmd), (8, log), (8, phys), (8, frame)]] }

/-- Spare lanes of the receive direction (R188 `SPARES_LEFT`). -/
def sparesLeft (f : Fab) : Nat := ((List.range 36).filter fun i => (laneAt f i).rx = .spare).length

/-- Lanes that a swap requested or waiting takes out of service. -/
def swappingOut (f : Fab) : List Nat := (f.swapRx.map (·.old)).toList ++ f.ibex.swapWait.map (·.1)

/-- A swap of an active lane that can begin (R178): requested with the lowest spare, lane by lane. -/
def startSwap (lane cause s : Nat) (f : Fab) : Fab :=
  let log := (laneAt f lane).rxLog
  tellSwap 1 log s 0 { f with swapRx := some ⟨log, lane, s, BitVec.ofNat 2 cause, false, 0⟩ }

/-- A lane of IL0 is to be swapped out (R177, R178), cause as in R322; with no spare left IL0 fails (R179) unless the cause is
its margin.  Swaps run one at a time: a further one keeps its spare and waits (log 105). -/
def requestSwap (lane cause : Nat) (f : Fab) : Fab :=
  if !linkUp f 4 || (laneAt f lane).rx != .active || (swappingOut f).contains lane then f
  else
    match (List.range 36).filter fun i => (laneAt f i).rx = .spare with
    | [] => if cause = 2 then f else failLink 4 (onLane f lane fun l => { l with rx := .failed })
    | s :: rest =>
      if f.swapRx.isNone then startSwap lane cause s f
      else if f.ibex.swapWait.length < rest.length then
        { f with ibex := { f.ibex with swapWait := f.ibex.swapWait ++ [(lane, BitVec.ofNat 2 cause)] } }
      else if cause = 2 then f
      else failLink 4 (onLane f lane fun l => { l with rx := .failed })

/-- The swap that waits longest begins once the one before it has ended (R178). -/
def nextSwap (f : Fab) : Fab :=
  match f.ibex.swapWait, f.swapRx with
  | (lane, cause) :: t, none =>
    let f := { f with ibex := { f.ibex with swapWait := t } }
    match (List.range 36).find? fun i => (laneAt f i).rx = .spare with
    | some s => startSwap lane cause.toNat s f
    | none => f
  | _, _ => f

/-- SWAP_REQ received (R178): answered with the frame of the new mapping, and only NULL flits leave from then on. -/
def answerSwap (f : Fab) : Fab :=
  if !linkUp f 4 || heardCmd f != 1 then f
  else
    let log := heardLog f
    let phys := heardPhys f
    let at_ := (linkOf f 4).frameNo + 8
    let old := ((List.range 36).find? fun i => (laneAt f i).tx = .active && (laneAt f i).txLog == log).getD 0
    let f := { f with swapTx := some ⟨log, old, phys, 0, false, at_⟩ }
    tellSwap 2 log phys at_.toNat (onLink f 4 fun l => { l with quiet := true, heard := 0 })

/-- SWAP_ACK received (R178). -/
def prepareSwap (f : Fab) : Fab :=
  match f.swapRx with
  | some w =>
    if linkUp f 4 && heardCmd f == 2 then
      let f := { f with swapRx := some { w with step := true, frame := BitVec.ofNat 8 (heardFrame f) } }
      onLink f 4 fun l => { l with heard := 0 }
    else f
  | none => f

/-- The transmitter sends the logical lane on the spare from `SWAP_FRAME` on (R178). -/
def remapLane (f : Fab) : Fab :=
  match f.swapTx with
  | some w =>
    if linkUp f 4 && !w.step && decide (((linkOf f 4).frameNo - w.frame).toNat < 128) then
      let f := onLane f w.old fun l => { l with tx := .retraining }
      let f := onLane f w.new fun l => { l with tx := .active, txLog := w.logical }
      { f with swapTx := some { w with step := true } }
    else f
  | none => f

/-- The spare lane is locked under the new mapping (R178): the swap is counted and reported, and SWAP_DONE sent. -/
def lockLane (f : Fab) : Fab :=
  match f.swapRx with
  | some w =>
    if linkUp f 4 && w.step then
      let f := onLane f w.old fun l => { l with rx := .retraining, rounds := 0 }
      let f := onLane f w.new fun l => { l with rx := .active, rxLog := w.logical }
      let f := countLink 4 0x0A 1 (countLink 4 9 1 { f with swapRx := none })
      nextSwap (tellSwap 3 w.logical w.new w.frame.toNat
        (raise 0x1B (place [(0, w.logical), (8, w.old), (16, w.new), (24, sparesLeft f), (28, w.cause.toNat)]) f))
    else f
  | none => f

/-- SWAP_DONE received (R178): the transmitter replays. -/
def endSwap (f : Fab) : Fab :=
  if linkUp f 4 && heardCmd f == 3 && f.swapTx.isSome then
    onLink { f with swapTx := none } 4 fun l => { l with quiet := false, heard := 0, replay := l.retry.length }
  else f

/-- The oldest waiting message, when it is of type t (R159). -/
def headMsg (t : Nat) (f : Fab) : Option (Msg × Fab) :=
  match f.dom.inbox with
  | m :: rest => if fld m.bits 0 8 = t then some (m, { f with dom := { f.dom with inbox := rest } }) else none
  | [] => none

/-- What a LINK_DOWN or LINK_UP message tells of a link, taken in (R168, R170). -/
def learnLink (up : Bool) (m : BitVec 512) (d : Domain) : Domain :=
  let die := fld m 32 3
  let port := fld m 40 3
  if port = 4 then
    let e : BitVec 16 := if up then BitVec.ofNat 16 (0x8000 + fld m 51 13) else 0
    { d with exits := tset 0 d.exits die e }
  else
    let rest := d.knownDown.filter fun x => x != 8 * die + port
    { d with knownDown := if up then rest else rest ++ [8 * die + port] }

/-- LINK_DOWN or LINK_UP processed (R168): paths recomputed, and the message forwarded once to the other partners.  A copy of
the message forwarded last about the same link, which came by another path, and this die's own come back, end here (log 106). -/
def spreadLink (up : Bool) (f : Fab) : Fab :=
  match headMsg (if up then 0x11 else 0x10) f with
  | none => f
  | some (m, f) =>
    let key := 8 * fld m.bits 32 3 + fld m.bits 40 3
    if fld m.bits 32 3 = f.prm.die.toNat || tget 0 f.dom.spread key = m.bits then f
    else
      let f := withPaths (fun f => { f with dom := learnLink up m.bits f.dom }) f
      spreadMsg m.bits m.link { f with dom := { f.dom with spread := tset 0 f.dom.spread key m.bits } }

/-- The link port is integrated (R14, R148). -/
def linkPresent (f : Fab) (k : Nat) : Bool := if k = 4 then f.prm.lanes != 0 else bitAt f.prm.spans k

/-- Link ports a LINK_TRAIN argument selects. -/
def trainMask (w : BitVec 32) : List Nat := (List.range 5).filter fun k => bitAt w k

/-- Ports whose training belongs to a handle. -/
def trainingFor (f : Fab) (h : BitVec 16) : List Nat :=
  (List.range 5).filter fun k => match (linkOf f k).train with
    | some t => t.1 == h
    | none => false

/-- Active IL0 lanes and the lowest margin among them, with its lane (R174). -/
def activeLanes (f : Fab) : List Nat := (List.range 36).filter fun i => (laneAt f i).rx = .active && linkPresent f 4

/-- Result words of LINK_TRAIN (R174): `ports` are those it selected, `fails` the failing stage of each that failed. -/
def trainWords (f : Fab) (ports : List Nat) (fails : List (Nat × Nat)) : Nat × Nat × Nat × Nat :=
  let up := place (((List.range 5).filter (linkUp f)).map fun k => (k, 1))
  let act := activeLanes f
  let low := (act.map fun i => (laneAt f i).eye.toNat).foldl min 63
  let lane := (act.find? fun i => (laneAt f i).eye.toNat == low).getD 0
  let bad := fails.filter fun e => ports.contains e.1
  (up, act.length + 256 * sparesLeft f, if act.isEmpty then 0 else low + 256 * lane,
    match bad with
    | e :: _ => e.2 + 16 * e.1 + 256 * place (bad.map fun e => (e.1, 1))
    | [] => 0)

/-- A port begins to train for a handle (R174): with `FULL` its PHY is reset. -/
def openTraining (k : Nat) (h : BitVec 16) (full : Bool) (f : Fab) : Fab :=
  let f := when full (fun f => emit f (.linkReset k (if k = 4 then List.range (f.prm.lanes / 16 * 18) else []))) f
  onLink (dropLink k .training f) k fun x => { x with train := some (h, full), timedOut := false }

/-- LINK_TRAIN begins on the ports its argument selects (R174), or ends at once where every one is UP and left as it is. -/
def beginTrain (h : BitVec 16) (w : BitVec 32) (f : Fab) : Fab :=
  let full := bitAt w 8
  let todo := (trainMask w).filter fun k => full || !linkUp f k
  if todo.isEmpty then
    let r := trainWords f (trainMask w) []
    completeOp h sOk r.1 r.2.1 r.2.2.1 r.2.2.2 { f with lop := { f.lop with trains := f.lop.trains.filter fun t => t.1 != h } }
  else each todo (fun f k => openTraining k h full f) f

/-- LINK_TRAIN accepted (R174): held in IDLE (R315), or begun. -/
def startTrain (h : BitVec 16) (w : BitVec 32) (f : Fab) : Fab :=
  let l := trainMask w
  let busy := fun k => (linkOf f k).train.isSome || f.lop.trains.any fun t => (trainMask t.2).contains k
  if w.toNat / 512 != 0 || fld w 5 3 != 0 || l.isEmpty || l.any (fun k => !linkPresent f k) || f.start.fawn || l.any busy then
    completeOp h sState 0 0 0 0 f
  else
    let f : Fab := { f with lop := { f.lop with trains := f.lop.trains ++ [(h, w)] } }
    if f.pwr.st = 1 then setPending h (some sQueued) f else beginTrain h w f

/-- LINK_TRAINs that IDLE has held before they began go on (R315). -/
def resumeTrains (f : Fab) : Fab :=
  each f.lop.trains (fun f t => when (trainingFor f t.1).isEmpty (beginTrain t.1 t.2) f) f

/-- A port's PHY has reported no link in time (R174). -/
def trainTimeout (k : Nat) (f : Fab) : Fab :=
  if (linkOf f k).train.isSome then onLink f k fun x => { x with timedOut := true } else f

/-- The `n` lanes with the highest margins, lower lanes first among equals (R176). -/
def bestLanes (eye : Nat → Nat) (l : List Nat) (n : Nat) : List Nat :=
  (((List.range 64).reverse.flatMap fun m => l.filter fun i => eye i == m).take n)

/-- Lanes of IL0 that pass training (R175, R176): none of the stages PHY_UP to DESKEW failed, margin of `EYE_SWAP` or more, and
not FAILED before unless `FULL`. -/
def goodLanes (r : TrainResult) (full : Bool) (f : Fab) : List Nat :=
  (List.range (f.prm.lanes / 16 * 18)).filter fun i =>
    !bitAt r.laneFails i && decide (f.eyeSwap.toNat ≤ fld r.eyes (6 * i) 6) && (full || (laneAt f i).rx != .failed)

/-- Lanes of IL0 after training (R175, R176). -/
def trainLanes (r : TrainResult) (full : Bool) (f : Fab) : Fab :=
  let eye := fun i => fld r.eyes (6 * i) 6
  let wired := List.range (f.prm.lanes / 16 * 18)
  let good := goodLanes r full f
  let act := (bestLanes eye good f.prm.lanes).filter fun i => good.contains i
  let act := wired.filter fun i => act.contains i
  each wired (fun f i =>
    let e : BitVec 6 := BitVec.ofNat 6 (eye i)
    if act.contains i then
      let n := (act.takeWhile fun j => j != i).length
      onLane f i fun l => { l with rx := .active, rxLog := n, tx := .active, txLog := n, eye := e, low := false }
    else if good.contains i then onLane f i fun l => { l with rx := .spare, tx := .spare, rxLog := 0, txLog := 0, eye := e, low := false }
    else onLane f i fun l => { l with rx := .failed, tx := .failed, rxLog := 0, txLog := 0, eye := e, low := false }) f

/-- Failing stage of a port's training, 0 when it comes UP (R175): `fails` gives the stages that the PHY and the partner decide,
and of those a span port passes FEC_LOCK. -/
def failingStage (r : TrainResult) (f : Fab) (k : Nat) : Nat :=
  let partner := fld r.partners (16 * k) 16
  let pport := fld r.pports (8 * k) 3
  let given := fld r.fails (4 * k) 4
  let full := match (linkOf f 4).train with
    | some t => t.2
    | none => false
  if k < 4 && !mapMeets f then 1
  else if (linkOf f k).timedOut || given = 2 then 2
  else if k = 4 && given = 3 then 3
  else if given = 4 then 4
  else if k = 4 && (goodLanes r full f).length < f.prm.lanes then 5
  else if k < 4 && (partner % 8 != spanDie f f.prm.die.toNat k || pport != spanPort f f.prm.die.toNat k) then 6
  else if k = 4 && partner / 8 == f.dom.packageId.toNat then 6
  else if given = 7 then 7 else 0

/-- One port's training ends (R175): UP with its numbering reset, or DOWN. -/
def endTrainPort (r : TrainResult) (e : Nat × Nat) (f : Fab) : Fab :=
  let k := e.1
  let full := match (linkOf f k).train with
    | some t => t.2
    | none => false
  let f := if k = 4 then { trainLanes r full f with ibex := {} } else f
  let f := forgetOrigins k f
  let partner : BitVec 16 := BitVec.ofNat 16 (fld r.partners (16 * k) 16)
  let pport : BitVec 8 := BitVec.ofNat 8 (fld r.pports (8 * k) 3)
  if e.2 = 0 then
    let f := withPaths (fun f => onLink f k fun l =>
      { l with st := .up, partner := partner, pport := pport, retry := [], replay := 0, nextSeq := 1, expect := 1, ackSeq := 0
               nak := false, taken := [], seen := [], freed := [], swaps := [], heard := 0, quiet := false, train := none }) f
    tellPartners 0x11 k (raise 0x19 (place [(0, k), (16, partner.toNat)]) f)
  else
    let f := onLink f k fun l => { l with st := .down, train := none }
    tellPartners 0x10 k (raise 0x18 (place [(0, k), (16, (linkOf f k).partner.toNat)]) f)

/-- Training of the ports of one handle ends; the failing stage of each port (R174). -/
def endTrainFor (h : BitVec 16) (r : TrainResult) (f : Fab) : List (Nat × Nat) × Fab :=
  let l := (trainingFor f h).map fun k => (k, failingStage r f k)
  (l.filter (fun e => e.2 != 0), each l (fun f e => endTrainPort r e f) f)

/-- Status of a LINK_TRAIN whose ports have trained (R174). -/
def trainStatus (ports : List Nat) (late : Bool) (f : Fab) : Nat :=
  let ups := (ports.filter (linkUp f)).length
  if ups = ports.length then sOk else if ups != 0 then sPartial else if late then sTimeout else sFault

/-- Ports that a LINK_TRAIN selected. -/
def selectedPorts (f : Fab) (h : BitVec 16) : List Nat :=
  match f.lop.trains.find? fun t => t.1 == h with
  | some t => trainMask t.2
  | none => trainingFor f h

/-- LINK_TRAIN_COMPLETE (R174, R175): the operation of the lowest-numbered training port that a command started, unless IDLE
holds it (R315). -/
def completeTrain (r : TrainResult) (f : Fab) : Fab :=
  let h := (List.range 5).findSome? fun k => match (linkOf f k).train with
    | some t => if t.1 = 0 then none else some t.1
    | none => none
  match h with
  | none => f
  | some h =>
    if f.pwr.st = 1 then f
    else
      let ports := selectedPorts f h
      let late := ports.all fun k => (linkOf f k).timedOut
      let e := endTrainFor h r f
      let w := trainWords e.2 ports e.1
      completeOp h (trainStatus ports late e.2) w.1 w.2.1 w.2.2.1 w.2.2.2
        { e.2 with lop := { e.2.lop with trains := e.2.lop.trains.filter fun t => t.1 != h } }

/-- FLIT_RECEIVE (R155). -/
def execFlitReceive (k : Fin 5) (w : FlitIn) (s : State) : Host.Outcome State Fault Refusal :=
  onFab .main s fun _ f => receiveFlit k w.bits w.pool f
/-- CONTROL_BLOCK_RECEIVE (R156), with the codewords of its frame (R150). -/
def execControlBlockReceive (k : Fin 5) (cb : BlockIn) (s : State) : Host.Outcome State Fault Refusal :=
  onFab .main s fun _ f => receiveBlock k cb.bits (countFec k cb.fec f)
/-- FRAME (R151). -/
def execFrame (k : Fin 5) (picks : List (BitVec 2)) (s : State) : Host.Outcome State Fault Refusal :=
  onFab .main s fun _ f => sendFrame k picks f
/-- LINK_DOWN (R168). -/
def execLinkDown (s : State) : Host.Outcome State Fault Refusal := onFab .main s fun _ f => spreadLink false f
/-- LINK_UP (R168). -/
def execLinkUp (s : State) : Host.Outcome State Fault Refusal := onFab .main s fun _ f => spreadLink true f
/-- PATH_HOLD_RELEASE (R171). -/
def execPathHoldRelease (dest : BitVec 16) (s : State) : Host.Outcome State Fault Refusal :=
  onFab .main s fun _ f => releaseHold dest.toNat f
/-- LINK_RETRAIN (R180). -/
def execLinkRetrain (k : Fin 5) (s : State) : Host.Outcome State Fault Refusal := onFab .main s fun _ f => retrainLink k f
/-- RETRAIN_COMPLETE (R180). -/
def execRetrainComplete (k : Fin 5) (s : State) : Host.Outcome State Fault Refusal := onFab .main s fun _ f => retrained k f
/-- RETRAIN_FAILED (R180). -/
def execRetrainFailed (k : Fin 5) (s : State) : Host.Outcome State Fault Refusal :=
  onFab .main s fun _ f => when ((linkOf f k).st == .retraining) (failLink k) f
/-- LANE_FAULT (R178, R179). -/
def execLaneFault (lane : Fin 36) (cause : BitVec 2) (s : State) : Host.Outcome State Fault Refusal :=
  onFab .main s fun _ f => requestSwap lane cause.toNat f
/-- SWAP_REQ (R178). -/
def execSwapReq (s : State) : Host.Outcome State Fault Refusal := onFab .main s fun _ f => answerSwap f
/-- SWAP_ACK (R178). -/
def execSwapAck (s : State) : Host.Outcome State Fault Refusal := onFab .main s fun _ f => prepareSwap f
/-- LANE_REMAP (R178). -/
def execLaneRemap (s : State) : Host.Outcome State Fault Refusal := onFab .main s fun _ f => remapLane f
/-- SWAP_LANE_LOCKED (R178). -/
def execSwapLaneLocked (s : State) : Host.Outcome State Fault Refusal := onFab .main s fun _ f => lockLane f
/-- SWAP_DONE (R178). -/
def execSwapDone (s : State) : Host.Outcome State Fault Refusal := onFab .main s fun _ f => endSwap f
/-- LANE_RETRAIN_TIMEOUT (R178). -/
def execLaneRetrainTimeout (lane : Fin 36) (s : State) : Host.Outcome State Fault Refusal :=
  onFab .main s fun _ f =>
    let l := laneAt f lane
    when (l.rx == .retraining && decide (10 ≤ l.rounds)) (fun f => onLane f lane fun l => { l with rx := .failed }) f
/-- LINK_TRAIN_COMPLETE (R175). -/
def execLinkTrainComplete (r : TrainResult) (s : State) : Host.Outcome State Fault Refusal :=
  onFab .main s fun _ f => completeTrain r f
/-- TRAIN_TIMEOUT (R174). -/
def execTrainTimeout (k : Fin 5) (s : State) : Host.Outcome State Fault Refusal := onFab .main s fun _ f => trainTimeout k f

end Sys2Proof.Machine
end

