-- ==== Sys2Proof/Machine/Domain.lean ====
section
/-!
DEFINITION. Transfers between instances: credit at the destination and at the source (R161 to R164, R183, R224, R225),
inbound rows and chunks (R163, R166, R198, R200), remote fence signals (R165) and installs (R186).
-/

namespace Sys2Proof.Machine

/-- Lowest key from `k` on that a table does not list. -/
def lowestFree {α : Type} : Tbl α → Nat → Nat
  | [], k => k
  | e :: t, k => if e.1 = k then lowestFree t (k + 1) else k

/-- Inbound rows reserved by contexts whose source satisfies `c` (R162). -/
def reservedFor (f : Fab) (c : BitVec 16 → Bool) : Nat :=
  (f.dom.ctxs.map fun e => match e.2 with
    | some x => if c x.src then x.granted - x.accepted else 0
    | none => 0).sum

/-- The starvation hold of a source (R225). -/
def holdOf (f : Fab) (src : BitVec 16) : Option Hold := f.dom.holds.find? fun h => h.src == src

/-- Unreserved inbound rows as a source sees them: rows set aside for others are reserved (R162, R225). -/
def rowsFree (f : Fab) (src : BitVec 16) : Nat :=
  4096 - reservedFor f (fun _ => true) - ((f.dom.holds.filter fun h => h.src != src).map (·.rows)).sum

/-- A receive context is free for a source (R162, R225). -/
def ctxFree (f : Fab) (src : BitVec 16) : Bool :=
  decide (f.dom.ctxs.length + (f.dom.holds.filter fun h => h.src != src && h.ctx).length < 4096)

/-- One freed row goes to the first hold still short of its 16 (R225). -/
def fillHold : List Hold → List Hold
  | [] => []
  | h :: t => if h.rows < 16 then { h with rows := h.rows + 1 } :: t else h :: fillHold t

/-- A freed context goes to the first hold without one (R225). -/
def fillHoldCtx : List Hold → List Hold
  | [] => []
  | h :: t => if h.ctx then h :: fillHoldCtx t else { h with ctx := true } :: t

/-- `n` applications of `g`. -/
def times {α : Type} (g : α → α) : Nat → α → α
  | 0, x => x
  | n + 1, x => times g n (g x)

/-- `f` with its domain end put through `g`. -/
def onDom (f : Fab) (g : Domain → Domain) : Fab := { f with dom := g f.dom }

/-- `n` inbound rows freed (R163, R225). -/
def freeRows (n : Nat) (f : Fab) : Fab := onDom f fun d => { d with holds := times fillHold n d.holds }

/-- A context freed with its unfilled rows (R163, R164); its flits that wait have no place left and go (log 25). -/
def freeCtx (i : Nat) (f : Fab) : Fab :=
  match ctxOf f i with
  | none => f
  | some c =>
    let f := onDom f fun d => { d with ctxs := tset none d.ctxs i none, holds := fillHoldCtx d.holds
                                       inbound := d.inbound.filter fun x => fCtx x.bits != i }
    dropOwner (.inbound i) (freeRows (c.granted - c.accepted) f)

/-- A starvation hold set for a source (R225). -/
def setHold (src : BitVec 16) (f : Fab) : Fab :=
  let f := onDom f fun d => { d with holds := d.holds ++ [⟨src, 0, false, 0⟩] }
  raise 0x1C src.toNat (countInst 0x16 1 f)

/-- A hold ends, and the first source that waits takes its place (R225). -/
def endHold (src : BitVec 16) (f : Fab) : Fab :=
  let f := onDom f fun d => { d with holds := d.holds.filter fun h => h.src != src }
  match f.dom.holdWait with
  | w :: rest => if f.dom.holds.length < 4 then setHold w (onDom f fun d => { d with holdWait := rest }) else f
  | [] => f

/-- A source's consecutive refusals have reached `STARVE_THRESHOLD` (R225). -/
def starve (src : BitVec 16) (f : Fab) : Fab :=
  if tget 0 f.dom.refusals src.toNat < f.dom.starve.toNat || (holdOf f src).isSome || f.dom.holdWait.contains src then f
  else if f.dom.holds.length < 4 then setHold src f
  else onDom f fun d => { d with holdWait := d.holdWait ++ [src] }

/-- A hold not granted across two rounds expires (R225). -/
def expireHold (src : BitVec 16) (f : Fab) : Fab :=
  match holdOf f src with
  | some h => when (decide (2 ≤ h.rounds)) (fun f => endHold src (countInst 0x17 1 f)) f
  | none => f

/-- Banks that the rows of a CREDIT_REQ lie in (R163). -/
def reqBanks (m : BitVec 512) : List Nat :=
  ((List.range (fld m 56 8 + 1)).map fun i => bankOf (grantRow m (fld m 64 8 + i))).dedup

/-- The segment names what is not on this instance, or a placement that breaks R68 (R162). -/
def reqMisplaced (f : Fab) (m : BitVec 512) : Bool :=
  if cMode m = 2 then (servingPort f (streamStack m)).isNone
  else decide (2 < cMode m) || fld m 89 2 == 3
    || !placeOk (fld m 80 9) (fld m 72 8) (stripeOf (fld m 89 2)) (fld m 192 12 + fld m 64 8 + fld m 56 8)

/-- First bank of a CREDIT_REQ under a DESTRUCTIVE march (R254). -/
def reqDestroyed (f : Fab) (m : BitVec 512) : Option Nat :=
  if 2 ≤ cMode m then none else (reqBanks m).find? (destroyed f)

/-- The state conditions of R162 fail. -/
def reqState (f : Fab) (m : BitVec 512) : Bool :=
  let g := fld m 80 9 / 32
  !isReady f || moving f || f.sec.zeroing || f.start.fawn || (cMode m != 2 && ((portOf f (16 + g)).freeze || bitAt f.th.frozen g))
    || (reqDestroyed f m).isSome

/-- Rows that a CREDIT_REQ can be granted (R162). -/
def reqRows (f : Fab) (src : BitVec 16) (n : Nat) : Nat :=
  min n (min (rowsFree f src) (f.dom.sourceCap.toNat - reservedFor f fun s => s == src))

/-- Why a CREDIT_REQ is refused (R162): 1 BUFFER, 2 CONTEXT, 3 STATE, 4 LOCALITY; 0 when it is granted. -/
def refusalOf (f : Fab) (src : BitVec 16) (m : BitVec 512) : Nat :=
  let n := fld m 56 8 + 1
  if reqMisplaced f m then 4
  else if reqState f m then 3
  else if !ctxFree f src then 2
  else if reqRows f src n < min n 16 then 1
  else 0

/-- A CREDIT_REQ answered on arrival (R162, R225). -/
def answerCredit (m : BitVec 512) (f : Fab) : Fab :=
  let src : BitVec 16 := BitVec.ofNat 16 (fld m 16 16)
  let stag := fld m 32 16
  let n := fld m 56 8 + 1
  match refusalOf f src m with
  | 0 =>
    let g := reqRows f src n
    let i := lowestFree f.dom.ctxs 0
    let f := onDom f fun d => { d with ctxs := tset none d.ctxs i (some ⟨src, m, g, 0, 0, false, [], 0⟩)
                                       refusals := tset 0 d.refusals src.toNat 0 }
    let f := if (holdOf f src).isSome then endHold src f else f
    answer src.toNat (msgOf f 2 [(32, stag), (48, i), (64, g - 1)]) f
  | r =>
    let f := match r, reqDestroyed f m with
      | 3, some b => reportBorrowed b rInbound f
      | _, _ => f
    let short := r = 2 || (r = 1 && rowsFree f src < min n 16)
    let f := if short then onDom f fun d => { d with refusals := tset 0 d.refusals src.toNat (tget 0 d.refusals src.toNat + 1) } else f
    answer src.toNat (msgOf f 3 [(32, stag), (48, r)]) (countInst (3 + r) 1 f)

/-- The segment of a flight that a source tag names, in a phase that satisfies `c`. -/
def segFor (f : Fab) (stag : Nat) (c : SegPhase → Bool) : Option (Nat × Flight × Seg) :=
  (allFlights f).findSome? fun e => (e.2.segs.find? fun g => g.stag.toNat == stag && c g.phase).map fun g => (e.1, e.2, g)

/-- The segment of a MIGRATE that a source tag names, in a phase that satisfies `c`. -/
def migSegFor (f : Fab) (stag : Nat) (c : SegPhase → Bool) : Option (Migrate × Seg) :=
  f.lop.migs.findSome? fun m => (m.segs.find? fun g => g.stag.toNat == stag && c g.phase).map fun g => (m, g)

/-- A segment of a flight put through `g`. -/
def onFlightSeg (q ord : Nat) (stag : BitVec 16) (g : Seg → Seg) (f : Fab) : Fab :=
  onFlight q ord (fun x => { x with segs := x.segs.map fun s => if s.stag = stag then g s else s }) f

/-- A CREDIT_GRANT at the source (R163); one that answers nothing outstanding is cancelled (R164). -/
def takeGrant (m : BitVec 512) (f : Fab) : Fab :=
  let stag := fld m 32 16
  let rctx := fld m 48 12
  let n := fld m 64 8 + 1
  match segFor f stag (· == .asked), migSegFor f stag (· == .asked) with
  | some (q, x, g), _ =>
    let n := min n g.count
    let f := onFlightSeg q x.ord g.stag (fun s => { s with phase := .granted, granted := n, rctx := BitVec.ofNat 12 rctx
                                                           refusals := 0, rounds := 0 }) f
    askMore q x.ord (onFlight q x.ord (fun x => { x with asks := tset 0 x.asks g.leg (g.first + n) }) f)
  | none, some (mg, g) => grantStream mg.handle g.stag rctx n f
  | none, none => answer (fld m 16 16) (msgOf f 5 [(48, rctx)]) f

/-- Rounds of back-off after `k` refusals in a row (R224). -/
def creditBackoff (f : Fab) (k : Nat) : Nat := min (2 ^ min (k - 1) 17) f.dom.backoffCap.toNat

/-- Rounds of the XP that carries a segment's rows (R224); a MIGRATE's chunks pass no XP at their source, and XP0 counts for
them (DESIGN CHOICE, log 24). -/
def segRounds (f : Fab) (x : Flight) (g : Seg) : Nat :=
  match x.legs[g.leg]? with
  | some l => (portOf f l.port).rounds
  | none => (portOf f 16).rounds

/-- A CREDIT_REFUSE at the source (R224). -/
def takeRefusal (m : BitVec 512) (f : Fab) : Fab :=
  let stag := fld m 32 16
  let r := fld m 48 8
  if r = 0 || decide (4 < r) then f
  else
    let f := countInst (7 + r) 1 f
    match segFor f stag (· == .asked), migSegFor f stag (· == .asked) with
    | some (q, x, g), _ =>
      if r = 4 then abortFlight q x.ord 4 0 0 f
      else
        let k := g.refusals + 1
        onFlightSeg q x.ord g.stag (fun s => { s with phase := .backoff (segRounds f x g + creditBackoff f k), refusals := k }) f
    | none, some (mg, g) =>
      if r = 4 then endMigrate mg.handle sFault 0 f
      else
        let k := g.refusals + 1
        onMigSeg mg.handle g.stag (fun s => { s with phase := .backoff ((portOf f 16).rounds + creditBackoff f k), refusals := k }) f
    | none, none => f

/-- The back-off of a segment is over at round `now`. -/
def backoffOver (now : Nat) (p : SegPhase) : Bool :=
  match p with
  | .backoff r => decide (r ≤ now)
  | _ => false

/-- A refused segment's CREDIT_REQ sent again (R224). -/
def resendCredit (stag : Nat) (f : Fab) : Fab :=
  let waiting := fun (p : SegPhase) => match p with
    | .backoff _ => true
    | _ => false
  match segFor f stag waiting, migSegFor f stag waiting with
  | some (q, x, g), _ =>
    if !backoffOver (segRounds f x g) g.phase then f
    else
      match x.legs[g.leg]? with
      | none => f
      | some l =>
        let s := sendMsg g.dest.toNat (creditReq f q x l g.first g.count stag) (countInst 0x15 1 f)
        if s.1 then onFlightSeg q x.ord g.stag (fun s => { s with phase := .asked }) s.2 else abortFlight q x.ord 4 0 0 s.2
  | none, some (mg, g) =>
    if !backoffOver (portOf f 16).rounds g.phase then f
    else
      let s := sendMsg g.dest.toNat (streamReq f mg g.first g.count stag) (countInst 0x15 1 f)
      if s.1 then onMigSeg mg.handle g.stag (fun s => { s with phase := .asked }) s.2 else endMigrate mg.handle sFault 0 s.2
  | none, none => f

/-- The grant is sent whole and may be acknowledged. -/
def sentWhole (g : Seg) : Bool := g.phase == .granted && g.sent == g.granted

/-- A ROW_ACK at the source (R163). -/
def takeRowAck (m : BitVec 512) (f : Fab) : Fab :=
  let stag := fld m 32 16
  match segFor f stag (· == .granted), migSegFor f stag (· == .granted) with
  | some (q, x, g), _ =>
    if !sentWhole g || g.rctx.toNat != fld m 48 12 then f
    else askMore q x.ord (rowsAcked q x.ord g.granted (onFlightSeg q x.ord g.stag (fun s => { s with phase := .acked }) f))
  | none, some (mg, g) => if !sentWhole g || g.rctx.toNat != fld m 48 12 then f else ackStream mg.handle g.stag f
  | none, none => f

/-- Some answer is awaited under the segment's tag. -/
def segOpen (p : SegPhase) : Bool := p != .acked && p != .idle

/-- An XFER_FAULT at the source (R183). -/
def takeFault (m : BitVec 512) (f : Fab) : Fab :=
  let stag := fld m 32 16
  match segFor f stag segOpen, migSegFor f stag segOpen with
  | some (q, x, _), _ => abortFlight q x.ord 4 0 0 f
  | none, some (mg, _) => endMigrate mg.handle sFault 0 f
  | none, none => f

/-- The flight whose remote signal bears a tag (R74). -/
def signalFor (f : Fab) (stag : Nat) : Option (Nat × Flight × FSig) :=
  (allFlights f).findSome? fun e => e.2.fsig.bind fun s => if s.stag.toNat = stag then some (e.1, e.2, s) else none

/-- The entry of a MIGRATE whose install bears a tag and has not been answered OK (R186). -/
def installFor (f : Fab) (stag : Nat) : Option (Migrate × Nat × MigEntry) :=
  f.lop.migs.findSome? fun m => ((List.range m.entries.length).zip m.entries).findSome? fun e =>
    if e.2.stag.toNat = stag && (e.2.inst == 1 || e.2.inst == 3) then some (m, e.1, e.2) else none

/-- An answer awaited across two consecutive rounds ends its transfer, signal or MIGRATE (R183, R394). -/
def timeoutStag (stag : Nat) (f : Fab) : Fab :=
  match segFor f stag segOpen with
  | some (q, x, g) => when (decide (2 ≤ g.rounds)) (abortFlight q x.ord 4 0 0) f
  | none =>
    match migSegFor f stag segOpen with
    | some (m, g) => when (decide (2 ≤ g.rounds)) (endMigrate m.handle sFault 0) f
    | none =>
      match signalFor f stag with
      | some (q, x, s) => when (decide (2 ≤ s.rounds)) (abortFlight q x.ord 4 0 0) f
      | none =>
        match installFor f stag with
        | some (m, _, e) => when (decide (2 ≤ e.rounds)) (endMigrate m.handle sFault 0) f
        | none => f

/-- CANCEL at the destination (R164): only the source of a grant cancels it. -/
def takeCancel (m : BitVec 512) (f : Fab) : Fab :=
  let i := fld m 48 12
  match ctxOf f i with
  | some c => when (c.src.toNat == fld m 16 16) (freeCtx i) f
  | none => f

/-- A context without a flit across two rounds is freed (R164). -/
def expireCtx (i : Nat) (f : Fab) : Fab :=
  match ctxOf f i with
  | some c => when (decide (2 ≤ c.rounds)) (fun f => freeCtx i (countInst 0x0D 1 f)) f
  | none => f

/-- XFER_FAULT sent for a grant, which is freed (R160, R164). -/
def faultCtx (i cause : Nat) (f : Fab) : Fab :=
  match ctxOf f i with
  | none => f
  | some c => answer c.src.toNat (msgOf f 6 [(32, fld c.req 32 16), (48, i), (72, cause)]) (freeCtx i f)

/-- ROW_ACK sent for a grant, which is freed (R163). -/
def ackCtx (i : Nat) (f : Fab) : Fab :=
  match ctxOf f i with
  | none => f
  | some c => freeCtx i (answer c.src.toNat (msgOf f 4 [(32, fld c.req 32 16), (48, i), (72, c.poison.toNat)]) f)

/-- A context put through `g`. -/
def onCtx (i : Nat) (g : Ctx → Ctx) (f : Fab) : Fab :=
  onDom f fun d => { d with ctxs := tset none d.ctxs i ((tget none d.ctxs i).map g) }

/-- A posted write buffer has accepted, or the stack path acknowledged, one more row of a grant (R163, R198): the inbound row
is free, and a grant accepted whole is acknowledged. -/
def acceptRow (i : Nat) (f : Fab) : Fab :=
  let f := freeRows 1 (onCtx i (fun c => { c with accepted := c.accepted + 1 }) f)
  match ctxOf f i with
  | some c => when (decide (c.granted ≤ c.accepted)) (ackCtx i) f
  | none => f

/-- The flit moved by the beat under way marked. -/
def markFlit (i : Nat) (f : Fab) : Fab :=
  onDom f fun d => { d with inbound := markFirst (fun x => !x.moved && fCtx x.bits == i)
                                         (fun x => { x with moved := true, taken := true }) 1 d.inbound }

/-- A row written for a grant (R35, R163, R166). -/
def writeGrant (p i : Nat) (m : BitVec 512) (x : InFlit) (ra : Nat) (f : Fab) : Fab :=
  let g := fld m 96 8
  let rb := (fld m 104 4 + 1) * 32
  let body := fBody x.bits
  if cMode m = 0 then writeTile p ra g rb (copyRow g rb body (contribOf body) (epochOf body)) (fPoison x.bits) f
  else
    let tag := fld m 112 4
    let epoch := fld m 120 8
    if fPoison x.bits then
      let f := raise 0x0F (place [(0, p), (8, ra), (32, tag), (40, epoch)]) (countPort p 0x1A 1 f)
      onCtx i (fun c => { c with poison := true }) f
    else
      let a := accumulate p rInbound ra ⟨takeApart g body, tag, epoch, g, fld m 108 2, bitAt m 110, rb⟩ f
      match a.1 with
      | .poisoned => onCtx i (fun c => { c with poison := true }) a.2
      | _ => a.2

/-- The tile row of a flit lies within its grant. -/
def trowOk (c : Ctx) (x : InFlit) : Bool :=
  decide (fld c.req 64 8 ≤ fTrow x.bits) && decide (fTrow x.bits < fld c.req 64 8 + c.granted)

/-- A beat of an INBOUND burst of rows (R105, R163, R253, R254). -/
def rowBeat (p : Nat) (b : Burst) (w : BeatWait) (f : Fab) : Fab :=
  match ctxOf f b.leg, nextFlit f b.leg with
  | some c, some x =>
    if cMode c.req = 2 then f
    else if !trowOk c x then cutBurst p (faultCtx b.leg 2 f)
    else
      let ra := grantRow c.req (fTrow x.bits)
      match flitGate f c x with
      | .refused n => cutBurst p (faultCtx b.leg 2 (reportBorrowed n rInbound f))
      | .borrow n => waitBeat p 0x12 (claimBank n (decide (f.stallBound.toNat ≤ b.guard)) f)
      | .go =>
        if regionWaits f p then regionWait p f
        else
          let merges := flitMerges f c x && rawState f.store ra != 0
          let f := writeGrant p b.leg c.req x ra (disturb [ra] (beginBeat p [ra] (cycleWait p w merges f)))
          let f := countInst 0x0E (fBleat x.bits && !x.taken).toNat (markFlit b.leg f)
          afterBeat p (if x.taken then f else acceptRow b.leg f)
      | _ => waitBeat p 0x0A f
  | _, _ => cutBurst p f

/-- ROW_FLIT's effect: a beat of the INBOUND burst under way on an XP. -/
def inboundBeat (slots : Tbl (BitVec 16)) (p : Nat) (w : BeatWait) (f : Fab) : Fab :=
  let f := checkPreempt slots p f
  match burstOf (portOf f p) with
  | some b => if b.req = rInbound then rowBeat p b w f else f
  | none => f

/-- First tag from `t` on that is not outstanding on a port (R192; log 20). -/
def freeTag (l : List SopTag) : Nat → BitVec 16 → BitVec 16
  | 0, t => t
  | n + 1, t => if l.any fun x => x.tag == t then freeTag l n (t + 1) else t

/-- A request sent on a stack port under a fresh tag, which takes a slot (R192, R196). -/
def sendRequest (k : Nat) (j : Job) (f : Fab) : SopTag × Fab :=
  let x := kportOf f k
  let tag := freeTag x.tags (x.tags.length + 1) x.nextTag
  let t : SopTag := ⟨tag, j, 0, false, .running, false⟩
  let f := onKport f k fun x => { x with tags := x.tags ++ [t], slots := x.slots - 1, nextTag := tag + 1 }
  (t, sendSop k (putf j.hdr 16 16 tag.toNat) none f)

/-- Units of 64 bytes of a chunk of a grant (R198): 9, but for the chunk that ends a grant as large as was asked, which may end the
stream and be short (log 7); a partial grant is not the stream's last (R163). -/
def chunkSize (c : Ctx) (x : InFlit) : Nat :=
  if fLast x.bits && c.granted == fld c.req 56 8 + 1 then (Config.lastChunk c.req (fTrow x.bits)).val + 1 else 9

/-- A chunk written to its stack (R163, R198, R200): a one-row WRITE and its data.  A flit sent before is a chunk written
again after a CRC failure (R202). -/
def writeChunk (k i : Nat) (c : Ctx) (x : InFlit) (f : Fab) : Fab :=
  let t := fTrow x.bits
  let n := chunkSize c x
  let addr := (fld c.req 144 38 + 576 * t) % 2 ^ 38
  let mask := tget 0 c.masks t
  let poison := fPoison x.bits
  let lost := poison && mask == 0
  let f := if lost then countLink x.link 4 1 f else f
  let h := sopHeader 2 0 0 (streamStack c.req) addr 0 false false 0 0 0 0 (8 * n) 0 0 0
  let r := sendRequest k ⟨.inbound i, 2, h, t, 1, x.taken⟩ f
  let pm := if !poison then 0 else if lost then 2 ^ 72 - 1 else mask.toNat
  sendData k r.1 (fBody x.bits) poison pm r.2

/-- A beat of an INBOUND burst of a STREAM chunk, which accesses no bank (R163). -/
def streamBeat (p : Nat) (b : Burst) (f : Fab) : Fab :=
  match ctxOf f b.leg, nextFlit f b.leg with
  | some c, some x =>
    if cMode c.req != 2 then f
    else
      match servingPort f (streamStack c.req) with
      | none => cutBurst p (faultCtx b.leg 1 f)
      | some k =>
        if (kportOf f k).st != .up then cutBurst p (faultCtx b.leg 1 f)
        else if (kportOf f k).slots = 0 || (kportOf f k).units < 9 then cutBurst p f
        else afterBeat p (markFlit b.leg (writeChunk k b.leg c x f))
  | _, _ => cutBurst p f

/-- STREAM_FLIT's effect. -/
def inboundChunk (slots : Tbl (BitVec 16)) (p : Nat) (f : Fab) : Fab :=
  let f := checkPreempt slots p f
  match burstOf (portOf f p) with
  | some b => if b.req = rInbound then streamBeat p b f else f
  | none => f

/-- A FENCE_SIGNAL message (R165). -/
def takeSignal (m : BitVec 512) (f : Fab) : Fab :=
  let src := fld m 16 16
  let ok := isReady f
  let f := if ok then addFence (fld m 48 6) (fld m 64 16) rInbound src f else f
  answer src (msgOf f 8 [(32, fld m 32 16), (48, (!ok).toNat)]) f

/-- A FENCE_ACK at the source (R165, R224). -/
def takeFenceAck (m : BitVec 512) (f : Fab) : Fab :=
  match signalFor f (fld m 32 16) with
  | none => f
  | some (q, x, s) =>
    if fld m 48 8 = 0 then completeFlight q x.ord f
    else if fld m 48 8 = 1 && s.resumeAt.isNone then
      let k := s.refusals + 1
      let at_ := (portOf f 16).rounds + creditBackoff f k
      onFlight q x.ord (fun x => { x with fsig := some { s with refusals := k, resumeAt := some at_ } }) f
    else f

/-- A NOT_READY signal sent again after its back-off (R165). -/
def resendSignal (stag : Nat) (f : Fab) : Fab :=
  match signalFor f stag with
  | none => f
  | some (q, x, s) =>
    match s.resumeAt with
    | none => f
    | some r =>
      if (portOf f 16).rounds < r then f
      else
        let o := dDst x.desc
        let t := sendMsg (oFinst o) (msgOf f 7 [(32, stag), (48, dFence x.desc), (64, oCount o)]) f
        if t.1 then onFlight q x.ord (fun x => { x with fsig := some { s with resumeAt := none } }) t.2
        else abortFlight q x.ord 4 0 0 t.2

/-- A MAP_INSTALL at the destination (R78, R186). -/
def takeInstall (m : BitVec 512) (f : Fab) : Fab :=
  let src : BitVec 16 := BitVec.ofNat 16 (fld m 16 16)
  if 64 ≤ f.map.installs.length then
    answer src.toNat (msgOf f 0x0A [(32, fld m 32 16), (48, 1), (56, f.map.epoch.toNat)]) f
  else if changeWaits f [fld m 48 17] then
    countInst 0x11 1 { f with map := { f.map with installs := f.map.installs ++ [⟨src, m, true⟩] } }
  else applyInstall ⟨src, m, false⟩ f

/-- An entry of a MIGRATE put through `g`. -/
def onMigEntry (h : BitVec 16) (k : Nat) (g : MigEntry → MigEntry) (f : Fab) : Fab :=
  onMig h (fun m => { m with entries := m.entries.modify k g }) f

/-- A MAP_ACK at the source (R186, R224). -/
def takeMapAck (m : BitVec 512) (f : Fab) : Fab :=
  match installFor f (fld m 32 16) with
  | none => f
  | some (mg, k, e) =>
    if e.inst != 1 then f
    else if fld m 48 8 = 0 then
      let f := onMig mg.handle (fun x => { x with destMe := BitVec.ofNat 16 (fld m 56 16) }) f
      finishMigrate mg.handle (onMigEntry mg.handle k (fun e => { e with inst := 2 }) f)
    else if fld m 48 8 = 1 then
      let n := e.refusals + 1
      onMigEntry mg.handle k (fun e => { e with inst := 3, refusals := n, resumeAt := (portOf f 16).rounds + creditBackoff f n }) f
    else f

/-- A MAP_INSTALL answered BUSY sent again after its back-off (R224). -/
def resendInstall (stag : Nat) (f : Fab) : Fab :=
  match installFor f stag with
  | none => f
  | some (mg, k, e) =>
    if e.inst != 3 || decide ((portOf f 16).rounds < e.resumeAt) then f
    else sendInstall mg.handle k e.stag (countInst 0x15 1 f)

/-- A STREAM_POISON at the destination (R200). -/
def takeNote (m : BitVec 512) (f : Fab) : Fab :=
  onCtx (fld m 48 12) (fun c => { c with masks := tset 0 c.masks (fld m 64 8) (BitVec.ofNat 72 (fld m 72 72)) }) f

/-- The oldest waiting message processed by `g` when it has the type (R159). -/
def withMsg (t : Nat) (g : BitVec 512 → Fab → Fab) (f : Fab) : Fab :=
  match headMsg t f with
  | some (m, f) => g m.bits f
  | none => f

/-- ROW_FLIT (R163). -/
def execRowFlit (n : Fin 16) (w : BeatWait) (s : State) : Host.Outcome State Fault Refusal :=
  onFab .main s fun slots f => inboundBeat slots (16 + n) w f
/-- STREAM_FLIT (R163). -/
def execStreamFlit (n : Fin 16) (s : State) : Host.Outcome State Fault Refusal :=
  onFab .main s fun slots f => inboundChunk slots (16 + n) f
/-- CREDIT_REQ (R162). -/
def execCreditReq (s : State) : Host.Outcome State Fault Refusal := onFab .main s fun _ f => withMsg 1 answerCredit f
/-- STARVATION_HOLD (R225). -/
def execStarvationHold (src : BitVec 16) (s : State) : Host.Outcome State Fault Refusal := onFab .main s fun _ f => starve src f
/-- HOLD_EXPIRED (R225). -/
def execHoldExpired (src : BitVec 16) (s : State) : Host.Outcome State Fault Refusal :=
  onFab .main s fun _ f => expireHold src f
/-- CREDIT_GRANT (R163). -/
def execCreditGrant (s : State) : Host.Outcome State Fault Refusal := onFab .main s fun _ f => withMsg 2 takeGrant f
/-- CREDIT_REFUSE (R224). -/
def execCreditRefuse (s : State) : Host.Outcome State Fault Refusal := onFab .main s fun _ f => withMsg 3 takeRefusal f
/-- CREDIT_REQ_RESEND (R224). -/
def execCreditReqResend (stag : BitVec 16) (s : State) : Host.Outcome State Fault Refusal :=
  onFab .main s fun _ f => resendCredit stag.toNat f
/-- ROW_ACK (R163). -/
def execRowAck (s : State) : Host.Outcome State Fault Refusal := onFab .main s fun _ f => withMsg 4 takeRowAck f
/-- CANCEL (R164). -/
def execCancel (s : State) : Host.Outcome State Fault Refusal := onFab .main s fun _ f => withMsg 5 takeCancel f
/-- CONTEXT_EXPIRED (R164). -/
def execContextExpired (ctx : BitVec 12) (s : State) : Host.Outcome State Fault Refusal :=
  onFab .main s fun _ f => expireCtx ctx.toNat f
/-- XFER_FAULT (R183). -/
def execXferFault (s : State) : Host.Outcome State Fault Refusal := onFab .main s fun _ f => withMsg 6 takeFault f
/-- TRANSFER_TIMEOUT (R183). -/
def execTransferTimeout (stag : BitVec 16) (s : State) : Host.Outcome State Fault Refusal :=
  onFab .main s fun _ f => timeoutStag stag.toNat f
/-- FENCE_SIGNAL_MESSAGE (R165). -/
def execFenceSignalMessage (s : State) : Host.Outcome State Fault Refusal := onFab .main s fun _ f => withMsg 7 takeSignal f
/-- FENCE_ACK (R165). -/
def execFenceAck (s : State) : Host.Outcome State Fault Refusal := onFab .main s fun _ f => withMsg 8 takeFenceAck f
/-- FENCE_SIGNAL_RESEND (R165). -/
def execFenceSignalResend (stag : BitVec 16) (s : State) : Host.Outcome State Fault Refusal :=
  onFab .main s fun _ f => resendSignal stag.toNat f
/-- MAP_INSTALL (R186). -/
def execMapInstall (s : State) : Host.Outcome State Fault Refusal := onFab .main s fun _ f => withMsg 9 takeInstall f
/-- MAP_ACK (R186). -/
def execMapAck (s : State) : Host.Outcome State Fault Refusal := onFab .main s fun _ f => withMsg 0x0A takeMapAck f
/-- MAP_INSTALL_RESEND (R224). -/
def execMapInstallResend (stag : BitVec 16) (s : State) : Host.Outcome State Fault Refusal :=
  onFab .main s fun _ f => resendInstall stag.toNat f
/-- STREAM_POISON (R200). -/
def execStreamPoison (s : State) : Host.Outcome State Fault Refusal := onFab .main s fun _ f => withMsg 0x0B takeNote f

end Sys2Proof.Machine
end

