-- ==== Sys2Proof/Machine/Maps.lean ====
section
/-!
DEFINITION. MAP_LOAD (R211, R212) and the start of MIGRATE (R185, R186).
-/

namespace Sys2Proof.Machine

/-- Records that stack rows bring (R211): chunks of 576 bytes, and one row of what remains. -/
def askRecords (l : MapLoadRun) (f : Fab) : Fab :=
  let stack := fld l.w1 1 4
  let bytes := 16 * lCount l
  let addr := l.w2.toNat * 64
  match servingPort f stack with
  | none => f
  | some k =>
    let job := fun (a base rows stride : Nat) =>
      (⟨.mapLoad, 1, sopHeader 1 0 0 stack a 0 false false (rows - 1) 0 0 0 (stride / 8) 0 0 0, base, rows, false⟩ : Job)
    let whole := bytes / 576
    let left := bytes % 576
    let jobs := (if whole = 0 then [] else [job addr 0 whole 576])
      ++ (if left = 0 then [] else [job (addr + 576 * whole) whole 1 left])
    onKport f k fun x => { x with jobs := x.jobs ++ jobs }

/-- Rows a stack source brings in all. -/
def recordRows (l : MapLoadRun) : Nat := (16 * lCount l + 575) / 576

/-- Once every stack row of records is there they are checked (R211, R212). -/
def takeRecords (f : Fab) : Fab :=
  match f.map.load with
  | none => f
  | some l =>
    let rows := rxRows f .mapLoad
    if rows.length < recordRows l || l.checked then f
    else
      let rowAt := fun i => rows.find? fun r => r.idx == i
      let recs := (List.range (lCount l)).map fun k => match rowAt (k / 36) with
        | some r => (BitVec.ofNat 128 (fld r.data (128 * (k % 36)) 128), r.poison && (r.pmask == 0 || fld r.pmask (2 * (k % 36)) 2 != 0))
        | none => (0, true)
      let bad := (List.range (lCount l)).find? fun k => (recs.getD k (0, false)).2
      let f := onLoad (fun l => { l with recs := recs.map (·.1), bad := bad }) f
      checkLoad (each [0, 1] (fun f k => onKport f k fun x => { x with rx := x.rx.filter fun r => r.owner != .mapLoad }) f)

/-- MAP_LOAD starts (R212). -/
def startLoad (h : BitVec 16) (w0 w1 w2 w3 : BitVec 32) (f : Fab) : Fab :=
  let l : MapLoadRun := ⟨h, w0, w1, w2, w3, [], 0, none, false, false, none⟩
  let drop := lMode l == 2
  let bank := !drop && !lStack l
  let s := fld w1 18 2
  let bad := w0.toNat / 2 ^ 15 != 0 || w1.toNat / 2 ^ 20 != 0 || w3.toNat / 2 ^ 17 != 0 || lMode l == 3
    || (bank && (s == 3 || !placeOk (fld w1 1 9) (fld w1 10 8) (stripeOf s) ((lCount l - 1) / 32)))
    || (!drop && lStack l && !stackUp f (fld w1 1 4)) || (lMode l != 0 && decide (131072 < lBase l + lCount l))
    || f.map.load.isSome
  if bad then completeOp h sState 0 0xFFFFFFFF 0 0xFFFFFFFF f
  else
    let f := { f with map := { f.map with load := some l } }
    if drop then onLoad (fun l => { l with checked := true }) f
    else if bank then f else askRecords l f

/-- Target entries and what each is written with, in record order, and the first index (R212). -/
def loadWrites (f : Fab) (l : MapLoadRun) : Nat × List (Nat × BitVec 128) :=
  let bare := fun (e : BitVec 128) => putf (putf e 107 21 0) 63 1 0
  match lMode l with
  | 0 => (0, l.recs.map fun e => (fld e 107 17, bare e))
  | 1 => let c := (allocRun f l).getD 0
         (c, (List.range l.recs.length).zip l.recs |>.map fun e => (c + e.1, bare e.2))
  | _ => (lBase l, (List.range (lCount l)).map fun k => (lBase l + k, 0))

/-- MAP_LOAD takes effect once no target drains (R78, R212); the run of an ALLOCATE is the lowest at that moment. -/
def loadEffect (f : Fab) : Fab :=
  match f.map.load with
  | none => f
  | some l =>
    if !l.checked || l.effect.isSome then f
    else if lMode l = 1 && (allocRun f l).isNone then endLoad sMapFull none f
    else
      let w := loadWrites f l
      let targets := (w.2.map (·.1)).dedup
      if changeWaits f targets then
        if l.waited then f else countInst 0x11 1 (onLoad (fun l => { l with waited := true }) f)
      else
        let f := takeEffect (.load l.handle) w.2 f
        onLoad (fun l => { l with effect := some (w.1, targets.length, f.map.epoch) }) f

/-- A source entry of a MIGRATE resolved (R185, R186). -/
def sourceEntry (rows i start : Nat) (f : Fab) : Option MigEntry × Fab :=
  if 131072 ≤ i then (none, f)
  else
    let r := readEntry i f
    let e := r.1
    let stride := if ePack e then ((Config.packedStride e).val + 1) * 8 else 576
    let good := eValid e && eIsStack e && eHealth e == 0 && stackUp r.2 (eStack e)
      && decide (eAddr e + rows * stride ≤ stackBytes r.2 (eStack e))
    (if good then some ⟨i, eStack e, eAddr e, ePack e, BitVec.ofNat 24 (eStream e), BitVec.ofNat 4 (eOscale e), rows * stride,
      start, 0, 0, 0, 0, 0⟩ else none, r.2)

/-- The `n` source entries from index `i` on, each at its place in the stream. -/
def sourceEntries (rows : Nat) : Nat → Nat → Nat → Fab → Option (List MigEntry) × Fab
  | 0, _, _, f => (some [], f)
  | n + 1, i, start, f =>
    let a := sourceEntry rows i start f
    match a.1 with
    | none => (none, a.2)
    | some e =>
      let b := sourceEntries rows n (i + 1) (start + padded e.bytes) a.2
      (b.1.map (e :: ·), b.2)

/-- MIGRATE starts (R185, R186). -/
def startMigrate (h : BitVec 16) (w0 w1 w2 w3 w4 : BitVec 32) (f : Fab) : Fab :=
  let bad := w0.toNat / 2 ^ 29 != 0 || w1.toNat / 2 ^ 20 != 0 || w2.toNat / 2 ^ 17 != 0 || w4.toNat / 2 ^ 16 != 0 || w4 == 0
    || (bitAt w0 27 && !bitAt w0 28) || fld w1 0 16 == (instanceId f).toNat || f.start.fawn || decide (4 ≤ f.lop.migs.length)
  if bad then completeOp h sState 0 0 0 0 f
  else
    let r := sourceEntries w4.toNat (fld w0 17 10 + 1) (fld w0 0 17) 0 f
    match r.1 with
    | none => completeOp h sState 0 0 0 0 r.2
    | some l =>
      let m : Migrate := ⟨h, w0, w1, w2, w3, w4, r.2.map.epoch, l, [], 0, 0, 0, 0, 0, false⟩
      let m := { m with chunks := (streamBytes m + 575) / 576 }
      driveMigrate h (onLop r.2 fun x => { x with migs := x.migs ++ [m] })

end Sys2Proof.Machine
end

