-- ==== Sys2Proof/Machine/Stack.lean ====
section
/-!
DEFINITION. Stack ports: their states (R191, R204, R205), requests and credit (R195, R196), responses (R193, R194, R198,
R199), faults, resends, cancels and losses (R201 to R204).
-/

namespace Sys2Proof.Machine

/-- A received row of a flight whose leg has accepted it already (R195). -/
def rxDone (f : Fab) (r : RxRow) : Bool :=
  match r.owner with
  | .flight q ord => match flightOf f q ord with
    | some x => match x.legs.head? with
      | some l => decide (r.idx < l.next)
      | none => false
    | none => true
  | _ => false

/-- Rows a running tag has still to return. -/
def rowsDue (t : SopTag) : Nat := if t.job.op == 2 || t.phase != .running then 0 else t.job.rows - t.index

/-- Free rows of a stack port's receive buffer (R195, `RX_ROWS_FREE`). -/
def rxFree (f : Fab) (k : Nat) : Nat :=
  let x := kportOf f k
  512 - (x.rx.filter fun r => !rxDone f r).length - (x.tags.map rowsDue).sum

/-- The oldest waiting request of a port sent as far as its receive rows and the slots that no burst has reserved allow (R195, R196): a READ of more rows than are
free goes out in parts, a CALL whole (log 26). -/
def sendNext (k : Nat) (f : Fab) : Fab :=
  let x := kportOf f k
  match x.jobs with
  | [] => f
  | j :: rest =>
    let room := if j.op == 2 then j.rows else rxFree f k
    let n := if j.op == 1 then min j.rows room else if j.rows ≤ room then j.rows else 0
    if x.st != .up || (stackRoom f k).1 = 0 || n = 0 then f
    else
      let now := { j with rows := n, hdr := putf j.hdr 88 8 (n - 1) }
      let later := { j with rows := j.rows - n, base := j.base + n
                            hdr := putf (putf j.hdr 40 38 (sAddr j.hdr + n * sStride j.hdr)) 88 8 (j.rows - n - 1) }
      let f := onKport f k fun x => { x with jobs := if n = j.rows then rest else later :: rest }
      (sendRequest k now f).2

/-- What a stack's fault does to whoever asked (R80, R183, R201, R212). -/
def failOwner (o : Owner) (reason addr stack : Nat) (f : Fab) : Fab :=
  match o with
  | .flight q ord => abortFlight q ord reason addr stack f
  | .migrate h _ => endMigrate h sFault 0 f
  | .inbound i => faultCtx i 1 f
  | .mapLoad => endLoad sFault none f

/-- A tag taken off its port. -/
def endTag (k : Nat) (tag : BitVec 16) (f : Fab) : Fab :=
  onKport f k fun x => { x with tags := x.tags.filter fun t => t.tag != tag }

/-- A tag ends; one that had not timed out ends a run of timeouts (R204: three consecutive tags). -/
def tagServed (k : Nat) (tag : BitVec 16) (f : Fab) : Fab :=
  let late := (kportOf f k).tags.any fun t => t.tag == tag && t.late
  onKport (endTag k tag f) k fun x => { x with timeouts := if late then x.timeouts else 0 }

/-- The tag with a number on a port. -/
def sopTagOf (f : Fab) (k : Nat) (tag : Nat) : Option SopTag := (kportOf f k).tags.find? fun t => t.tag.toNat == tag

/-- A tag's rows requested again, once (R202): CANCEL for the tag, and the rows not yet received under a new one; for a WRITE
and a CALL all of them. -/
def retryTag (k : Nat) (t : SopTag) (f : Fab) : Fab :=
  if t.job.again then failOwner t.job.owner 4 0 0 f
  else
    let f := countStack k 8 1 f
    match t.job.owner with
    | .inbound i =>
      let again := fun (x : InFlit) => if fCtx x.bits = i && fTrow x.bits = t.job.base then { x with moved := false } else x
      cancelTag k t true (onDom f fun d => { d with inbound := d.inbound.map again })
    | _ =>
      let n := if t.job.op == 1 then t.index else 0
      let hdr := putf (putf t.job.hdr 40 38 (sAddr t.job.hdr + n * sStride t.job.hdr)) 88 8 (t.job.rows - n - 1)
      let j := { t.job with hdr := hdr, base := t.job.base + n, rows := t.job.rows - n, again := true }
      onKport (cancelTag k t true f) k fun x => { x with jobs := j :: x.jobs }

/-- Reserved bits of a response are zero and its codes are ones it may carry (R192, R194). -/
def respOk (h : BitVec 256) : Bool :=
  let credit := sType h == 0x87
  (credit || fld h 36 4 == 0) && fld h 116 4 == 0 && fld h 212 12 == 0
    && (if sType h = 0x81 || sType h = 0x83 then decide (sStatus h ≤ 1) else sType h == 0x85 || sStatus h == 0)

/-- A response met before its own rules (R194, R202): its CRC, its form and its tag. -/
def withResponse (k type : Nat) (h : BitVec 256) (d : Option Row) (g : SopTag → Fab → Fab) (f : Fab) : Fab :=
  if (kportOf f k).st != .up then f
  else if sopCrc h d != sCrc h then
    onKport (countStack k 6 1 f) k fun x => { x with tags := x.tags.map fun t => { t with crcSeen := true } }
  else if sType h < 0x81 || 0x87 < sType h || !respOk h then countStack k 7 1 f
  else if sType h != type then f
  else
    match sopTagOf f k (sTag h) with
    | none => countStack k 7 1 f
    | some t => g t f

/-- The data bytes of a message, those beyond its stride zero. -/
def strideBytes (h : BitVec 256) (d : Row) : Row := BitVec.ofNat 4608 (fld d 0 (8 * sStride h))

/-- The STACK_DATA_ERROR event of a poisoned row, and its count (R199, R322). -/
def notePoison (k : Nat) (t : SopTag) (f : Fab) : Fab :=
  let addr := if t.job.op == 1 then sAddr t.job.hdr + t.index * sStride t.job.hdr else sAddr t.job.hdr
  raise 0x1D (place [(0, k), (4, sStack t.job.hdr), (16, addr % 2 ^ 38), (56, t.index)]) (countStack k 0x10 1 f)

/-- A data row of a READ or a CALL (R194, R195, R199, R202). -/
def takeData (k op sub : Nat) (h : BitVec 256) (d : Row) (t : SopTag) (f : Fab) : Fab :=
  if t.job.op.toNat != op then countStack k 7 1 f
  else if t.phase != .running then f
  else if sIndex h != t.index then
    let f := countStack k 7 1 f
    if t.crcSeen && decide (t.index < sIndex h) then retryTag k t f else f
  else
    let poison := sStatus h == 1
    let f := countStack k 4 (sStride h) (countStack k sub 1 f)
    let f := if poison then notePoison k t f else f
    let row : RxRow := ⟨t.job.owner, t.job.base + t.index, strideBytes h d, poison, sPmask h, (sStride t.job.hdr + 63) / 64⟩
    let f := onKport f k fun x =>
      { x with rx := (x.rx.filter fun r => !(r.owner == row.owner && r.idx == row.idx)) ++ [row] }
    let f := onTag k t.tag (fun t => { t with index := t.index + 1 }) f
    let f := if sLast h || t.index + 1 == t.job.rows then tagServed k t.tag f else f
    match t.job.owner with
    | .migrate m _ => driveMigrate m f
    | .mapLoad => takeRecords f
    | _ => f

/-- A WRITE_ACK ends its tag, and the rows of its WRITE are done (R73, R197, R198); a tag under CANCEL awaits its CANCEL_ACK
(R203). -/
def takeWriteAck (k : Nat) (t : SopTag) (f : Fab) : Fab :=
  if t.job.op != 2 || t.index < t.job.rows then countStack k 7 1 f
  else if t.phase != .running then f
  else
    let f := tagServed k t.tag f
    match t.job.owner with
    | .flight q ord => rowsAcked q ord t.job.rows f
    | .inbound i =>
      let mine := fun (x : InFlit) => fCtx x.bits == i && fTrow x.bits == t.job.base
      acceptRow i (onDom f fun d => { d with inbound := d.inbound.filter fun x => !mine x })
    | _ => f

/-- A FAULT response (R201); a tag under CANCEL awaits its CANCEL_ACK all the same (R203). -/
def takeStackFault (k : Nat) (h : BitVec 256) (t : SopTag) (f : Fab) : Fab :=
  let c := sStatus h
  let known := decide (1 ≤ c) && decide (c ≤ 5)
  let f := countStack k (if known then 8 + c else 0x0C) 1 f
  let f := if known then f else countStack k 7 1 f
  if t.phase != .running then f
  else if c = 5 then retryTag k t f
  else failOwner t.job.owner (if c = 1 then 3 else 4) (if c = 1 then sAddr h else 0) (if c = 1 then sStack t.job.hdr else 0)
    (tagServed k t.tag f)

/-- A CANCEL_ACK ends a cancelled tag (R203). -/
def takeCancelAck (k : Nat) (t : SopTag) (f : Fab) : Fab := if t.phase != .running then tagServed k t.tag f else f

/-- A CREDIT message (R191, R196): the first brings the port UP, but not in Fawn mode (R343) nor once an entry to RETAIN or
OFF has taken the port DOWN (R349, R351). -/
def takeStackCredit (k : Nat) (h : BitVec 256) (f : Fab) : Fab :=
  let x := kportOf f k
  let held := f.start.fawn || f.pwr.parked || inPhase f 2 || inPhase f 5
  let bring := x.st == .down && x.enable && x.ready && !held
  let slots : BitVec 16 := BitVec.ofNat 16 (fld h 32 16)
  let units : BitVec 32 := BitVec.ofNat 32 (fld h 48 32)
  if x.st != .up && !bring then f
  else if sopCrc h none != sCrc h then
    onKport (countStack k 6 1 f) k fun x => { x with tags := x.tags.map fun t => { t with crcSeen := true } }
  else if sType h < 0x81 || 0x87 < sType h || !respOk h then countStack k 7 1 f
  else if sType h != 0x87 then f
  else if bring then
    onKport f k fun x => { x with st := .up, slots := slots.toNat, units := units.toNat, slotsSeen := slots, unitsSeen := units
                                  timeouts := 0 }
  else
    onKport f k fun x => { x with slots := x.slots + (slots - x.slotsSeen).toNat, units := x.units + (units - x.unitsSeen).toNat
                                  slotsSeen := slots, unitsSeen := units }

/-- A stack port is lost (R204): its instructions are aborted, and its sweep begins. -/
def losePort (k cause : Nat) (f : Fab) : Fab :=
  let x := kportOf f k
  if x.st != .up then f
  else
    let owners := (x.tags.map (·.job.owner) ++ x.jobs.map (·.owner)).dedup
    let f := onKport f k fun x => { x with st := .failed, slots := 0, units := 0, tags := [], jobs := [], sweep := true, timeouts := 0 }
    let f := raise 0x1E (place [(0, k), (8, cause)]) (countStack k 0x0F 1 f)
    each owners (fun f o => failOwner o 4 0 0 f) f

/-- A tag has received nothing for `SOP_TIMEOUT_US` (R204); the third in a row loses the port. -/
def timeoutTag (k tag : Nat) (f : Fab) : Fab :=
  match sopTagOf f k tag with
  | none => f
  | some t =>
    if (kportOf f k).st != .up || t.phase != .running then f
    else
      let f := onKport (countStack k 0x0E 1 f) k fun x => { x with timeouts := x.timeouts + 1 }
      let f := failOwner t.job.owner 4 0 0 (onTag k t.tag (fun t => { t with late := true }) (cancelTag k t false f))
      if 3 ≤ (kportOf f k).timeouts then losePort k 2 f else f

/-- A CANCEL_ACK has not arrived in time (R204). -/
def timeoutCancel (k tag : Nat) (f : Fab) : Fab :=
  match sopTagOf f k tag with
  | some t => if t.phase != .running then losePort k 1 f else f
  | none => f

/-- The stack path's ready signal changes (R191, R204). -/
def readyChange (k : Nat) (v : Bool) (f : Fab) : Fab :=
  let f := onKport f k fun x => { x with ready := v }
  if v then f else losePort k 0 f

/-- The sweep of a lost port (R204): every valid entry that names one of its stacks is STACK_LOST. -/
def sweepPort (k : Nat) (f : Fab) : Fab :=
  if !(kportOf f k).sweep then f
  else
    let f := each (f.map.entries.map (·.1)) (fun f i =>
      let r := readEntry i f
      let e := r.1
      if eValid e && eIsStack e && servingPort f (eStack e) == some k then countInst 0x14 1 (putEntry i (putf e 2 2 1) r.2)
      else r.2) f
    onKport f k fun x => { x with sweep := false }

/-- A write of `KP_ENABLE` (R205). -/
def writeEnable (k : Nat) (v : Bool) (f : Fab) : Nat × Fab :=
  let x := kportOf f k
  if x.st = .absent then (0, f)
  else if !v && !x.tags.isEmpty then (6, f)
  else if v then (0, onKport f k fun x => { x with enable := true })
  else
    (0, onKport f k fun x => { x with enable := false, st := .down, slots := 0, units := 0 })

/-- What a response on a stack port does (R194 to R204). -/
def respondStack (c : Instr) (f : Fab) : Fab :=
  match c with
  | .readData k h d => withResponse k 0x81 h (some d) (takeData k 1 1 h d) f
  | .callData k h d => withResponse k 0x83 h (some d) (takeData k 4 3 h d) f
  | .writeAck k h => withResponse k 0x82 h none (takeWriteAck k) f
  | .progress k h => withResponse k 0x84 h none (fun _ f => f) f
  | .fault k h => withResponse k 0x85 h none (takeStackFault k h) f
  | .cancelAck k h => withResponse k 0x86 h none (takeCancelAck k) f
  | .credit k h => takeStackCredit k h f
  | _ => f

/-- STACK_REQUEST_SEND (R195). -/
def execStackRequestSend (k : Fin 2) (s : State) : Host.Outcome State Fault Refusal := onFab .main s fun _ f => sendNext k f
/-- READ_DATA (R194). -/
def execReadData (k : Fin 2) (h : BitVec 256) (d : Row) (s : State) : Host.Outcome State Fault Refusal :=
  onPin (.readData k h d) s (onFab .main s fun _ f => withResponse k 0x81 h (some d) (takeData k 1 1 h d) f)
/-- CALL_DATA (R198). -/
def execCallData (k : Fin 2) (h : BitVec 256) (d : Row) (s : State) : Host.Outcome State Fault Refusal :=
  onPin (.callData k h d) s (onFab .main s fun _ f => withResponse k 0x83 h (some d) (takeData k 4 3 h d) f)
/-- WRITE_ACK (R197). -/
def execWriteAck (k : Fin 2) (h : BitVec 256) (s : State) : Host.Outcome State Fault Refusal :=
  onPin (.writeAck k h) s (onFab .main s fun _ f => withResponse k 0x82 h none (takeWriteAck k) f)
/-- PROGRESS (R204): it keeps its tag alive, and the wait it restarts is the surroundings' to time (log 9). -/
def execProgress (k : Fin 2) (h : BitVec 256) (s : State) : Host.Outcome State Fault Refusal :=
  onPin (.progress k h) s (onFab .main s fun _ f => withResponse k 0x84 h none (fun _ f => f) f)
/-- FAULT (R201). -/
def execFault (k : Fin 2) (h : BitVec 256) (s : State) : Host.Outcome State Fault Refusal :=
  onPin (.fault k h) s (onFab .main s fun _ f => withResponse k 0x85 h none (takeStackFault k h) f)
/-- CANCEL_ACK (R203). -/
def execCancelAck (k : Fin 2) (h : BitVec 256) (s : State) : Host.Outcome State Fault Refusal :=
  onPin (.cancelAck k h) s (onFab .main s fun _ f => withResponse k 0x86 h none (takeCancelAck k) f)
/-- CREDIT (R196). -/
def execCredit (k : Fin 2) (h : BitVec 256) (s : State) : Host.Outcome State Fault Refusal :=
  onPin (.credit k h) s (onFab .main s fun _ f => takeStackCredit k h f)
/-- SOP_TIMEOUT (R204). -/
def execSopTimeout (k : Fin 2) (tag : BitVec 16) (s : State) : Host.Outcome State Fault Refusal :=
  onFab .main s fun _ f => timeoutTag k tag.toNat f
/-- CANCEL_ACK_TIMEOUT (R204). -/
def execCancelAckTimeout (k : Fin 2) (tag : BitVec 16) (s : State) : Host.Outcome State Fault Refusal :=
  onFab .main s fun _ f => timeoutCancel k tag.toNat f
/-- STACK_PORT_DOWN (R204); cause 3 is reserved (R322). -/
def execStackPortDown (k : Fin 2) (cause : BitVec 2) (s : State) : Host.Outcome State Fault Refusal :=
  onFab .main s fun _ f => when (cause != 3) (losePort k cause.toNat) f
/-- KP_READY_CHANGE (R191). -/
def execKpReadyChange (k : Fin 2) (v : Bool) (s : State) : Host.Outcome State Fault Refusal :=
  onFab .main s fun _ f => readyChange k v f
/-- LOST_SWEEP (R204). -/
def execLostSweep (k : Fin 2) (s : State) : Host.Outcome State Fault Refusal := onFab .main s fun _ f => sweepPort k f
/-- KP_ENABLE (R205). -/
def execKpEnable (k : Fin 2) (v : Bool) (s : State) : Host.Outcome State Fault Refusal :=
  onFab .ret s fun _ f => byWrite (writeEnable k v) f

end Sys2Proof.Machine
end

