-- ==== Sys2Proof/Machine/Maintenance.lean ====
section
/-!
DEFINITION. MARCH and SCRUB as operations: their acceptance, the borrowing and yielding of banks, and their ends
(R244 to R255).
-/

namespace Sys2Proof.Machine

/-- The engine of group n at the first bank of a range that its group holds, if any (R251). -/
def engineFor (first last row n : Nat) : Option Engine :=
  let lo := max first (32 * n)
  if lo ≤ min last (32 * n + 31) then some ⟨lo, false, row, 0, none, false, false, false, [], 0, false⟩ else none

/-- A MARCH as it starts. -/
def newMarch (h : BitVec 16) (w0 w1 : BitVec 32) : MarchRun :=
  { handle := h, w0 := w0, w1 := w1
    engines := (List.range 16).filterMap fun n =>
      (engineFor (fld w0 0 9) (fld w0 9 9) (fld w1 0 8) n).map fun e => (n, some e)
    banks := 0, badBanks := 0, lowest := none, highest := none, yields := 0, abandoned := 0 }

/-- A MARCH is refused (R255). -/
def marchRefused (w0 w1 : BitVec 32) (f : Fab) : Bool :=
  let first := fld w0 0 9
  let last := fld w0 9 9
  let mode := fld w0 18 2
  let alg := fld w0 20 2
  let range := (List.range 512).filter fun b => decide (first ≤ b) && decide (b ≤ last)
  let live := range.any fun b => tget 0 f.integ.alloc b == 1
  let scrubbed := range.any fun b => (tget none f.integ.scrubs (b / 32)).isSome
  w0.toNat / 2 ^ 22 != 0 || w1.toNat / 2 ^ 16 != 0 || decide (2 ≤ mode) || alg == 3 || decide (last < first)
    || (mode == 1 && (alg != 0 || decide (fld w1 8 8 < fld w1 0 8)))
    || (mode == 0 && (fld w1 0 8 != 0 || fld w1 8 8 != 255 || live || scrubbed))
    || f.integ.march.isSome || f.pwr.st != 0 || leaving f

/-- MARCH starts (R255). -/
def startMarch (h : BitVec 16) (w0 w1 : BitVec 32) (f : Fab) : Fab :=
  if marchRefused w0 w1 f then completeOp h sState 0 0 0 0 f
  else onInteg f fun i => { i with march := some (newMarch h w0 w1) }

/-- The engine of group n takes its bank for the first time (R254). -/
def firstBorrow (n : Nat) (f : Fab) : Fab :=
  match engineOf f n with
  | some e => when (e.quietFrom == 0 && canBorrow f n && f.pwr.st == 0) (borrowBank n) f
  | none => f

/-- The engine of group n borrows its bank again once 256 rounds have passed without a claim (R253). -/
def laterBorrow (n : Nat) (f : Fab) : Fab :=
  match engineOf f n with
  | some e =>
    let quiet := e.quietFrom != 0 && decide (256 ≤ (portOf f (16 + n)).rounds - (e.quietFrom - 1))
    when (quiet && canBorrow f n && f.pwr.st == 0) (borrowBank n) f
  | none => f

/-- A PRESERVING engine yields to a claim (R253): between row tests, and for an urgent claim in the middle of one. -/
def answerClaim (n : Nat) (f : Fab) : Fab :=
  match f.integ.march, engineOf f n with
  | some m, some e => when (mPreserving m && e.borrowed && e.claim && (e.urgent || e.op == 0)) (yieldBank n) f
  | _, _ => f

/-- A row test that has not finished in time is abandoned as for an urgent claim (R253). -/
def lateTest (n : Nat) (f : Fab) : Fab :=
  match f.integ.march, engineOf f n with
  | some m, some e => when (mPreserving m && e.borrowed && e.op != 0) (yieldBank n) f
  | _, _ => f

/-- The MARCH completes once no engine has a bank left (R255). -/
def marchDone (f : Fab) : Fab :=
  match f.integ.march with
  | some m =>
    let ended := m.engines.all fun e => match e.2 with
      | some x => x.finished
      | none => true
    when ended (endMarch (if m.lowest.isSome then sPartial else sOk)) f
  | none => f

/-- SCRUB starts (R244, R246); the first bank of its range under a DESTRUCTIVE run ends it with nothing visited. -/
def startScrub (h : BitVec 16) (w : BitVec 32) (f : Fab) : Fab :=
  let n := fld w 0 4
  if bitAt w 31 || decide (scLastBank w < scFirstBank w) || decide (scLastRow w < scFirstRow w)
      || (tget none f.integ.scrubs n).isSome then completeOp h sState 0 0 0 0 f
  else
    let banks := (List.range 32).filter fun b => decide (scFirstBank w ≤ b) && decide (b ≤ scLastBank w)
    let run : ScrubRun := ⟨h, w, 0, 0, 0, 0, none, none, 0, 0⟩
    if (banks.map fun b => 32 * n + b).any (destroyed f) then
      let r := scrubWords run
      completeOp h sBorrowed r.1 r.2.1 r.2.2.1 r.2.2.2 f
    else onInteg f fun i => { i with scrubs := tset none i.scrubs n (some run) }

/-- The SCRUB of group n completes once every row of its range has been visited (R246). -/
def scrubDone (n : Nat) (f : Fab) : Fab :=
  match tget none f.integ.scrubs n with
  | some s => when (decide (scrubTotal s.w ≤ s.visited)) (endScrub n sOk) f
  | none => f

/-- MARCH_BORROW (R254). -/
def execMarchBorrow (n : Fin 16) (s : State) : Host.Outcome State Fault Refusal := onFab .main s fun _ f => firstBorrow n f
/-- MARCH_YIELD (R253). -/
def execMarchYield (n : Fin 16) (s : State) : Host.Outcome State Fault Refusal := onFab .main s fun _ f => answerClaim n f
/-- ROW_TEST_TIMEOUT (R253); the 4,000 beat times are the surroundings' to time (log 9). -/
def execRowTestTimeout (n : Fin 16) (s : State) : Host.Outcome State Fault Refusal := onFab .main s fun _ f => lateTest n f
/-- MARCH_REBORROW (R253). -/
def execMarchReborrow (n : Fin 16) (s : State) : Host.Outcome State Fault Refusal := onFab .main s fun _ f => laterBorrow n f
/-- MARCH_COMPLETE (R255). -/
def execMarchComplete (s : State) : Host.Outcome State Fault Refusal := onFab .main s fun _ f => marchDone f
/-- SCRUB_COMPLETE (R246). -/
def execScrubComplete (n : Fin 16) (s : State) : Host.Outcome State Fault Refusal := onFab .main s fun _ f => scrubDone n f

end Sys2Proof.Machine
end

