-- ==== Sys2Proof/Machine/Image.lean ====
section
/-!
DEFINITION. The persistent entries (R307), the saved image: its bytes, its judgement and its loading (R273 to R275), and
SAVE (R276 to R278).
-/

namespace Sys2Proof.Machine

/-- `f` with its saved image put through `g`. -/
def onImg (f : Fab) (g : Image → Image) : Fab := { f with img := g f.img }

/-- `f` with its start-up state put through `g`. -/
def onStart (f : Fab) (g : Start → Start) : Fab := { f with start := g f.start }

/-- `f` with its thermal state put through `g`. -/
def onTherm (f : Fab) (g : Therm → Therm) : Fab := { f with th := g f.th }

/-- A persistent entry: index, subindex, type code of R260, bytes. -/
abbrev RwpKey := Nat × Nat × Nat × Nat

/-- The persistent entries but the route table, in ascending order: those below 0x5400 and those above (R307). -/
def rwpLow : List RwpKey := [(0x3110, 1, 0x0B, 64), (0x3110, 2, 2, 1), (0x5000, 1, 3, 2)]
def rwpHigh : List RwpKey :=
  [(0xA000, 7, 2, 1), (0xA000, 9, 2, 1), (0xA010, 0, 2, 1), (0xA010, 1, 2, 1), (0xA010, 2, 2, 1), (0xB000, 3, 2, 1),
    (0xB000, 4, 2, 1), (0xB000, 6, 4, 4)] ++ (List.range 8).map fun i => (0xB001, i, 0x0B, 8)

/-- The entry of the route table for package P (R169). -/
def routeKey (p : Nat) : RwpKey := (0x5400 + p / 256, p % 256, 5, 8)

/-- An index of the route table. -/
def isRoute (x : Nat) : Bool := decide (0x5400 ≤ x) && decide (x ≤ 0x541F)

/-- Running value of a persistent entry. -/
def rwpGet (f : Fab) (x y : Nat) : Nat :=
  match x, y with
  | 0x3110, 1 => f.integ.retired.toNat
  | 0x3110, _ => f.integ.retireAt.toNat
  | 0x5000, _ => f.dom.packageId.toNat
  | 0xA000, 7 => f.th.start.toNat
  | 0xA000, _ => f.th.canary.toNat
  | 0xA010, 0 => f.th.dil1.toNat
  | 0xA010, 1 => f.th.dil2.toNat
  | 0xA010, _ => f.th.dil3.toNat
  | 0xB000, 3 => f.start.failed.toNat
  | 0xB000, 4 => f.start.fawnAt.toNat
  | 0xB000, _ => f.start.count.toNat
  | 0xB001, i => (tget 0 f.start.history i).toNat
  | _, _ => if isRoute x then (tget 0 f.dom.route ((x - 0x5400) * 256 + y)).toNat else 0

/-- Running value of a persistent entry set. -/
def rwpSet (x y v : Nat) (f : Fab) : Fab :=
  match x, y with
  | 0x3110, 1 => { f with integ := { f.integ with retired := BitVec.ofNat 512 v } }
  | 0x3110, _ => { f with integ := { f.integ with retireAt := BitVec.ofNat 8 v } }
  | 0x5000, _ => { f with dom := { f.dom with packageId := BitVec.ofNat 16 v } }
  | 0xA000, 7 => onTherm f fun t => { t with start := BitVec.ofNat 8 v }
  | 0xA000, _ => onTherm f fun t => { t with canary := BitVec.ofNat 8 v }
  | 0xA010, 0 => onTherm f fun t => { t with dil1 := BitVec.ofNat 8 v }
  | 0xA010, 1 => onTherm f fun t => { t with dil2 := BitVec.ofNat 8 v }
  | 0xA010, _ => onTherm f fun t => { t with dil3 := BitVec.ofNat 8 v }
  | 0xB000, 3 => onStart f fun t => { t with failed := BitVec.ofNat 8 v }
  | 0xB000, 4 => onStart f fun t => { t with fawnAt := BitVec.ofNat 8 v }
  | 0xB000, _ => onStart f fun t => { t with count := BitVec.ofNat 32 v }
  | 0xB001, i => onStart f fun t => { t with history := tset 0 t.history i (BitVec.ofNat 64 v) }
  | _, _ =>
    if isRoute x then
      { f with dom := { f.dom with route := tset 0 f.dom.route ((x - 0x5400) * 256 + y) (BitVec.ofNat 64 v) } }
    else f

/-- Default of a persistent entry (R307 and the entry tables it names). -/
def rwpDefault (x y : Nat) : Nat :=
  match x, y with
  | 0x3110, 2 => 3
  | 0xA000, 7 => 95
  | 0xA000, 9 => 8
  | 0xA010, 0 => 8
  | 0xA010, 1 => 4
  | 0xA010, 2 => 2
  | 0xB000, 4 => 3
  | _, _ => 0

/-- Every persistent entry at its default (R275). -/
def rwpDefaults (f : Fab) : Fab :=
  let f := each (rwpLow ++ rwpHigh) (fun f e => rwpSet e.1 e.2.1 (rwpDefault e.1 e.2.1) f) f
  { f with dom := { f.dom with route := [] } }

/-- A route entry may stand, with `own` as the own package (R169). -/
def routeOk (f : Fab) (own p v : Nat) : Bool :=
  let e : BitVec 64 := BitVec.ofNat 64 v
  let a := bitAt e 0
  let b := bitAt e 17
  let n := f.prm.dies
  fld e 34 30 == 0 && !(p == own && (a || b))
    && !(a && (decide (n ≤ fld e 1 3) || fld e 4 13 == own)) && !(b && (decide (n ≤ fld e 18 3) || fld e 21 13 == own))

/-- A value lies in the range of its persistent entry, `DILUTION` elements by themselves (R188, R257, R299, R301). -/
def rwpRange (f : Fab) (x y v : Nat) : Bool :=
  let within := fun (a b : Nat) => decide (a ≤ v) && decide (v ≤ b)
  match x, y with
  | 0x3110, 2 => within 1 255
  | 0x5000, _ => within 0 8191
  | 0xA000, 7 => within 85 95
  | 0xA000, 9 => within 1 62
  | 0xA010, _ => within 2 64
  | 0xB000, 3 => within 0 7
  | 0xB000, 4 => within 1 7
  | _, _ => if isRoute x then routeOk f f.dom.packageId.toNat ((x - 0x5400) * 256 + y) v else true

/-- The persistent entry at an index and subindex, if there is one. -/
def rwpAt (x y : Nat) : Option RwpKey :=
  if isRoute x then some (routeKey ((x - 0x5400) * 256 + y)) else (rwpLow ++ rwpHigh).find? fun e => e.1 == x && e.2.1 == y

/-- A record of the image (R274). -/
def recordBytes (e : RwpKey) (v : Nat) : List Byte :=
  bytesOf 8 (fields [(16, e.1), (8, e.2.1), (8, e.2.2.1), (16, e.2.2.2), (16, 0)]) ++ bytesOf ((e.2.2.2 + 7) / 8 * 8) v

/-- The records of every persistent entry that differs from its default, ascending (R274). -/
def imageRecords (f : Fab) : List (RwpKey × Nat) :=
  let differing := fun (l : List RwpKey) =>
    (l.map fun e => (e, rwpGet f e.1 e.2.1)).filter fun e => e.2 != rwpDefault e.1.1 e.1.2.1
  differing rwpLow ++ (f.dom.route.map fun e => (routeKey e.1, e.2.toNat)) ++ differing rwpHigh

/-- A whole copy with sequence number `seq` (R274). -/
def imageBytes (f : Fab) (seq : Nat) : List Byte :=
  let l := imageRecords f
  let body := l.flatMap fun e => recordBytes e.1 e.2
  let head := bytesOf 32 (fields [(32, 0x49565839), (8, 1), (8, 0), (16, 0), (32, seq), (32, 36 + body.length), (32, l.length),
    (32, f.prm.version.toNat), (64, 0)])
  head ++ body ++ bytesOf 4 (crc32 (head ++ body)).toNat

/-- Bytes `a` to `a + n - 1` of a region; what the list does not hold is 0xFF (log 5). -/
def regionAt (r : List Byte) (a n : Nat) : List Byte := padTo 0xFF n ((r.drop a).take n)

/-- Number at bytes `a` to `a + n - 1` of a region. -/
def regionNat (r : List Byte) (a n : Nat) : Nat := ofBytes (regionAt r a n)

/-- The 32-byte words `a` to `a + n - 1` of a region (R382). -/
def regionWords (r : List Byte) (a n : Nat) : List (BitVec 256) :=
  (List.range n).map fun i => BitVec.ofNat 256 (regionNat r (32 * (a + i)) 32)

/-- Words that `n` bytes reach into. -/
def wordsFor (n : Nat) : Nat := (n + 31) / 32

/-- A copy's sequence number and length (R274). -/
def copySeq (r : List Byte) : Nat := regionNat r 8 4
def copyLength (r : List Byte) : Nat := regionNat r 12 4

/-- A copy is valid (R275). -/
def copyValid (f : Fab) (r : List Byte) : Bool :=
  let n := copyLength r
  regionNat r 0 4 == 0x49565839 && regionNat r 4 1 == 1 && decide (36 ≤ n) && decide (n ≤ f.prm.region.toNat)
    && (crc32 (regionAt r 0 (n - 4))).toNat == regionNat r (n - 4) 4

/-- Sequence number `a` is newer than `b` (R275). -/
def newerSeq (a b : Nat) : Bool :=
  let d := (a + 2 ^ 32 - b) % 2 ^ 32
  decide (1 ≤ d) && decide (d ≤ 2 ^ 31 - 1)

/-- The newer valid copy: false for A, true for B; none when neither is valid (R275). -/
def newerCopy (f : Fab) : Option Bool :=
  match copyValid f f.img.a, copyValid f f.img.b with
  | true, true => some (newerSeq (copySeq f.img.b) (copySeq f.img.a))
  | true, false => some false
  | false, true => some true
  | false, false => none

/-- The bytes of a copy. -/
def copyOf (f : Fab) (b : Bool) : List Byte := if b then f.img.b else f.img.a

/-- The records in `n` bytes of a copy, at most `fuel`: index, subindex, type, bytes and value. -/
def parseRecords : Nat → List Byte → List (RwpKey × Nat)
  | 0, _ => []
  | k + 1, l =>
    if l.length < 8 then []
    else
      let h := ofBytes (l.take 8)
      let n := h / 2 ^ 32 % 2 ^ 16
      ((h % 2 ^ 16, h / 2 ^ 16 % 2 ^ 8, h / 2 ^ 24 % 2 ^ 8, n), ofBytes ((l.drop 8).take n))
        :: parseRecords k (l.drop (8 + (n + 7) / 8 * 8))

/-- Records of a valid copy. -/
def copyRecords (r : List Byte) : List (RwpKey × Nat) :=
  parseRecords (regionNat r 16 4) (regionAt r 32 (copyLength r - 36))

/-- One record applied, but for `DILUTION` (R275); whether it is skipped. -/
def applyRecord (e : RwpKey × Nat) (f : Fab) : Bool × Fab :=
  match rwpAt e.1.1 e.1.2.1 with
  | some k =>
    if k = e.1 && rwpRange f k.1 k.2.1 e.2 then (false, if k.1 = 0xA010 then f else rwpSet k.1 k.2.1 e.2 f) else (true, f)
  | none => (true, f)

/-- Records applied in order, and how many are skipped. -/
def applyRecords : List (RwpKey × Nat) → Fab → Nat × Fab
  | [], f => (0, f)
  | e :: t, f =>
    let a := applyRecord e f
    let b := applyRecords t a.2
    (a.1.toNat + b.1, b.2)

/-- The `DILUTION` records of a copy applied together (R300): all or none, and how many are skipped. -/
def applyDilution (l : List (RwpKey × Nat)) (f : Fab) : Nat × Fab :=
  let mine := l.filter fun e => e.1.1 == 0xA010 && rwpAt 0xA010 e.1.2.1 == some e.1 && rwpRange f 0xA010 e.1.2.1 e.2
  let value := fun (i : Nat) => ((mine.reverse.find? fun e => e.1.2.1 == i).map (·.2)).getD (rwpDefault 0xA010 i)
  if value 1 ≤ value 0 && value 2 ≤ value 1 then
    (0, rwpSet 0xA010 2 (value 2) (rwpSet 0xA010 1 (value 1) (rwpSet 0xA010 0 (value 0) f)))
  else (mine.length, f)

/-- Both copies read whole (R275, R382). -/
def readCopies (f : Fab) : Fab :=
  let n := wordsFor f.prm.region.toNat
  emit (emit f (.nvRead false n)) (.nvRead true n)

/-- The running values loaded at stage 4 (R275); whether the image is neither valid nor empty. -/
def loadImage (f : Fab) : Bool × Fab :=
  let blank := fun (r : List Byte) => r.all fun b => b == 0xFF
  let f := onImg (rwpDefaults (readCopies f)) fun i => { i with loaded := true, skipped := 0 }
  match newerCopy f with
  | some b =>
    let r := copyOf f b
    let l := copyRecords r
    let a := applyRecords l f
    let d := applyDilution l a.2
    (false, onImg d.2 fun i =>
      { i with source := if b then 2 else 1, seq := BitVec.ofNat 32 (copySeq r), skipped := BitVec.ofNat 16 (a.1 + d.1), lastB := some b })
  | none => (!(blank f.img.a && blank f.img.b), onImg f fun i => { i with source := 0 })

/-- The four counts of failed starts read from the image before it is loaded (R342). -/
def loadCounts (f : Fab) : Fab :=
  let f := readCopies f
  match newerCopy f with
  | some b => (applyRecords ((copyRecords (copyOf f b)).filter fun e => e.1.1 == 0xB000 || e.1.1 == 0xB001) f).2
  | none => f

/-- The copy a SAVE writes: an invalid one, else the one not loaded or last written (R276); A where nothing says which
(log 34). -/
def targetCopy (f : Fab) : Bool :=
  match copyValid f f.img.a, copyValid f f.img.b with
  | false, false => match f.img.lastB with
    | some b => !b
    | none => false
  | false, true => false
  | true, false => true
  | true, true => match f.img.lastB with
    | some b => !b
    | none => !(newerSeq (copySeq f.img.b) (copySeq f.img.a))

/-- Sequence number of the next save (R276). -/
def nextSeqNo (f : Fab) : Nat :=
  match newerCopy f with
  | some b => (copySeq (copyOf f b) + 1) % 2 ^ 32
  | none => 1

/-- The temperature window of a SAVE (R277), of `TEMP_IN_USE` (R300). -/
def saveWindow (f : Fab) : Bool :=
  f.th.valid && decide (0 ≤ signed 16 f.th.inUse.toNat) && decide (signed 16 f.th.inUse.toNat ≤ 1600)

/-- The waiting SAVE put through `g`. -/
def onWaiting (g : SaveRun → SaveRun) (f : Fab) : Fab := onImg f fun i => { i with waiting := i.waiting.map g }

/-- A SAVE accepted (R278): it joins one that waits, else it waits itself. -/
def joinSave (h : Option (BitVec 16)) (self forStart : Bool) (f : Fab) : Fab :=
  let run : SaveRun := match f.img.waiting with
    | some r => { r with handles := r.handles ++ h.toList, forStart := r.forStart || forStart }
    | none => ⟨h.toList, self, 0, false, [], false, forStart⟩
  let f := onImg f fun i => { i with waiting := some run }
  match h with
  | some x => setPending x (some (if run.reported then sTemperature else sQueued)) f
  | none => f

/-- SAVE by command (R278, R358). -/
def startSave (h : BitVec 16) (f : Fab) : Fab :=
  if f.sec.st = 0 then completeOp h sSecurity 0 0 0 0 f else joinSave (some h) false false f

/-- A SAVE by the fabric itself (R278, R303, R341): it takes a handle where one is free, and in BLANK completes at once with
REFUSED_SECURITY (R358). -/
def selfSave (forStart : Bool) (f : Fab) : Fab :=
  let h := takeHandle 7 true f
  if f.sec.st = 0 then
    match h.1 with
    | some x => completeOp x sSecurity 0 0 0 (2 ^ 31) h.2
    | none => h.2
  else joinSave h.1 true forStart h.2

/-- Result words of a SAVE (R276). -/
def saveWords (r : SaveRun) : Nat × Nat × Nat × Nat :=
  (ofBytes ((r.bytes.drop 8).take 4), ofBytes ((r.bytes.drop 12).take 4), r.toB.toNat, min 0xFFFF r.deferred + r.self.toNat * 2 ^ 31)

/-- Insertion into an ascending list of handles. -/
def insertHandle (h : BitVec 16) : List (BitVec 16) → List (BitVec 16)
  | [] => [h]
  | x :: t => if h.toNat ≤ x.toNat then h :: x :: t else x :: insertHandle h t

/-- Handles in ascending order (R312). -/
def ascending (l : List (BitVec 16)) : List (BitVec 16) := l.foldl (fun a h => insertHandle h a) []

/-- The handles of a SAVE complete together, ascending (R278, R312). -/
def completeSave (r : SaveRun) (status : Nat) (f : Fab) : Fab :=
  let w := if r.bytes.isEmpty then (0, 0, 0, min 0xFFFF r.deferred + r.self.toNat * 2 ^ 31) else saveWords r
  each (ascending r.handles) (fun f h => completeOp h status w.1 w.2.1 w.2.2.1 w.2.2.2 f) f

/-- A save is put off for temperature (R277): counted over the rounds, reported once. -/
def deferSave (f : Fab) : Fab :=
  match f.img.waiting with
  | none => f
  | some r =>
    let f := onWaiting (fun r => { r with reported := true }) f
    let f := each r.handles (fun f h => setPending h (some sTemperature) f) f
    when (!r.reported) (raise 0x21 (place [(0, (r.handles.headD 0).toNat), (16, f.th.inUse.toNat), (32, f.th.valid.toNat)])) f

/-- The bytes of a region with its first four zero: an invalid `MAGIC` (R276). -/
def zeroMagic (r : List Byte) : List Byte := [0, 0, 0, 0] ++ r.drop 4

/-- `f` with a copy set. -/
def putCopy (b : Bool) (r : List Byte) (f : Fab) : Fab := onImg f fun i => if b then { i with b := r } else { i with a := r }

/-- Steps 3 and 4 of a SAVE as accesses (R276, R382): `MAGIC` zero, then the rest of the copy. -/
def writeBody (b : Bool) (old new : List Byte) (f : Fab) : Fab :=
  let n := wordsFor new.length
  let whole := new ++ old.drop new.length
  emit (emit f (.nvWrite b 0 (regionWords (zeroMagic old) 0 1)))
    (.nvWrite b 0 (regionWords (zeroMagic whole) 0 n))

/-- Steps 5 and 6 of a SAVE as accesses (R276, R382): `MAGIC`, then the copy read back. -/
def writeMagic (b : Bool) (new : List Byte) (f : Fab) : Fab :=
  emit (emit f (.nvWrite b 0 (regionWords new 0 1))) (.nvRead b (wordsFor new.length))

/-- A SAVE refused in BLANK when it is to write (R278, R358): nothing is written. -/
def refuseSave (r : SaveRun) (f : Fab) : Fab := completeSave r sSecurity (onImg f fun i => { i with waiting := none })

/-- A waiting SAVE begins to write (R276 steps 1 to 4). -/
def beginSave (f : Fab) : Fab :=
  match f.img.waiting with
  | none => f
  | some r =>
    let b := targetCopy f
    let run := { r with bytes := imageBytes f (nextSeqNo f), toB := b }
    let f := onImg f fun i => { i with waiting := none, writing := some run }
    let f := writeBody b (copyOf f b) run.bytes f
    putCopy b (zeroMagic (copyOf f b)) (each r.handles (fun f h => setPending h none f) f)

/-- What POWER_SET and start-up make of a SAVE's end is in Startup; here the SAVE itself ends with `status`. -/
def endSave (status : Nat) (f : Fab) : Fab :=
  match f.img.writing with
  | none => f
  | some r => completeSave r status (onImg f fun i => { i with writing := none })

/-- The written copy has been read back equal (R276 step 6). -/
def landSave (f : Fab) : Fab :=
  match f.img.writing with
  | none => f
  | some r =>
    let f := putCopy r.toB (r.bytes ++ (copyOf f r.toB).drop r.bytes.length) (writeMagic r.toB r.bytes f)
    endSave sOk (onImg f fun i => { i with seq := BitVec.ofNat 32 (saveWords r).1, lastB := some r.toB })

end Sys2Proof.Machine
end

