-- ==== Sys2Proof/Machine/LongOps.lean ====
section
/-!
DEFINITION. Long operations commanded by rows of their own (R308, R309), and those that no other chapter of the model
holds: SLOT_COMMIT (R93, R94), DRAIN (R104), ZEROIZE (R317), CANARY_CAL and calibration (R319, R335), and what an entry to
RETAIN or OFF or a RESTART does to the operations outstanding (R315).
-/

namespace Sys2Proof.Machine

/-- A long operation commanded by a row of its own (R308, R309): a handle and the operation's start; in RETAIN the STATE of
R264, and BUSY with 64 outstanding (log 18). -/
def byCommand (opcode : Nat) (start : BitVec 16 → Fab → Fab) (f : Fab) : Fab :=
  if f.pwr.st = 2 && opcode != 5 then emit f (.status 6)
  else
    let h := takeHandle opcode false f
    match h.1 with
    | none => emit f (.status 0x11)
    | some x => start x h.2

/-- An operation that needs port rounds is held in IDLE (R315). -/
def holdIdle (h : BitVec 16) (f : Fab) : Fab := if f.pwr.st = 1 then setPending h (some sQueued) f else f

/-- FREEZE of a port as it will stand once a ZEROIZE has restored it. -/
def settledFreeze (f : Fab) (p : Nat) : Bool :=
  match f.lop.zero with
  | some z => bitAt z.froze p
  | none => (portOf f p).freeze

/-- FREEZE set on a port, so that a ZEROIZE or a calibration under way restores it set. -/
def holdFreeze (p : Nat) (f : Fab) : Fab :=
  let f := onPort f p fun x => { x with freeze := true }
  onLop f fun l => { l with zero := l.zero.map fun z => { z with froze := putBit z.froze p true }
                            cal := l.cal.map fun c => { c with froze := putBit c.froze p true } }

/-- FREEZE of a port set back to `b`, which a ZEROIZE under way does at its own end. -/
def restoreFreeze (p : Nat) (b : Bool) (f : Fab) : Fab :=
  match f.lop.zero with
  | some z => onLop f fun l => { l with zero := some { z with froze := putBit z.froze p b } }
  | none => onPort f p fun x => { x with freeze := b }

/-- SLOT_COMMIT starts (R93, R94). -/
def startCommit (h : BitVec 16) (w : BitVec 32) (f : Fab) : Fab :=
  let l := bitsSet w
  if l.isEmpty || l.any (fun p => (portOf f p).commit.isSome) || f.start.fawn then completeOp h sState 0 0 0 0 f
  else
    let run : CommitRun := ⟨h, w, 0, l.foldl (fun t p => tset 0 t p (portOf f p).rounds) [], 0, 0⟩
    let f := each l (fun f p => onPort f p fun x => { x with commit := some h }) f
    holdIdle h (onLop f fun x => { x with commits := x.commits ++ [run] })

/-- A SLOT_COMMIT ended before its every port has swapped (R94). -/
def abortCommit (h : BitVec 16) (f : Fab) : Fab :=
  match f.lop.commits.find? fun c => c.handle == h with
  | none => f
  | some c =>
    let f := each (bitsSet c.mask) (fun f p => onPort f p fun x => if x.commit = some h then { x with commit := none } else x) f
    let f := onLop f fun l => { l with commits := l.commits.filter fun c => c.handle != h }
    completeOp h sAborted c.swapped.toNat c.longest (c.window.toNat % 2 ^ 32) 0 f

/-- DRAIN starts (R104). -/
def startDrain (h : BitVec 16) (w : BitVec 32) (f : Fab) : Fab :=
  let p := w.toNat
  if 32 ≤ p || (tget none f.lop.drains p).isSome then completeOp h sState 0 0 0 0 f
  else holdFreeze p (onLop f fun l => { l with drains := tset none l.drains p (some ⟨h, 0, 0⟩) })

/-- DRAIN of port p ends with its counts (R104). -/
def endDrain (p status : Nat) (f : Fab) : Fab :=
  match tget none f.lop.drains p with
  | none => f
  | some d => completeOp d.handle status d.beats d.rounds 0 0 (onLop f fun l => { l with drains := tset none l.drains p none })

/-- DRAIN of port p completes once the port is empty (R104). -/
def finishDrain (p : Nat) (f : Fab) : Fab := when (portEmpty f p) (endDrain p sOk) f

/-- The SCRUB of a handle ends with ABORTED (R246). -/
def abortScrub (h : BitVec 16) (f : Fab) : Fab :=
  each (List.range 16) (fun f n => match tget none f.integ.scrubs n with
    | some s => if s.handle = h then endScrub n sAborted f else f
    | none => f) f

/-- The MARCH or SCRUB of a handle ends with ABORTED (R246, R255). -/
def abortSweep (h : BitVec 16) (f : Fab) : Fab :=
  match f.integ.march with
  | some m => if m.handle = h then endMarch sAborted f else abortScrub h f
  | none => abortScrub h f

/-- Handles of the MARCH and the SCRUBs that run. -/
def sweepHandles (f : Fab) : List (BitVec 16) :=
  (f.integ.march.map (·.handle)).toList ++ f.integ.scrubs.filterMap fun e => e.2.map (·.handle)

/-- MARCH and every SCRUB end with ABORTED, ascending by handle (R246, R255, R312, R315). -/
def abortSweeps (f : Fab) : Fab := each (ascending (sweepHandles f)) (fun f h => abortSweep h f) f

/-- A ZEROIZE begins (R315, R317): every port frozen. -/
def beginRun (h : BitVec 16) (scope : BitVec 4) (trigger : BitVec 8) (f : Fab) : Fab :=
  let f := when (bitAt scope 0) abortSweeps f
  let froze : BitVec 32 := BitVec.ofNat 32 (place ((List.range 32).map fun p => (p, (portOf f p).freeze.toNat)))
  let f := each (List.range 32) (fun f p => onPort f p fun x => { x with freeze := true }) f
  beginZero (onLop f fun l => { l with zero := some ⟨h, scope, trigger, froze, false, []⟩ })

/-- ZEROIZE by command (R317): one that writes banks needs port rounds, which IDLE has not (R315). -/
def startZeroize (h : BitVec 16) (w : BitVec 32) (f : Fab) : Fab :=
  if w = 0 || 16 ≤ w.toNat || f.lop.zero.isSome then completeOp h sState 0 0 0 0 f
  else when (bitAt w 0) (holdIdle h) (beginRun h (BitVec.ofNat 4 w.toNat) 0 f)

/-- Rows in the receive buffers go, and the reads that filled them are made again (R317; log 28). -/
def dropHeld (x : Flight) : Flight :=
  let held := x.held.filter fun h => match x.legs[h.leg]? with
    | some l => l.kind == .accSend
    | none => false
  let legs := (List.range x.legs.length).zip x.legs |>.map fun e =>
    match e.2.kind, x.legs[e.1 + 1]? with
    | .moveRead, some w => { e.2 with next := w.next }
    | _, _ => e.2
  { x with held := held, legs := legs }

/-- The selected scope of a ZEROIZE cleared (R317). -/
def clearScope (scope : BitVec 4) (f : Fab) : Fab :=
  let f := if bitAt scope 0 then
      let f := onStore f fun s => { s with rows := [], rstate := [], pwb := [], told := [] }
      { f with queues := tmap {} (fun _ q => { q with flights := q.flights.map dropHeld, noted := [] }) f.queues }
    else f
  let f := if bitAt scope 1 then { f with map := { f.map with entries := [], epoch := 0 } } else f
  let f := if bitAt scope 2 then { f with epgroups := [] } else f
  if bitAt scope 3 then
    let f := { f with queues := tmap {} (fun _ q => { q with records := [] }) f.queues }
    { f with integ := { f.integ with log := [] }, sec := { f.sec with trace := [], traceRaw := 0 }, ev := { f.ev with ring := [] } }
  else f

/-- The banks of a ZEROIZE have been written, where its scope selects them (R317). -/
def zeroWritten (z : ZeroRun) : Bool := !bitAt z.scope 0 || (List.range 16).all fun n => decide (8192 ≤ tget 0 z.rows n)

/-- Result words of ZEROIZE (R317). -/
def zeroizeWords (z : ZeroRun) : Nat × Nat × Nat × Nat :=
  let some' := fun (i n : Nat) => if bitAt z.scope i then n else 0
  (some' 0 131072, some' 1 131072, some' 2 4096, z.scope.toNat + 256 * z.trigger.toNat)

/-- A ZEROIZE whose scope is written ends (R317): the rest of its scope cleared, FREEZE restored, the event and the record. -/
def endZero (z : ZeroRun) (f : Fab) : Fab :=
  let f := clearScope z.scope f
  let f := onLop f fun l => { l with zero := none }
  let f := each (List.range 32) (fun f p => onPort f p fun x => { x with freeze := bitAt z.froze p }) f
  let f := { f with sec := { f.sec with zeroCount := f.sec.zeroCount + 1 } }
  let f := raise 0x2D (place [(0, z.scope.toNat), (8, z.trigger.toNat), (16, z.handle.toNat)]) f
  let w := zeroizeWords z
  completeOp z.handle sOk w.1 w.2.1 w.2.2.1 w.2.2.2 f

/-- CANARY_CAL starts (R319). -/
def startCal (h : BitVec 16) (w : BitVec 32) (f : Fab) : Fab :=
  if w = 0 || 65536 ≤ w.toNat || f.lop.cal.isSome then completeOp h sState 0 0 0 0 f
  else if !f.th.valid || decide ((f.th.startAct.toNat : Int) * 16 ≤ signed 16 f.th.inUse.toNat) then
    completeOp h sTemperature 0 0 0 0 f
  else
    let groups : BitVec 16 := BitVec.ofNat 16 w.toNat
    let ports := (bitsSet groups).flatMap fun n => [n, 16 + n]
    let froze : BitVec 32 := BitVec.ofNat 32 (place (ports.map fun p => (p, (settledFreeze f p).toNat)))
    let f := each ports (fun f p => holdFreeze p f) f
    onLop f fun l => { l with cal := some ⟨h, groups, groups, 0, 0, 63, 0, 0, 0, froze⟩ }

/-- CANARY_CAL ends (R319); ports still frozen for it are restored. -/
def endCal (status : Nat) (f : Fab) : Fab :=
  match f.lop.cal with
  | none => f
  | some c =>
    let f := onLop f fun l => { l with cal := none }
    let f := each (bitsSet c.todo) (fun f n => restoreFreeze (16 + n) (bitAt c.froze (16 + n)) (restoreFreeze n (bitAt c.froze n) f)) f
    let low := if c.done = 0 then 0 else c.lowest.toNat + 256 * c.lowestAt.toNat
    completeOp c.handle status c.done.toNat c.low.toNat low (c.most.toNat + 256 * c.mostAt.toNat) f

/-- Margin of group n at `t` taps, among the margins measured at 0 to 63 taps. -/
def marginAt (meas : BitVec 384) (t : Nat) : Nat := fld meas (6 * t) 6

/-- The tap count that a calibration chooses (R335). -/
def chosenTaps (f : Fab) (meas : BitVec 384) : Nat :=
  ((List.range 64).find? fun t => decide (f.th.canaryAct.toNat + 8 ≤ marginAt meas t)).getD 63

/-- Group n calibrated (R335): its taps and its anchors, which stay away where no temperature is at hand (R343). -/
def calibrate (n : Nat) (anchor : Bool) (meas : BitVec 384) (f : Fab) : Fab :=
  let t := chosenTaps f meas
  let a : Anchor := ⟨f.th.inUse, marginAt meas t, none⟩
  onTherm f fun x => { x with taps := tset 0 x.taps n (BitVec.ofNat 8 t), added := tset 0 x.added n 0
                              anchors := tset none x.anchors n (if anchor then some a else none)
                              lowRounds := tset 0 x.lowRounds n 0 }

/-- A calibration of group n reaches `CANARY_THRESHOLD` (R335). -/
def calReached (f : Fab) (meas : BitVec 384) : Bool := decide (f.th.canaryAct.toNat ≤ marginAt meas (chosenTaps f meas))

/-- Group n of a CANARY_CAL calibrated (R319). -/
def calGroup (n : Nat) (meas : BitVec 384) (c : CalRun) (f : Fab) : Fab :=
  let t := chosenTaps f meas
  let m := marginAt meas t
  let ok := calReached f meas
  let first := c.done == 0
  let lower := first || decide (m < c.lowest.toNat) || (m == c.lowest.toNat && decide (n < c.lowestAt.toNat))
  let higher := first || decide (c.most.toNat < t) || (t == c.most.toNat && decide (n < c.mostAt.toNat))
  let n8 : BitVec 8 := BitVec.ofNat 8 n
  let next : CalRun := { c with
    todo := putBit c.todo n false
    low := putBit c.low n (!ok)
    done := putBit c.done n true
    lowest := if lower then BitVec.ofNat 8 m else c.lowest
    lowestAt := if lower then n8 else c.lowestAt
    most := if higher then BitVec.ofNat 8 t else c.most
    mostAt := if higher then n8 else c.mostAt }
  let f := onLop f fun l => { l with cal := some next }
  let f := restoreFreeze (16 + n) (bitAt c.froze (16 + n)) (restoreFreeze n (bitAt c.froze n) f)
  when (next.todo == 0) (endCal (if next.low = 0 then sOk else sPartial)) f

/-- CALIBRATION_COMPLETE (R319, R335, R337): both ports of the group are empty. -/
def groupCalibrated (n : Nat) (meas : BitVec 384) (f : Fab) : Fab :=
  let asked := match f.lop.cal with
    | some c => bitAt c.todo n
    | none => false
  let again := bitAt f.th.recal n
  if !(asked || again) || !portEmpty f n || !portEmpty f (16 + n) then f
  else
    let ok := calReached f meas
    let f := calibrate n true meas f
    let f := onTherm f fun t => { t with recal := putBit t.recal n false
                                         frozen := if ok then putBit t.frozen n false else t.frozen }
    match f.lop.cal with
    | some c => when asked (calGroup n meas c) f
    | none => f

/-- LINK_TRAIN ended before its ports have finished (R315): they are left DOWN. -/
def abortTrain (h : BitVec 16) (f : Fab) : Fab :=
  let l := trainingFor f h
  let f := each l (fun f k => onLink f k fun x => { x with st := .down, train := none }) f
  let f := onLop f fun x => { x with trains := x.trains.filter fun t => t.1 != h }
  let w := trainWords f l []
  completeOp h sAborted w.1 w.2.1 w.2.2.1 w.2.2.2 f

/-- A handle of a waiting SAVE ends with ABORTED (R278, R312); the SAVE goes with its last. -/
def abortSave (h : BitVec 16) (f : Fab) : Fab :=
  match f.img.waiting with
  | none => f
  | some r =>
    if !r.handles.contains h then f
    else
      let rest := r.handles.filter fun x => x != h
      completeSave { r with handles := [h] } sAborted
        (onImg f fun i => { i with waiting := if rest.isEmpty then none else some { r with handles := rest } })

/-- One outstanding operation ends with ABORTED at an entry to RETAIN or OFF or at a RESTART (R315): not a POWER_SET, a
RESTART, a ZEROIZE that runs or a SAVE that writes. -/
def abortOne (o : Op) (f : Fab) : Fab :=
  match o.opcode.toNat with
  | 1 => abortSweep o.handle f
  | 2 => abortSweep o.handle f
  | 3 => abortCommit o.handle f
  | 4 => each (List.range 32) (fun f p => match tget none f.lop.drains p with
      | some d => if d.handle = o.handle then endDrain p (if portEmpty f p then sOk else sAborted) f else f
      | none => f) f
  | 6 => abortTrain o.handle f
  | 7 => abortSave o.handle f
  | 9 => endLoad sAborted none f
  | 10 => endMigrate o.handle sAborted 0 f
  | 12 => endCal sAborted f
  | _ => f

/-- Outstanding operations end with ABORTED, ascending by handle (R312, R315), and with them a SAVE that waits without a handle
(R278). -/
def abortOps (f : Fab) : Fab :=
  let f := each (ascending (f.lop.ops.map (·.handle))) (fun f h =>
    match f.lop.ops.find? fun o => o.handle == h with
    | some o => abortOne o f
    | none => f) f
  onImg f fun i => { i with waiting := none }

/-- MAP_LOAD accepted: one that has banks to read is held in IDLE (R212, R315). -/
def acceptLoad (h : BitVec 16) (w0 w1 w2 w3 : BitVec 32) (f : Fab) : Fab :=
  let f := startLoad h w0 w1 w2 w3 f
  match f.map.load with
  | some l => if lMode l != 2 && !lStack l then holdIdle h f else f
  | none => f

/-- SLOT_COMMIT (R93). -/
def execSlotCommit (w : BitVec 32) (s : State) : Host.Outcome State Fault Refusal :=
  onFab .ret s fun _ f => byCommand 3 (fun h f => startCommit h w f) f
/-- DRAIN (R104). -/
def execDrain (w : BitVec 32) (s : State) : Host.Outcome State Fault Refusal :=
  onFab .ret s fun _ f => byCommand 4 (fun h f => startDrain h w f) f
/-- DRAIN_COMPLETE (R104). -/
def execDrainComplete (p : Fin 32) (s : State) : Host.Outcome State Fault Refusal := onFab .main s fun _ f => finishDrain p f
/-- ZEROIZE (R317). -/
def execZeroize (w : BitVec 32) (s : State) : Host.Outcome State Fault Refusal :=
  onFab .ret s fun _ f => byCommand 8 (fun h f => startZeroize h w f) f
/-- CANARY_CAL (R319). -/
def execCanaryCal (w : BitVec 32) (s : State) : Host.Outcome State Fault Refusal :=
  onFab .ret s fun _ f => byCommand 0xC (fun h f => startCal h w f) f
/-- CALIBRATION_COMPLETE (R335). -/
def execCalibrationComplete (n : Fin 16) (meas : BitVec 384) (s : State) : Host.Outcome State Fault Refusal :=
  onFab .main s fun _ f => groupCalibrated n meas f
/-- MARCH (R255). -/
def execMarch (w0 w1 : BitVec 32) (s : State) : Host.Outcome State Fault Refusal :=
  onFab .ret s fun _ f => byCommand 1 (fun h f => startMarch h w0 w1 f) f
/-- SCRUB (R244). -/
def execScrub (w : BitVec 32) (s : State) : Host.Outcome State Fault Refusal :=
  onFab .ret s fun _ f => byCommand 2 (fun h f => holdIdle h (startScrub h w f)) f
/-- LINK_TRAIN (R174). -/
def execLinkTrain (arg : BitVec 32) (s : State) : Host.Outcome State Fault Refusal :=
  onFab .ret s fun _ f => byCommand 6 (fun h f => startTrain h arg f) f
/-- MAP_LOAD (R211). -/
def execMapLoad (w0 w1 w2 w3 : BitVec 32) (s : State) : Host.Outcome State Fault Refusal :=
  onFab .ret s fun _ f => byCommand 9 (fun h f => acceptLoad h w0 w1 w2 w3 f) f
/-- MAP_LOAD_TAKE_EFFECT (R212). -/
def execMapLoadTakeEffect (s : State) : Host.Outcome State Fault Refusal := onFab .main s fun _ f => loadEffect f
/-- MIGRATE (R185). -/
def execMigrate (w0 w1 w2 w3 w4 : BitVec 32) (s : State) : Host.Outcome State Fault Refusal :=
  onFab .ret s fun _ f => byCommand 0xA (fun h f => holdIdle h (startMigrate h w0 w1 w2 w3 w4 f)) f
/-- SAVE (R276, R278). -/
def execSave (s : State) : Host.Outcome State Fault Refusal := onFab .ret s fun _ f => byCommand 7 (fun h f => startSave h f) f

end Sys2Proof.Machine
end

