-- ==== Sys2Proof/Machine/Reply.lean ====
section
/-!
DEFINITION. Answers of the dictionary: BDP responses (R266, R267) and the end of a host window access to a bank row (R270).
-/

namespace Sys2Proof.Machine

/-- `f` with the dictionary engine's state put through `g`. -/
def onBdp (f : Fab) (g : Bdp → Bdp) : Fab := { f with bdp := g f.bdp }

/-- Fields of a BDP header (R266). -/
def hSignature (h : BitVec 128) : Nat := fld h 0 16
def hOp (h : BitVec 128) : Nat := fld h 16 4
def hResp (h : BitVec 128) : Bool := bitAt h 20
def hTxn (h : BitVec 128) : Nat := fld h 24 8
def hIndex (h : BitVec 128) : Nat := fld h 32 16
def hSub (h : BitVec 128) : Nat := fld h 48 8
def hStatus (h : BitVec 128) : Nat := fld h 56 8
def hLength (h : BitVec 128) : Nat := fld h 64 16
def hCount (h : BitVec 128) : Nat := fld h 80 16
def hHandle (h : BitVec 128) : Nat := fld h 96 16

/-- A BDP header (R266). -/
def bdpHeader (op resp txn index sub status length cnt handle : Nat) : BitVec 128 :=
  pack 128 [(16, 0xB0D1), (4, op), (1, resp), (3, 0), (8, txn), (16, index), (8, sub), (8, status), (16, length), (16, cnt),
    (16, handle), (16, 0)]

/-- A message in words of 32 bytes, the last padded with zero bytes (R382). -/
def mgtWords (h : BitVec 128) (payload : List Byte) : List (BitVec 256) :=
  let bytes := bytesOf 16 h.toNat ++ payload
  (List.range ((bytes.length + 31) / 32)).map fun i => BitVec.ofNat 256 (ofBytes ((bytes.drop (32 * i)).take 32))

/-- The header that the first word of a message brings (R266, R382). -/
def wordsHdr (l : List (BitVec 256)) : BitVec 128 := (l.headD 0).setWidth 128

/-- The payload bytes of a message, as far as its words bring them (R266, R382). -/
def wordsPayload (l : List (BitVec 256)) : List Byte :=
  ((l.flatMap fun w => bytesOf 32 w.toNat).drop 16).take (hLength (wordsHdr l))

/-- Header and payload of a message (R266). -/
def msgHdr (m : BdpMsg) : BitVec 128 := wordsHdr m.words
def msgPayload (m : BdpMsg) : List Byte := wordsPayload m.words

/-- A response to the request with header `h` (R265, R266); index and subindex are those of the request (log 37). -/
def reply (eid : BitVec 8) (tag : BitVec 4) (h : BitVec 128) (status cnt handle : Nat) (payload : List Byte) (f : Fab) : Fab :=
  emit f (.message eid tag
    (mgtWords (bdpHeader (hOp h) 1 (hTxn h) (hIndex h) (hSub h) status payload.length cnt handle) payload))

/-- `XB_STATUS` after an operation (R271). -/
def blockStatus (status handle : Nat) : BitVec 32 := pack 32 [(8, status), (1, 0), (7, 0), (16, handle)]

/-- The response to the message behind a row access: READ, WRITE, or a READ_BLOCK that reached `ROW_DATA` (R267, R270). -/
def accessReply (a : RowAccess) (eid : BitVec 8) (h : BitVec 128) (tag : BitVec 4) (status : Nat) (row : Option Row) (f : Fab) : Fab :=
  let bytes := match row with
    | some r => bytesOf 576 r.toNat
    | none => []
  let ahead := hOp h == 3 && hSub h == 1
  let select := if ahead then bytesOf 4 (a.ra + a.offset * 2 ^ 17) else []
  let n := if hOp h = 3 then ahead.toNat + row.isSome.toNat else 0
  reply eid tag h (if ahead && row.isNone then 0 else status) n 0 (select ++ bytes) f

/-- A row access ends with its status, and the row for a read (R270, R271). -/
def endAccess (a : RowAccess) (status : Nat) (row : Option Row) (f : Fab) : Fab :=
  let f := onBdp f fun b => { b with accesses := b.accesses.filter fun x => x != a }
  match a.path with
  | some (eid, h, tag) => accessReply a eid h tag status row f
  | none => onBdp f fun b => { b with xbStatus := blockStatus status 0, xbData := row.getD b.xbData }

/-- A HOST_WINDOW burst has been granted for the access (R270). -/
def accessGranted (f : Fab) (a : RowAccess) : Bool :=
  let x := portOf f (xpOf (bankOf a.ra))
  let mine := fun (b : Option Burst) => match b with
    | some b => b.req == rHost
    | none => false
  mine (burstOf x) || mine (nextBurst x)

/-- Row accesses that have not been granted end with a status (R270, R362). -/
def dropAccesses (status : Nat) (f : Fab) : Fab :=
  each (f.bdp.accesses.filter fun a => !accessGranted f a) (fun f a => endAccess a status none f) f

end Sys2Proof.Machine
end

