-- ==== Sys2Proof/Machine/Security.lean ====
section
/-!
DEFINITION. Security changes and the zeroizes they start (R354 to R357), the debug level (R359 to R362), unlocks (R361), fault
injection (R297), port halt (R298) and the fall-back test (R256).
-/

namespace Sys2Proof.Machine

/-- `f` with its security state put through `g`. -/
def onSec (f : Fab) (g : Sec → Sec) : Fab := { f with sec := g f.sec }

/-- What falling from INTRUSIVE ends (R362). -/
def leaveIntrusive (f : Fab) : Fab :=
  let f := onSec f fun s => { s with portHalt := 0, inject := 0, unlock := 0 }
  dropAccesses 8 (onInteg f fun i => { i with fallTest := false })

/-- The debug level falls to `v` (R362); no change where it does not stand above. -/
def lowerLevel (v : Nat) (f : Fab) : Fab :=
  let old := f.sec.level.toNat
  if old ≤ v then f
  else
    let f := if old = 2 then leaveIntrusive f else f
    let f := if v = 0 then onSec f fun s => { s with traceQ := 0, trace := [], traceRaw := 0 } else f
    debugChange old v (onSec f fun s => { s with level := BitVec.ofNat 2 v })

/-- The level falls to NONE by something other than a write (R360, R362); `DEBUG_REQUEST` follows where a level falls. -/
def fallToNone (f : Fab) : Fab :=
  if f.sec.level = 0 then f else onSec (lowerLevel 0 f) fun s => { s with request := 0 }

/-- A security zeroize waits: of those that wait, one whose trigger is not DEBUG_ENTRY (R356, R357). -/
def securityOwed (s : Sec) : Bool := s.owed.any fun t => t != 2

/-- A pending or granted unlock ends as DENIED (R361). -/
def denyUnlock (f : Fab) : Fab :=
  let f := onSec f fun s => { s with unlock := 3, unlockReq := false, unlockRounds := 0, request := s.level.setWidth 8 }
  raise 0x2E (place [(0, 3), (8, 2)]) f

/-- INTRUSIVE is admitted now (R360). -/
def intrusiveOk (f : Fab) : Bool :=
  f.pwr.st == 0 && !moving f && f.pwr.queued.isNone && (f.start.stage == 7 || f.start.stage == 8)

/-- INTRUSIVE takes effect. -/
def enterIntrusive (f : Fab) : Fab :=
  let old := f.sec.level.toNat
  debugChange old 2 (onSec f fun s => { s with level := 2 })

/-- A pending unlock taken back by a write of `DEBUG_REQUEST` (R360; log 40). -/
def withdrawUnlock (f : Fab) : Fab :=
  if f.sec.unlock = 1 then onSec f fun s => { s with unlock := 0, unlockReq := false, unlockRounds := 0 } else f

/-- A write of `DEBUG_REQUEST` (R360): its status and effect. -/
def writeDebug (v : Nat) (f : Fab) : Nat × Fab :=
  let level := f.sec.level.toNat
  let asked := fun (f : Fab) => onSec f fun s => { s with request := BitVec.ofNat 8 v }
  if 2 < v then (0x0B, f)
  else if v ≤ level then (0, asked (lowerLevel v (withdrawUnlock f)))
  else if v = 1 then (0, debugChange level 1 (onSec (asked f) fun s => { s with level := 1 }))
  else if !intrusiveOk f then (6, f)
  else if f.sec.st = 2 then
    if f.sec.unlock = 1 || f.sec.unlock = 2 then (0, asked f)
    else (0, onSec (asked f) fun s => { s with unlock := 1, unlockReq := true, unlockRounds := 0 })
  else (0, enterIntrusive (asked f))

/-- Trigger of the zeroize that the fabric has begun for itself, 0 for none (R357). -/
def runningTrigger (f : Fab) : Nat :=
  if !f.sec.zeroing then 0
  else match f.lop.zero with
    | some z => if z.trigger = 0 then (f.sec.owed.headD 0).toNat else z.trigger.toNat
    | none => 0

/-- Steps 2 and 3 of a change handshake (R355). -/
def securityChange (v : SecValues) (f : Fab) : Fab :=
  if f.sec.chgAck then f
  else
    let differs := v.state != f.sec.st || v.epoch != f.sec.epoch
    let old := f.sec.st.toNat
    let security := runningTrigger f == 1 || runningTrigger f == 3
    let f := onSec f fun s => { s with st := v.state, epoch := v.epoch, key := v.key, keyValid := v.keyValid, changed := differs }
    let f := if differs then
        let f := onSec f fun s => { s with zeroDone := false, covered := security }
        let f := fallToNone f
        let f := if f.sec.unlock = 1 || f.sec.unlock = 2 then denyUnlock f else f
        raise 0x2B (place [(0, old), (8, v.state.toNat), (32, v.epoch.toNat)]) f
      else f
    onSec f fun s => { s with chgAck := true }

/-- Step 5 of a change handshake (R355, R356): a zeroize is owed, in RETAIN by the warm start that leaves it; one that waits
already does for this change too. -/
def releaseChange (f : Fab) : Fab :=
  if !f.sec.chgAck then f
  else
    let owes := f.sec.changed && !f.sec.covered && !securityOwed f.sec
    let trigger : BitVec 8 := if f.pwr.st = 2 && f.pwr.trans.isNone then 3 else 1
    onSec f fun s => { s with chgAck := false, changed := false, covered := false
                              owed := if owes then s.owed ++ [trigger] else s.owed }

/-- Scope of a zeroize that the fabric starts (R357). -/
def scopeFor (trigger : BitVec 8) : BitVec 4 := if trigger = 2 then 7 else 15

/-- The zeroize that has waited longest runs as a ZEROIZE (R357): with a handle where one is free. -/
def launchOwed (f : Fab) : Fab :=
  match f.sec.owed with
  | [] => f
  | t :: rest =>
    let h := takeHandle 8 true f
    beginRun (h.1.getD 0) (scopeFor t) t (onSec h.2 fun s => { s with owed := rest })

/-- A queue gives up what waits in it (R357). -/
def emptyQueue (q : Queue) : Queue := { q with intake := [], reissue := [], head := ⟨false, false, false, false, 0, false⟩ }

/-- Steps 1 to 3 of a zeroize that the fabric starts (R357). -/
def selfZeroize (f : Fab) : Fab :=
  if f.sec.owed.isEmpty || 2 ≤ f.pwr.st.toNat || moving f || f.sec.zeroing then f
  else
    let f := { f with pwr := { f.pwr with intakeOpen := false } }
    let f := { f with queues := tmap {} (fun _ q => emptyQueue q) f.queues }
    let f := abortWhere (fun _ _ => true) 2 (onSec f fun s => { s with zeroing := true })
    let f := each (f.dom.ctxs.map (·.1)) (fun f i => faultCtx i 3 f) f
    when f.lop.zero.isNone launchOwed f

/-- The security core has answered an unlock request (R361). -/
def answerUnlock (granted : Bool) (echo : BitVec 32) (f : Fab) : Fab :=
  if f.sec.unlock != 1 then f
  else if granted && echo == f.sec.epoch then
    let f := onSec f fun s => { s with unlock := 2, unlockReq := false, unlockRounds := 0, owed := s.owed ++ [2] }
    raise 0x2E (place [(0, 2), (8, 2)]) f
  else denyUnlock f

/-- An `INJECT` value is laid out as R297 gives it. -/
def injectOk (v : BitVec 64) : Bool :=
  let t := fld v 4 17
  let b := fld v 27 8
  fld v 35 29 == 0 && match fld v 0 4 with
    | 0 => true
    | 1 => decide (fld v 21 6 ≤ 35) && decide (b ≤ 136)
    | 2 => decide (fld v 21 6 ≤ 35) && decide (b ≤ 136)
    | 3 => decide (t ≤ 255)
    | 4 => decide (t ≤ 31)
    | 5 => decide (t ≤ 4)
    | 6 => decide (t ≤ 1)
    | 7 => decide (t ≤ 15) && decide (b ≤ 63)
    | 8 => true
    | _ => false

/-- A write that needs INTRUSIVE (R262, R269). -/
def underIntrusive (g : Fab → Nat × Fab) (f : Fab) : Nat × Fab := if f.sec.level = 2 then g f else (8, f)

/-- A write of `INJECT` (R297). -/
def writeInject (v : BitVec 64) (f : Fab) : Nat × Fab :=
  underIntrusive (fun f => if injectOk v then (0, onSec f fun s => { s with inject := v }) else (0x0C, f)) f

/-- An `INJECT` value. -/
def injectWord (kind target word bit : Nat) : BitVec 64 := pack 64 [(4, kind), (17, target), (6, word), (8, bit), (29, 0)]

/-- A port is halted (R298): what it has decided is withdrawn and its burst discarded, but a burst that sends onto a link and
has begun to. -/
def haltPort (p : Nat) (f : Fab) : Fab :=
  let f := match nextBurst (portOf f p) with
    | some n =>
      if n.req = rZero then f
      else onReq p n.req (fun r => { r with since := some n.since, guard := n.guard }) (onPort f p fun x => { x with next := some .empty })
    | none => f
  match burstOf (portOf f p) with
  | some b =>
    let sends := match flightOf f b.req b.ord with
      | some x => match x.legs[b.leg]? with
        | some l => sendsOut l.kind && b.moved != 0
        | none => false
      | none => false
    if b.req = rZero || sends then f else discardBurst p b.guard b f
  | none => f

/-- A write of `PORT_HALT` (R298). -/
def writeHalt (v : BitVec 32) (f : Fab) : Nat × Fab :=
  underIntrusive (fun f =>
    let fresh := (bitsSet v).filter fun p => !bitAt f.sec.portHalt p
    (0, each fresh (fun f p => haltPort p f) (onSec f fun s => { s with portHalt := v }))) f

/-- A write of `FALLBACK_TEST` (R256): selected only in ON. -/
def writeFallback (v : Nat) (f : Fab) : Nat × Fab :=
  if f.pwr.st != 0 then (6, f)
  else underIntrusive (fun f => if 1 < v then (0x0B, f) else (0, onInteg f fun i => { i with fallTest := v == 1 })) f

/-- The selection of the fall-back arrangement takes effect once every port has drained (R256). -/
def engageFallback (f : Fab) : Fab :=
  when ((List.range 32).all (portEmpty f)) (fun f => onInteg f fun i => { i with fallOn := i.fallTest }) f

/-- SECURITY_CHANGE (R355). -/
def execSecurityChange (sec : SecValues) (s : State) : Host.Outcome State Fault Refusal :=
  onFab .ret s fun _ f => securityChange sec f
/-- SEC_CHG_RELEASE (R355, R356). -/
def execSecChgRelease (s : State) : Host.Outcome State Fault Refusal := onFab .ret s fun _ f => releaseChange f
/-- SECURITY_ZEROIZE (R357). -/
def execSecurityZeroize (s : State) : Host.Outcome State Fault Refusal := onFab .main s fun _ f => selfZeroize f
/-- DEBUG_OBSERVE (R360). -/
def execDebugObserve (s : State) : Host.Outcome State Fault Refusal := onFab .ret s fun _ f => byWrite (writeDebug 1) f
/-- DEBUG_INTRUSIVE (R360, R361). -/
def execDebugIntrusive (s : State) : Host.Outcome State Fault Refusal := onFab .ret s fun _ f => byWrite (writeDebug 2) f
/-- DEBUG_LOWER (R360, R362). -/
def execDebugLower (level : BitVec 2) (s : State) : Host.Outcome State Fault Refusal :=
  onFab .ret s fun _ f => byWrite (writeDebug level.toNat) f
/-- UNLOCK (R361). -/
def execUnlock (granted : Bool) (echo : BitVec 32) (s : State) : Host.Outcome State Fault Refusal :=
  onFab .ret s fun _ f => answerUnlock granted echo f
/-- UNLOCK_TIMEOUT (R361). -/
def execUnlockTimeout (s : State) : Host.Outcome State Fault Refusal :=
  onFab .ret s fun _ f => when (f.sec.unlock == 1 && decide (1250 ≤ f.sec.unlockRounds)) denyUnlock f
/-- INJECT_ECC_SINGLE (R297). -/
def execInjectEccSingle (target : BitVec 17) (word : BitVec 6) (bit : BitVec 8) (s : State) :
    Host.Outcome State Fault Refusal :=
  onFab .ret s fun _ f => byWrite (writeInject (injectWord 1 target.toNat word.toNat bit.toNat)) f
/-- INJECT_ECC_DOUBLE (R297). -/
def execInjectEccDouble (target : BitVec 17) (word : BitVec 6) (bit : BitVec 8) (s : State) :
    Host.Outcome State Fault Refusal :=
  onFab .ret s fun _ f => byWrite (writeInject (injectWord 2 target.toNat word.toNat bit.toNat)) f
/-- INJECT_DESC_PARITY (R297). -/
def execInjectDescParity (target : BitVec 17) (s : State) : Host.Outcome State Fault Refusal :=
  onFab .ret s fun _ f => byWrite (writeInject (injectWord 3 target.toNat 0 0)) f
/-- INJECT_SLOT_PARITY (R297). -/
def execInjectSlotParity (target : BitVec 17) (s : State) : Host.Outcome State Fault Refusal :=
  onFab .ret s fun _ f => byWrite (writeInject (injectWord 4 target.toNat 0 0)) f
/-- INJECT_FLIT_CRC (R297). -/
def execInjectFlitCrc (target : BitVec 17) (s : State) : Host.Outcome State Fault Refusal :=
  onFab .ret s fun _ f => byWrite (writeInject (injectWord 5 target.toNat 0 0)) f
/-- INJECT_SOP_CRC (R297). -/
def execInjectSopCrc (target : BitVec 17) (s : State) : Host.Outcome State Fault Refusal :=
  onFab .ret s fun _ f => byWrite (writeInject (injectWord 6 target.toNat 0 0)) f
/-- INJECT_CANARY (R297). -/
def execInjectCanary (target : BitVec 17) (bit : BitVec 8) (s : State) : Host.Outcome State Fault Refusal :=
  onFab .ret s fun _ f => byWrite (writeInject (injectWord 7 target.toNat 0 bit.toNat)) f
/-- INJECT_MAP_ECC (R297). -/
def execInjectMapEcc (target : BitVec 17) (s : State) : Host.Outcome State Fault Refusal :=
  onFab .ret s fun _ f => byWrite (writeInject (injectWord 8 target.toNat 0 0)) f
/-- PORT_HALT (R298). -/
def execPortHalt (v : BitVec 32) (s : State) : Host.Outcome State Fault Refusal := onFab .ret s fun _ f => byWrite (writeHalt v) f
/-- FALLBACK_TEST (R256). -/
def execFallbackTest (v : BitVec 8) (s : State) : Host.Outcome State Fault Refusal :=
  onFab .ret s fun _ f => byWrite (writeFallback v.toNat) f
/-- FALLBACK_ENGAGE (R256). -/
def execFallbackEngage (s : State) : Host.Outcome State Fault Refusal := onFab .main s fun _ f => engageFallback f

end Sys2Proof.Machine
end

