-- ==== Sys2Proof/Machine/Power.lean ====
section
/-!
DEFINITION. Power states and their transitions (R315, R316, R346 to R352).
-/

namespace Sys2Proof.Machine

/-- `f` with its power state put through `g`. -/
def onPwr (f : Fab) (g : Power → Power) : Fab := { f with pwr := g f.pwr }

/-- Everything as it is when power becomes good from OFF: what the surroundings hold stays (R264, R346). -/
def coldFab (f : Fab) : Fab :=
  let n := f.prm.lanes
  { State.reset.fab with
    prm := f.prm
    img := { a := f.img.a, b := f.img.b }
    links := (List.range 5).filterMap fun k => if linkPresent f k then some (k, { st := .down }) else none
    lanes := (List.range (n / 16 * 18)).map fun l =>
      if l < n then (l, { rx := .active, rxLog := l, tx := .active, txLog := l }) else (l, { rx := .spare, tx := .spare })
    kports := (List.range 2).filterMap fun k => if bitAt f.prm.kps k then some (k, { st := .down }) else none
    wir := f.wir
    pins := f.pins
    out := f.out
    free := f.free
    stamps := f.stamps }

/-- Intake opens, with a credit for every free place (R345, R348, R357, R379). -/
def openIntake (f : Fab) : Fab := creditAll (onPwr f fun p => { p with intakeOpen := true })

/-- A descriptor is in flight or waits to issue (R347). -/
def queuesBusy (f : Fab) : Bool := f.queues.any fun e => !e.2.flights.isEmpty || !e.2.intake.isEmpty || !e.2.reissue.isEmpty

/-- Every port is empty (R104). -/
def allEmpty (f : Fab) : Bool := (List.range 32).all (portEmpty f)

/-- Microseconds between two stamps, saturating at 32 bits (R316). -/
def microsBetween (a b : BitVec 64) : Nat := min 0xFFFFFFFF ((b - a).toNat / 1000)

/-- A change of power state told and the fall-back test ended by it (R256, R349). -/
def stateChanged (old new : Nat) (h : BitVec 16) (f : Fab) : Fab :=
  if old = new then f
  else raise 0x2A (place [(0, old), (8, new), (16, h.toNat)]) (onInteg f fun i => { i with fallTest := false, fallOn := false })

/-- The record of a POWER_SET in its stable state, and POWER_STATE (R316, R349). -/
def recordSet (t : PSet) (status reached : Nat) (follow : Option (BitVec 16)) (f : Fab) : Fab :=
  let st := takeStamp f
  let next := match follow with
    | some h => h.toNat
    | none => 0
  let f := completeWith t.handle status (t.start.toNat + 256 * reached) (microsBetween t.startNs st.1) next 0 follow.isSome st.2
  stateChanged t.start.toNat reached t.handle f

/-- A zeroize is owed or runs that a waiting POWER_SET waits for in ON and IDLE (R356). -/
def zeroFirst (f : Fab) : Bool := (!f.sec.owed.isEmpty || f.sec.zeroing) && f.pwr.st.toNat ≤ 1

/-- The transition that runs ends in the state reached; the waiting POWER_SET is to follow where nothing holds it back
(R352). -/
def settle (status : Nat) (f : Fab) : Fab :=
  match f.pwr.trans with
  | none => f
  | some t =>
    let follow := if zeroFirst f then none else f.pwr.queued.map (·.1)
    recordSet t status f.pwr.st.toNat follow (onPwr f fun p => { p with trans := none })

/-- Long operations that IDLE holds (R315): those that need port rounds or links; a ZEROIZE while it writes banks, a MAP_LOAD
while it has a bank to read. -/
def heldInIdle (f : Fab) (o : Op) : Bool :=
  match o.opcode.toNat with
  | 3 => true
  | 6 => true
  | 8 => match f.lop.zero with
    | some z => bitAt z.scope 0
    | none => false
  | 9 => match f.map.load with
    | some l => !l.checked && !lStack l && lMode l != 2
    | none => false
  | 10 => true
  | _ => false

/-- Operations held as the fabric leaves ON for IDLE (R315). -/
def holdOps (f : Fab) : Fab := each (f.lop.ops.filter (heldInIdle f)) (fun f o => setPending o.handle (some sQueued) f) f

/-- Operations that IDLE held go on (R315). -/
def freeOps (f : Fab) : Fab :=
  let f := each (f.lop.ops.filter fun o => heldInIdle f o || o.opcode == 2) (fun f o => setPending o.handle none f) f
  resumeTrains (each (f.lop.migs.map (·.handle)) (fun f h => driveMigrate h f) f)

/-- Resume from IDLE (R348). -/
def resume (f : Fab) : Fab :=
  let f := onPwr f fun p => { p with st := 0 }
  let f := if f.start.stage = 7 || f.start.stage = 8 then openIntake f else f
  freeOps f

/-- Links and stack ports taken DOWN (R349 step 3): LINK_DOWN leaves on every UP link first. -/
def takeDown (f : Fab) : Fab :=
  let f := each ((List.range 5).filter (linkUp f)) (fun f k =>
    let m := msgOf f 0x10 [(32, f.prm.die.toNat), (40, k), (48, (linkOf f k).partner.toNat)]
    let t : TxFlit := ⟨flitOf 3 2 0 (linkOf f k).partner.toNat 1 0 false false false (BitVec.ofNat 4608 m.toNat), none⟩
    sendFrame k (List.replicate 64 2) (queueFlit k t f)) f
  let downLink (l : Link) : Link :=
    { st := if l.st = LinkState.absent then LinkState.absent else LinkState.down, partner := l.partner, pport := l.pport }
  let downKp (k : KPort) : KPort :=
    { k with st := if k.st = KpState.absent then KpState.absent else KpState.down
             slots := 0, units := 0, jobs := [], tags := [], rx := [] }
  { f with
    links := f.links.map fun (e : Nat × Link) => (e.1, downLink e.2)
    kports := f.kports.map fun (e : Nat × KPort) => (e.1, downKp e.2)
    swapRx := none
    swapTx := none
    ibex := {} }

/-- Step 1 of off entry (R351): the record and its events, a waiting POWER_SET refused; then `PWR_OFF_REQ`. -/
def offEntry (t : PSet) (f : Fab) : Fab :=
  let f := fallToNone f
  let waiting := f.pwr.queued
  let f := onPwr f fun p => { p with queued := none, trans := some { t with phase := 5, recorded := true } }
  let f := recordSet t sOk 3 none f
  let f := match waiting with
    | some w => completeOp w.1 sState 0 0 0 0 f
    | none => f
  onPwr f fun p => { p with offReq := true }

/-- Retention and off entry go on (R349, R351): once a SAVE that writes and a ZEROIZE have ended the other operations are
aborted, and once every port is empty links and stack ports go down. -/
def advanceEntry (f : Fab) : Fab :=
  match f.pwr.trans with
  | none => f
  | some t =>
    if t.phase != 1 || f.img.writing.isSome || f.lop.zero.isSome then f
    else
      let f := abortOps f
      if !allEmpty f then f
      else
        let f := takeDown (dropAccesses 6 f)
        if t.target = 3 then offEntry t f
        else
          let f := onSec f fun s => { s with retained := some (s.st, s.epoch) }
          onPwr f fun p => { p with retReq := true, trans := some { t with phase := 2 } }

/-- A transition of a POWER_SET as it begins. -/
def newTrans (h : BitVec 16) (target : BitVec 2) (phase : Nat) (f : Fab) : PSet × Fab :=
  let st := takeStamp f
  let t : PSet := ⟨h, target, f.pwr.st, phase, st.1, false, BitVec.ofNat 8 sOk⟩
  (t, onPwr st.2 fun p => { p with trans := some t })

/-- A warm start of stages 5 to 7 (R349, R351). -/
def startFromFive (f : Fab) : Fab :=
  let f := onStart f fun s => { s with stage := 5, warm := true, running := true, done := false, fromFive := true, fawnStart := s.fawn }
  onPwr f fun p => { p with st := 0, parked := false }

/-- INTRUSIVE, a pending unlock, or a granted one whose zeroize is yet to end keeps the fabric from IDLE and RETAIN (R363, R368;
log 108). -/
def debugHolds (f : Fab) : Bool := f.sec.level == 2 || f.sec.unlock == 1 || f.sec.unlock == 2

/-- A POWER_SET that starts now (R316, R347, R363). -/
def startPower (h : BitVec 16) (target : BitVec 2) (f : Fab) : Fab :=
  let now := f.pwr.st
  let words := now.toNat + 256 * now.toNat
  if (target = 1 || target = 2) && debugHolds f then completeOp h sSecurity 0 0 0 0 f
  else if f.pwr.parked && target = 0 then startFromFive (newTrans h target 4 f).2
  else if target = now then completeOp h sOk words 0 0 0 f
  else if now = 2 then
    let t := newTrans h target 3 f
    if target = 3 then offEntry t.1 t.2 else onPwr t.2 fun p => { p with retReq := false }
  else if target = 0 then settle sOk (resume (newTrans h target 0 f).2)
  else
    let open' := f.pwr.intakeOpen
    let f := onPwr f fun p => { p with intakeOpen := false }
    if queuesBusy f then completeOp h sState 0 0 0 0 (if open' then openIntake f else f)
    else if target = 1 then holdOps (abortSweeps (newTrans h target 0 f).2)
    else advanceEntry (newTrans h target 1 f).2

/-- The waiting POWER_SET starts once nothing runs before it (R352, R356). -/
def startQueued (f : Fab) : Fab :=
  match f.pwr.queued with
  | none => f
  | some w =>
    if moving f || zeroFirst f then f
    else startPower w.1 w.2 (setPending w.1 none (onPwr f fun p => { p with queued := none }))

/-- POWER_SET (R316, R352): at once, into the depth-1 slot, or refused. -/
def powerSet (target : BitVec 2) (h : BitVec 16) (f : Fab) : Fab :=
  if moving f || f.pwr.queued.isSome then
    if f.pwr.queued.isSome then completeOp h sState 0 0 0 0 f
    else setPending h (some sQueued) (onPwr f fun p => { p with queued := some (h, target) })
  else startPower h target f

/-- The transition ends, and the waiting POWER_SET follows it. -/
def settleNext (status : Nat) (f : Fab) : Fab := startQueued (settle status f)

/-- Quiesce has emptied every port (R348); what was accepted meanwhile meets R315 too. -/
def reachIdle (f : Fab) : Fab :=
  match f.pwr.trans with
  | some t =>
    if t.phase = 0 && allEmpty f then settleNext t.status.toNat (onPwr (holdOps (abortSweeps f)) fun p => { p with st := 1 }) else f
  | none => f

/-- A queue as RETAIN leaves it (R346). -/
def retainQueue (q : Queue) : Queue := { q with head := ⟨false, false, false, false, 0, false⟩, noted := [] }

/-- A port as RETAIN leaves it (R346): its bleat signal is held low (R385). -/
def retainPort (x : Port) : Port := { x with cur := .idle, next := none, reqs := [], pipe := [], bleat := true, dilution := 0 }

/-- What RETAIN loses, and what returns to its default (R261, R346; log 41). -/
def retainLoss (f : Fab) : Fab :=
  { f with
    ports := (List.range 32).foldl (fun t p => tset {} t p (retainPort (tget {} t p))) f.ports
    queues := tmap {} (fun _ x => retainQueue x) f.queues
    fences := []
    stallBound := 4096
    fenceLimit := 2
    clusters := tmap {} (fun _ c => { unresp := c.unresp }) f.clusters
    eyeWarn := 12
    eyeSwap := 6
    trainTimeout := 200
    dom := { packageId := f.dom.packageId, package := f.dom.package, route := f.dom.route, routeInUse := f.dom.routeInUse
             nextStag := f.dom.nextStag, issued := f.dom.issued }
    kports := f.kports.map fun (e : Nat × KPort) => (e.1, ({ st := e.2.st, sweep := e.2.sweep, nextTag := e.2.nextTag } : KPort))
    map := { f.map with freeLow := 1024, installs := [] }
    integ := { f.integ with repairs := [], repairOn := true }
    ev := { f.ev with irqAddr := 0, irqData := 0, rate := 64, subs := tmap {} (fun _ s => { s with out := [], lost := false }) f.ev.subs }
    cnt := { f.cnt with thr := [], spent := [] }
    bdp := { seen := f.bdp.seen, waiting := f.bdp.waiting }
    img := { f.img with timeout := 500 } }

/-- `PWR_RET_ACK` has come (R349 step 6): RETAIN is reached, and a zeroize owed falls to the warm start that leaves it. -/
def reachRetain (f : Fab) : Fab :=
  match f.pwr.trans with
  | some t =>
    if t.phase != 2 then f
    else
      let f := retainLoss (abortOps f)
      let f := onSec f fun s => { s with owed := s.owed.map fun t => if t = 2 then 2 else 3 }
      settleNext sOk (onPwr f fun p => { p with st := 2, goods := 4, parked := false })
  | none => f

/-- `PWR_RET_ACK` has not come in time (R349): the entry is taken back through stages 5 to 7. -/
def withdrawRetain (f : Fab) : Fab :=
  match f.pwr.trans with
  | some t =>
    if t.phase != 2 then f
    else startFromFive (onPwr f fun p => { p with retReq := false, trans := some { t with phase := 4, status := BitVec.ofNat 8 sTimeout } })
  | none => f

/-- `PWR_RET_ACK` has fallen (R350): the warm start begins at stage 1. -/
def leaveRetain (f : Fab) : Fab :=
  match f.pwr.trans with
  | some t =>
    if t.phase != 3 then f
    else
      let f := onStart f fun s =>
        { s with stage := 1, warm := true, running := true, done := false, fromFive := false, fawnStart := false, counted := false
                 stageRetired := 0, handle := none, tempWait := 0 }
      onPwr f fun p => { p with trans := some { t with phase := 4 } }
  | none => f

/-- `PWR_RET_ACK` has not fallen in time (R350). -/
def stayRetain (f : Fab) : Fab := if inPhase f 3 then settleNext sTimeout f else f

/-- The manager has not answered `PWR_OFF_REQ` in time (R351). -/
def refuseOff (f : Fab) : Fab :=
  if inPhase f 5 then startQueued (onPwr f fun p => { p with offReq := false, trans := none, parked := decide (p.st.toNat ≤ 1) })
  else f

/-- POWER_SET_ON (R347, R350). -/
def execPowerSetOn (s : State) : Host.Outcome State Fault Refusal := onFab .ret s fun _ f => byCommand 5 (powerSet 0) f
/-- POWER_SET_IDLE (R347, R348). -/
def execPowerSetIdle (s : State) : Host.Outcome State Fault Refusal := onFab .ret s fun _ f => byCommand 5 (powerSet 1) f
/-- POWER_SET_RETAIN (R347, R349). -/
def execPowerSetRetain (s : State) : Host.Outcome State Fault Refusal := onFab .ret s fun _ f => byCommand 5 (powerSet 2) f
/-- POWER_SET_OFF (R347, R351). -/
def execPowerSetOff (s : State) : Host.Outcome State Fault Refusal := onFab .ret s fun _ f => byCommand 5 (powerSet 3) f
/-- PWR_RET_ACK (R349). -/
def execPwrRetAck (s : State) : Host.Outcome State Fault Refusal := onFab .ret s fun _ f => reachRetain f
/-- RETAIN_ACK_TIMEOUT (R349). -/
def execRetainAckTimeout (s : State) : Host.Outcome State Fault Refusal := onFab .ret s fun _ f => withdrawRetain f
/-- RETAIN_EXIT (R350). -/
def execRetainExit (s : State) : Host.Outcome State Fault Refusal := onFab .ret s fun _ f => leaveRetain f
/-- RETAIN_EXIT_TIMEOUT (R350). -/
def execRetainExitTimeout (s : State) : Host.Outcome State Fault Refusal := onFab .ret s fun _ f => stayRetain f
/-- PWR_OFF_ACK (R351): OFF is reached, and only what the surroundings hold remains; the next start is a cold one (R338). -/
def execPwrOffAck (s : State) : Host.Outcome State Fault Refusal :=
  onAll .ret s fun slots f =>
    if inPhase f 5 then ([], onPwr (coldFab f) fun p => { p with st := 3, goods := 0 }) else (slots, f)
/-- OFF_ACK_TIMEOUT (R351). -/
def execOffAckTimeout (s : State) : Host.Outcome State Fault Refusal := onFab .ret s fun _ f => refuseOff f

end Sys2Proof.Machine
end

