-- ==== Sys2Proof/Machine/Startup.lean ====
section
/-!
DEFINITION. Start-up: rails and stage 1 (R338, R387), the stages and their failures (R338 to R344), READY (R345), RESTART
(R318), and the ends of SAVE and ZEROIZE that starts and transitions wait for (R276, R317, R357).
-/

namespace Sys2Proof.Machine

/-- The stage that runs from now on. -/
def toStage (n : Nat) (f : Fab) : Fab := onStart f fun s => { s with stage := BitVec.ofNat 8 n }

/-- The links and stack ports as a Fawn start holds them, and its stage 6 (R343). -/
def fawnLinks (f : Fab) : Fab := toStage 6 (takeDown f)

/-- The start enters Fawn mode, and `FAWN` reads 1 (R343). -/
def enterFawn (f : Fab) : Fab := onStart f fun s => { s with fawnStart := true, fawn := true }

/-- Stage 4 of a start in Fawn mode (R303, R344; log 54): a RESTART that finds `FAILED_STARTS` at 0 ends it, any other start goes
on as a Fawn start. -/
def leaveFawn (f : Fab) : Fab :=
  if f.start.fawn && !(f.start.handle.isSome && f.start.failed == 0) then onStart f fun s => { s with fawnStart := true }
  else onStart f fun s => { s with fawn := s.fawnStart }

/-- Steps 1 to 3 of R341, but for the save: the start is counted once. -/
def countStart (f : Fab) : Fab :=
  if f.start.counted then f
  else
    let f := onStart f fun s => { s with count := s.count + 1, counted := true }
    if f.start.fawnAt.toNat ≤ f.start.failed.toNat then enterFawn f
    else onStart f fun s => { s with failed := BitVec.ofNat 8 (min 7 (s.failed.toNat + 1)) }

/-- Result words of RESTART (R318). -/
def restartWords (f : Fab) (sub : Nat) : Nat × Nat × Nat × Nat :=
  (f.start.stage.toNat, sub, f.start.failed.toNat, f.start.count.toNat)

/-- The RESTART that ran the start completes (R318). -/
def endRestart (status sub : Nat) (f : Fab) : Fab :=
  match f.start.handle with
  | some h =>
    let w := restartWords f sub
    completeOp h status w.1 w.2.1 w.2.2.1 w.2.2.2 (onStart f fun s => { s with handle := none })
  | none => f

/-- The start stops at the stage that failed (R338, R350, R352), the power state being ON then. -/
def stopStart (sub : Nat) (f : Fab) : Fab :=
  let f := onStart f fun s => { s with running := false, saving := false, fromFive := false }
  let f := if f.pwr.st = 2 then onPwr f fun p => { p with st := 0 } else f
  let f := endRestart sFault sub f
  settleNext sFault f

/-- A failure record of the stage that runs (R302). -/
def failRecord (f : Fab) (sub : Nat) : BitVec 64 :=
  pack 64 [(4, f.start.stage.toNat), (4, 0), (8, sub), (3, f.start.failed.toNat), (1, f.start.warm.toNat), (12, 0),
    (32, f.start.count.toNat)]

/-- A record put at element 0 of `FAIL_HISTORY`, the others moved up (R302). -/
def pushRecord (r : BitVec 64) (f : Fab) : Fab :=
  onStart f fun s =>
    { s with history := (List.range 8).foldl (fun t i =>
        tset 0 t i (if i = 0 then r else tget 0 s.history (i - 1))) [] }

/-- R250 as stage 4 applies it: RETIRED where the mask has a bit; the other banks FREE on a cold start, else kept. -/
def applyMask (f : Fab) : Fab :=
  onInteg f fun i => { i with alloc := (List.range 512).foldl (fun t b =>
    tset 0 t b (if bitAt i.retired b then 2
      else if !f.start.warm || tget 0 i.alloc b = 2 then 0 else tget 0 i.alloc b)) [] }

/-- What stage 4 puts at its default when it fails itself (R342): the persistent entries, but for the counts and records of
starts. -/
def onDefaults (f : Fab) : Fab :=
  let g := rwpDefaults f
  let g := onStart g fun s => { s with failed := 7, count := f.start.count, history := f.start.history }
  applyMask (onInteg g fun i => { i with retired := i.retired ||| f.start.stageRetired })

/-- A stage fails with a subcode (R339, R341, R342): the start is counted, recorded, saved and reported; it stops, or goes on
as a Fawn start (R343). -/
def failStage (sub : Nat) (f : Fab) : Fab :=
  let n := f.start.stage.toNat
  let f := if n ≤ 3 then countStart (if f.start.counted || (f.start.warm && f.img.loaded) then f else loadCounts f) else f
  let f := if n = 4 then onDefaults f else f
  let r := failRecord f sub
  let f := pushRecord r f
  let f := if n = 4 || (n = 1 && sub = 3) then f else selfSave false f
  let fawn := decide (f.start.fawnAt.toNat ≤ f.start.failed.toNat)
  let f := raise (if fawn then 0x28 else 0x27) r.toNat f
  let f := when fawn enterFawn f
  if fawn && n != 1 then onStart f fun s => { s with saving := false } else stopStart sub f

/-- `g` once the stage has failed, where the start goes on in Fawn mode. -/
def andOn (g : Fab → Fab) (f : Fab) : Fab := if f.start.running then g f else f

/-- Stage 4 has failed: a Fawn start goes on at stage 6 (R342, R343). -/
def failDictionary (sub : Nat) (f : Fab) : Fab := andOn fawnLinks (failStage sub f)

/-- Stage 4 has ended: stage 5, which a Fawn start skips (R338, R343). -/
def afterFour (f : Fab) : Fab := if f.start.fawnStart then fawnLinks f else toStage 5 f

/-- What stage 4 of a start makes of the end of its accounting save (R341). -/
def stageSaved (r : SaveRun) (ok : Bool) (f : Fab) : Fab :=
  if !r.forStart || !f.start.saving then f
  else if ok then afterFour (onStart f fun s => { s with saving := false })
  else failDictionary 2 f

/-- RESTART goes on (R315, R318): once a SAVE that writes has ended, the other operations are aborted; once every port is
empty, stage 1 is under way. -/
def advanceRestart (f : Fab) : Fab :=
  if !f.start.entering || f.img.writing.isSome || f.lop.zero.isSome then f
  else
    let f := abortOps f
    if allEmpty f then dropAccesses 6 (onStart f fun s => { s with entering := false }) else f

/-- What waits for the ports to be empty goes on (R315, R318, R348, R349, R351). -/
def portsEmptied (f : Fab) : Fab := advanceRestart (advanceEntry (reachIdle f))

/-- RESTART starts (R318), or is refused: also while a start runs, since transitions run one at a time (R352). -/
def startRestart (h : BitVec 16) (w : BitVec 32) (f : Fab) : Fab :=
  let flying := f.queues.any fun e => !e.2.flights.isEmpty
  if 2 ≤ w.toNat || 2 ≤ f.pwr.st.toNat || moving f || f.pwr.queued.isSome || f.lop.zero.isSome || zeroFirst f || flying then
    completeOp h sState 0 0 0 0 f
  else
    let march := bitAt w 0
    let f := onPwr f fun p => { p with intakeOpen := false }
    let f := onStart f fun s =>
      { s with stage := 1, warm := !march, running := true, done := false, fawnStart := false, counted := false
               stageRetired := 0, handle := some h, entering := true, marchBit := march, saving := false, tempWait := 0
               fromFive := false, zeroAtTwo := false }
    advanceRestart f

/-- A port as a cold RESTART leaves it (R48, R90, R111): FREEZE, arbitration, window and seed at their defaults, with what counts
its rounds kept (log 53). -/
def coldPort (x : Port) : Port :=
  { rounds := x.rounds, beatTimes := x.beatTimes, bleat := x.bleat }

/-- A queue as a cold RESTART leaves it (R111, R345): its arbitration settings at their defaults, its state and records
kept. -/
def coldQueue (q : Queue) : Queue := { q with level := 1, urgent := false, quota := 16, maxBurst := 16 }

/-- What a cold RESTART returns to its default before stage 2 (R48, R111, R125, R290, R324, R338); its route table is out of use
until stage 6 (R188). -/
def coldRestart (f : Fab) : Fab :=
  { f with
    ports := tmap {} (fun _ x => coldPort x) f.ports
    queues := tmap {} (fun _ q => coldQueue q) f.queues
    clusters := tmap {} (fun _ c => { c with unresp := 0 }) f.clusters
    cnt := { f.cnt with val := [], spent := [] }
    ev := { f.ev with subs := [] }
    dom := { f.dom with routeInUse := false }
    integ := { f.integ with alloc := (List.range 512).foldl (fun t b =>
      tset 0 t b (if tget 0 f.integ.alloc b = 2 then 2 else 0)) [] } }

/-- Stage 1 latches the security values (R354, R356, R362): out of RETAIN a pair other than the retained one, or a zeroize
owed, is zeroized at stage 2; at a warm RESTART values other than those held owe one (log 42).  `SEC_ZERO_DONE` falls with the
change until the zeroize, or stage 6 of a cold start, has ended. -/
def latchSecurity (v : SecValues) (f : Fab) : Fab :=
  let differs := v.state != f.sec.st || v.epoch != f.sec.epoch
  let resuming := f.pwr.st == 2
  let zero := resuming && (securityOwed f.sec || f.sec.retained != some (v.state, v.epoch))
  let owes := f.start.handle.isSome && f.start.warm && differs && !securityOwed f.sec
  let f := onSec (fallToNone f) fun s =>
    { s with st := v.state, epoch := v.epoch, key := v.key, keyValid := v.keyValid, uid := v.uid
             zeroDone := s.zeroDone && !zero && !differs
             owed := if zero then s.owed.filter (· == 2) else if owes then s.owed ++ [1] else s.owed }
  onStart f fun s => { s with zeroAtTwo := zero }

/-- The MAIN interfaces return from RETAIN: no port bleats (R383, R385). -/
def releaseBleats (f : Fab) : Fab := each (List.range 32) (fun f p => onPort f p fun x => { x with bleat := false }) f

/-- Stage 1 passes (R338, R353). -/
def passStageOne (v : SecValues) (slots : Tbl (BitVec 16)) (f : Fab) : Tbl (BitVec 16) × Fab :=
  let old := f.pwr.st.toNat
  let f := latchSecurity v f
  let f := onPwr f fun p => { p with st := 0, goods := 7 }
  let f := when (old == 2) releaseBleats f
  let f := if old = 1 then stateChanged 1 0 (f.start.handle.getD 0) f else f
  let f := onStart f fun s => { s with stage := 2, recompute := true }
  if f.start.handle.isSome && f.start.marchBit then ([], coldRestart f) else (slots, f)

/-- Stage 1 passes once the security core's values are present and the time base advances (R338). -/
def tryStageOne (v : Option SecValues) (slots : Tbl (BitVec 16)) (f : Fab) : Tbl (BitVec 16) × Fab :=
  match v with
  | some v => passStageOne v slots f
  | none => (slots, onPwr f fun p => { p with goods := 7 })

/-- Both rails are good (R338, R346, R387): the first stage of the start that waits for them, or of a cold start out of OFF
and after an excursion. -/
def powerGood (v : Option SecValues) (slots : Tbl (BitVec 16)) (f : Fab) : Tbl (BitVec 16) × Fab :=
  if f.pwr.excursion || f.pwr.st = 3 then tryStageOne v [] (coldFab f)
  else if f.wir == .extest || f.wir == .intestScan then (slots, onPwr f fun p => { p with goods := 7 })
  else if atStage f 1 then tryStageOne v slots f
  else (slots, onPwr f fun p => { p with goods := 7 })

/-- The sequences of R349 to R351, in which VDD_TRF and VDD_NET may be off: RETAIN with its entry and its exit up to stage 1, and
off entry (R387). -/
def railsMayFall (f : Fab) : Bool := 2 ≤ f.pwr.st.toNat || inPhase f 2 || inPhase f 3 || inPhase f 5

/-- A rail good signal has fallen (R9, R387). -/
def railLoss (goods : BitVec 3) (f : Fab) : Fab :=
  let main := !bitAt goods 0 || !bitAt goods 1
  let out := (main && !railsMayFall f) || (!bitAt goods 2 && f.pwr.st != 3)
  onPwr f fun p => { p with goods := goods, excursion := p.excursion || out }

/-- The row state array swept for parity on a warm start (R242, R338). -/
def paritySweep (f : Fab) : Fab := each (f.store.rstate.map (·.1)) (fun f k => when (oddOnes 17 (tget 0 f.store.rstate k).toNat) (checkState (8 * k)) f) f

/-- The security zeroize of a warm start (R356, R357), whole within stage 2. -/
def zeroAtStart (f : Fab) : Fab :=
  let h := takeHandle 8 true f
  let froze : BitVec 32 := BitVec.ofNat 32 (place ((List.range 32).map fun p => (p, (portOf h.2 p).freeze.toNat)))
  let f := endZero ⟨h.1.getD 0, 15, 3, froze, true, []⟩ h.2
  onSec f fun s => { s with zeroDone := !securityOwed s && !s.changed }

/-- Bits of a list of positions. -/
def maskOf (l : List Nat) : BitVec 512 := l.foldl (fun m b => putBit m b true) 0

/-- The failing banks of a quick march, each once. -/
def failingBanks (failed : List (BitVec 17)) : List Nat :=
  (List.range 512).filter fun b => failed.any fun r => r.toNat / 256 == b

/-- The quick march (R251, R252, R255): every row UNWRITTEN, failing banks RETIRED, and its record. -/
def quickMarch (failed : List (BitVec 17)) (f : Fab) : Fab :=
  let h := takeHandle 1 true f
  let f := onStore h.2 fun s => { s with rows := [], rstate := [], pwb := [], told := [] }
  let rows := (failed.map (·.toNat)).foldl (fun l r => if l.contains r then l else l ++ [r]) []
  let banks := failingBanks failed
  let f := each rows (fun f r => raise 0x14 (place [(0, r)]) (countInst 0x19 1 f)) f
  let f := each banks (fun f b => if tget 0 f.integ.alloc b = 2 then f else retireBank b true false f) f
  let f := onStart f fun s => { s with stageRetired := maskOf banks }
  let edge := fun (o : Option Nat) => match o with
    | some r => r + 2 ^ 31
    | none => 0
  match h.1 with
  | some x =>
    completeOp x (if rows.isEmpty then sOk else sPartial) (512 + banks.length * 2 ^ 10) (edge rows.min?) (edge rows.max?) 0 f
  | none => f

/-- Subcode of the quick march's outcome, 0 for none (R339). -/
def marchSubcode (failed : List (BitVec 17)) : Nat :=
  let banks := failingBanks failed
  if (List.range 16).any fun n => decide (4 < (banks.filter fun b => b / 32 == n).length) then 1
  else if 16 < banks.length then 2 else 0

/-- Stage 2 (R338, R343, R356). -/
def stageTwo (failed : List (BitVec 17)) (f : Fab) : Fab :=
  if !atStage f 2 then f
  else if f.start.warm then
    let f := paritySweep f
    let f := if f.start.zeroAtTwo then zeroAtStart f else f
    toStage 3 (onStart f fun s => { s with zeroAtTwo := false })
  else
    let f := quickMarch failed f
    let sub := marchSubcode failed
    if sub = 0 then toStage 3 f else andOn (toStage 3) (failStage sub f)

/-- Margins measured of group n, zeros where the operand gives none. -/
def measOf (meas : List (BitVec 384)) (n : Nat) : BitVec 384 := meas.getD n 0

/-- A group that did not reach calibration frozen in a Fawn start (R337, R343). -/
def freezeGroup (n margin : Nat) (f : Fab) : Fab :=
  raise 0x26 (place [(0, n), (8, margin)]) (onTherm f fun t => { t with frozen := putBit t.frozen n true })

/-- Stage 3's calibration of every group (R335, R338): the groups that do not reach it. -/
def calibrateAll (meas : List (BitVec 384)) (f : Fab) : List Nat × Fab :=
  let low := (List.range 16).filter fun n => !calReached f (measOf meas n)
  let anchor := f.th.valid
  let f := each (List.range 16) (fun f n => calibrate n anchor (measOf meas n) f) f
  let good : BitVec 16 := BitVec.ofNat 16 (place (((List.range 16).filter fun n => !low.contains n).map fun n => (n, 1)))
  (low, onTherm f fun t => { t with frozen := t.frozen &&& ~~~good, recal := 0, collapsed := 0 })

/-- Groups of a Fawn start that did not reach calibration stay frozen, and stage 4 follows (R343). -/
def freezeLow (low : List Nat) (meas : List (BitVec 384)) (f : Fab) : Fab :=
  toStage 4 (each low (fun f n => freezeGroup n (marginAt (measOf meas n) (chosenTaps f (measOf meas n))) f) f)

/-- Stage 3 (R335, R338, R343): its calibrations wait until every port, which grants nothing meanwhile, is empty. -/
def stageThree (meas : List (BitVec 384)) (f : Fab) : Fab :=
  if !atStage f 3 || !allEmpty f then f
  else
    let waited := decide (2 ≤ f.start.tempWait)
    let f := if !f.th.valid && waited && !f.start.fawnStart then failStage 2 f else f
    if !f.start.running || (!f.th.valid && !waited) then f
    else
      let c := calibrateAll meas f
      if c.1.isEmpty then toStage 4 c.2
      else if c.2.start.fawnStart then freezeLow c.1 meas c.2
      else andOn (freezeLow c.1 meas) (failStage 1 c.2)

/-- The image loaded on a cold start, the counts of a start already counted kept (R275, R338, R342); whether it is neither
valid nor empty. -/
def loadRunning (f : Fab) : Bool × Fab :=
  if f.start.warm then (false, onImg f fun i => { i with loaded := true })
  else
    let r := loadImage f
    let kept := if f.start.counted then onStart r.2 fun s =>
        { s with failed := f.start.failed, fawnAt := f.start.fawnAt, count := f.start.count, history := f.start.history }
      else r.2
    (r.1, onInteg kept fun i => { i with retired := i.retired ||| f.start.stageRetired })

/-- Stage 4 (R250, R338, R341, R342). -/
def stageFour (f : Fab) : Fab :=
  if !atStage f 4 || f.start.saving then f
  else
    let r := loadRunning f
    if r.1 then
      failDictionary 1 (if r.2.start.counted then r.2 else onStart r.2 fun s => { s with count := s.count + 1, counted := true })
    else
      let f := leaveFawn (applyMask r.2)
      let enters := f.start.counted || decide (f.start.fawnAt.toNat ≤ f.start.failed.toNat)
      let f := countStart f
      if enters then afterFour f
      else
        let f := selfSave true f
        if f.sec.st = 0 then afterFour f else onStart f fun s => { s with saving := true }

/-- Every link port that is present trained in full (R338, R340): the failing stage of each that is not UP; `late` when no PHY
has reported a link in time (R174). -/
def trainAll (late : Bool) (r : TrainResult) (f : Fab) : List (Nat × Nat) × Fab :=
  let f := each ((List.range 5).filter (linkPresent f)) (fun f k =>
    onLink (openTraining k 0 true f) k fun x => { x with timedOut := late }) f
  endTrainFor 0 r f

/-- The failure of stage 5: the lowest-numbered port that caused it (R340). -/
def linkFailure (bad : List (Nat × Nat)) : Option (Nat × Nat) :=
  let spans := bad.filter fun e => decide (e.1 < 4)
  if 2 ≤ spans.length then spans.head? else bad.find? fun e => e.1 == 4

/-- Stage 5 (R340, R342), which a Fawn start skips (R343). -/
def stageFive (late : Bool) (r : TrainResult) (f : Fab) : Fab :=
  if !atStage f 5 then f
  else if f.start.fawnStart then fawnLinks f
  else
    let t := trainAll late r f
    match linkFailure t.1 with
    | none => toStage 6 t.2
    | some e => andOn fawnLinks (failStage (e.2 + 16 * e.1) t.2)

/-- Stage 6 passes (R338, R356). -/
def endStageSix (f : Fab) : Fab :=
  let f := onStart f fun s => { s with done := true }
  if f.start.warm then f else onSec f fun s => { s with zeroDone := !securityOwed s && !s.changed }

/-- Stage 6 (R338, R343); `cleared` when every map entry read back as reset. -/
def stageSix (cleared : Bool) (f : Fab) : Fab :=
  if !atStage f 6 then f
  else
    let f := if f.start.warm then f
      else { f with map := { f.map with entries := [], epoch := 0, changes := [], installs := [], load := none }, epgroups := [] }
    let f := onDom f fun d => { d with package := d.packageId.setWidth 13, routeInUse := true }
    let stray := (List.range 4).any fun k => linkUp f k && (linkOf f k).partner.toNat / 8 != f.dom.package.toNat
    if !f.start.warm && !cleared then andOn (fun f => endStageSix (takeDown f)) (failStage 1 f)
    else if !f.start.fawnStart && stray then andOn (fun f => endStageSix (takeDown f)) (failStage 2 f)
    else endStageSix f

/-- READY (R341, R343, R345, R350, R352); on the way to IDLE its quiesce begins (R315, R348). -/
def reachReady (f : Fab) : Fab :=
  if !(f.start.running && f.start.done) then f
  else
    let fawn := f.start.fawnStart
    let f := onStart f fun s =>
      { s with stage := if fawn then 8 else 7, running := false, done := false, fawn := fawn, fromFive := false }
    let toIdle := match f.pwr.trans with
      | some t => t.target == 1
      | none => false
    let f : Fab := { f with fences := [] }
    let f := openIntake f
    let f := raise 0x29 (place [(0, f.start.warm.toNat), (1, fawn.toNat), (32, f.start.count.toNat)]) f
    let f := if fawn then f else selfSave false (onStart f fun s => { s with failed := 0 })
    let f := endRestart (if fawn then sPartial else sOk) 0 f
    match f.pwr.trans with
    | some t =>
      let st := if t.status.toNat = sTimeout then sTimeout else if fawn then sPartial else sOk
      if toIdle then
        holdOps (abortSweeps (onPwr f fun p =>
          { p with intakeOpen := false, trans := some { t with phase := 0, status := BitVec.ofNat 8 st } }))
      else settleNext st f
    | none => startQueued f

/-- A subcode that a stage's time limit can end with (R339); that of stage 5 comes from its ports (R340). -/
def lateSubcode (n sub : Nat) : Bool :=
  match n with
  | 1 => 1 ≤ sub && sub ≤ 4
  | 2 => sub == 3
  | 3 => sub == 2
  | 4 => sub == 2
  | 5 => true
  | _ => false

/-- A stage has run out of its time (R339): at stage 4 also a hub access that `NV_ERR` has failed (R382), and at stage 5 with no
PHY that has reported a link (R174).  A Fawn start goes on from stage 2, 3 and 5; groups that stage 3 has not calibrated are frozen
(R343). -/
def lateStage (sub : Nat) (f : Fab) : Fab :=
  let n := f.start.stage.toNat
  if !atStage f n || !lateSubcode n sub then f
  else
    match n with
    | 1 => failStage sub f
    | 2 => andOn (toStage 3) (failStage sub f)
    | 3 => if f.start.fawnStart then freezeLow (List.range 16) [] f else andOn (freezeLow (List.range 16) []) (failStage sub f)
    | 4 => failDictionary sub f
    | _ => stageFive true ⟨0, 0, 0, 0, 0⟩ f

/-- Rails that are good while a cold start out of OFF waits for them, its first stage ending with a subcode (R339). -/
def goodsFor (sub : Nat) : BitVec 3 := if sub = 1 then 6 else if sub = 2 then 5 else 7

/-- STAGE_TIMEOUT, also of stage 1 of the cold start that begins as power returns from OFF (R338). -/
def stageLate (sub : Nat) (slots : Tbl (BitVec 16)) (f : Fab) : Tbl (BitVec 16) × Fab :=
  if f.wir == .extest || f.wir == .intestScan then (slots, f)
  else if f.pwr.st != 3 then (slots, lateStage sub f)
  else if lateSubcode 1 sub then ([], lateStage sub (onPwr (coldFab f) fun p => { p with goods := goodsFor sub }))
  else (slots, f)

/-- A waiting SAVE begins where the window holds and none writes, and is put off otherwise (R277, R278); in BLANK it is refused
(R358). -/
def saveNext (f : Fab) : Fab :=
  match f.img.waiting with
  | some r =>
    if f.img.writing.isSome then f
    else if f.sec.st = 0 then stageSaved r true (refuseSave r f)
    else if saveWindow f then beginSave f
    else stageSaved r true (onWaiting (fun r => { r with forStart := false }) (deferSave f))
  | none => f

/-- The SAVE that writes ends (R276, R278): read back valid, failed twice, or timed out at the hub. -/
def finishSave (status : Nat) (f : Fab) : Fab :=
  match f.img.writing with
  | some r =>
    let f := if status = sOk then landSave f else endSave status f
    portsEmptied (stageSaved r (status == sOk) f)
  | none => f

/-- Steps 4 to 6 of a zeroize that the fabric started, around its end as a ZEROIZE (R357). -/
def endOwn (z : ZeroRun) (f : Fab) : Fab :=
  let f : Fab := { f with fences := [] }
  let f := if isReady f && !leaving f then openIntake f else f
  let f := endZero z (onSec f fun s => { s with zeroing := false })
  if z.trigger = 2 then when (f.sec.unlock == 2 && f.pwr.st == 0 && !moving f) enterIntrusive f
  else onSec f fun s => { s with zeroDone := !securityOwed s && (!s.changed || s.covered) }

/-- ZEROIZE ends once its ports have been empty and its banks are written (R317); one the fabric owes follows it (R357), and
so does what waited for it. -/
def finishZero (f : Fab) : Fab :=
  let f := beginZero f
  match f.lop.zero with
  | none => f
  | some z =>
    if !z.begun || !zeroWritten z then f
    else
      let f := if z.trigger = 0 then
          let f := endZero z f
          if f.sec.zeroing then launchOwed f else f
        else endOwn z f
      startQueued (portsEmptied f)

/-- RAIL_LOSS (R9, R387). -/
def execRailLoss (goods : BitVec 3) (s : State) : Host.Outcome State Fault Refusal :=
  onPower s fun slots f => (slots, railLoss goods f)
/-- STAGE_QUICK_MARCH (R338). -/
def execStageQuickMarch (failed : List (BitVec 17)) (s : State) : Host.Outcome State Fault Refusal :=
  onFab .main s fun _ f => stageTwo failed f
/-- STAGE_CANARY_CAL (R338). -/
def execStageCanaryCal (meas : List (BitVec 384)) (s : State) : Host.Outcome State Fault Refusal :=
  onFab .main s fun _ f => stageThree meas f
/-- STAGE_DICTIONARY (R341). -/
def execStageDictionary (s : State) : Host.Outcome State Fault Refusal := onFab .main s fun _ f => stageFour f
/-- STAGE_LINKS (R340). -/
def execStageLinks (r : TrainResult) (s : State) : Host.Outcome State Fault Refusal := onFab .main s fun _ f => stageFive false r f
/-- STAGE_MAP_ROUTE (R338). -/
def execStageMapRoute (cleared : Bool) (s : State) : Host.Outcome State Fault Refusal :=
  onFab .main s fun _ f => stageSix cleared f
/-- READY (R345). -/
def execReady (s : State) : Host.Outcome State Fault Refusal := onFab .main s fun _ f => reachReady f
/-- STAGE_TIMEOUT (R339). -/
def execStageTimeout (sub : BitVec 8) (s : State) : Host.Outcome State Fault Refusal :=
  onAll .off s fun slots f => stageLate sub.toNat slots f
/-- RESTART (R318). -/
def execRestart (w : BitVec 32) (s : State) : Host.Outcome State Fault Refusal :=
  onFab .ret s fun _ f => byCommand 0xB (fun h f => startRestart h w f) f
/-- IDLE_REACHED (R348): every port is empty. -/
def execIdleReached (s : State) : Host.Outcome State Fault Refusal := onFab .main s fun _ f => portsEmptied f
/-- SAVE_START (R276, R277). -/
def execSaveStart (s : State) : Host.Outcome State Fault Refusal := onFab .main s fun _ f => saveNext f
/-- SAVE_COMPLETE (R276); `ok` when the copy read back valid, at the first or the second attempt. -/
def execSaveComplete (ok : Bool) (s : State) : Host.Outcome State Fault Refusal :=
  onFab .main s fun _ f => finishSave (if ok then sOk else sFault) f
/-- SAVE_TIMEOUT (R276), also for an access that `NV_ERR` has failed (R382). -/
def execSaveTimeout (s : State) : Host.Outcome State Fault Refusal := onFab .main s fun _ f => finishSave sTimeout f
/-- ZEROIZE_DONE (R317, R357). -/
def execZeroizeDone (s : State) : Host.Outcome State Fault Refusal := onFab .main s fun _ f => finishZero f

end Sys2Proof.Machine
end

