-- ==== Sys2Proof/Machine/Thermal.lean ====
section
/-!
DEFINITION. The housekeeping round and what it acts on: rate (R285), diode (R330), canaries (R336, R337), proxy (R331),
throttle (R332 to R334), saves (R277), eye margins (R177), histogram edges (R327) and the timers that count rounds (R394).
-/

namespace Sys2Proof.Machine

/-- What a round has found out of its sample on the way. -/
structure RoundInfo where
  /-- the time base read in step 1 -/
  ns : BitVec 64
  /-- host time since the previous round, in ns -/
  dt : Nat
  /-- the round's rate sample is valid (R285) -/
  sample : Bool

/-- What the round knows of time (R285, R328): none of it from a time base that did not answer. -/
def roundInfo (backstop : Bool) (h : HkSample) (f : Fab) : RoundInfo :=
  let ns := if f.th.tbLost then f.pwr.hostNs else h.ns
  let dt := if f.th.sampled then (ns - f.pwr.hostNs).toNat else 0
  ⟨ns, dt, !backstop && !f.th.tbLost && dt != 0 && f.pwr.st == 0⟩

/-- Step 1 (R300, R329): time, and the values written since the last round in effect. -/
def stepTime (i : RoundInfo) (f : Fab) : Fab :=
  let f := onPwr f fun p => { p with hostNs := i.ns }
  let f : Fab := { f with ev := { f.ev with raised := [] } }
  onTherm f fun t =>
    { t with rounds := t.rounds + 1, period := BitVec.ofNat 32 (min (2 ^ 32 - 1) (i.dt / 1000)), sampled := t.sampled || !t.tbLost
             startAct := t.start, canaryAct := t.canary, dilAct1 := t.dil1, dilAct2 := t.dil2, dilAct3 := t.dil3 }

/-- Step 2 (R285, R329, R384): the supply monitors, VDD_RET alone in RETAIN. -/
def stepRails (h : HkSample) (f : Fab) : Fab :=
  if f.th.hkLost then f
  else if f.pwr.st = 2 then onPwr f fun p => { p with vret := h.vret.setWidth 16 }
  else onPwr f fun p => { p with vtrf := h.vtrf.setWidth 16, vnet := h.vnet.setWidth 16, vret := h.vret.setWidth 16 }

/-- The guaranteed floor of R20 in Mbeat/s at a VDD_TRF reading, that of the lower row between two rows (R22). -/
def rateFloor (mv : Nat) : Nat := if mv < 650 then 0 else if mv < 750 then 1090 else if mv < 850 then 1610 else if mv < 900 then 1980 else 2100

/-- Measured rate of XPn in Mbeat/s (R285). -/
def measuredRate (f : Fab) (i : RoundInfo) (n : Nat) : Nat :=
  min 0xFFFF (((portOf f (16 + n)).beatTimes - tget 0 f.th.beatBase n) * 1000 / i.dt)

/-- RATE_LOW once per downward crossing (R329 step 3). -/
def rateCheck (f : Fab) (n : Nat) : Fab :=
  let r := (tget 0 f.pwr.rate n).toNat
  let low := decide (r < rateFloor f.pwr.vtrf.toNat)
  let was := bitAt f.th.rateLow n
  let f := onTherm f fun t => { t with rateLow := putBit t.rateLow n low }
  when (low && !was) (raise 0x2F (place [(0, n), (16, r)])) f

/-- Step 3 (R285, R329): the beat-rate meter; a round whose time base did not answer takes no sample. -/
def stepRate (i : RoundInfo) (f : Fab) : Fab :=
  let rates := (List.range 16).map fun n => measuredRate f i n
  let g := if i.sample then
      let g := onPwr f fun p =>
        { p with rate := (List.range 16).foldl (fun t n => tset 0 t n (BitVec.ofNat 16 (rates.getD n 0))) []
                 rateMin := BitVec.ofNat 16 (rates.min?.getD 0) }
      let g := onTherm g fun t => { t with rated := true }
      let temp := signed 16 f.th.inUse.toNat
      when (decide (0 ≤ temp) && decide (temp ≤ 1680)) (each (List.range 16) rateCheck) g
    else f
  if f.th.tbLost then g
  else onTherm g fun t => { t with beatBase := (List.range 16).foldl (fun b n => tset 0 b n (portOf f (16 + n)).beatTimes) [] }

/-- A diode reading in range (R330). -/
def tempInRange (r : BitVec 16) : Bool := decide (-640 ≤ signed 16 r.toNat) && decide (signed 16 r.toNat ≤ 2400)

/-- Two rail readings within 10 mV over three rounds (R330). -/
def steady (a b c : Nat) : Bool := decide (max a (max b c) - min a (min b c) ≤ 10)

/-- The reading is stuck (R330): identical over three rounds while `RATE_MIN` has moved by more than 5 % and the rails have
not. -/
def stuck (f : Fab) (r : BitVec 16) : Bool :=
  match f.th.hist with
  | (t1, m1, a1, b1, c1) :: (t0, m0, a0, b0, c0) :: _ =>
    let m := f.pwr.rateMin.toNat
    t1 == r && t0 == r && m != 0 && m1 != 0 && m0 != 0 && decide (m0 < 20 * (max m m0 - min m m0))
      && steady f.pwr.vtrf.toNat a1 a0 && steady f.pwr.vnet.toNat b1 b0 && steady f.pwr.vret.toNat c1 c0
  | _ => false

/-- What judging a reading leaves (R330): whether it is valid, the last invalid reading, rounds in range since another. -/
def judge (f : Fab) (r : BitVec 16) : Bool × Option (BitVec 16) × Nat :=
  if !tempInRange r || stuck f r then (false, some r, 0)
  else match f.th.badTemp with
    | none => (true, none, 0)
    | some b =>
      if f.th.goodRun = 0 && r = b then (false, some b, 0)
      else if 3 ≤ f.th.goodRun then (true, none, 0)
      else (false, some b, f.th.goodRun + 1)

/-- Step 4 (R329, R330, R384): the diode. -/
def stepDiode (h : HkSample) (f : Fab) : Fab :=
  let r : BitVec 16 := if f.th.hkLost then 0x8000 else h.temp
  let j := judge f r
  let cause := if tempInRange r then 1 else 0
  let was := f.th.valid
  let now := (r, f.pwr.rateMin.toNat, f.pwr.vtrf.toNat, f.pwr.vnet.toNat, f.pwr.vret.toNat)
  let f := onTherm f fun t =>
    { t with diode := r, valid := j.1, badTemp := j.2.1, goodRun := j.2.2, hist := now :: t.hist.take 1 }
  when (was && !j.1) (raise 0x24 (place [(0, r.toNat), (16, f.th.proxy.toNat), (32, cause)])) f

/-- The margin of group n as the round reads it (R297 kind 7): the fabric's own, which `HK_` does not bring (R383). -/
def readMargin (h : HkSample) (f : Fab) (n : Nat) : Fab :=
  let hit := injKind f == 7 && fld f.sec.inject 4 4 == n
  let m := if hit then injBit f % 64 else fld h.margins (6 * n) 6
  when hit injFired (onTherm f fun t => { t with margin := tset 0 t.margin n (BitVec.ofNat 8 m) })

/-- Group n is being calibrated (R335). -/
def calibrating (f : Fab) (n : Nat) : Bool :=
  let asked := match f.lop.cal with
    | some c => bitAt c.todo n
    | none => false
  asked || bitAt f.th.recal n || atStage f 3

/-- One group's canary (R336, R337): a tap more where its margin is low and a tap is left, and its collapse. -/
def watchGroup (f : Fab) (n : Nat) : Fab :=
  if bitAt f.th.frozen n || calibrating f n then f
  else
    let m := (tget 0 f.th.margin n).toNat
    let taps := (tget 0 f.th.taps n).toNat
    let added := (tget 0 f.th.added n).toNat
    let low := decide (m < f.th.canaryAct.toNat)
    let rounds := if low then tget 0 f.th.lowRounds n + 1 else 0
    let f := onTherm f fun t => { t with lowRounds := tset 0 t.lowRounds n rounds }
    let spent := decide (16 ≤ added) || decide (63 ≤ taps)
    let f := if low && !spent then
        raise 0x25 (place [(0, n), (8, m), (16, taps + 1)]) (onTherm f fun t =>
          { t with taps := tset 0 t.taps n (BitVec.ofNat 8 (taps + 1)), added := tset 0 t.added n (BitVec.ofNat 8 (added + 1)) })
      else f
    when (decide (m ≤ 2) || decide (4 ≤ rounds) || (low && spent))
      (fun f => onTherm f fun t => { t with collapsed := putBit t.collapsed n true }) f

/-- Step 5 (R329, R336, R337): the canary margins. -/
def stepCanaries (h : HkSample) (f : Fab) : Fab := each (List.range 16) watchGroup (each (List.range 16) (readMargin h) f)

/-- The typical rate of R20 in Mbeat/s at a VDD_TRF reading, as a fraction: linear between rows (R22), the outer rows' beyond
them (log 43). -/
def typicalRate (mv : Nat) : Nat × Nat :=
  if mv ≤ 650 then (1350, 1)
  else if mv ≤ 750 then (1350 * 100 + 650 * (mv - 650), 100)
  else if mv ≤ 850 then (2000 * 100 + 450 * (mv - 750), 100)
  else if mv ≤ 900 then (2450 * 50 + 150 * (mv - 850), 50)
  else (2600, 1)

/-- The estimate from rate of an anchored group, in sixteenths of a degree (R331). -/
def rateEstimate (f : Fab) (n : Nat) (a : Anchor) (ref : Nat × Nat) : Int × Nat :=
  let k := (tget 0 f.th.added n).toNat
  let ra := typicalRate ref.2
  let rv := typicalRate f.pwr.vtrf.toNat
  let num := (tget 0 f.pwr.rate n).toNat * ra.1 * rv.2 * 1004 ^ k
  let den := ref.1 * ra.2 * rv.1 * 1000 ^ k
  (signed 16 a.temp.toNat * den + f.prm.kr * ((den : Int) - num), den)

/-- The estimate from margin of an anchored group (R331). -/
def marginEstimate (f : Fab) (n : Nat) (a : Anchor) : Int × Nat :=
  (signed 16 a.temp.toNat + f.prm.km *
    ((a.margin : Int) + (tget 0 f.th.added n).toNat - (tget 0 f.th.margin n).toNat), 1)

/-- The larger of two fractions. -/
def largerOf (a b : Int × Nat) : Int × Nat := if a.1 * b.2 ≤ b.1 * a.2 then b else a

/-- Estimates of every anchored group; those from rate only with a valid sample (R285, R331; log 43), free where the reference
rate is 0. -/
def estimates (i : RoundInfo) (f : Fab) : List (Int × Nat) :=
  (List.range 16).flatMap fun n => match tget none f.th.anchors n with
    | some a => match a.ref with
      | some ref => (if i.sample then [if ref.1 = 0 then (Config.zeroRateEstimate n, 1) else rateEstimate f n a ref] else [])
          ++ [marginEstimate f n a]
      | none => []
    | none => []

/-- A fraction as a whole number, rounded as the part rounds it. -/
def wholeOf (x : Int × Nat) : Int :=
  let q := x.1 / (x.2 : Int)
  if q * x.2 != x.1 && Config.proxyRoundsUp x.1 x.2 then q + 1 else q

/-- `TEMP_PROXY` (R331): 0x8000 before any group is anchored. -/
def proxyOf (l : List (Int × Nat)) : BitVec 16 :=
  match l with
  | [] => 0x8000
  | a :: t => BitVec.ofInt 16 (max (-32767) (min 32767 (wholeOf (t.foldl largerOf a))))

/-- Reference rate and rail of calibrated groups that have none yet (R331). -/
def anchorGroup (i : RoundInfo) (f : Fab) (n : Nat) : Fab :=
  match tget none f.th.anchors n with
  | some a =>
    let r := (tget 0 f.pwr.rate n).toNat
    if i.sample && a.ref.isNone then
      onTherm f fun t => { t with anchors := tset none t.anchors n (some { a with ref := some (r, f.pwr.vtrf.toNat) }) }
    else f
  | none => f

/-- Step 6 (R329, R331): the proxy and the temperature acted on. -/
def stepProxy (i : RoundInfo) (f : Fab) : Fab :=
  let f := each (List.range 16) (anchorGroup i) f
  let p := proxyOf (estimates i f)
  onTherm f fun t => { t with proxy := p, inUse := if t.valid then t.diode else p }

/-- The acting temperature (R332): none while neither the diode nor the proxy can be had. -/
def actingTemp (f : Fab) : Option Int :=
  if f.th.valid then some (signed 16 f.th.inUse.toNat)
  else if f.th.proxy = 0x8000 then none
  else some (signed 16 f.th.proxy.toNat + 160)

/-- Start of throttle level l in sixteenths (R332). -/
def levelStart (f : Fab) (l : Nat) : Int := 16 * ((f.th.startAct.toNat + 5 * (l - 1) : Nat) : Int)

/-- The computed throttle level (R332). -/
def computedLevel (f : Fab) : Nat :=
  match actingTemp f with
  | none => 3
  | some t => if levelStart f 3 ≤ t then 3 else if levelStart f 2 ≤ t then 2 else if levelStart f 1 ≤ t then 1 else 0

/-- The throttle level after this round, and the rounds toward easing (R332, R353). -/
def nextLevel (f : Fab) : Nat × Nat :=
  let now := f.th.level.toNat
  let c := computedLevel f
  let cool := match actingTemp f with
    | some t => f.th.valid && decide (t < levelStart f now - 48)
    | none => false
  if now < c || (f.start.recompute && f.th.valid) then (c, 0)
  else if now = 0 || !cool then (now, 0)
  else if 1 ≤ f.th.easeRun then (now - 1, 0)
  else (now, f.th.easeRun + 1)

/-- A change of throttle level (R332, R333). -/
def setLevel (l : Nat) (f : Fab) : Fab :=
  let old := f.th.level.toNat
  let f := onTherm f fun t => { t with level := BitVec.ofNat 8 l, held := !t.valid && l != 0 }
  if old = l then f
  else
    let f : Fab := { f with ports := tmap {} (fun _ x => { x with dilution := 0 }) f.ports }
    raise 0x22 (place [(0, old), (8, l), (16, f.th.inUse.toNat), (32, f.th.held.toNat)]) f

/-- The shutdown request for an acting temperature (R334). -/
def setShutdown (t : Option Int) (valid : Bool) (f : Fab) : Fab :=
  match t with
  | none => f
  | some x =>
    let s := (f.th.startAct.toNat : Int)
    if !f.th.shutdown && decide (16 * (s + 15) ≤ x) then
      raise 0x23 (place [(0, f.th.inUse.toNat)]) (onTherm f fun t => { t with shutdown := true })
    else if f.th.shutdown && valid && decide (x < 16 * (s + 12)) then onTherm f fun t => { t with shutdown := false }
    else f

/-- Step 7 (R332, R334). -/
def stepThrottle (f : Fab) : Fab :=
  let n := nextLevel f
  let f := setLevel n.1 (onTherm f fun t => { t with easeRun := n.2 })
  let past := !atStage f 1
  setShutdown (actingTemp f) f.th.valid (onStart f fun s => { s with recompute := s.recompute && !past })

/-- Step 8 (R277, R329): a save that waits outside the window is put off for a round. -/
def stepSaves (f : Fab) : Fab :=
  match f.img.waiting with
  | some r =>
    if saveWindow f then f
    else
      let f := onWaiting (fun r => { r with deferred := r.deferred + 1 }) f
      stageSaved r true (onWaiting (fun r => { r with forStart := false }) (deferSave f))
  | none => f

/-- One lane's lock, and its eye margin while it has lock (R177, R178, R381). -/
def watchLane (h : HkSample) (f : Fab) (i : Nat) : Fab :=
  let lock := bitAt h.locks i
  let l := laneAt f i
  let m := if lock then fld h.eyes (6 * i) 6 else l.eye.toNat
  let warn := decide (m < f.eyeWarn.toNat)
  let f := onLane f i fun x => { x with eye := BitVec.ofNat 6 m, lock := lock }
  if !lock then onLane f i fun x => if x.rx = .retraining then { x with rounds := x.rounds + 1 } else x
  else
    match l.rx with
    | .active =>
      let f := onLane f i fun x => { x with low := warn }
      let f := when (warn && !l.low) (raise 0x1A (place [(0, i), (8, m)])) f
      when (decide (m < f.eyeSwap.toNat)) (requestSwap i 2) f
    | .retraining => if warn then onLane f i fun x => { x with rounds := x.rounds + 1 }
      else onLane f i fun x => { x with rx := .spare, low := false, rounds := 0 }
    | _ => f

/-- Step 9 (R177, R329). -/
def stepEyes (h : HkSample) (f : Fab) : Fab := each (f.lanes.map (·.1)) (watchLane h) f

/-- edge_1 to edge_15 at the rate `r.1 / r.2` in Mbeat/s (R327). -/
def edgesFor (r : Nat × Nat) : List Nat := (List.range 15).map fun j => 32 * 2 ^ (j + 1) * r.1 / (1000 * r.2)

/-- The histogram edges of the round (R327). -/
def stepEdges (i : RoundInfo) (f : Fab) : Fab :=
  let put := fun (r : Nat × Nat) => { f with cnt := { f.cnt with edges := edgesFor r } }
  if i.sample then put ((tget 0 f.pwr.rate 0).toNat, 1)
  else if f.th.rated then f else put (typicalRate f.pwr.vtrf.toNat)

/-- A segment whose answer stands out for one more round (R183, R394). -/
def tickSeg (g : Seg) : Seg :=
  let out := match g.phase with
    | .asked => true
    | .backoff _ => true
    | .granted => g.sent == g.granted
    | _ => false
  if out then { g with rounds := g.rounds + 1 } else g

/-- A flight one round on: its segments and its remote signal (R183). -/
def tickFlight (x : Flight) : Flight :=
  { x with segs := x.segs.map tickSeg, fsig := x.fsig.map fun s => { s with rounds := s.rounds + 1 } }

/-- A queue one round on: its flights and its wait on a fence (R226). -/
def tickQueue (q : Queue) : Queue :=
  let h : Head := if q.head.onFence then { q.head with rounds := q.head.rounds + 1 } else q.head
  { q with flights := q.flights.map tickFlight, head := h }

/-- A collect one round on: quarters awaited from a responsive supplier while the return buffer has room (R125). -/
def tickCollect (f : Fab) (c : Nat) (o : OpenCollect) : OpenCollect :=
  { o with rounds := (List.range 4).map fun k =>
      let e := o.expect.getD k 0
      let awaits := match o.sup.getD k none with
        | some s => responsive f c s
        | none => false
      let due := decide (k < o.need) && awaits && decide (e < o.rows) && roomFor f c o e
      if due then o.rounds.getD k 0 + 1 else 0 }

/-- A cluster one round on (R125). -/
def tickCluster (f : Fab) (c : Nat) (y : Cluster) : Cluster :=
  { y with bus := y.bus.map fun b => { b with rounds := b.rounds + 1 }, running := y.running.map (tickCollect f c) }

/-- An entry of a MIGRATE one round on: an install out or answered BUSY (R183). -/
def tickEntry (e : MigEntry) : MigEntry := if e.inst = 1 || e.inst = 3 then { e with rounds := e.rounds + 1 } else e

/-- The domain end one round on: contexts and holds (R164, R225). -/
def tickDomain (d : Domain) : Domain :=
  { d with ctxs := tmap none (fun _ c => c.map fun x => { x with rounds := x.rounds + 1 }) d.ctxs
           holds := d.holds.map fun h => { h with rounds := h.rounds + 1 } }

/-- Step 10's timers (R394). -/
def stepTimers (f : Fab) : Fab :=
  let f : Fab := { f with
    queues := tmap {} (fun _ q => tickQueue q) f.queues
    clusters := tmap {} (fun c y => tickCluster f c y) f.clusters
    dom := tickDomain f.dom
    lop := { f.lop with migs := f.lop.migs.map fun m => { m with segs := m.segs.map tickSeg, entries := m.entries.map tickEntry } } }
  let f := onSec f fun s => if s.unlock = 1 then { s with unlockRounds := s.unlockRounds + 1 } else s
  if atStage f 3 && !f.th.valid then onStart f fun s => { s with tempWait := s.tempWait + 1 } else f

/-- A round's inputs have been used: the next one starts from answers anew (R384). -/
def endRound (f : Fab) : Fab := onTherm f fun t => { t with hkLost := false, tbLost := false }

/-- The round in RETAIN (R328, R332, R334, R353): steps 1, 2 and 4, and of 7 the hold and the shutdown request, on the diode
alone; the level is kept. -/
def retainRound (i : RoundInfo) (h : HkSample) (f : Fab) : Fab :=
  let f := onTherm (stepDiode h (stepRails h (stepTime i f))) fun t => { t with held := !t.valid && t.level != 0 }
  setShutdown (if f.th.valid then some (signed 16 f.th.diode.toNat) else none) f.th.valid f

/-- The steps of a round in order (R329). -/
def wholeRound (i : RoundInfo) (h : HkSample) (f : Fab) : Fab :=
  let f := stepDiode h (stepRate i (stepRails h (stepTime i f)))
  let f := stepThrottle (stepProxy i (stepCanaries h f))
  stepTimers (stepEdges i (stepEyes h (stepSaves f)))

/-- A housekeeping round (R328, R329). -/
def runRound (backstop : Bool) (h : HkSample) (f : Fab) : Fab :=
  let i := roundInfo backstop h f
  endRound (if f.pwr.st = 2 then retainRound i h f else wholeRound i h f)

/-- A collapsed group frozen, to be recalibrated at once (R337). -/
def collapseGroup (n : Nat) (f : Fab) : Fab :=
  if !bitAt f.th.collapsed n then f
  else
    let f := onTherm f fun t => { t with collapsed := putBit t.collapsed n false, recal := putBit t.recal n true }
    freezeGroup n (tget 0 f.th.margin n).toNat f

/-- HOUSEKEEPING_ROUND (R329). -/
def execHousekeepingRound (h : HkSample) (s : State) : Host.Outcome State Fault Refusal :=
  onFab .ret s fun _ f => runRound false h f
/-- BACKSTOP_ROUND (R328). -/
def execBackstopRound (h : HkSample) (s : State) : Host.Outcome State Fault Refusal :=
  onFab .ret s fun _ f => runRound true h f
/-- GROUP_FROZEN (R337). -/
def execGroupFrozen (n : Fin 16) (s : State) : Host.Outcome State Fault Refusal := onFab .main s fun _ f => collapseGroup n f
/-- HK_TIMEOUT (R384): the round to come has no readings. -/
def execHkTimeout (s : State) : Host.Outcome State Fault Refusal :=
  onFab .ret s fun _ f => onTherm f fun t => { t with hkLost := true }
/-- TB_TIMEOUT (R384): the time base counts as not advancing in the round to come. -/
def execTbTimeout (s : State) : Host.Outcome State Fault Refusal :=
  onFab .ret s fun _ f => onTherm f fun t => { t with tbLost := true }

end Sys2Proof.Machine
end

