-- ==== Sys2Proof/Machine/Entries.lean ====
section
/-!
DEFINITION. The entries of the object dictionary (R259 to R262, R280 to R282): which exist, their access, size and security
minimum, and the value a READ gives.
-/

namespace Sys2Proof.Machine

/-- Access rights (R261). -/
inductive Acc where
  | ro | rw | wo | rwp | cmd
deriving DecidableEq, Repr

/-- Security minimums (R262), but for the split one of `RETIRED_MASK`. -/
inductive SecMin where
  | any | observe | intrusive | never
deriving DecidableEq, Repr

/-- What the entry tables say of an entry: access, security minimum, bytes of its type. -/
structure Shape where
  acc : Acc
  need : SecMin
  size : Nat
deriving DecidableEq, Repr

/-- The usual rows of the entry tables. -/
def ro (n : Nat) : Shape := ⟨.ro, .never, n⟩
def rw (n : Nat) : Shape := ⟨.rw, .any, n⟩
def rwp (n : Nat) : Shape := ⟨.rwp, .any, n⟩

/-- `x` is one of the `n` indices from `lo` up. -/
def within (x lo n : Nat) : Bool := decide (lo ≤ x) && decide (x < lo + n)

/-- Independent entries at subindices 1 up. -/
def rows (l : List Shape) (y : Nat) : Option Shape := if y = 0 then none else l[y - 1]?

/-- A table of `n` elements. -/
def table (n : Nat) (s : Shape) (y : Nat) : Option Shape := if y < n then some s else none

/-- A counter or histogram element (R292 to R294). -/
def isCounter (x y : Nat) : Bool :=
  let upTo := fun (n : Nat) => decide (1 ≤ y) && decide (y ≤ n)
  if within x 0x8100 32 then upTo 0x1D
  else if within x 0x8140 16 then upTo 4
  else if within x 0x8200 256 then upTo 5
  else if within x 0x8300 5 then upTo 0x0C
  else if within x 0x8310 2 then upTo 0x11
  else if within x 0x8320 16 then upTo 7
  else if x = 0x8400 then upTo 0x1D
  else within x 0x8500 4 && decide (y < 16)

/-- `MAX_BACKOFF` of a port, the one counter of 16 bits (R292). -/
def isMaxBackoff (x y : Nat) : Bool := within x 0x8100 32 && y == 7

/-- Entries of the range 0x3000 (R257, R286). -/
def bankShape (x y : Nat) : Option Shape :=
  if x = 0x3000 then rows [ro 4, ro 4, ro 4] y
  else if within x 0x3200 2 then table 256 (ro 64) y
  else if within x 0x3100 2 then table 256 (rw 1) y
  else if x = 0x3110 then rows [rwp 64, rwp 1] y
  else if within x 0x3120 2 then table 256 (rw 1) y
  else none

/-- Entries of the range 0x4000 (R111, R147, R231, R287). -/
def portShape (x y : Nat) : Option Shape :=
  if x = 0x4010 then rows [rw 2, rw 1] y
  else if x = 0x4020 then table 64 (ro 2) y
  else if within x 0x4100 32 then rows [rw 1, ro 1, ro 1, ro 8, rw 4, rw 2, ro 1, ro 4] y
  else if within x 0x4200 32 || within x 0x4240 32 then table 256 (rw 2) y
  else if within x 0x4300 256 then
    rows [rw 1, rw 1, rw 1, rw 1, ⟨.wo, .any, 1⟩, ro 1, ro 1, ro 1, ro 1, ro 1, ro 1] y
  else if within x 0x4400 16 then table 256 (rw 36) y
  else if within x 0x4410 16 then rows [ro 8, ro 8, ro 8, ro 8, ro 8] y
  else if within x 0x4420 16 then rows [rw 8, rw 8, rw 8, rw 8] y
  else if within x 0x4500 256 then table 4 (ro 48) y
  else none

/-- Entries of the range 0x5000 (R188, R231). -/
def linkShape (x y : Nat) : Option Shape :=
  if x = 0x5000 then rows [rwp 2, ro 1, ro 1, ro 2, rw 2, rw 2, rw 1] y
  else if x = 0x5001 then table 32 (ro 1) y
  else if within x 0x5010 4 then rows [ro 1, ro 2, ro 1] y
  else if x = 0x5020 then rows [ro 1, ro 2, ro 32, ro 1, rw 1, rw 1, rw 2] y
  else if x = 0x5030 then table 36 (ro 1) y
  else if within x 0x5400 32 then table 256 (rwp 8) y
  else none

/-- Entries of the ranges 0x6000 and 0x7000 (R216, R257). -/
def mapShape (x y : Nat) : Option Shape :=
  if x = 0x6000 then table 16 (ro 4) y
  else if within x 0x6010 2 then rows [ro 1, rw 1, rw 2, ro 2, ro 2] y
  else if x = 0x6100 then rows [rw 4, ro 16, ro 16, ro 4, rw 4, ro 2, ro 1] y
  else if x = 0x7000 then rows [ro 1, ro 4, rw 1, ⟨.rw, .intrusive, 1⟩, ro 64, ro 1] y
  else if x = 0x7010 then table 16 (ro 8) y
  else none

/-- Entries of the range 0x8000 (R291 to R294). -/
def countShape (x y : Nat) : Option Shape :=
  if x = 0x8000 then rows [⟨.wo, .any, 1⟩] y
  else if isCounter x y then some (rw (if isMaxBackoff x y then 2 else 8))
  else if 0x8800 ≤ x && isCounter (x - 0x800) y then some (rw 8)
  else none

/-- Entries of the range 0x9000 (R270, R295). -/
def secShape (x y : Nat) : Option Shape :=
  if x = 0x9000 then rows [ro 1, ro 4, ro 1, rw 1, ro 1, ro 4, ro 1] y
  else if x = 0x9100 then rows [⟨.rw, .intrusive, 4⟩, ⟨.rw, .intrusive, 576⟩] y
  else if x = 0x9200 then rows [⟨.rw, .observe, 32⟩, ⟨.ro, .observe, 1⟩, ⟨.ro, .observe, 4⟩] y
  else if x = 0x9210 then table 256 ⟨.ro, .observe, 40⟩ y
  else if x = 0x9300 then rows [⟨.rw, .intrusive, 8⟩, ⟨.ro, .intrusive, 4⟩] y
  else if x = 0x9400 then rows [⟨.rw, .intrusive, 4⟩] y
  else none

/-- Entries of the ranges 0xA000 to 0xF000 (R279, R299, R301, R304, R306). -/
def highShape (x y : Nat) : Option Shape :=
  if x = 0xA000 then rows [ro 2, ro 1, ro 2, ro 2, ro 1, ro 1, rwp 1, ro 1, rwp 1, ro 8, ro 4, ro 4] y
  else if x = 0xA010 then table 3 (rwp 1) y
  else if x = 0xA020 || x = 0xA030 || x = 0xA040 then table 16 (ro 1) y
  else if x = 0xB000 then rows [ro 1, ro 1, rwp 1, rwp 1, ro 1, ⟨.rwp, .never, 4⟩] y
  else if x = 0xB001 then table 8 (rwp 8) y
  else if x = 0xB010 then rows [ro 1, ro 4, ro 2, ro 1, rw 2] y
  else if x = 0xC000 then rows [rw 32, rw 8, rw 4, rw 2, ro 1, ro 4] y
  else if within x 0xC100 8 then rows [ro 1, ro 32, ro 2] y
  else if x = 0xC200 then table 64 (ro 32) y
  else if x = 0xF000 then rows [ro 1, ro 1, ro 2] y
  else if within x 0xF001 12 then table 1 ⟨.cmd, .any, 0⟩ y
  else if x = 0xF100 then table 64 (ro 32) y
  else none

/-- The entry at an index and subindex, if there is one (R259, R281, R282). -/
def entryAt (x y : Nat) : Option Shape :=
  if x = 0x1000 then rows [ro 16, ro 4, ro 1, ro 4, ro 2, ro 2, ro 16, ro 4, ro 4] y
  else if x = 0x2000 then rows [ro 1, ro 1, ro 1, ro 4, ro 2, ro 2, ro 2, ro 2, ro 8] y
  else if x = 0x2010 then table 16 (ro 2) y
  else if x < 0x3000 then none
  else if x < 0x4000 then bankShape x y
  else if x < 0x5000 then portShape x y
  else if x < 0x6000 then linkShape x y
  else if x < 0x8000 then mapShape x y
  else if x < 0x9000 then countShape x y
  else if x < 0xA000 then secShape x y
  else highShape x y

/-- A path to the dictionary (R263): none for the window, else a source endpoint. -/
abbrev Path := Option (BitVec 8)

/-- `MAP_SELECT` and `ROW_SELECT` of a path (R263). -/
def selectors (p : Path) (f : Fab) : BitVec 32 × BitVec 32 :=
  match p with
  | none => (f.bdp.mapSel, f.bdp.rowSel)
  | some e => match f.bdp.paths.find? fun x => x.1 == e with
    | some x => x.2
    | none => (0, 0)

/-- The selectors of a path set; the endpoint becomes the one most recently used, and a ninth displaces the last. -/
def setSelectors (p : Path) (v : BitVec 32 × BitVec 32) (f : Fab) : Fab :=
  match p with
  | none => onBdp f fun b => { b with mapSel := v.1, rowSel := v.2 }
  | some e => onBdp f fun b => { b with paths := ((e, v) :: b.paths.filter fun x => x.1 != e).take 8 }

/-- A use of the selectors of a path: its endpoint becomes the one most recently used (R263). -/
def useSelectors (p : Path) (f : Fab) : Fab := setSelectors p (selectors p f) f

/-- Value of an identity entry (R283). -/
def idValue (f : Fab) (y : Nat) : Nat :=
  match y with
  | 1 => ofBytes [0x56, 0x4F, 0x58, 0x56, 0x41, 0x4E, 0x20, 0x56, 0x58, 0x39]
  | 2 => f.prm.version.toNat
  | 3 => f.prm.process.toNat
  | 4 => place [(0, f.prm.spans.toNat), (4, f.prm.lanes / 16), (6, f.prm.kps.toNat)]
  | 5 => (instanceId f).toNat
  | 6 => f.prm.vendor.toNat
  | 7 => f.sec.uid.toNat
  | 8 => f.prm.setId.toNat
  | _ => f.prm.region.toNat

/-- Value of a power entry (R284). -/
def powerValue (f : Fab) (y : Nat) : Nat :=
  match y with
  | 1 => f.pwr.st.toNat
  | 2 => match f.pwr.trans with
    | some t => t.target.toNat
    | none => f.pwr.st.toNat
  | 3 => match f.pwr.queued with
    | some w => w.2.toNat
    | none => 0xFF
  | 4 => f.pwr.goods.toNat
  | 5 => f.pwr.vtrf.toNat
  | 6 => f.pwr.vnet.toNat
  | 7 => f.pwr.vret.toNat
  | 8 => f.pwr.rateMin.toNat
  | _ => f.pwr.hostNs.toNat

/-- The states of a bank's rows as stored (R286). -/
def bankStates (f : Fab) (b : Nat) : Nat :=
  unslice 16 ((List.range 32).map fun k => (tget 0 f.store.rstate (32 * b + k)).toNat % 2 ^ 16)

/-- Value of an entry of the range 0x3000. -/
def bankValue (f : Fab) (x y : Nat) : Nat :=
  let c := rowCounts f.store
  if x = 0x3000 then (match y with
    | 1 => c.1
    | 2 => c.2.1
    | _ => c.2.2)
  else if within x 0x3200 2 then bankStates f ((x - 0x3200) * 256 + y)
  else if within x 0x3100 2 then (tget 0 f.integ.alloc ((x - 0x3100) * 256 + y)).toNat
  else if x = 0x3110 then rwpGet f x y
  else (tget 0 f.integ.ueCount ((x - 0x3120) * 256 + y)).toNat

/-- Value of a port's control entry (R111). -/
def portValue (x : Port) (y : Nat) : Nat :=
  match y with
  | 1 => x.freeze.toNat
  | 2 => x.active.toNat
  | 3 => x.commit.isSome.toNat
  | 4 => x.windows.toNat
  | 5 => x.seed.toNat
  | 6 => x.backoffCap.toNat
  | 7 => x.round.toNat
  | _ => x.lfsr.toNat

/-- Value of a queue's entry (R111, R287). -/
def queueValue (q : Queue) (y : Nat) : Nat :=
  match y with
  | 1 => q.level.toNat
  | 2 => q.urgent.toNat
  | 3 => q.quota.toNat
  | 4 => q.maxBurst.toNat
  | 6 => q.qstate.toNat
  | 7 => q.reason.toNat
  | 8 => q.seq.toNat
  | 9 => q.flights.length
  | 10 => q.records.length
  | _ => 8 - q.intake.length

/-- An abort record as it is read (R289, R364, R365). -/
def recordValue (f : Fab) (q i : Nat) : Nat :=
  match (queueOf f q).records[i]? with
  | none => 0
  | some r =>
    let d := if hidden f then hideDesc f r.desc else r.desc
    fields [(256, d.toNat), (4, r.reason.toNat), (4, 0), (16, r.meTag.toNat), (9, r.rowsDone), (7, 0), (38, r.addr.toNat),
      (4, r.stack.toNat), (14, 0), (1, 1), (31, 0)]

/-- An abort record that hiding without a key withholds (R367). -/
def recordHidden (f : Fab) (q i : Nat) : Bool :=
  match (queueOf f q).records[i]? with
  | some r => hidden f && !f.sec.keyValid && dOp r.desc == 11
  | none => false

/-- Value of an entry of the range 0x4000. -/
def portsValue (slots : Tbl (BitVec 16)) (f : Fab) (x y : Nat) : Nat :=
  if x = 0x4010 then (if y = 1 then f.stallBound.toNat else f.fenceLimit.toNat)
  else if x = 0x4020 then (fenceOf f y).toNat
  else if within x 0x4100 32 then portValue (portOf f (x - 0x4100)) y
  else if within x 0x4200 32 then (slotOf slots 0 (x - 0x4200) y).toNat
  else if within x 0x4240 32 then (slotOf slots 1 (x - 0x4240) y).toNat
  else if within x 0x4300 256 then queueValue (queueOf f (x - 0x4300)) y
  else if within x 0x4400 16 then (epgroupOf f (x - 0x4400) y).toNat
  else if within x 0x4410 16 then
    (if y = 1 then (tget 0 f.prm.fullWide (x - 0x4410)).toNat else 2 ^ 64 - 1 - fld (tget 0 f.prm.empty (x - 0x4410)) (64 * (y - 2)) 64)
  else if within x 0x4420 16 then fld (clusterOf f (x - 0x4420)).unresp (64 * (y - 1)) 64
  else recordValue f (x - 0x4500) y

/-- Code of a link port's state (R188). -/
def linkCode (s : LinkState) : Nat :=
  match s with
  | .absent => 0
  | .down => 1
  | .training => 2
  | .up => 3
  | .retraining => 4
  | .failed => 5

/-- Physical lane of logical lane l, 0xFF when it is not in use (R188 `LANE_MAP`). -/
def physicalLane (f : Fab) (l : Nat) : Nat := ((List.range 36).find? fun i => (laneAt f i).rx = .active && (laneAt f i).rxLog == l).getD 0xFF

/-- Value of an entry of the range 0x5000. -/
def linksValue (f : Fab) (x y : Nat) : Nat :=
  if x = 0x5000 then (match y with
    | 1 => f.dom.packageId.toNat
    | 2 => f.prm.die.toNat
    | 3 => f.prm.dies
    | 4 => 4096
    | 5 => f.dom.sourceCap.toNat
    | 6 => f.dom.backoffCap.toNat
    | _ => f.dom.starve.toNat)
  else if x = 0x5001 then (tget 0 f.prm.spanMap y).toNat
  else if within x 0x5010 4 || (x = 0x5020 && y ≤ 2) then
    let l := linkOf f (if x = 0x5020 then 4 else x - 0x5010)
    match y with
    | 1 => linkCode l.st
    | 2 => l.partner.toNat
    | _ => l.pport.toNat
  else if x = 0x5020 then (match y with
    | 3 => unslice 8 ((List.range 32).map fun l => if l < f.prm.lanes then physicalLane f l else 0xFF)
    | 4 => sparesLeft f
    | 5 => f.eyeWarn.toNat
    | 6 => f.eyeSwap.toNat
    | _ => f.trainTimeout.toNat)
  else if x = 0x5030 then (laneAt f y).eye.toNat
  else rwpGet f x y

/-- Code of a stack port's state (R216). -/
def kpCode (s : KpState) : Nat :=
  match s with
  | .absent => 0
  | .down => 1
  | .up => 2
  | .failed => 3

/-- Value of an entry of the ranges 0x6000 and 0x7000, but for the residency entries. -/
def mapValue (p : Path) (f : Fab) (x y : Nat) : Nat :=
  if x = 0x6000 then (tget 0 f.prm.stackMap y).toNat
  else if within x 0x6010 2 then
    let k := kportOf f (x - 0x6010)
    match y with
    | 1 => kpCode k.st
    | 2 => k.enable.toNat
    | 3 => k.timeout.toNat
    | 4 => k.slots
    | _ => rxFree f (x - 0x6010)
  else if x = 0x6100 then (match y with
    | 1 => (selectors p f).1.toNat
    | 4 => freeEntries f
    | 5 => f.map.freeLow.toNat
    | 6 => f.map.epoch.toNat
    | _ => (f.kports.any fun k => k.2.sweep).toNat)
  else if x = 0x7000 then (match y with
    | 1 => f.integ.logHead.toNat
    | 2 => f.integ.logCount.toNat
    | 3 => f.integ.repairOn.toNat
    | 4 => f.integ.fallTest.toNat
    | 5 => place (((List.range 512).filter fun b => (borrowedBy f b).isSome).map fun b => (b, 1))
    | _ => ((List.range 512).any (destroyed f)).toNat)
  else (tget 0 f.integ.log y).toNat

/-- Value of an entry of the range 0x8000. -/
def countValue (f : Fab) (x y : Nat) : Nat :=
  if isCounter x y then (counterOf f x y).toNat else (thresholdOf f (x - 0x800) y).toNat

/-- A trace record as it leaves (R296, R364): one stored while nothing was hidden leaves transformed while hiding is in force. -/
def traceRead (f : Fab) (y : Nat) : BitVec 320 :=
  let r := tget 0 f.sec.trace y
  if hidden f && bitAt f.sec.traceRaw y then putf r 0 256 (hideDesc f (BitVec.ofNat 256 (fld r 0 256))).toNat else r

/-- Value of an entry of the range 0x9000, but for `ROW_DATA`. -/
def secValue (p : Path) (f : Fab) (x y : Nat) : Nat :=
  if x = 0x9000 then (match y with
    | 1 => f.sec.st.toNat
    | 2 => f.sec.epoch.toNat
    | 3 => f.sec.level.toNat
    | 4 => f.sec.request.toNat
    | 5 => f.sec.unlock.toNat
    | 6 => f.sec.zeroCount.toNat
    | _ => (hidden f).toNat)
  else if x = 0x9100 then (selectors p f).2.toNat
  else if x = 0x9200 then (match y with
    | 1 => f.sec.traceQ.toNat
    | 2 => f.sec.traceHead.toNat
    | _ => f.sec.traceCount.toNat)
  else if x = 0x9210 then (traceRead f y).toNat
  else if x = 0x9300 then (if y = 1 then f.sec.inject.toNat else f.sec.fired.toNat)
  else f.sec.portHalt.toNat

/-- Value of an entry of the range 0xA000 (R299). -/
def thermValue (f : Fab) (x y : Nat) : Nat :=
  if x = 0xA000 then (match y with
    | 1 => f.th.diode.toNat
    | 2 => f.th.valid.toNat
    | 3 => f.th.proxy.toNat
    | 4 => f.th.inUse.toNat
    | 5 => f.th.level.toNat
    | 6 => f.th.held.toNat
    | 8 => f.th.shutdown.toNat
    | 10 => f.th.rounds.toNat
    | 11 => f.th.period.toNat
    | 12 => f.th.frozen.toNat
    | _ => rwpGet f x y)
  else if x = 0xA010 then rwpGet f x y
  else if x = 0xA020 then (tget 0 f.th.margin y).toNat
  else if x = 0xA030 then (tget 0 f.th.taps y).toNat
  else (tget 0 f.th.added y).toNat

/-- Value of an entry of the range 0xB000 (R279, R301). -/
def startValue (f : Fab) (x y : Nat) : Nat :=
  if x = 0xB000 then (match y with
    | 1 => f.start.stage.toNat
    | 2 => f.start.warm.toNat
    | 5 => f.start.fawn.toNat
    | _ => rwpGet f x y)
  else if x = 0xB001 then rwpGet f x y
  else match y with
    | 1 => f.img.source.toNat
    | 2 => f.img.seq.toNat
    | 3 => f.img.skipped.toNat
    | 4 => (f.img.waiting.isSome || f.img.writing.isSome).toNat
    | _ => f.img.timeout.toNat

/-- Value of an entry of the range 0xC000 (R304). -/
def eventValue (f : Fab) (x y : Nat) : Nat :=
  if x = 0xC000 then (match y with
    | 1 => f.ev.irqMask.toNat
    | 2 => f.ev.irqAddr.toNat
    | 3 => f.ev.irqData.toNat
    | 4 => f.ev.rate.toNat
    | 5 => f.ev.ringHead.toNat
    | _ => f.ev.seq.toNat)
  else if within x 0xC100 8 then
    let s := tget {} f.ev.subs (x - 0xC100)
    match y with
    | 1 => s.eid.toNat
    | 2 => s.mask.toNat
    | _ => s.seq.toNat
  else (hideRecord f (tget 0 f.ev.ring y)).toNat

/-- Value of an entry of the range 0xF000 (R306). -/
def opValue (f : Fab) (x y : Nat) : Nat :=
  if x = 0xF000 then (match y with
    | 1 => f.lop.head.toNat
    | 2 => f.lop.ops.length
    | _ => f.lop.last.toNat)
  else (tget 0 f.lop.ring y).toNat

/-- Stage 4 of the start has not ended: the persistent entries have no running values yet (R264; log 44). -/
def rwpClosed (f : Fab) : Bool := decide (f.start.stage.toNat < 4) || (f.start.stage == 4 && f.start.running)

/-- Value of an entry whose reading has no effect. -/
def plainValue (p : Path) (slots : Tbl (BitVec 16)) (f : Fab) (x y : Nat) : Nat :=
  if (rwpAt x y).isSome && rwpClosed f then rwpDefault x y
  else if x < 0x2000 then idValue f y
  else if x = 0x2000 then powerValue f y
  else if x < 0x3000 then (tget 0 f.pwr.rate y).toNat
  else if x < 0x4000 then bankValue f x y
  else if x < 0x5000 then portsValue slots f x y
  else if x < 0x6000 then linksValue f x y
  else if x < 0x8000 then mapValue p f x y
  else if x < 0x9000 then countValue f x y
  else if x < 0xA000 then secValue p f x y
  else if x < 0xB000 then thermValue f x y
  else if x < 0xC000 then startValue f x y
  else if x < 0xD000 then eventValue f x y
  else opValue f x y

/-- A residency entry read (R207, R216, R365, R367): status and value. -/
def readResidency (p : Path) (touch : Bool) (f : Fab) : Nat × Nat × Fab :=
  let i := (selectors p f).1.toNat
  if hidden f && !f.sec.keyValid then (9, 0, f)
  else
    let r := readEntry i f
    let e := shownEntry r.2 i r.1
    let e := if hidden f then putf e 8 24 (streamHash f.sec.key (eStream e)) else e
    let g := if touch then putEntry i (putf r.1 48 8 0) r.2 else r.2
    (0, e.toNat, useSelectors p g)

/-- The row states of a bank read (R242, R286): bad parity is repaired first. -/
def readStates (b y : Nat) (f : Fab) : Nat × Fab :=
  let f := each (List.range 32) (fun f k =>
    when (oddOnes 17 (tget 0 f.store.rstate (32 * b + k)).toNat) (checkState (8 * (32 * b + k))) f) f
  (bankValue f (0x3200 + b / 256) y, f)

/-- An entry's value read (R263): status and value; `ROW_DATA` is not read here. -/
def readValue (p : Path) (slots : Tbl (BitVec 16)) (x y : Nat) (f : Fab) : Nat × Nat × Fab :=
  if x = 0x6100 && (y = 2 || y = 3) then readResidency p (y == 3) f
  else if within x 0x3200 2 then
    let r := readStates ((x - 0x3200) * 256 + y) y f
    (0, r.1, r.2)
  else if within x 0x4500 256 && recordHidden f (x - 0x4500) y then (9, 0, f)
  else (0, plainValue p slots f x y, if (x = 0x6100 && y = 1) || x = 0x9100 then useSelectors p f else f)

/-- The debug level does not reach an entry's minimum (R262). -/
def belowDebug (f : Fab) (s : SecMin) : Bool :=
  match s with
  | .observe => f.sec.level == 0
  | .intrusive => f.sec.level != 2
  | _ => false

/-- The ranges that answer READ in RETAIN (R264). -/
def readInRetain (x : Nat) : Bool := [1, 2, 9, 0xB].contains (x / 0x1000)

/-- Checks 3 to 7 of a READ (R269); 0 when they pass. -/
def readCheck (x y : Nat) (f : Fab) : Nat :=
  match entryAt x y with
  | none => 4
  | some s =>
    if s.acc = .wo || s.acc = .cmd then 5
    else if f.pwr.st = 2 && !readInRetain x then 6
    else if belowDebug f s.need then 8
    else 0

/-- A READ of an entry other than `ROW_DATA`: status, bytes, and the state after. -/
def readEntryAt (p : Path) (slots : Tbl (BitVec 16)) (x y : Nat) (f : Fab) : Nat × List Byte × Fab :=
  let c := readCheck x y f
  if c != 0 then (c, [], f)
  else
    let r := readValue p slots x y f
    if r.1 != 0 then (r.1, [], r.2.2)
    else (0, bytesOf ((entryAt x y).map (·.size) |>.getD 0) r.2.1, r.2.2)

end Sys2Proof.Machine
end

