-- ==== Sys2Proof/Machine/Writes.lean ====
section
/-!
DEFINITION. WRITE to the entries of the object dictionary: each entry's own rule (R269 and the rules the entry tables name),
the checks before it, and the commands that are one entry's write.
-/

namespace Sys2Proof.Machine

/-- What a write gives: its status, and the slot tables and state after it. -/
abbrev Wrote := Nat × Tbl (BitVec 16) × Fab

/-- Codes of R269 that entry rules give. -/
def cRange : Nat := 0x0B
def cLayout : Nat := 0x0C

/-- A write with effect `g` where `ok`, else RANGE. -/
def inRange (ok : Bool) (g : Fab → Fab) (f : Fab) : Nat × Fab := if ok then (0, g f) else (cRange, f)

/-- `ALLOC` (R247). -/
def writeAlloc (b v : Nat) (f : Fab) : Nat × Fab :=
  if tget 0 f.integ.alloc b = 2 then (6, f)
  else inRange (v ≤ 1) (fun f => onInteg f fun i => { i with alloc := tset 0 i.alloc b (BitVec.ofNat 8 v) }) f

/-- A bank put back to FREE by a cleared bit of `RETIRED_MASK` (R250). -/
def freeBank (b : Nat) (f : Fab) : Fab :=
  onInteg f fun i => { i with retired := putBit i.retired b false, alloc := tset 0 i.alloc b 0, ueCount := tset 0 i.ueCount b 0 }

/-- `RETIRED_MASK` (R250). -/
def writeMask (v : BitVec 512) (f : Fab) : Fab :=
  let old := f.integ.retired
  let f := each ((bitsSet old).filter fun b => !bitAt v b) (fun f b => freeBank b f) f
  each ((bitsSet v).filter fun b => !bitAt old b) (fun f b => retireBank b false true f) f

/-- `RETIRE_THRESHOLD` (R248): banks at or past it are retired. -/
def writeRetireAt (v : Nat) (f : Fab) : Fab :=
  let f := onInteg f fun i => { i with retireAt := BitVec.ofNat 8 v }
  let due := (List.range 512).filter fun b => decide (v ≤ (tget 0 f.integ.ueCount b).toNat) && tget 0 f.integ.alloc b != 2
  each due (fun f b => retireBank b false false f) f

/-- Entries of the range 0x3000. -/
def writeBank (x y v : Nat) (f : Fab) : Nat × Fab :=
  if within x 0x3100 2 then writeAlloc ((x - 0x3100) * 256 + y) v f
  else if x = 0x3110 then
    (if y = 1 then (0, writeMask (BitVec.ofNat 512 v) f) else inRange (rwpRange f x y v) (writeRetireAt v) f)
  else inRange (v == 0) (fun f => onInteg f fun i => { i with ueCount := tset 0 i.ueCount ((x - 0x3120) * 256 + y) 0 }) f

/-- `FREEZE` (R103): what a calibration or a ZEROIZE under way will restore, else the entry itself. -/
def writeFreeze (p : Nat) (v : Bool) (f : Fab) : Fab :=
  match f.lop.cal with
  | some c =>
    if bitAt c.todo (p % 16) then onLop f fun l => { l with cal := some { c with froze := putBit c.froze p v } }
    else restoreFreeze p v f
  | none => restoreFreeze p v f

/-- `LFSR_SEED` (R48). -/
def writeSeed (p v : Nat) (f : Fab) : Fab := onPort f p fun x => { x with seed := BitVec.ofNat 32 v, lfsr := BitVec.ofNat 32 v }

/-- A port's control entries (R111). -/
def writePort (p y v : Nat) (f : Fab) : Nat × Fab :=
  match y with
  | 1 => inRange (v ≤ 1) (writeFreeze p (v == 1)) f
  | 5 => inRange (v != 0) (writeSeed p v) f
  | _ => inRange (1 ≤ v && v ≤ 1024) (fun f => onPort f p fun x => { x with backoffCap := BitVec.ofNat 16 v }) f

/-- `ARB_LEVEL` (R111): a queue moved off level 3 loses its quota count. -/
def writeLevel (q v : Nat) (f : Fab) : Fab :=
  let leaves := (queueOf f q).level == 3 && v != 3
  let f := onQueue f q fun x => { x with level := BitVec.ofNat 8 v }
  when leaves (each (List.range 32) (fun f p => onReq p q (fun r => { r with used := 0 }) f)) f

/-- A queue's entries (R111, R287, R288). -/
def writeQueue (q y v : Nat) (f : Fab) : Nat × Fab :=
  match y with
  | 1 => inRange (v ≤ 3) (writeLevel q v) f
  | 2 => inRange (v ≤ 1) (fun f => onQueue f q fun x => { x with urgent := v == 1 }) f
  | 3 => (0, onQueue f q fun x => { x with quota := BitVec.ofNat 8 v })
  | 4 => inRange (1 ≤ v && v ≤ 16) (fun f => onQueue f q fun x => { x with maxBurst := BitVec.ofNat 8 v }) f
  | _ => writeControl q v f

/-- An endpoint group entry (R117, R118). -/
def writeGroup (c g v : Nat) (f : Fab) : Nat × Fab :=
  let e : BitVec 288 := BitVec.ofNat 288 v
  let members := (List.range 256).filter fun i => bitAt e i
  let empty := tget 0 f.prm.empty c
  let wide := tget 0 f.prm.fullWide c
  if fld e 256 2 = 3 || (fld e 258 2 != 0 && fld e 256 2 != 2) || fld e 260 28 != 0 then (cLayout, f)
  else if members.any fun i => bitAt empty i || (i % 4 != 0 && bitAt wide (i / 4)) then (cRange, f)
  else (0, { f with epgroups := tset 0 f.epgroups (256 * c + g) e })

/-- Entries of the range 0x4000, but for the slot tables. -/
def writePorts (x y v : Nat) (f : Fab) : Nat × Fab :=
  if x = 0x4010 then
    (if y = 1 then inRange (256 ≤ v) (fun f => { f with stallBound := BitVec.ofNat 16 v }) f
      else (0, { f with fenceLimit := BitVec.ofNat 8 v }))
  else if within x 0x4100 32 then writePort (x - 0x4100) y v f
  else if within x 0x4300 256 then writeQueue (x - 0x4300) y v f
  else if within x 0x4400 16 then writeGroup (x - 0x4400) y v f
  else (0, clearMarks (x - 0x4420) (y - 1) (BitVec.ofNat 64 v) f)

/-- A slot entry of a copy of port p (R90, R91). -/
def writeSlot (copy p k v : Nat) (slots : Tbl (BitVec 16)) (f : Fab) : Wrote :=
  let e : BitVec 16 := BitVec.ofNat 16 v
  let x := portOf f p
  let broken := bitAt e 14 || (eKind e != 1 && eQueue e != 0) || (eKind e == 2 && eBurst e != 0) || (eKind e == 3 && decide (p < 16))
  if x.active.toNat = copy then (0x0E, slots, f)
  else if eOdd e then (0x0D, slots, f)
  else if broken then (cLayout, slots, f)
  else if x.commit.isSome then (0x0F, slots, f)
  else (0, tset slotDefault slots (slotKey copy p k) e, f)

/-- A route table entry (R169, R171). -/
def writeRoute (package v : Nat) (f : Fab) : Nat × Fab :=
  if !routeOk f f.dom.package.toNat package (v % 2 ^ 34) then (cRange, f)
  else if v / 2 ^ 34 != 0 then (cLayout, f)
  else (0, withPaths (fun f => onDom f fun d => { d with route := tset 0 d.route package (BitVec.ofNat 64 v) }) f)

/-- The eye margin limits of IL0 (R188): without lanes a write has no effect (R281). -/
def writeEye (y v : Nat) (f : Fab) : Nat × Fab :=
  if f.prm.lanes = 0 then (0, f)
  else if y = 5 then inRange (1 ≤ v && v ≤ 63 && f.eyeSwap.toNat < v) (fun f => { f with eyeWarn := BitVec.ofNat 8 v }) f
  else inRange (v ≤ 62 && v < f.eyeWarn.toNat) (fun f => { f with eyeSwap := BitVec.ofNat 8 v }) f

/-- Entries of the range 0x5000 (R188, R231). -/
def writeLinks (x y v : Nat) (f : Fab) : Nat × Fab :=
  if x = 0x5000 then (match y with
    | 1 => inRange (rwpRange f x y v) (rwpSet x y v) f
    | 5 => inRange (16 ≤ v && v ≤ 4096) (fun f => onDom f fun d => { d with sourceCap := BitVec.ofNat 16 v }) f
    | 6 => inRange (16 ≤ v) (fun f => onDom f fun d => { d with backoffCap := BitVec.ofNat 16 v }) f
    | _ => inRange (1 ≤ v) (fun f => onDom f fun d => { d with starve := BitVec.ofNat 8 v }) f)
  else if x = 0x5020 then
    (if y = 7 then inRange (10 ≤ v && v ≤ 5000) (fun f => { f with trainTimeout := BitVec.ofNat 16 v }) f else writeEye y v f)
  else writeRoute ((x - 0x5400) * 256 + y) v f

/-- Entries of the ranges 0x6000 and 0x7000 (R205, R216, R256, R257). -/
def writeMap (p : Path) (x y v : Nat) (f : Fab) : Nat × Fab :=
  if within x 0x6010 2 then
    let k := x - 0x6010
    if y = 2 then (if 1 < v then (cRange, f) else writeEnable k (v == 1) f)
    else if (kportOf f k).st = .absent then (0, f)
    else inRange (20 ≤ v && v ≤ 10000) (fun f => onKport f k fun y => { y with timeout := BitVec.ofNat 16 v }) f
  else if x = 0x6100 then
    (if y = 1 then
      inRange (v ≤ 131071) (fun f => setSelectors p (BitVec.ofNat 32 v, (selectors p f).2) f) f
    else inRange (v ≤ 131072) (fun f => { f with map := { f.map with freeLow := BitVec.ofNat 32 v } }) f)
  else if y = 3 then inRange (v ≤ 1) (fun f => onInteg f fun i => { i with repairOn := v == 1 }) f
  else writeFallback v f

/-- Every counter and histogram cleared (R290). -/
def clearAll (f : Fab) : Fab := { f with cnt := { f.cnt with val := [], spent := [] } }

/-- Entries of the range 0x8000 (R290, R291). -/
def writeCount (x y v : Nat) (f : Fab) : Nat × Fab :=
  if x = 0x8000 then inRange (v == 1) clearAll f
  else if isCounter x y then inRange (v == 0) (clearCounter x y) f
  else (0, writeThreshold (x - 0x800) y (BitVec.ofNat 64 v) f)

/-- Entries of the range 0x9000, but for `ROW_DATA` (R270, R295 to R298). -/
def writeSec (p : Path) (x y v : Nat) (f : Fab) : Nat × Fab :=
  if x = 0x9000 then writeDebug v f
  else if x = 0x9100 then
    inRange (v / 2 ^ 27 == 0 && v / 2 ^ 17 ≤ 575) (fun f => setSelectors p ((selectors p f).1, BitVec.ofNat 32 v) f) f
  else if x = 0x9200 then (0, onSec f fun s => { s with traceQ := BitVec.ofNat 256 v })
  else if x = 0x9300 then writeInject (BitVec.ofNat 64 v) f
  else if y = 1 then writeHalt (BitVec.ofNat 32 v) f
  else (0, f)

/-- A `DILUTION` element within its range and in order (R300). -/
def dilutionOk (f : Fab) (y v : Nat) : Bool :=
  let at_ := fun (i : Nat) => if i = y then v else rwpGet f 0xA010 i
  rwpRange f 0xA010 y v && decide (at_ 1 ≤ at_ 0) && decide (at_ 2 ≤ at_ 1)

/-- Entries of the ranges 0xA000 and 0xB000 (R279, R299 to R303). -/
def writeStart (x y v : Nat) (f : Fab) : Nat × Fab :=
  if x = 0xA000 then inRange (rwpRange f x y v) (rwpSet x y v) f
  else if x = 0xA010 then inRange (dilutionOk f y v) (rwpSet x y v) f
  else if x = 0xB000 then
    inRange (if y = 3 then v == 0 else rwpRange f x y v) (fun f => selfSave false (rwpSet x y v f)) f
  else if x = 0xB001 then inRange (v == 0) (fun f => selfSave false (rwpSet x y 0 f)) f
  else inRange (50 ≤ v && v ≤ 10000) (fun f => onImg f fun i => { i with timeout := BitVec.ofNat 16 v }) f

/-- Entries of the range 0xC000 (R304). -/
def writeEvents (y v : Nat) (f : Fab) : Nat × Fab :=
  let put := fun (g : Events → Events) (f : Fab) => ({ f with ev := g f.ev } : Fab)
  match y with
  | 1 => (0, put (fun e => { e with irqMask := BitVec.ofNat 256 v }) f)
  | 2 => inRange (v % 4 == 0) (put fun e => { e with irqAddr := BitVec.ofNat 64 v }) f
  | 3 => (0, put (fun e => { e with irqData := BitVec.ofNat 32 v }) f)
  | _ => inRange (1 ≤ v) (put fun e => { e with rate := BitVec.ofNat 16 v }) f

/-- The entry's own rule, for a value of the entry's size (R269 order 10, and its refusals for state). -/
def applyWrite (p : Path) (x y v : Nat) (slots : Tbl (BitVec 16)) (f : Fab) : Wrote :=
  let keep := fun (r : Nat × Fab) => ((r.1, slots, r.2) : Wrote)
  if within x 0x4200 32 then writeSlot 0 (x - 0x4200) y v slots f
  else if within x 0x4240 32 then writeSlot 1 (x - 0x4240) y v slots f
  else if x < 0x4000 then keep (writeBank x y v f)
  else if x < 0x5000 then keep (writePorts x y v f)
  else if x < 0x6000 then keep (writeLinks x y v f)
  else if x < 0x8000 then keep (writeMap p x y v f)
  else if x < 0x9000 then keep (writeCount x y v f)
  else if x < 0xA000 then keep (writeSec p x y v f)
  else if x < 0xC000 then keep (writeStart x y v f)
  else keep (writeEvents y v f)

/-- Checks 3 to 5 of a WRITE, but for refusals that the entry's rule makes for the state (R264, R269). -/
def writeCheck (x y : Nat) (f : Fab) : Nat :=
  match entryAt x y with
  | none => 4
  | some s =>
    if s.acc = .ro || s.acc = .cmd then 5
    else if f.pwr.st = 2 || (s.acc = .rwp && rwpClosed f) then 6
    else 0

/-- The security minimum is not met (R257, R262, R301). -/
def belowSecurity (x y v : Nat) (sized : Bool) (f : Fab) : Bool :=
  let clears := x == 0x3110 && y == 1 && sized && f.integ.retired &&& ~~~(BitVec.ofNat 512 v) != 0
  (clears && 2 ≤ f.sec.st.toNat) || (match entryAt x y with
    | some s => s.need = .never
    | none => false)

/-- A WRITE of `n` bytes with value `v` to an entry other than `ROW_DATA` (R269). -/
def writeEntryAt (p : Path) (x y n v : Nat) (slots : Tbl (BitVec 16)) (f : Fab) : Wrote :=
  let c := writeCheck x y f
  let s := (entryAt x y).getD (ro 0)
  let sized := n == s.size
  if c != 0 then (c, slots, f)
  else
    let r := applyWrite p x y v slots f
    let stuckEntry := within x 0x3100 2 && tget 0 f.integ.alloc ((x - 0x3100) * 256 + y) == 2
    if (sized && r.1 = 6) || stuckEntry then (6, slots, f)
    else if belowSecurity x y v sized f then (7, slots, f)
    else if belowDebug f s.need then (8, slots, f)
    else if !sized then (0x0A, slots, f)
    else r

/-- A command that is the write of one entry: its status is put out. -/
def byEntry (x y v : Nat) (s : State) : Host.Outcome State Fault Refusal :=
  onAll .ret s fun slots f =>
    let r := writeEntryAt none x y ((entryAt x y).map (·.size) |>.getD 0) v slots f
    (r.2.1, emit r.2.2 (.status (BitVec.ofNat 8 r.1)))

/-- SLOT_ENTRY_WRITE (R91). -/
def execSlotEntryWrite (copy : Fin 2) (p : Fin 32) (k : Fin 256) (v : BitVec 16) (s : State) : Host.Outcome State Fault Refusal :=
  byEntry (0x4200 + 0x40 * copy.val + p.val) k v.toNat s
/-- LFSR_SEED (R48). -/
def execLfsrSeed (p : Fin 32) (v : BitVec 32) (s : State) : Host.Outcome State Fault Refusal := byEntry (0x4100 + p.val) 5 v.toNat s
/-- EPGROUP_WRITE (R118, R119). -/
def execEpgroupWrite (c : Fin 16) (g : Fin 256) (v : BitVec 288) (s : State) : Host.Outcome State Fault Refusal :=
  byEntry (0x4400 + c.val) g v.toNat s
/-- ROUTE_WRITE (R169). -/
def execRouteWrite (package : BitVec 13) (v : BitVec 64) (s : State) : Host.Outcome State Fault Refusal :=
  byEntry (0x5400 + package.toNat / 256) (package.toNat % 256) v.toNat s
/-- ALLOC_WRITE (R247). -/
def execAllocWrite (b : Fin 512) (v : BitVec 8) (s : State) : Host.Outcome State Fault Refusal :=
  byEntry (0x3100 + b.val / 256) (b.val % 256) v.toNat s
/-- RETIRED_MASK_WRITE (R250). -/
def execRetiredMaskWrite (v : BitVec 512) (s : State) : Host.Outcome State Fault Refusal := byEntry 0x3110 1 v.toNat s
/-- RETIRE_THRESHOLD_WRITE (R248). -/
def execRetireThresholdWrite (v : BitVec 8) (s : State) : Host.Outcome State Fault Refusal := byEntry 0x3110 2 v.toNat s
/-- STALL_BOUND_WRITE (R231). -/
def execStallBoundWrite (v : BitVec 16) (s : State) : Host.Outcome State Fault Refusal := byEntry 0x4010 1 v.toNat s
/-- COUNTER_CLEAR (R290): the counter at OD index.sub. -/
def execCounterClear (index : BitVec 16) (sub : BitVec 8) (s : State) : Host.Outcome State Fault Refusal :=
  if isCounter index.toNat sub.toNat then byEntry index.toNat sub.toNat 0 s else byEntry 0 0 0 s
/-- COUNTER_CLEAR_ALL (R290). -/
def execCounterClearAll (s : State) : Host.Outcome State Fault Refusal := byEntry 0x8000 1 1 s
/-- THRESHOLD_WRITE (R291): the threshold of the counter at OD index.sub. -/
def execThresholdWrite (index : BitVec 16) (sub : BitVec 8) (v : BitVec 64) (s : State) : Host.Outcome State Fault Refusal :=
  if isCounter index.toNat sub.toNat then byEntry (index.toNat + 0x800) sub.toNat v.toNat s else byEntry 0 0 0 s
/-- FAILED_STARTS_CLEAR (R303). -/
def execFailedStartsClear (s : State) : Host.Outcome State Fault Refusal := byEntry 0xB000 3 0 s
/-- FAIL_HISTORY_CLEAR (R303). -/
def execFailHistoryClear (i : Fin 8) (s : State) : Host.Outcome State Fault Refusal := byEntry 0xB001 i 0 s
/-- FAWN_THRESHOLD_WRITE (R303). -/
def execFawnThresholdWrite (v : BitVec 8) (s : State) : Host.Outcome State Fault Refusal := byEntry 0xB000 4 v.toNat s
/-- ARB_LEVEL_WRITE (R111). -/
def execArbLevelWrite (q : Fin 256) (v : BitVec 8) (s : State) : Host.Outcome State Fault Refusal :=
  byEntry (0x4300 + q.val) 1 v.toNat s

end Sys2Proof.Machine
end

