-- ==== Sys2Proof/Machine/Dictionary.lean ====
section
/-!
DEFINITION. The dictionary's two paths: BDP messages (R265 to R269, R310, R324), the dictionary window (R271, R272), the host's
accesses to bank rows (R270), and the one engine that serves them in order (R263).
-/

namespace Sys2Proof.Machine

/-- The slot tables and everything else: what an operation of the dictionary may change. -/
abbrev Whole := Tbl (BitVec 16) × Fab

/-- `ROW_DATA` (R270). -/
def isRowData (x y : Nat) : Bool := x == 0x9100 && y == 2

/-- An access to the row that a path selects waits for its burst (R263, R270). -/
def openAccess (path : Option (BitVec 8 × BitVec 128 × BitVec 4)) (data : Option (List Byte)) (f : Fab) : Fab :=
  let p : Path := path.map (·.1)
  let v := (selectors p f).2
  onBdp (useSelectors p f) fun b => { b with accesses := b.accesses ++ [⟨path, fld v 0 17, fld v 17 10, data⟩] }

/-- Checks of a WRITE of `ROW_DATA` with `n` bytes (R269, R270). -/
def rowWriteCheck (p : Path) (n : Nat) (f : Fab) : Nat :=
  let c := writeCheck 0x9100 2 f
  if c != 0 then c
  else if belowDebug f .intrusive then 8
  else if n = 0 || decide (576 - fld (selectors p f).2 17 10 < n) then 0x0A
  else 0

/-- A response to a message (R265). -/
def respond (m : BdpMsg) (status cnt handle : Nat) (payload : List Byte) (f : Fab) : Fab :=
  reply m.eid m.tag (msgHdr m) status cnt handle payload f

/-- Check 1 of a message (R269). -/
def formatBad (m : BdpMsg) : Bool :=
  let h := msgHdr m
  fld h 21 3 != 0 || fld h 112 16 != 0 || hStatus h != 0 || decide (1024 < hLength h)
    || m.words.length != (16 + hLength h + 31) / 32

/-- The path and the message's identity of a row access made for it. -/
def pathOf (m : BdpMsg) : Option (BitVec 8 × BitVec 128 × BitVec 4) := some (m.eid, (msgHdr m), m.tag)

/-- READ (R267). -/
def runRead (m : BdpMsg) (w : Whole) : Whole :=
  let x := hIndex (msgHdr m)
  let y := hSub (msgHdr m)
  let odd := hCount (msgHdr m) != 0 || !(msgPayload m).isEmpty
  if isRowData x y then
    let c := readCheck x y w.2
    if c != 0 then (w.1, respond m c 0 0 [] w.2)
    else if odd then (w.1, respond m 0x0A 0 0 [] w.2)
    else (w.1, openAccess (pathOf m) none w.2)
  else
    let r := readEntryAt (some m.eid) w.1 x y w.2
    if r.1 != 0 then (w.1, respond m r.1 0 0 [] w.2)
    else if odd then (w.1, respond m 0x0A 0 0 [] w.2)
    else (w.1, respond m 0 0 0 r.2.1 r.2.2)

/-- Elements that READ_BLOCK reads from subindex y upward (R267): at most `n`, and no more than `room` bytes. -/
def blockRead (p : Path) (slots : Tbl (BitVec 16)) (x : Nat) : Nat → Nat → Nat → Fab → List Byte × Nat × Fab
  | 0, _, _, f => ([], 0, f)
  | n + 1, y, room, f =>
    if 256 ≤ y then ([], 0, f)
    else
      let r := readEntryAt p slots x y f
      if r.1 != 0 || decide (room < r.2.1.length) then ([], 0, f)
      else
        let t := blockRead p slots x n (y + 1) (room - r.2.1.length) r.2.2
        (r.2.1 ++ t.1, t.2.1 + 1, t.2.2)

/-- The status that READ of the first subindex of a block would give. -/
def firstStatus (p : Path) (slots : Tbl (BitVec 16)) (x y : Nat) (f : Fab) : Nat :=
  if isRowData x y then readCheck x y f else (readEntryAt p slots x y f).1

/-- READ_BLOCK (R267); in RETAIN it fails with STATE (R264). -/
def runReadBlock (m : BdpMsg) (w : Whole) : Whole :=
  let x := hIndex (msgHdr m)
  let y := hSub (msgHdr m)
  let n := hCount (msgHdr m)
  let c := firstStatus (some m.eid) w.1 x y w.2
  if c != 0 then (w.1, respond m c 0 0 [] w.2)
  else if w.2.pwr.st = 2 then (w.1, respond m 6 0 0 [] w.2)
  else if n = 0 || 256 < n || !(msgPayload m).isEmpty then (w.1, respond m 0x0A 0 0 [] w.2)
  else if x = 0x9100 && (y = 2 || (y = 1 && 2 ≤ n)) then (w.1, openAccess (pathOf m) none w.2)
  else
    let r := blockRead (some m.eid) w.1 x n y 1024 w.2
    (w.1, respond m 0 r.2.1 0 r.1 r.2.2)

/-- WRITE (R267). -/
def runWrite (m : BdpMsg) (w : Whole) : Whole :=
  let x := hIndex (msgHdr m)
  let y := hSub (msgHdr m)
  let n := if hCount (msgHdr m) = 0 then (msgPayload m).length else 2048
  if isRowData x y then
    let c := rowWriteCheck (some m.eid) n w.2
    if c != 0 then (w.1, respond m c 0 0 [] w.2) else (w.1, openAccess (pathOf m) (some (msgPayload m)) w.2)
  else
    let r := writeEntryAt (some m.eid) x y n (ofBytes (msgPayload m)) w.1 w.2
    (r.2.1, respond m r.1 0 0 [] r.2.2)

/-- Argument words of each long operation (R306). -/
def wordCount (opcode : Nat) : Nat := [2, 1, 1, 1, 1, 1, 0, 1, 4, 5, 1, 1].getD (opcode - 1) 0

/-- A long operation started with its argument words (R306 to R319). -/
def startLong (opcode : Nat) (a : List Nat) (h : BitVec 16) (f : Fab) : Fab :=
  let w := fun (i : Nat) => BitVec.ofNat 32 (a.getD i 0)
  match opcode with
  | 1 => startMarch h (w 0) (w 1) f
  | 2 => holdIdle h (startScrub h (w 0) f)
  | 3 => startCommit h (w 0) f
  | 4 => startDrain h (w 0) f
  | 5 => if (w 0).toNat / 4 != 0 then completeOp h sState 0 0 0 0 f else powerSet (BitVec.ofNat 2 (w 0).toNat) h f
  | 6 => startTrain h (w 0) f
  | 7 => startSave h f
  | 8 => startZeroize h (w 0) f
  | 9 => acceptLoad h (w 0) (w 1) (w 2) (w 3) f
  | 10 => holdIdle h (startMigrate h (w 0) (w 1) (w 2) (w 3) (w 4) f)
  | 11 => startRestart h (w 0) f
  | _ => startCal h (w 0) f

/-- Checks 3 to 9 of a COMMAND with `n` words in `len` bytes (R264, R269, R306). -/
def commandCheck (x y n len : Nat) (f : Fab) : Nat :=
  match entryAt x y with
  | some s =>
    if s.acc ≠ .cmd then 4
    else if f.pwr.st = 2 && x != 0xF005 then 6
    else if n != wordCount (x - 0xF000) || len != 4 * n then 0x0A
    else 0
  | none => 4

/-- The COMMAND is one of the last 16 of its endpoint again (R268). -/
def sameCommand (m : BdpMsg) (c : CmdSeen) : Bool :=
  c.txn.toNat == hTxn (msgHdr m) && c.index.toNat == hIndex (msgHdr m) && c.count.toNat == hCount (msgHdr m) && c.payload == (msgPayload m)

/-- A COMMAND accepted, remembered for its endpoint (R268). -/
def noteCommand (m : BdpMsg) (h : BitVec 16) (f : Fab) : Fab :=
  let e : CmdSeen := ⟨BitVec.ofNat 8 (hTxn (msgHdr m)), BitVec.ofNat 16 (hIndex (msgHdr m)), BitVec.ofNat 16 (hCount (msgHdr m)), (msgPayload m), h⟩
  onBdp f fun b => { b with seen := tset [] b.seen m.eid.toNat ((e :: tget [] b.seen m.eid.toNat).take 16) }

/-- COMMAND (R267 to R269, R308, R309). -/
def runCommand (m : BdpMsg) (f : Fab) : Fab :=
  let x := hIndex (msgHdr m)
  let c := commandCheck x (hSub (msgHdr m)) (hCount (msgHdr m)) (msgPayload m).length f
  if c != 0 then respond m c 0 0 [] f
  else
    match (tget [] f.bdp.seen m.eid.toNat).find? (sameCommand m) with
    | some e => respond m 0 0 e.handle.toNat [] f
    | none =>
      let t := takeHandle (x - 0xF000) false f
      match t.1 with
      | none => respond m 0x11 0 0 [] f
      | some h =>
        respond m 0 0 h.toNat [] (startLong (x - 0xF000) (slices 32 (hCount (msgHdr m)) (ofBytes (msgPayload m))) h (noteCommand m h t.2))

/-- The newest completion record of a handle (R310). -/
def recordOf (f : Fab) (h : Nat) : Option (BitVec 256) :=
  ((List.range 64).map fun i => tget 0 f.lop.ring ((f.lop.head.toNat + 63 - i) % 64)).find? fun r => h != 0 && fld r 0 16 == h

/-- What POLL answers for a handle (R267, R310). -/
def pollBytes (f : Fab) (h : Nat) : List Byte :=
  let rec0 := fun (state status : Nat) (r : BitVec 256) => bytesOf 36 (state + 256 * status + 2 ^ 32 * r.toNat)
  match f.lop.ops.find? fun o => o.handle.toNat == h with
  | some o => match o.pending with
    | some s => rec0 1 s.toNat 0
    | none => rec0 2 0 0
  | none => match recordOf f h with
    | some r => rec0 3 (fld r 24 8) r
    | none => rec0 0 0 0

/-- POLL (R267). -/
def runPoll (m : BdpMsg) (f : Fab) : Fab :=
  if hCount (msgHdr m) != 0 || !(msgPayload m).isEmpty then respond m 0x0A 0 0 [] f
  else respond m 0 0 0 (pollBytes f (hHandle (msgHdr m))) f

/-- Subscriber slot of an endpoint, or the lowest free one (R305); endpoint 0 has none (log 45). -/
def slotFor (f : Fab) (eid : BitVec 8) : Option Nat :=
  let held := fun (e : BitVec 8) => (List.range 8).find? fun i => (tget {} f.ev.subs i).eid == e
  if eid = 0 then none else (held eid).or (held 0)

/-- SUBSCRIBE (R267, R268, R305). -/
def runSubscribe (m : BdpMsg) (f : Fab) : Fab :=
  if f.pwr.st = 2 then respond m 6 0 0 [] f
  else if 2 < hCount (msgHdr m) || (msgPayload m).length != 32 then respond m 0x0A 0 0 [] f
  else
    match slotFor f m.eid with
    | none => respond m 0x11 0 0 [] f
    | some i =>
      let s := tget {} f.ev.subs i
      let v : BitVec 256 := BitVec.ofNat 256 (ofBytes (msgPayload m))
      let mask := if hCount (msgHdr m) = 0 then v else if hCount (msgHdr m) = 1 then s.mask ||| v else s.mask &&& ~~~v
      let next : Sub := if mask = 0 then {} else { s with eid := m.eid, mask := mask }
      respond m 0 0 0 (bytesOf 32 mask.toNat) { f with ev := { f.ev with subs := tset {} f.ev.subs i next } }

/-- A message carried out (R267, R269). -/
def runMessage (m : BdpMsg) (w : Whole) : Whole :=
  if formatBad m then (w.1, respond m 2 0 0 [] w.2)
  else
    match hOp (msgHdr m) with
    | 1 => runRead m w
    | 2 => runWrite m w
    | 3 => runReadBlock m w
    | 4 => (w.1, runCommand m w.2)
    | 5 => (w.1, runPoll m w.2)
    | 6 => (w.1, runSubscribe m w.2)
    | _ => (w.1, respond m 3 0 0 [] w.2)

/-- Status of the response put out last, when it is a failure; else BUSY. -/
def failureOr (l : List Output) : Nat :=
  match l with
  | .message _ _ l :: _ => if 2 ≤ hStatus (wordsHdr l) then hStatus (wordsHdr l) else 0x11
  | _ => 0x11

/-- A message past a limit of R268: BUSY, or the failure of an earlier check (R269). -/
def refuseMessage (m : BdpMsg) (w : Whole) : Whole := 
  let t := runMessage m w
  (w.1, respond m (if t.2.bdp.accesses.isEmpty then failureOr t.2.out else 0x11) 0 0 [] w.2)

/-- `WIN_ERROR` (R271): a refused mirror access. -/
def noteRefused (status x y : Nat) (f : Fab) : Fab :=
  onBdp f fun b => { b with winError := pack 32 [(8, status), (16, x), (8, y)] }

/-- Index and subindex at a mirror address (R271). -/
def mirrorIndex (a : Nat) : Nat := a / 0x800
def mirrorSub (a : Nat) : Nat := a % 0x800 / 8

/-- Size of an entry. -/
def sizeAt (x y : Nat) : Nat := ((entryAt x y).map (·.size)).getD 0

/-- A read of the mirror (R271, R272); a refused one returns 0xFFFF_FFFF. -/
def runMirrorRead (a : Nat) (wide : Bool) (w : Whole) : Whole :=
  let f := w.2
  let x := mirrorIndex a
  let y := mirrorSub a
  let key := 256 * x + y
  let n := sizeAt x y
  let refuse := fun (c : Nat) => (w.1, emit (noteRefused c x y f) (.window 0xFFFFFFFF))
  let c := if isRowData x y then readCheck x y f else (readEntryAt none w.1 x y f).1
  if c != 0 then refuse c
  else if 8 < n then refuse 0x0A
  else
    let r := readEntryAt none w.1 x y f
    let v := ofBytes r.2.1
    let out := fun (f : Fab) (d : Nat) => (w.1, emit f (.window (BitVec.ofNat 64 d)))
    if wide then out r.2.2 v
    else if a % 8 = 0 then
      let f := if n = 8 then onBdp r.2.2 fun b => { b with latched := tset none b.latched key (some (BitVec.ofNat 32 (v / 2 ^ 32))) } else r.2.2
      out f (v % 2 ^ 32)
    else
      match tget none r.2.2.bdp.latched key with
      | some l => out (onBdp r.2.2 fun b => { b with latched := tset none b.latched key none }) l.toNat
      | none => out r.2.2 (v / 2 ^ 32)

/-- A WRITE through the mirror of `v`, of which `n` bytes are the entry's (R272); a refusal goes to `WIN_ERROR`. -/
def mirrorPut (x y n v : Nat) (w : Whole) : Whole :=
  let r := writeEntryAt none x y n v w.1 w.2
  if r.1 != 0 then (w.1, noteRefused r.1 x y w.2) else (r.2.1, r.2.2)

/-- A write to the mirror (R271, R272). -/
def runMirrorWrite (a : Nat) (wide : Bool) (data : Nat) (w : Whole) : Whole :=
  let f := w.2
  let x := mirrorIndex a
  let y := mirrorSub a
  let key := 256 * x + y
  let n := sizeAt x y
  let d := if wide then data else data % 2 ^ 32
  let fits := n ≤ 8 && d < 256 ^ n
  if isRowData x y || 8 < n then
    let c := if isRowData x y then rowWriteCheck none 0 f else (writeEntryAt none x y 2048 0 w.1 f).1
    (w.1, noteRefused c x y f)
  else if wide then mirrorPut x y (if fits then n else 2048) d w
  else if n = 8 then
    if a % 8 = 0 then
      let c := (writeEntryAt none x y 2048 0 w.1 f).1
      if c != 0x0A then (w.1, noteRefused c x y f)
      else (w.1, onBdp f fun b => { b with heldLow := tset none b.heldLow key (some (BitVec.ofNat 32 d)) })
    else
      let low := match tget none f.bdp.heldLow key with
        | some l => l.toNat
        | none => plainValue none w.1 f x y % 2 ^ 32
      mirrorPut x y 8 (low + d * 2 ^ 32) (w.1, onBdp f fun b => { b with heldLow := tset none b.heldLow key none })
  else if a % 8 = 0 then mirrorPut x y (if fits then n else 2048) d w
  else
    let c := (writeEntryAt none x y 2048 0 w.1 f).1
    if c != 0x0A || d != 0 then (w.1, noteRefused c x y f) else w

/-- The operation of `XB_CTRL` ends (R271). -/
def blockDone (status handle : Nat) (f : Fab) : Fab := onBdp f fun b => { b with xbStatus := blockStatus status handle }

/-- Bytes put at the front of `XB_DATA`. -/
def blockData (l : List Byte) (f : Fab) : Fab := onBdp f fun b => { b with xbData := putf b.xbData 0 (8 * l.length) (ofBytes l) }

/-- The first `n` bytes of `XB_DATA`. -/
def blockBytes (f : Fab) (n : Nat) : List Byte := bytesOf n f.bdp.xbData.toNat

/-- READ through the window (R271). -/
def blockReadOne (x y : Nat) (w : Whole) : Whole :=
  if isRowData x y then
    let c := readCheck x y w.2
    (w.1, if c != 0 then blockDone c 0 w.2 else openAccess none none w.2)
  else
    let r := readEntryAt none w.1 x y w.2
    (w.1, if r.1 != 0 then blockDone r.1 0 w.2 else blockDone 0 0 (blockData r.2.1 r.2.2))

/-- WRITE of `n` bytes through the window (R271). -/
def blockWrite (x y n : Nat) (w : Whole) : Whole :=
  if isRowData x y then
    let c := rowWriteCheck none n w.2
    (w.1, if c != 0 then blockDone c 0 w.2 else openAccess none (some (blockBytes w.2 n)) w.2)
  else
    let r := writeEntryAt none x y n (ofBytes (blockBytes w.2 (min n 576))) w.1 w.2
    (r.2.1, blockDone r.1 0 r.2.2)

/-- READ_BLOCK of `n` elements through the window, as many as fit in `XB_DATA` (R272; log 46). -/
def blockReadMany (x y n : Nat) (w : Whole) : Whole :=
  let c := firstStatus none w.1 x y w.2
  if c != 0 then (w.1, blockDone c 0 w.2)
  else if n = 0 || 256 < n then (w.1, blockDone 0x0A 0 w.2)
  else if isRowData x y then (w.1, openAccess none none w.2)
  else
    let r := blockRead none w.1 x (if x = 0x9100 then 1 else n) y 576 w.2
    (w.1, blockDone 0 0 (blockData r.1 r.2.2))

/-- COMMAND with `n` words through the window (R271). -/
def blockCommand (x y n : Nat) (f : Fab) : Fab :=
  let c := commandCheck x y n (4 * n) f
  if c != 0 then blockDone c 0 f
  else
    let t := takeHandle (x - 0xF000) false f
    match t.1 with
    | none => blockDone 0x11 0 f
    | some h => blockDone 0 h.toNat (startLong (x - 0xF000) (slices 32 n f.bdp.xbData.toNat) h t.2)

/-- The operation that `XB_CTRL` holds, on the entry of `XB_SELECT` (R271, R272). -/
def runBlock (w : Whole) : Whole :=
  let b := w.2.bdp
  let x := fld b.xbSelect 0 16
  let y := fld b.xbSelect 16 8
  let n := fld b.xbCtrl 16 16
  match fld b.xbCtrl 0 4 with
  | 1 => blockReadOne x y w
  | 2 => blockWrite x y n w
  | 3 => blockReadMany x y n w
  | 4 => (w.1, blockCommand x y n w.2)
  | 5 => (w.1, blockDone 0 0 (blockData (pollBytes w.2 n) w.2))
  | _ => (w.1, blockDone 3 0 w.2)

/-- The request comes from BDP. -/
def fromBdp (r : Request) : Bool :=
  match r with
  | .message _ => true
  | .refused _ => true
  | _ => false

/-- One request carried out (R263). -/
def runRequest (r : Request) (w : Whole) : Whole :=
  let w : Whole := (w.1, onBdp w.2 fun b => { b with lastWindow := !fromBdp r })
  match r with
  | .message m => runMessage m w
  | .refused m => refuseMessage m w
  | .mirrorRead a wide => runMirrorRead a.toNat wide w
  | .mirrorWrite a wide data => runMirrorWrite a.toNat wide data.toNat w
  | .block => runBlock w

/-- The request carried out next: BDP and the window alternate when both wait (R263). -/
def nextRequest (b : Bdp) : Option Request :=
  let msg := b.waiting.find? fromBdp
  let win := b.waiting.find? fun r => !fromBdp r
  if b.lastWindow then msg.or win else win.or msg

/-- Waiting requests carried out while the engine is free: one operation at a time (R263). -/
def serve : Nat → Whole → Whole
  | 0, w => w
  | n + 1, w =>
    if !w.2.bdp.accesses.isEmpty then w
    else
      match nextRequest w.2.bdp with
      | none => w
      | some r => serve n (runRequest r (w.1, onBdp w.2 fun b => { b with waiting := b.waiting.erase r }))

/-- Everything that waits served while the engine is free. -/
def serveAll (w : Whole) : Whole := serve w.2.bdp.waiting.length w

/-- A request reaches the engine (R263). -/
def arrive (r : Request) (w : Whole) : Whole := serveAll (w.1, onBdp w.2 fun b => { b with waiting := b.waiting ++ [r] })

/-- A message is discarded (R265). -/
def discards (m : BdpMsg) (f : Fab) : Bool := m.ic || m.vendor != f.prm.vendor || hSignature (msgHdr m) != 0xB0D1 || hResp (msgHdr m)

/-- Requests outstanding from BDP that satisfy `g` on their source endpoint (R268). -/
def outstandingBdp (f : Fab) (g : BitVec 8 → Bool) : Nat :=
  let waits := f.bdp.waiting.filter fun r => match r with
    | .message m => g m.eid
    | _ => false
  let runs := f.bdp.accesses.filter fun a => match a.path with
    | some p => g p.1
    | none => false
  waits.length + runs.length

/-- A message past a limit of R268. -/
def pastLimit (m : BdpMsg) (f : Fab) : Bool :=
  decide (16 ≤ outstandingBdp f fun e => e == m.eid) || decide (64 ≤ outstandingBdp f fun _ => true)

/-- A message arrives under the row of operation `op`; one whose `OP` is another operation is not this row's (R265). -/
def arriveMessage (op : Nat) (m : BdpMsg) (w : Whole) : Whole :=
  if discards m w.2 then (w.1, countInst 0x1B 1 w.2)
  else if hOp (msgHdr m) != op && decide (1 ≤ hOp (msgHdr m)) && decide (hOp (msgHdr m) ≤ 6) then w
  else arrive (if pastLimit m w.2 then .refused m else .message m) w

/-- A 32-bit word of the window above the mirror (R271). -/
def windowWord (f : Fab) (o : Nat) : Nat :=
  if o = 0 then f.bdp.xbSelect.toNat
  else if o = 4 then f.bdp.xbCtrl.toNat
  else if o = 8 then f.bdp.xbStatus.toNat
  else if o = 0xC then f.bdp.winError.toNat
  else if 0x40 ≤ o && o < 0x280 then fld f.bdp.xbData (8 * (o - 0x40)) 32
  else 0

/-- A 32-bit word written above the mirror; writing `XB_CTRL` starts an operation unless one is busy (R271, R272).  The bits that
R271 gives as zero stay zero whatever is written (R11; log 46). -/
def putWindow (o v : Nat) (w : Whole) : Whole :=
  if o = 0 then (w.1, onBdp w.2 fun b => { b with xbSelect := BitVec.ofNat 32 (v % 2 ^ 24) })
  else if o = 4 then
    if bitAt w.2.bdp.xbStatus 8 then w
    else arrive .block (w.1, onBdp w.2 fun b => { b with xbCtrl := pack 32 [(4, v), (12, 0), (16, v / 2 ^ 16)], xbStatus := putBit b.xbStatus 8 true })
  else if 0x40 ≤ o && o < 0x280 then (w.1, onBdp w.2 fun b => { b with xbData := putf b.xbData (8 * (o - 0x40)) 32 v })
  else w

/-- A window address is naturally aligned (R272). -/
def aligned (a : Nat) (wide : Bool) : Bool := a % (if wide then 8 else 4) == 0

/-- Size of the mirror (R271). -/
def mirrorBytes : Nat := 0x8000000

/-- A read of the window. -/
def windowRead (addr : BitVec 28) (wide : Bool) (w : Whole) : Whole :=
  let o := addr.toNat - mirrorBytes
  if !aligned addr.toNat wide then w
  else if addr.toNat < mirrorBytes then arrive (.mirrorRead addr wide) w
  else (w.1, emit w.2 (.window (BitVec.ofNat 64 (windowWord w.2 o + if wide then 2 ^ 32 * windowWord w.2 (o + 4) else 0))))

/-- A write of the window. -/
def windowWrite (addr : BitVec 28) (wide : Bool) (data : BitVec 64) (w : Whole) : Whole :=
  let o := addr.toNat - mirrorBytes
  if !aligned addr.toNat wide then w
  else if addr.toNat < mirrorBytes then arrive (.mirrorWrite addr wide data) w
  else
    let w := putWindow o (fld data 0 32) w
    if wide then putWindow (o + 4) (fld data 32 32) w else w

/-- Bytes of a host write over `old` (R270). -/
def hostBytes (a : RowAccess) (l : List Byte) (old : Row) : Row := putf old (8 * a.offset) (8 * l.length) (ofBytes l)

/-- The beat of a HOST_WINDOW burst for one row access (R57, R237 to R239, R253, R254, R270). -/
def hostAccess (p : Nat) (a : RowAccess) (w : BeatWait) (f : Fab) : Fab :=
  match hostGate f a with
  | .refused b => cutBurst p (endAccess a 0x10 none (reportBorrowed b rHost f))
  | .borrow b => waitBeat p 0x12 (claimBank b true f)
  | .go =>
    if regionWaits f p then regionWait p f
    else
      let begin' := fun (access : Bool) => disturb [a.ra] (beginBeat p [a.ra] (cycleWait p w access f))
      match a.data with
      | none =>
        let r := readRow p rHost a.ra (begin' (rawState f.store a.ra != 0))
        afterBeat p (endAccess a r.1.poison.toNat (some r.1.row) (noteBleat p rHost a.ra r.1.bleat r.2))
      | some l =>
        let bm := hostMask a l
        afterBeat p (endAccess a 0 none
          (writeRow p a.ra (hostBytes a l 0) (hostBytes a l blankRow) bm false (begin' (mergesAt f.store a.ra bm false))))
  | _ => waitBeat p 0x0A f

/-- A beat of a HOST_WINDOW burst on XP n, of a write or of a read (R270); what waited behind the access is then served. -/
def hostBeat (n : Nat) (write : Bool) (w : BeatWait) (x : Whole) : Whole :=
  let p := 16 + n
  match burstOf (portOf x.2 p) with
  | none => x
  | some b =>
    if b.req != rHost then x
    else
      match x.2.bdp.accesses.find? fun a => xpOf (bankOf a.ra) == p with
      | none => (x.1, cutBurst p x.2)
      | some a => if a.data.isSome == write then serveAll (x.1, hostAccess p a w x.2) else x

/-- The row access that has not been granted in time is withdrawn (R270). -/
def accessLate (w : Whole) : Whole :=
  match w.2.bdp.accesses.find? fun a => !accessGranted w.2 a with
  | some a => serveAll (w.1, endAccess a 0x11 none w.2)
  | none => w

/-- Age of the oldest record that waits for subscriber i, in events raised since; none without a record (R324). -/
def waitingAge (f : Fab) (i : Nat) : Option Nat :=
  match (tget {} f.ev.subs i).out with
  | r :: _ => some ((f.ev.seq - BitVec.ofNat 32 (fld r 32 32)).toNat)
  | [] => none

/-- The subscriber whose oldest record was raised first (R324). -/
def eventTurn (f : Fab) : Option Nat :=
  (List.range 8).foldl (fun best i =>
    match waitingAge f i, best.bind (waitingAge f) with
    | some a, some b => if b < a then some i else best
    | some _, none => some i
    | none, _ => best) none

/-- One EVENT message of up to 16 records (R267, R324), under a message tag that the surroundings' carriage chooses
(log 7). -/
def sendEvents (f : Fab) : Fab :=
  match eventTurn f with
  | none => f
  | some i =>
    let s := tget {} f.ev.subs i
    let l := ((s.out.take 16).modifyHead fun r => putBit r 9 s.lost).map (hideRecord f)
    let t := takeFree f
    let tag : BitVec 4 := BitVec.ofNat 4 (8 + fld t.1 0 3)
    let hdr := bdpHeader 7 0 0 0 0 0 (32 * l.length) l.length s.seq.toNat
    let next : Sub := { s with out := s.out.drop 16, lost := false, seq := s.seq + BitVec.ofNat 16 l.length }
    let f := t.2
    emit { f with ev := { f.ev with subs := tset {} f.ev.subs i next } } (.message s.eid tag (mgtWords hdr (l.flatMap fun r => bytesOf 32 r.toNat)))

/-- MAP_ENTRY_TOUCH read by a path, the window where the endpoint is 0 (R207): its value or its status is put out. -/
def readTouch (eid : BitVec 8) (slots : Tbl (BitVec 16)) (f : Fab) : Fab :=
  let r := readEntryAt (if eid = 0 then none else some eid) slots 0x6100 3 f
  if r.1 != 0 then emit f (.status (BitVec.ofNat 8 r.1)) else emit r.2.2 (.value (BitVec.ofNat 128 (ofBytes r.2.1)))

/-- READ (R267). -/
def execRead (m : BdpMsg) (s : State) : Host.Outcome State Fault Refusal := onAll .ret s fun slots f => arriveMessage 1 m (slots, f)
/-- WRITE (R267). -/
def execWrite (m : BdpMsg) (s : State) : Host.Outcome State Fault Refusal := onAll .ret s fun slots f => arriveMessage 2 m (slots, f)
/-- READ_BLOCK (R267). -/
def execReadBlock (m : BdpMsg) (s : State) : Host.Outcome State Fault Refusal :=
  onAll .ret s fun slots f => arriveMessage 3 m (slots, f)
/-- COMMAND (R267, R268). -/
def execCommand (m : BdpMsg) (s : State) : Host.Outcome State Fault Refusal := onAll .ret s fun slots f => arriveMessage 4 m (slots, f)
/-- POLL (R310). -/
def execPoll (m : BdpMsg) (s : State) : Host.Outcome State Fault Refusal := onAll .ret s fun slots f => arriveMessage 5 m (slots, f)
/-- SUBSCRIBE (R268, R305). -/
def execSubscribe (m : BdpMsg) (s : State) : Host.Outcome State Fault Refusal :=
  onAll .ret s fun slots f => arriveMessage 6 m (slots, f)
/-- EVENT (R324). -/
def execEvent (s : State) : Host.Outcome State Fault Refusal := onFab .ret s fun _ f => sendEvents f
/-- MIRROR_READ (R272). -/
def execMirrorRead (addr : BitVec 28) (wide : Bool) (s : State) : Host.Outcome State Fault Refusal :=
  onPin (.mirrorRead addr wide) s (onAll .main s fun slots f => windowRead addr wide (slots, f))
/-- MIRROR_WRITE (R272). -/
def execMirrorWrite (addr : BitVec 28) (wide : Bool) (data : BitVec 64) (s : State) : Host.Outcome State Fault Refusal :=
  onPin (.mirrorWrite addr wide data) s (onAll .main s fun slots f => windowWrite addr wide data (slots, f))
/-- ROW_DATA_READ (R270). -/
def execRowDataRead (n : Fin 16) (w : BeatWait) (s : State) : Host.Outcome State Fault Refusal :=
  onAll .main s fun slots f => hostBeat n false w (slots, f)
/-- ROW_DATA_WRITE (R270). -/
def execRowDataWrite (n : Fin 16) (w : BeatWait) (s : State) : Host.Outcome State Fault Refusal :=
  onAll .main s fun slots f => hostBeat n true w (slots, f)
/-- WINDOW_ACCESS_TIMEOUT (R270); the 200 µs are the surroundings' to time (log 9). -/
def execWindowAccessTimeout (s : State) : Host.Outcome State Fault Refusal :=
  onAll .ret s fun slots f => accessLate (slots, f)
/-- MAP_ENTRY_TOUCH (R207). -/
def execMapEntryTouch (eid : BitVec 8) (s : State) : Host.Outcome State Fault Refusal :=
  onFab .ret s fun slots f => readTouch eid slots f

end Sys2Proof.Machine
end

