-- ==== Sys2Proof/Machine/Isolation.lean ====
section
/-!
DEFINITION. The return of the MAIN interfaces from RETAIN (R385), with POWER_GOOD, which brings it about (R338, R387).
-/

namespace Sys2Proof.Machine

/-- A transfer whose `REQ` is found high when the interfaces return is served as a new one (R385). -/
def serveInput (w : Whole) (c : Instr) : Whole :=
  match c with
  | .descriptorIntake q d => (w.1, intake q d w.2)
  | .returnQuarterRow c quarter trow d => (w.1, returnQuarter c quarter trow.toNat d w.2)
  | .mirrorRead addr wide => windowRead addr wide w
  | .mirrorWrite addr wide data => windowWrite addr wide data w
  | c => (w.1, respondStack c w.2)

/-- The interfaces have returned, and each input `REQ` is examined (R385; log 110). -/
def serveInputs (w : Whole) : Whole := w.2.isolated.foldl serveInput (w.1, { w.2 with isolated := [] })

/-- POWER_GOOD (R338, R385, R387). -/
def execPowerGood (sec : Option SecValues) (s : State) : Host.Outcome State Fault Refusal :=
  onPower s fun slots f =>
    let w := powerGood sec slots f
    if alive .main w.2 then serveInputs w else w

end Sys2Proof.Machine
end

