-- ==== Sys2Proof/Machine/Wrapper.lean ====
section
/-!
DEFINITION. The IEEE 1500 wrapper (R390): its instructions, what admits them, and the cold start that follows a scan.
-/

namespace Sys2Proof.Machine

/-- EXTEST, INTEST_SCAN and IJTAG are admitted (R390). -/
def scanOk (f : Fab) : Bool := f.sec.st != 2 || f.sec.level == 2

/-- The wrapper is powered (R370). -/
def testOn (f : Fab) : Bool := decide (f.pwr.st.toNat ≤ 1)

/-- Function is suspended (R390). -/
def scanning (f : Fab) : Bool := f.wir == .extest || f.wir == .intestScan

/-- A wrapper instruction loaded (R390): when EXTEST or INTEST_SCAN leaves, a cold start begins. -/
def loadWir (v : Wrapper) (w : Tbl (BitVec 16) × Fab) : Tbl (BitVec 16) × Fab :=
  if !testOn w.2 || (v != .bypass && v != .identity && !scanOk w.2) then w
  else if scanning w.2 && w.2.wir != v then ([], { coldFab w.2 with wir := v })
  else (w.1, { w.2 with wir := v })

/-- The identity entries shifted out (R390): OD 0x1000.01 to .03. -/
def identityBits (f : Fab) : BitVec 168 := pack 168 [(128, idValue f 1), (32, idValue f 2), (8, idValue f 3)]

/-- BYPASS (R390). -/
def execBypass (s : State) : Host.Outcome State Fault Refusal := onAll .off s fun slots f => loadWir .bypass (slots, f)
/-- IDENTITY (R390). -/
def execIdentity (s : State) : Host.Outcome State Fault Refusal :=
  onAll .off s fun slots f =>
    let w := loadWir .identity (slots, f)
    (w.1, if testOn f then emit w.2 (.wrapper (identityBits w.2)) else w.2)
/-- `g` follows the load of a wrapper instruction, where it was admitted (R390). -/
def withWir (v : Wrapper) (g : Fab → Fab) (w : Tbl (BitVec 16) × Fab) : Tbl (BitVec 16) × Fab :=
  let r := loadWir v w
  (r.1, if testOn w.2 && scanOk w.2 then g r.2 else r.2)

/-- The boundary cells drive what is shifted in on the outputs and capture what stands on the inputs (R390). -/
def extest (f : Fab) : Fab := emit { f with cells := f.pins.drive } (.boundary f.pins.drive f.pins.inputs)

/-- As many bits of the handshake stages as are shifted in (R390); the spec does not give their contents, so they are free (log 7). -/
def scanStages (f : Fab) : Fab :=
  emit { f with free := f.free + 1 } (.scan ((List.range f.pins.scan.length).map (Config.stageBit f.free)))

/-- An access of the 1687 network (R390).  A march is started as the operation MARCH is, under a handle of its own (log 111). -/
def jtagAccess (f : Fab) : Fab :=
  match f.pins.access with
  | .none => f
  | .canary n => emit f (.jtag (BitVec.ofNat 32 (tget 0 f.th.margin n).toNat))
  | .eye lane => emit f (.jtag (BitVec.ofNat 32 (laneAt f lane).eye.toNat))
  | .param addr => emit f (.jtag (Config.paramWord addr))
  | .march w0 w1 => byCommand 1 (fun h f => startMarch h w0 w1 f) f

/-- EXTEST (R390). -/
def execExtest (s : State) : Host.Outcome State Fault Refusal :=
  onAll .off s fun slots f => withWir .extest extest (slots, f)
/-- INTEST_SCAN (R390). -/
def execIntestScan (s : State) : Host.Outcome State Fault Refusal :=
  onAll .off s fun slots f => withWir .intestScan scanStages (slots, f)
/-- IJTAG (R390). -/
def execIjtag (s : State) : Host.Outcome State Fault Refusal :=
  onAll .off s fun slots f => withWir .ijtag jtagAccess (slots, f)

end Sys2Proof.Machine
end

