-- ==== Sys2Proof/Machine/Dispatch.lean ====
section
/-!
DEFINITION. What each command does to everything but the queue of commands: one arm per row of the table of
operations and events, each a direct call of that command's meaning.
-/

namespace Sys2Proof.Machine

/-- The effect of a command on everything but the queue. -/
def exec (i : Instr) (s : State) : Host.Outcome State Fault Refusal :=
  match i with
  | .descriptorIntake q d => Sys2Proof.Machine.execDescriptorIntake q d s
  | .nop q => Sys2Proof.Machine.execNop q s
  | .deliver q => Sys2Proof.Machine.execDeliver q s
  | .collect q => Sys2Proof.Machine.execCollect q s
  | .collectAcc q => Sys2Proof.Machine.execCollectAcc q s
  | .move q => Sys2Proof.Machine.execMove q s
  | .spanMove q => Sys2Proof.Machine.execSpanMove q s
  | .stackGet q => Sys2Proof.Machine.execStackGet q s
  | .stackPut q => Sys2Proof.Machine.execStackPut q s
  | .stackCall q => Sys2Proof.Machine.execStackCall q s
  | .fill q => Sys2Proof.Machine.execFill q s
  | .clear q => Sys2Proof.Machine.execClear q s
  | .mapSet q => Sys2Proof.Machine.execMapSet q s
  | .mapDrop q => Sys2Proof.Machine.execMapDrop q s
  | .fenceWait q => Sys2Proof.Machine.execFenceWait q s
  | .fenceSignal q => Sys2Proof.Machine.execFenceSignal q s
  | .descriptorComplete q sq => Sys2Proof.Machine.execDescriptorComplete q sq s
  | .mapChangeComplete => Sys2Proof.Machine.execMapChangeComplete s
  | .abortComplete q => Sys2Proof.Machine.execAbortComplete q s
  | .stop q => Sys2Proof.Machine.execStop q s
  | .abort q => Sys2Proof.Machine.execAbort q s
  | .abortSwitch q => Sys2Proof.Machine.execAbortSwitch q s
  | .resumeReissue q => Sys2Proof.Machine.execResumeReissue q s
  | .resumeDiscard q => Sys2Proof.Machine.execResumeDiscard q s
  | .fenceLongWait q => Sys2Proof.Machine.execFenceLongWait q s
  | .roundDecision p => Sys2Proof.Machine.execRoundDecision p s
  | .windowBoundary p => Sys2Proof.Machine.execWindowBoundary p s
  | .dilutionForcedIdle p => Sys2Proof.Machine.execDilutionForcedIdle p s
  | .beat p w => Sys2Proof.Machine.execBeat p w s
  | .postedWriteRetire b => Sys2Proof.Machine.execPostedWriteRetire b s
  | .guardEnd p w => Sys2Proof.Machine.execGuardEnd p w s
  | .crossbarMove n => Sys2Proof.Machine.execCrossbarMove n s
  | .endpointDeliveryAck c e => Sys2Proof.Machine.execEndpointDeliveryAck c e s
  | .collectStart c => Sys2Proof.Machine.execCollectStart c s
  | .returnQuarterRow c quarter trow d => Sys2Proof.Machine.execReturnQuarterRow c quarter trow d s
  | .endpointUnresponsive c e => Sys2Proof.Machine.execEndpointUnresponsive c e s
  | .unresponsiveClear c k v => Sys2Proof.Machine.execUnresponsiveClear c k v s
  | .flitReceive k f => Sys2Proof.Machine.execFlitReceive k f s
  | .rowFlit n w => Sys2Proof.Machine.execRowFlit n w s
  | .streamFlit n => Sys2Proof.Machine.execStreamFlit n s
  | .controlBlockReceive k cb => Sys2Proof.Machine.execControlBlockReceive k cb s
  | .creditReq => Sys2Proof.Machine.execCreditReq s
  | .starvationHold src => Sys2Proof.Machine.execStarvationHold src s
  | .holdExpired src => Sys2Proof.Machine.execHoldExpired src s
  | .creditGrant => Sys2Proof.Machine.execCreditGrant s
  | .creditRefuse => Sys2Proof.Machine.execCreditRefuse s
  | .creditReqResend stag => Sys2Proof.Machine.execCreditReqResend stag s
  | .rowAck => Sys2Proof.Machine.execRowAck s
  | .cancel => Sys2Proof.Machine.execCancel s
  | .contextExpired ctx => Sys2Proof.Machine.execContextExpired ctx s
  | .xferFault => Sys2Proof.Machine.execXferFault s
  | .transferTimeout stag => Sys2Proof.Machine.execTransferTimeout stag s
  | .fenceSignalMessage => Sys2Proof.Machine.execFenceSignalMessage s
  | .fenceAck => Sys2Proof.Machine.execFenceAck s
  | .fenceSignalResend stag => Sys2Proof.Machine.execFenceSignalResend stag s
  | .mapInstall => Sys2Proof.Machine.execMapInstall s
  | .mapAck => Sys2Proof.Machine.execMapAck s
  | .mapInstallResend stag => Sys2Proof.Machine.execMapInstallResend stag s
  | .streamPoison => Sys2Proof.Machine.execStreamPoison s
  | .linkDown => Sys2Proof.Machine.execLinkDown s
  | .linkUp => Sys2Proof.Machine.execLinkUp s
  | .pathHoldRelease dest => Sys2Proof.Machine.execPathHoldRelease dest s
  | .linkRetrain k => Sys2Proof.Machine.execLinkRetrain k s
  | .retrainComplete k => Sys2Proof.Machine.execRetrainComplete k s
  | .retrainFailed k => Sys2Proof.Machine.execRetrainFailed k s
  | .laneFault lane cause => Sys2Proof.Machine.execLaneFault lane cause s
  | .swapReq => Sys2Proof.Machine.execSwapReq s
  | .swapAck => Sys2Proof.Machine.execSwapAck s
  | .laneRemap => Sys2Proof.Machine.execLaneRemap s
  | .swapDone => Sys2Proof.Machine.execSwapDone s
  | .laneRetrainTimeout lane => Sys2Proof.Machine.execLaneRetrainTimeout lane s
  | .linkTrain arg => Sys2Proof.Machine.execLinkTrain arg s
  | .linkTrainComplete r => Sys2Proof.Machine.execLinkTrainComplete r s
  | .trainTimeout k => Sys2Proof.Machine.execTrainTimeout k s
  | .stackRequestSend k => Sys2Proof.Machine.execStackRequestSend k s
  | .readData k h d => Sys2Proof.Machine.execReadData k h d s
  | .callData k h d => Sys2Proof.Machine.execCallData k h d s
  | .writeAck k h => Sys2Proof.Machine.execWriteAck k h s
  | .progress k h => Sys2Proof.Machine.execProgress k h s
  | .fault k h => Sys2Proof.Machine.execFault k h s
  | .cancelAck k h => Sys2Proof.Machine.execCancelAck k h s
  | .credit k h => Sys2Proof.Machine.execCredit k h s
  | .sopTimeout k tag => Sys2Proof.Machine.execSopTimeout k tag s
  | .cancelAckTimeout k tag => Sys2Proof.Machine.execCancelAckTimeout k tag s
  | .stackPortDown k cause => Sys2Proof.Machine.execStackPortDown k cause s
  | .kpReadyChange k v => Sys2Proof.Machine.execKpReadyChange k v s
  | .lostSweep k => Sys2Proof.Machine.execLostSweep k s
  | .kpEnable k v => Sys2Proof.Machine.execKpEnable k v s
  | .mapLoad w0 w1 w2 w3 => Sys2Proof.Machine.execMapLoad w0 w1 w2 w3 s
  | .mapLoadTakeEffect => Sys2Proof.Machine.execMapLoadTakeEffect s
  | .mapEntryTouch eid => Sys2Proof.Machine.execMapEntryTouch eid s
  | .migrate w0 w1 w2 w3 w4 => Sys2Proof.Machine.execMigrate w0 w1 w2 w3 w4 s
  | .march w0 w1 => Sys2Proof.Machine.execMarch w0 w1 s
  | .marchBorrow n => Sys2Proof.Machine.execMarchBorrow n s
  | .marchYield n => Sys2Proof.Machine.execMarchYield n s
  | .rowTestTimeout n => Sys2Proof.Machine.execRowTestTimeout n s
  | .marchReborrow n => Sys2Proof.Machine.execMarchReborrow n s
  | .marchComplete => Sys2Proof.Machine.execMarchComplete s
  | .scrub w => Sys2Proof.Machine.execScrub w s
  | .scrubComplete n => Sys2Proof.Machine.execScrubComplete n s
  | .slotCommit w => Sys2Proof.Machine.execSlotCommit w s
  | .drain w => Sys2Proof.Machine.execDrain w s
  | .drainComplete p => Sys2Proof.Machine.execDrainComplete p s
  | .zeroize w => Sys2Proof.Machine.execZeroize w s
  | .zeroizeDone => Sys2Proof.Machine.execZeroizeDone s
  | .save => Sys2Proof.Machine.execSave s
  | .saveStart => Sys2Proof.Machine.execSaveStart s
  | .saveComplete ok => Sys2Proof.Machine.execSaveComplete ok s
  | .saveTimeout => Sys2Proof.Machine.execSaveTimeout s
  | .restart w => Sys2Proof.Machine.execRestart w s
  | .canaryCal w => Sys2Proof.Machine.execCanaryCal w s
  | .calibrationComplete n meas => Sys2Proof.Machine.execCalibrationComplete n meas s
  | .powerSetOn => Sys2Proof.Machine.execPowerSetOn s
  | .powerSetIdle => Sys2Proof.Machine.execPowerSetIdle s
  | .powerSetRetain => Sys2Proof.Machine.execPowerSetRetain s
  | .powerSetOff => Sys2Proof.Machine.execPowerSetOff s
  | .idleReached => Sys2Proof.Machine.execIdleReached s
  | .pwrRetAck => Sys2Proof.Machine.execPwrRetAck s
  | .retainAckTimeout => Sys2Proof.Machine.execRetainAckTimeout s
  | .retainExit => Sys2Proof.Machine.execRetainExit s
  | .retainExitTimeout => Sys2Proof.Machine.execRetainExitTimeout s
  | .pwrOffAck => Sys2Proof.Machine.execPwrOffAck s
  | .offAckTimeout => Sys2Proof.Machine.execOffAckTimeout s
  | .railLoss goods => Sys2Proof.Machine.execRailLoss goods s
  | .powerGood sec => Sys2Proof.Machine.execPowerGood sec s
  | .stageQuickMarch failed => Sys2Proof.Machine.execStageQuickMarch failed s
  | .stageCanaryCal meas => Sys2Proof.Machine.execStageCanaryCal meas s
  | .stageDictionary => Sys2Proof.Machine.execStageDictionary s
  | .stageLinks r => Sys2Proof.Machine.execStageLinks r s
  | .stageMapRoute cleared => Sys2Proof.Machine.execStageMapRoute cleared s
  | .ready => Sys2Proof.Machine.execReady s
  | .stageTimeout sub => Sys2Proof.Machine.execStageTimeout sub s
  | .housekeepingRound h => Sys2Proof.Machine.execHousekeepingRound h s
  | .backstopRound h => Sys2Proof.Machine.execBackstopRound h s
  | .groupFrozen n => Sys2Proof.Machine.execGroupFrozen n s
  | .hkTimeout => Sys2Proof.Machine.execHkTimeout s
  | .tbTimeout => Sys2Proof.Machine.execTbTimeout s
  | .securityChange sec => Sys2Proof.Machine.execSecurityChange sec s
  | .secChgRelease => Sys2Proof.Machine.execSecChgRelease s
  | .securityZeroize => Sys2Proof.Machine.execSecurityZeroize s
  | .debugObserve => Sys2Proof.Machine.execDebugObserve s
  | .debugIntrusive => Sys2Proof.Machine.execDebugIntrusive s
  | .debugLower level => Sys2Proof.Machine.execDebugLower level s
  | .unlock granted echo => Sys2Proof.Machine.execUnlock granted echo s
  | .unlockTimeout => Sys2Proof.Machine.execUnlockTimeout s
  | .injectEccSingle target word bit => Sys2Proof.Machine.execInjectEccSingle target word bit s
  | .injectEccDouble target word bit => Sys2Proof.Machine.execInjectEccDouble target word bit s
  | .injectDescParity target => Sys2Proof.Machine.execInjectDescParity target s
  | .injectSlotParity target => Sys2Proof.Machine.execInjectSlotParity target s
  | .injectFlitCrc target => Sys2Proof.Machine.execInjectFlitCrc target s
  | .injectSopCrc target => Sys2Proof.Machine.execInjectSopCrc target s
  | .injectCanary target bit => Sys2Proof.Machine.execInjectCanary target bit s
  | .injectMapEcc target => Sys2Proof.Machine.execInjectMapEcc target s
  | .portHalt v => Sys2Proof.Machine.execPortHalt v s
  | .fallbackTest v => Sys2Proof.Machine.execFallbackTest v s
  | .fallbackEngage => Sys2Proof.Machine.execFallbackEngage s
  | .read m => Sys2Proof.Machine.execRead m s
  | .write m => Sys2Proof.Machine.execWrite m s
  | .readBlock m => Sys2Proof.Machine.execReadBlock m s
  | .command m => Sys2Proof.Machine.execCommand m s
  | .poll m => Sys2Proof.Machine.execPoll m s
  | .subscribe m => Sys2Proof.Machine.execSubscribe m s
  | .event => Sys2Proof.Machine.execEvent s
  | .mirrorRead addr wide => Sys2Proof.Machine.execMirrorRead addr wide s
  | .mirrorWrite addr wide data => Sys2Proof.Machine.execMirrorWrite addr wide data s
  | .rowDataRead n w => Sys2Proof.Machine.execRowDataRead n w s
  | .rowDataWrite n w => Sys2Proof.Machine.execRowDataWrite n w s
  | .windowAccessTimeout => Sys2Proof.Machine.execWindowAccessTimeout s
  | .slotEntryWrite copy p k v => Sys2Proof.Machine.execSlotEntryWrite copy p k v s
  | .lfsrSeed p v => Sys2Proof.Machine.execLfsrSeed p v s
  | .epgroupWrite c g v => Sys2Proof.Machine.execEpgroupWrite c g v s
  | .routeWrite package v => Sys2Proof.Machine.execRouteWrite package v s
  | .allocWrite b v => Sys2Proof.Machine.execAllocWrite b v s
  | .retiredMaskWrite v => Sys2Proof.Machine.execRetiredMaskWrite v s
  | .retireThresholdWrite v => Sys2Proof.Machine.execRetireThresholdWrite v s
  | .stallBoundWrite v => Sys2Proof.Machine.execStallBoundWrite v s
  | .counterClear index sub => Sys2Proof.Machine.execCounterClear index sub s
  | .counterClearAll => Sys2Proof.Machine.execCounterClearAll s
  | .thresholdWrite index sub v => Sys2Proof.Machine.execThresholdWrite index sub v s
  | .failedStartsClear => Sys2Proof.Machine.execFailedStartsClear s
  | .failHistoryClear e => Sys2Proof.Machine.execFailHistoryClear e s
  | .fawnThresholdWrite v => Sys2Proof.Machine.execFawnThresholdWrite v s
  | .bypass => Sys2Proof.Machine.execBypass s
  | .identity => Sys2Proof.Machine.execIdentity s
  | .extest => Sys2Proof.Machine.execExtest s
  | .intestScan => Sys2Proof.Machine.execIntestScan s
  | .ijtag => Sys2Proof.Machine.execIjtag s
  | .frame k picks => Sys2Proof.Machine.execFrame k picks s
  | .swapLaneLocked => Sys2Proof.Machine.execSwapLaneLocked s
  | .arbLevelWrite q v => Sys2Proof.Machine.execArbLevelWrite q v s

end Sys2Proof.Machine
end

