-- ==== Sys2Proof/Safety.lean ====
section
/-!
DEFINITION. What a safe run is, in the terms statements use: no rail outside its limits (R9, R387), the interface of a
command alive (R370), every slot entry legal (R90), and a command that gives a next state.
-/

namespace Sys2Proof.Machine

/-- No rail is outside its limits (R9): the condition under which every command but RAIL_LOSS and POWER_GOOD answers a
next state. -/
def WithinLimits (s : State) : Prop := s.fab.pwr.excursion = false

/-- No rail is outside its limits and the interface that the command uses is alive (R9, R370, R390). -/
def Runs (u : Supply) (s : State) : Prop := WithinLimits s ∧ alive u s.fab = true

/-- The command answers the state whose fabric is `f`, with the slot tables and the waiting commands as they were. -/
def Gives (i : Instr) (s : State) (f : Fab) : Prop := exec i s = .next { s with fab := f }

/-- A slot entry that the fabric accepts for port `p` (R90): an even number of ones, the reserved bit zero, a queue only
where it is owned, no burst where it is idle, and INBOUND only on an XP. -/
def slotLegal (p : Nat) (e : BitVec 16) : Bool :=
  !oddOnes 16 e.toNat && !bitAt e 14 && (fld e 8 2 == 1 || fld e 0 8 == 0) && (fld e 8 2 != 2 || fld e 10 4 == 0)
    && (fld e 8 2 != 3 || decide (16 ≤ p))

/-- Every slot entry of both copies of all 32 ports is legal, and the table that holds them is in its canonical form. -/
def SlotsLegal (s : State) : Prop :=
  tcanon slotDefault s.slots = true ∧
    ∀ c p k, c < 2 → p < 32 → k < 256 → slotLegal p (slotOf s.slots c p k) = true

/-- A fresh descriptor `d` at the head of queue `q`, which is RUNNING in a READY fabric and has a place in flight; it has
passed checks 1 to 11 or passes them now (R73, R75). -/
def HeadReady (q : Nat) (d : Desc) (f : Fab) : Prop :=
  isReady f = true ∧ (queueOf f q).qstate = 0 ∧ (queueOf f q).flights.length < 4 ∧
    (∃ w, headItem (queueOf f q) = .fresh w ∧ w.desc = d) ∧
    ((queueOf f q).head.checked = true ∨ (checks f d false = none ∧ injKind f ≠ 3))

/-- The fabric once the head's checks 1 to 11 are passed and noted. -/
def headChecked (q : Nat) (f : Fab) : Fab :=
  if (queueOf f q).head.checked then f else onQueue f q fun x => { x with head := { x.head with checked := true } }

/-- The head waits on no fence: it seeks no count, or has taken it (R74). -/
def NoFenceDue (q : Nat) (d : Desc) (f : Fab) : Prop := soughtCount d = none ∨ (queueOf f q).head.taken = true

/-- The oldest message that waits is `m`, of type `t` (R159, R160). -/
def HeadMessage (s : State) (t : Nat) (m : BitVec 512) : Prop :=
  ∃ k rest, s.fab.dom.inbox = ⟨m, k⟩ :: rest ∧ fld m 0 8 = t

/-- The fabric with its oldest message taken. -/
def messageTaken (f : Fab) : Fab := { f with dom := { f.dom with inbox := f.dom.inbox.drop 1 } }

/-- Flight `ord` of queue `q` stops with a reason, and the queue is ABORTING (R80, R81). -/
def Stopping (f : Fab) (q ord reason : Nat) : Prop :=
  (queueOf f q).qstate = 2 ∧ ∃ y, flightOf f q ord = some y ∧ y.stopping = some ⟨BitVec.ofNat 4 reason, 0, 0⟩


/-- Every row but one keeps its state, and the words that a merge or a rewrite of it takes (R53, R237). -/
def OtherRowsKept (a b : Store) (ra : Nat) : Prop :=
  ∀ r, r ≠ ra → rawState a r = rawState b r ∧ rmwWords a r = rmwWords b r

/-- `w` comes first among the requesters `l` in the rotation last granted at `last` (R97): the next higher code, or else the lowest. -/
def FirstAfter (last : Option Nat) (w : Nat) (l : List Nat) : Prop :=
  ∀ r ∈ l, r ≠ w → match last with
    | none => w < r
    | some a => (a < w → r ≤ a ∨ w < r) ∧ (w ≤ a → r ≤ a ∧ w < r)

/-- The words stored in a row's 36 places after a merge of `new` under the byte mask `bm` (R240). -/
def mergedRow (bm : Nat) (old : List Code) (new : Row) : List Code :=
  (List.range 36).map fun w => mergedWord bm w (old.getD w 0) ((wordsOf new).getD w 0)

/-- The row states' word that holds row `ra` has good parity, the row has its 36 words, and no ECC fault is armed (R242, R297). -/
def RowSound (f : Fab) (ra : Nat) : Prop :=
  oddOnes 17 (stateWord f.store ra).toNat = false ∧ (rmwWords f.store ra).length = 36 ∧ injKind f ≠ 1 ∧ injKind f ≠ 2

/-- Some word of a row has a class (R235). -/
def someWord (k : WordClass) (ws : List Code) : Bool := ws.any fun c => classOf c = k

/-- The handle that the next long operation is given (R308). -/
def newHandle (f : Fab) : BitVec 16 := nextHandle f 70 f.lop.last

/-- A long operation of an opcode has been accepted with a fresh handle and runs (R308). -/
def Accepted (s : State) (opcode : BitVec 8) (f : Fab) : Prop :=
  f.lop.last = newHandle s.fab ∧ f.lop.ops = s.fab.lop.ops ++ [⟨newHandle s.fab, opcode, none, false⟩]

/-- The fabric once a long operation of an opcode has its handle (R308). -/
def handleTaken (opcode : BitVec 8) (f : Fab) : Fab :=
  onLop f fun l => { l with last := newHandle f, ops := l.ops ++ [⟨newHandle f, opcode, none, false⟩] }

/-- The operation with a handle has ended with a status: its handle is free, and its record stands in the ring (R311). -/
def Ended (s : State) (h : BitVec 16) (status : Nat) (f : Fab) : Prop :=
  f.lop.ops = s.fab.lop.ops.filter (fun o => o.handle != h) ∧
    fld (tget 0 f.lop.ring s.fab.lop.head.toNat) 0 16 = h.toNat ∧ fld (tget 0 f.lop.ring s.fab.lop.head.toNat) 24 8 = status

/-- Long operations can be commanded: the fabric is ON with no limit reached (R264, R308, R315). -/
def Ready64 (s : State) : Prop := Runs .ret s ∧ s.fab.pwr.st = 0 ∧ s.fab.lop.ops.length < 64

/-- Opcode of a long operation's command (R309). -/
def longOpcode (c : Instr) : Option (BitVec 8) :=
  match c with
  | .march _ _ => some 1
  | .scrub _ => some 2
  | .slotCommit _ => some 3
  | .drain _ => some 4
  | .powerSetOn => some 5
  | .powerSetIdle => some 5
  | .powerSetRetain => some 5
  | .powerSetOff => some 5
  | .linkTrain _ => some 6
  | .save => some 7
  | .zeroize _ => some 8
  | .mapLoad _ _ _ _ => some 9
  | .migrate _ _ _ _ _ => some 0x0A
  | .restart _ => some 0x0B
  | .canaryCal _ => some 0x0C
  | _ => none

/-- The row of `INJECT` that an injection command writes (R297): kind, target, word and bit. -/
def injection (c : Instr) : Option (Nat × Nat × Nat × Nat) :=
  match c with
  | .injectEccSingle t w b => some (1, t.toNat, w.toNat, b.toNat)
  | .injectEccDouble t w b => some (2, t.toNat, w.toNat, b.toNat)
  | .injectDescParity t => some (3, t.toNat, 0, 0)
  | .injectSlotParity t => some (4, t.toNat, 0, 0)
  | .injectFlitCrc t => some (5, t.toNat, 0, 0)
  | .injectSopCrc t => some (6, t.toNat, 0, 0)
  | .injectCanary t b => some (7, t.toNat, 0, b.toNat)
  | .injectMapEcc t => some (8, t.toNat, 0, 0)
  | _ => none

/-- The ranges that the table of R297 gives a kind's fields: ECC kinds a code word 0 to 35 and a stored bit 0 to 136, DESC_PARITY
a queue, SLOT_PARITY a port, FLIT_CRC a link port, SOP_CRC a stack port, CANARY a group and a margin, MAP_ECC an entry. -/
def InjectRange (kind target word bit : Nat) : Prop :=
  (kind ≤ 2 → word ≤ 35 ∧ bit ≤ 136) ∧ (kind = 3 → target ≤ 255) ∧ (kind = 4 → target ≤ 31) ∧ (kind = 5 → target ≤ 4) ∧
    (kind = 6 → target ≤ 1) ∧ (kind = 7 → target ≤ 15 ∧ bit ≤ 63)

/-- The command that carries a dictionary message to the fabric, for each operation of R267. -/
def messageCommand (op : Nat) (m : BdpMsg) : Option Instr :=
  match op with
  | 1 => some (.read m)
  | 2 => some (.write m)
  | 3 => some (.readBlock m)
  | 4 => some (.command m)
  | 5 => some (.poll m)
  | 6 => some (.subscribe m)
  | _ => none

/-- The dictionary engine is free and nothing waits for it (R263). -/
def EngineFree (f : Fab) : Prop := f.bdp.waiting = [] ∧ f.bdp.accesses = []

/-- A free engine once it has taken a request, from the window or from BDP (R263). -/
def engineTook (window : Bool) (f : Fab) : Fab := onBdp f fun b => { b with waiting := [], lastWindow := window }

/-- The message is acted on: it is not discarded (R265), passes check 1 of R269, has the operation `op`, and finds the engine
free. -/
def Acted (op : Nat) (m : BdpMsg) (f : Fab) : Prop :=
  discards m f = false ∧ formatBad m = false ∧ hOp (msgHdr m) = op ∧ EngineFree f

/-- The response to message `m` with a status, a count, a handle and a payload stands before the outputs `l` (R265 to R267). -/
def Responds (m : BdpMsg) (status cnt handle : Nat) (payload : List Byte) (l : List Output) (f : Fab) : Prop :=
  f.out = .message m.eid m.tag (mgtWords (bdpHeader (hOp (msgHdr m)) 1 (hTxn (msgHdr m)) (hIndex (msgHdr m)) (hSub (msgHdr m)) status
    payload.length cnt handle) payload) :: l

/-- An entry whose READ does nothing but return it: not `ROW_DATA`, not a residency entry, not the row states, not a record that
data hiding withholds (R207, R242, R270, R365). -/
def readsPlain (x y : Nat) (f : Fab) : Bool :=
  !isRowData x y && !(x == 0x6100 && (y == 2 || y == 3)) && !(x == 0x3200 || x == 0x3201)
    && !(decide (0x4500 ≤ x) && decide (x < 0x4600) && recordHidden f (x - 0x4500) y)

/-- A wrapper instruction's command, and the instruction it loads (R390). -/
def wrapperOf (c : Instr) : Option Wrapper :=
  match c with
  | .bypass => some .bypass
  | .identity => some .identity
  | .extest => some .extest
  | .intestScan => some .intestScan
  | .ijtag => some .ijtag
  | _ => none

/-- The command may change the slot tables: a slot entry's write, the dictionary's paths and what waits behind them, and what
begins a cold start or ends in OFF. -/
def mayWriteSlots (c : Instr) : Bool :=
  match c with
  | .slotEntryWrite _ _ _ _ => true
  | .read _ => true
  | .write _ => true
  | .readBlock _ => true
  | .command _ => true
  | .poll _ => true
  | .subscribe _ => true
  | .mirrorRead _ _ => true
  | .mirrorWrite _ _ _ => true
  | .rowDataRead _ _ => true
  | .rowDataWrite _ _ => true
  | .windowAccessTimeout => true
  | .pwrOffAck => true
  | .stageTimeout _ => true
  | .powerGood _ => true
  | c => (wrapperOf c).isSome

/-- The number of ones of a nine-bit value (R234). -/
def weight9 (n : Nat) : Nat := (List.range 9).countP fun i => n.testBit i

/-- How many nine-bit values of a weight lie below `n` (R234). -/
def rankAmong (w n : Nat) : Nat := (List.range n).countP fun m => weight9 m == w

/-- XOR of the columns of the data bits of `d` that are 1 (R234). -/
def xorOfOnes (d : Nat) : Nat := ((List.range 128).filter fun i => d.testBit i).foldl (fun a i => a ^^^ columnOf i) 0

end Sys2Proof.Machine
end

