-- ==== Sys2Proof/Certificates/Slice0/Obligations.lean ====
section
/-!
DEFINITION. The statements about the model: what each command does where it completes, what it leaves alone, the rules
that hold over every state, and an invariant that every step keeps.
-/

section

open Sys2Proof Sys2Proof.Machine

/-- A step takes the command at the front of the queue and runs it with the rest of the queue; on an empty queue the block
idles (the model's choice, log 1). -/
def Obligations.StepRunsFront : Prop :=
  (∀ (c : Instr) (l : List Instr) (s : State), s.pending = c :: l → step s = exec c { s with pending := l }) ∧
  (∀ s : State, s.pending = [] → step s = .next s)

/-- R73, R75, R76, R123: a head of each opcode that moves data, of NOP and of FENCE_SIGNAL issues once it has passed checks 1
to 11, waits on no fence, its operands resolve and a SPAN_MOVE has its routes.  A fresh DELIVER, MOVE, FILL or CLEAR that
issues leaves its queue's intake and joins its flights with the queue's sequence number, the map epoch and its places, no
row of it done; `SEQ` advances by one.  The flights of a queue in a run were issued earlier, which the premise says. -/
def Obligations.HeadsIssue : Prop :=
  (∀ (q : Fin 256) (s : State) (d : Desc) (src dst : Loc) (f : Fab), Runs .main s → HeadReady q d s.fab →
      NoFenceDue q d s.fab → resolveBoth d (headChecked q s.fab) = (.inl (src, dst), f) →
        (dOp d = 0 → Gives (.nop q) s (issueHead q d src dst f)) ∧
        (dOp d = 1 → Gives (.deliver q) s (issueHead q d src dst f)) ∧
        (dOp d = 2 → Gives (.collect q) s (issueHead q d src dst f)) ∧
        (dOp d = 3 → Gives (.collectAcc q) s (issueHead q d src dst f)) ∧
        (dOp d = 4 → Gives (.move q) s (issueHead q d src dst f)) ∧
        (dOp d = 5 → routed f d dst = true → Gives (.spanMove q) s (issueHead q d src dst f)) ∧
        (dOp d = 6 → Gives (.stackGet q) s (issueHead q d src dst f)) ∧
        (dOp d = 7 → Gives (.stackPut q) s (issueHead q d src dst f)) ∧
        (dOp d = 8 → Gives (.stackCall q) s (issueHead q d src dst f)) ∧
        (dOp d = 9 → Gives (.fill q) s (issueHead q d src dst f)) ∧
        (dOp d = 10 → Gives (.clear q) s (issueHead q d src dst f)) ∧
        (dOp d = 14 → Gives (.fenceSignal q) s (issueHead q d src dst f))) ∧
  (∀ (q : Fin 256) (d : Desc) (src dst : Loc) (f : Fab) (w : Waiting) (l : List Waiting),
      (dOp d = 1 ∨ dOp d = 4 ∨ dOp d = 9 ∨ dOp d = 10) → (queueOf f q).reissue = [] → (queueOf f q).intake = w :: l →
      (∀ x ∈ (queueOf f q).flights, x.ord < f.dom.issued) →
        let y := queueOf (issueHead q d src dst f) q
        y.intake = l ∧ y.seq = (queueOf f q).seq + 1 ∧
        ∃ x : Flight, y.flights = (queueOf f q).flights ++ [x] ∧ x.desc = d ∧ x.seq = (queueOf f q).seq ∧
          x.meTag = f.map.epoch ∧ x.src = src ∧ x.dst = dst ∧ x.legs = legsOf f d src dst ∧ x.done = 0 ∧ x.stopping = none ∧
          x.since = w.since)

/-- R77 to R79, R210: a MAP_SET or MAP_DROP whose entry does not drain and whose next epoch tags nothing takes effect as it
issues: ME advances by one, the entry is written with the new ME, and the change stands until it completes.  One whose
entry drains, or whose next epoch still tags something, waits at the head of its queue; the first time it waits one
epoch wait is counted, and no later time.
R77: the oldest map change, of a MAP_SET or MAP_DROP, completes once nothing tagged before it remains: it leaves the list of
changes and its descriptor leaves its queue, and with `FSIGNAL` its fence gains one; ME and every entry stay. -/
def Obligations.MapChangesApplyOrWait : Prop :=
  (∀ (q : Fin 256) (s : State) (d : Desc), Runs .main s → HeadReady q d s.fab → NoFenceDue q d s.fab →
      kindOf (dSrc d) ≠ 3 → changeWaits (headChecked q s.fab) [oRidx (dDst d)] = false →
        ∀ (c : Instr) (e : BitVec 128), (dOp d = 11 ∧ c = .mapSet q ∧ e = mapSetBits s.fab d) ∨ (dOp d = 12 ∧ c = .mapDrop q ∧ e = 0) →
          ∃ f, Gives c s f ∧ f.map.epoch = s.fab.map.epoch + 1 ∧
            f.map.entries = tset 0 s.fab.map.entries (oRidx (dDst d))
              (encodeWord (putBit (putf e 32 16 (s.fab.map.epoch + 1).toNat) 63 false).toNat) ∧
            (∃ o, f.map.changes = s.fab.map.changes ++ [⟨.descriptor q o, [oRidx (dDst d)], s.fab.map.epoch⟩]) ∧
            f.store = s.fab.store ∧ f.fences = s.fab.fences) ∧
  (∀ (q : Fin 256) (s : State) (d : Desc), Runs .main s → HeadReady q d s.fab → NoFenceDue q d s.fab →
      changeWaits (headChecked q s.fab) [oRidx (dDst d)] = true →
        ∀ c : Instr, (dOp d = 11 ∧ c = .mapSet q) ∨ (dOp d = 12 ∧ c = .mapDrop q) →
          ∃ f, Gives c s f ∧ f.map = s.fab.map ∧ (queueOf f q).intake = (queueOf s.fab q).intake ∧
            (queueOf f q).flights = (queueOf s.fab q).flights ∧ (queueOf f q).head.waited = true ∧
            ((queueOf s.fab q).head.waited = true → counterOf f 0x8400 0x11 = counterOf s.fab 0x8400 0x11) ∧
            ((queueOf s.fab q).head.waited = false → counterOf f 0x8400 0x11 = counterOf s.fab 0x8400 0x11 + 1)) ∧
  (∀ (s : State) (c : MapChange) (q : Nat) (x : Flight), Runs .main s → oldestChangeDone s.fab = some c →
    c.by_ = .descriptor q x.ord → (queueOf s.fab q).flights = [x] → (dOp x.desc = 11 ∨ dOp x.desc = 12) →
    s.fab.map.installs = [] → s.fab.lop.migs = [] →
      ∃ f, Gives .mapChangeComplete s f ∧ f.map.changes = s.fab.map.changes.drop 1 ∧ f.map.epoch = s.fab.map.epoch ∧
        f.map.entries = s.fab.map.entries ∧ (queueOf f q).flights = [] ∧
        (dFsignal x.desc = false → f.fences = s.fab.fences) ∧
        (dFsignal x.desc = true →
          f.fences = tset 0 s.fab.fences (dFence x.desc) (BitVec.ofNat 16 (min 0xFFFF ((fenceOf s.fab (dFence x.desc)).toNat + 1)))))

/-- R61, R73, R74: a FENCE_WAIT whose counter holds its count subtracts it in one step with the test, and completes: it leaves
the queue and stands in no flight.  One whose counter holds less waits, and no counter changes.  A NOP completes when
it issues: it moves nothing, and no flight of it stands.
R226: a fence wait of a head that has stood for `FENCE_WAIT_LIMIT` consecutive rounds is counted and reported once; a limit of 0
reports none. -/
def Obligations.FenceWaitAndNop : Prop :=
  (∀ (q : Fin 256) (s : State) (d : Desc), Runs .main s → HeadReady q d s.fab → dOp d = 13 →
      (queueOf s.fab q).head.taken = false → (queueOf s.fab q).flights = [] →
        ∃ f, Gives (.fenceWait q) s f ∧
          (oCount (dSrc d) ≤ (fenceOf s.fab (dFence d)).toNat → (kindOf (dSrc d) = 6 ∧ kindOf (dDst d) = 0) →
            fenceOf f (dFence d) = fenceOf s.fab (dFence d) - BitVec.ofNat 16 (oCount (dSrc d)) ∧
            (∀ i, i ≠ dFence d → fenceOf f i = fenceOf s.fab i) ∧ (queueOf f q).flights = [] ∧
            (queueOf f q).seq = (queueOf s.fab q).seq + 1) ∧
          ((fenceOf s.fab (dFence d)).toNat < oCount (dSrc d) →
            f.fences = s.fab.fences ∧ (queueOf f q).flights = [] ∧ (queueOf f q).intake = (queueOf s.fab q).intake ∧
            (queueOf f q).head.onFence = true)) ∧
  (∀ (q : Fin 256) (s : State) (d : Desc), Runs .main s → HeadReady q d s.fab → NoFenceDue q d s.fab → dOp d = 0 →
      kindOf (dSrc d) = 0 → kindOf (dDst d) = 0 → dFsignal d = false →
      (∀ x ∈ (queueOf s.fab q).flights, x.ord < s.fab.dom.issued ∧ dOp x.desc ≠ 14) → (queueOf s.fab q).reissue = [] →
        ∃ f, Gives (.nop q) s f ∧ (queueOf f q).flights = (queueOf s.fab q).flights ∧
          (queueOf f q).seq = (queueOf s.fab q).seq + 1 ∧ f.store = s.fab.store ∧ f.fences = s.fab.fences ∧ f.map = s.fab.map ∧
          f.kports = s.fab.kports ∧ f.links = s.fab.links) ∧
  (∀ (q : Fin 256) (s : State) (w : Waiting), Runs .main s → headItem (queueOf s.fab q) = .fresh w →
    ((queueOf s.fab q).head.onFence = true → s.fab.fenceLimit ≠ 0 → s.fab.fenceLimit.toNat ≤ (queueOf s.fab q).head.rounds →
      (queueOf s.fab q).head.reported = false →
        ∃ f, Gives (.fenceLongWait q) s f ∧ (queueOf f q).head.reported = true ∧ (queueOf f q).head.onFence = true ∧
          counterOf f (0x8200 + q) 4 = counterOf s.fab (0x8200 + q) 4 + 1 ∧ f.fences = s.fab.fences ∧
          (queueOf f q).intake = (queueOf s.fab q).intake) ∧
    (((queueOf s.fab q).head.reported = true ∨ s.fab.fenceLimit = 0) → Gives (.fenceLongWait q) s s.fab))

/-- R287, R379: a descriptor handed to a queue with a free place is accepted behind the others in it; one that finds no free
place changes nothing but the queue's count of descriptor faults, and raises no event but the one that a threshold armed on that
count may ask for (R291). -/
def Obligations.IntakeTakesOrDiscards : Prop :=
  ∀ (q : Fin 256) (d : Desc) (s : State), Runs .main s →
    ((queueOf s.fab q).intake.length < 8 → ∃ f, Gives (.descriptorIntake q d) s f ∧
      (queueOf f q).intake = (queueOf s.fab q).intake ++ [⟨d, xp0Time s.fab⟩] ∧
      (queueOf f q).credits = (queueOf s.fab q).credits - 1 ∧ (∀ j, j ≠ q.val → queueOf f j = queueOf s.fab j) ∧
      f.ports = s.fab.ports ∧ f.store = s.fab.store ∧ f.fences = s.fab.fences ∧ f.ev = s.fab.ev ∧ f.cnt = s.fab.cnt) ∧
    (8 ≤ (queueOf s.fab q).intake.length → ∃ f, Gives (.descriptorIntake q d) s f ∧
      counterOf f (0x8200 + q) 2 = counterOf s.fab (0x8200 + q) 2 + 1 ∧
      (∀ x y, cKey x y ∉ [cKey (0x8200 + q) 2, cKey 0x8400 0x1C, cKey 0x8400 0x1D] → counterOf f x y = counterOf s.fab x y) ∧
      (thresholdOf s.fab (0x8200 + q) 2 = 0 → f.ev = s.fab.ev ∧ f.out = s.fab.out ∧ f.cnt.spent = s.fab.cnt.spent) ∧
      f = { s.fab with ev := f.ev, cnt := f.cnt, out := f.out, stamps := f.stamps })

/-- R288: STOP and ABORT of a queue with nothing abortable in flight, and what they leave alone in the other states. -/
def Obligations.StopAndAbortEmptyQueue : Prop :=
  ∀ (q : Fin 256) (s : State), Runs .ret s → s.fab.pwr.st ≠ 2 →
    ((queueOf s.fab q).qstate = 0 → ∃ f, Gives (.stop q) s f ∧ (queueOf f q).reason = 5 ∧
      (queueOf f q).qstate = (if (queueOf s.fab q).flights.isEmpty then 3 else 1) ∧
      (queueOf f q).flights = (queueOf s.fab q).flights ∧ (queueOf f q).intake = (queueOf s.fab q).intake) ∧
    ((queueOf s.fab q).qstate ≠ 0 → Gives (.stop q) s (emit s.fab (.status 0))) ∧
    ((queueOf s.fab q).qstate.toNat < 2 → (∀ x ∈ (queueOf s.fab q).flights, abortable s.fab x = false ∧ x.stopping = none) →
      (∃ f, Gives (.abort q) s f ∧ (queueOf f q).qstate = 3 ∧ (queueOf f q).reason = 1 ∧
        (queueOf f q).flights = (queueOf s.fab q).flights ∧ (queueOf f q).records = (queueOf s.fab q).records) ∧
      (∃ f, Gives (.abortSwitch q) s f ∧ (queueOf f q).qstate = 3 ∧ (queueOf f q).reason = 2 ∧
        (queueOf f q).flights = (queueOf s.fab q).flights ∧ (queueOf f q).records = (queueOf s.fab q).records)) ∧
    (2 ≤ (queueOf s.fab q).qstate.toNat →
      Gives (.abort q) s (emit s.fab (.status 0)) ∧ Gives (.abortSwitch q) s (emit s.fab (.status 0)))

/-- R80, R81, R288: ABORT and ABORT_SWITCH with a MOVE, FILL or CLEAR in flight, none of whose beats runs, make the queue
ABORTING with the reason written; the flight stops with that reason and keeps the rows it has done.  An abort is
complete when no tag of an aborted flight is outstanding: the queue is HALTED, the flight has left it for an abort
record with its reason, its map epoch tag and its rows done, and one abort is counted.
R82, R288: a resume from HALTED makes the queue RUNNING, with no reason; REISSUE puts its abort records before everything that
waits, those that an earlier resume has not issued again among it, and DISCARD drops the one and the other.  From any other
state both are refused with STATE and change nothing. -/
def Obligations.AbortsRun : Prop :=
  (∀ (q : Fin 256) (s : State) (x : Flight), Runs .ret s → s.fab.pwr.st ≠ 2 → (queueOf s.fab q).qstate.toNat < 2 →
      (queueOf s.fab q).flights = [x] → (dOp x.desc = 4 ∨ dOp x.desc = 9 ∨ dOp x.desc = 10) → flightDone x = false →
      x.stopping = none → x.segs = [] →
      (∀ p b, burstOf (portOf s.fab p) = some b ∨ nextBurst (portOf s.fab p) = some b → b.req ≠ q.val) →
        ∀ (c : Instr) (r : Nat), (c = .abort q ∧ r = 1) ∨ (c = .abortSwitch q ∧ r = 2) →
          ∃ f, Gives c s f ∧ (queueOf f q).qstate = 2 ∧ (queueOf f q).reason = BitVec.ofNat 8 r ∧
            (queueOf f q).flights = [{ x with stopping := some ⟨BitVec.ofNat 4 r, 0, 0⟩, held := [], fsig := none }] ∧
            f.store = s.fab.store ∧ f.fences = s.fab.fences) ∧
  (∀ (q : Fin 256) (s : State) (x : Flight) (a : Abort), Runs .main s → (queueOf s.fab q).qstate = 2 →
      (queueOf s.fab q).flights = [x] → x.stopping = some a → (queueOf s.fab q).records = [] →
      ownerBusy (.flight q x.ord) s.fab = false →
        ∃ f, Gives (.abortComplete q) s f ∧ (queueOf f q).qstate = 3 ∧ (queueOf f q).flights = [] ∧
          (queueOf f q).records = [⟨x.ord, x.desc, a.reason, x.meTag, x.done, a.addr, a.stack, x.since⟩] ∧
          counterOf f (0x8200 + q) 5 = counterOf s.fab (0x8200 + q) 5 + 1 ∧ f.fences = s.fab.fences ∧ f.store = s.fab.store) ∧
  (∀ (q : Fin 256) (s : State), Runs .ret s → s.fab.pwr.st ≠ 2 →
    ((queueOf s.fab q).qstate = 3 → (∀ x ∈ (queueOf s.fab q).flights, dOp x.desc ≠ 14) →
      (∃ f, Gives (.resumeReissue q) s f ∧ (queueOf f q).qstate = 0 ∧ (queueOf f q).reason = 0 ∧
        (queueOf f q).reissue = (queueOf s.fab q).records ++ (queueOf s.fab q).reissue ∧ (queueOf f q).records = [] ∧
        (queueOf f q).intake = (queueOf s.fab q).intake ∧ f.fences = s.fab.fences) ∧
      (∃ f, Gives (.resumeDiscard q) s f ∧ (queueOf f q).qstate = 0 ∧ (queueOf f q).reason = 0 ∧
        (queueOf f q).reissue = [] ∧ (queueOf f q).records = [] ∧
        (queueOf f q).intake = (queueOf s.fab q).intake ∧ f.fences = s.fab.fences)) ∧
    ((queueOf s.fab q).qstate ≠ 3 →
      Gives (.resumeReissue q) s (emit s.fab (.status 6)) ∧ Gives (.resumeDiscard q) s (emit s.fab (.status 6))))

/-- R73, R74: the one flight of a queue completes when it has done all its rows: it leaves the queue, and with `FSIGNAL` its
fence gains one, kept at 0xFFFF.  A local FENCE_SIGNAL completes once every earlier descriptor of its queue has completed or been
dropped, and not before: it adds its count to its fence, kept at 0xFFFF. -/
def Obligations.CompletionSignals : Prop :=
  ∀ (q : Fin 256) (sq : BitVec 6) (s : State) (x : Flight), Runs .main s → (queueOf s.fab q).flights = [x] → x.seq = sq →
    x.stopping = none →
      (flightDone x = true → dOp x.desc < 13 →
        ∃ f, Gives (.descriptorComplete q sq) s f ∧ (queueOf f q).flights = [] ∧ f.store = s.fab.store ∧ f.map = s.fab.map ∧
          (dFsignal x.desc = false → f.fences = s.fab.fences) ∧
          (dFsignal x.desc = true → f.fences =
            tset 0 s.fab.fences (dFence x.desc) (BitVec.ofNat 16 (min 0xFFFF ((fenceOf s.fab (dFence x.desc)).toNat + 1))))) ∧
      (dOp x.desc = 14 → localSignal s.fab x.desc = true → x.legs = [] →
        (earlierPending (queueOf s.fab q) x.ord = true → Gives (.descriptorComplete q sq) s s.fab) ∧
        (earlierPending (queueOf s.fab q) x.ord = false →
          ∃ f, Gives (.descriptorComplete q sq) s f ∧ (queueOf f q).flights = [] ∧ f.store = s.fab.store ∧ f.map = s.fab.map ∧
            f.fences = tset 0 s.fab.fences (dFence x.desc)
              (BitVec.ofNat 16 (min 0xFFFF ((fenceOf s.fab (dFence x.desc)).toNat + oCount (dDst x.desc))))))

/-- R18, R89, R92, R96, R103, R228, R333: the decision of a port whose first round is due, no ZEROIZE standing and no group
freeze acting.  While the throttle forces the round idle it grants nothing and takes N - 1 from the dilution count.
Else nothing is granted while the port grants none; an entry of bad parity counts a slot-parity error and grants
nothing; an IDLE entry grants nothing; an OWNED or INBOUND round goes to its owner when that is ready; a FREE round goes
first to a guarded requester. -/
def Obligations.RoundDecisions : Prop :=
  (∀ (p : Fin 32) (s : State), Runs .main s → portRuns s.fab p = true → (portOf s.fab p).cur = .idle →
      (portOf s.fab p).wrapped = false → s.fab.lop.zero = none → bitAt s.fab.th.frozen (p % 16) = false → forcedIdle s.fab p = false →
        let g := refreshReqs p (tickGuards p s.fab)
        let e := activeSlot s.slots g p (portOf s.fab p).round.toNat
        (stillPort g p = true → ∃ f, Gives (.roundDecision p) s f ∧ (portOf f p).cur = .empty ∧ f.queues = s.fab.queues) ∧
        (stillPort g p = false → fallback g = false → injKind g ≠ 4 →
          (eOdd e = true → ∃ f, Gives (.roundDecision p) s f ∧ (portOf f p).cur = .empty ∧
            counterOf f (0x8100 + p) 0x0E = counterOf s.fab (0x8100 + p) 0x0E + 1) ∧
          (eOdd e = false → eKind e = 2 → ∃ f, Gives (.roundDecision p) s f ∧ (portOf f p).cur = .empty ∧ f.cnt = s.fab.cnt) ∧
          (∀ w v, eOdd e = false → eKind e ≠ 2 → ownerOf e = some w → (readyOn g p).contains w = true →
            wantsOf (ahead p g) p w = some v → ∃ f b, Gives (.roundDecision p) s f ∧ (portOf f p).cur = .burst b ∧
              b.req = w ∧ b.grant = .owned ∧ b.moved = 0 ∧
              b.len = max 1 (min (eBurst e + 1) (min (if w < 256 then (queueOf g w).maxBurst.toNat else 16) v.2.2.2)) ∧
              counterOf f (0x8100 + p) 2 = counterOf s.fab (0x8100 + p) 2 + 1) ∧
          (∀ w v, eOdd e = false → eKind e = 0 → guardedOf g p (readyOn g p) = some w → wantsOf (ahead p g) p w = some v →
            ∃ f b, Gives (.roundDecision p) s f ∧ (portOf f p).cur = .burst b ∧ b.req = w ∧ b.grant = .guard ∧ b.moved = 0 ∧
              counterOf f (0x8100 + p) 0x0F = counterOf s.fab (0x8100 + p) 0x0F + 1))) ∧
  (∀ (p : Fin 32) (s : State), Runs .main s → portRuns s.fab p = true → (portOf s.fab p).cur = .idle →
      (portOf s.fab p).wrapped = false → s.fab.lop.zero = none → bitAt s.fab.th.frozen (p % 16) = false → forcedIdle s.fab p = true →
        ∃ f, Gives (.dilutionForcedIdle p) s f ∧ (portOf f p).cur = .empty ∧
          (portOf f p).dilution = (portOf s.fab p).dilution - (dilutionOf s.fab - 1) ∧ f.queues = s.fab.queues ∧
          f.store = s.fab.store)

/-- R95, R97 to R102: the background ranking of a FREE round that no guarded requester takes goes to the candidate of the highest level,
then of the greatest age, then first in the level's rotation (ascending codes stand ready); a requester in back-off, and a level-3
queue whose grants of the window have reached its quota, is no candidate; every other candidate has lost once more and stands back
for min(2^(L - 1), cap) rounds.  What the rules leave open of this is the model's choice (log 99).
A decision is made once, during the last beat of a burst or an empty round, and takes effect when that ends; it is not due before.
At the start of a beat that is not its burst's last, an owner of the next round that is ready, or the burst's own requester (log 99),
keeps a background burst running; else a guarded requester, or the oldest URGENT queue not in back-off nor masked, is granted the
next round, and the beat is the burst's last.  A burst that ends so moves its rows again from its first, with its age and its guard
wait as they were. -/
def Obligations.RankingAndPreemption : Prop :=
  (∀ (p : Fin 32) (s : State), Runs .main s → portRuns s.fab p = true → (portOf s.fab p).cur = .idle →
      (portOf s.fab p).wrapped = false → s.fab.lop.zero = none → bitAt s.fab.th.frozen (p % 16) = false → forcedIdle s.fab p = false →
        let g := refreshReqs p (tickGuards p s.fab)
        let x := portOf g p
        let own := fun r => tget {} x.reqs r
        let e := activeSlot s.slots g p x.round.toNat
        stillPort g p = false → fallback g = false → injKind g ≠ 4 → eOdd e = false → eKind e = 0 → guardedOf g p (readyOn g p) = none →
        (readyOn g p).Pairwise (· < ·) →
          let cands := (readyOn g p).filter fun r => decide ((own r).backUntil ≤ x.rounds)
            && !(decide (r < 256) && (queueOf g r).level == 3 && decide ((queueOf g r).quota.toNat ≤ (own r).used))
          (cands = [] → ∃ f, Gives (.roundDecision p) s f ∧ (portOf f p).cur = .empty ∧ f.queues = s.fab.queues) ∧
          (∀ w v, w ∈ cands →
            (∀ r ∈ cands, levelOf g r < levelOf g w ∨
              (levelOf g r = levelOf g w ∧ ageOf x.rounds (own r) ≤ ageOf x.rounds (own w))) →
            FirstAfter (tget none x.lastAt (levelOf g w)) w
              (cands.filter fun r => levelOf g r == levelOf g w && ageOf x.rounds (own r) == ageOf x.rounds (own w)) →
            wantsOf (ahead p g) p w = some v →
              ∃ f b, Gives (.roundDecision p) s f ∧ (portOf f p).cur = .burst b ∧ b.req = w ∧ b.grant = .background ∧ b.moved = 0 ∧
                counterOf f (0x8100 + p) 3 = counterOf s.fab (0x8100 + p) 3 + 1 ∧
                tget none (portOf f p).lastAt (levelOf g w) = some w ∧
                (w < 256 → (queueOf g w).level = 3 → (tget {} (portOf f p).reqs w).used = (own w).used + 1) ∧
                (∀ r ∈ cands, r ≠ w → r ≤ rHost → (tget {} (portOf f p).reqs r).losses = (own r).losses + 1 ∧
                  (tget {} (portOf f p).reqs r).backUntil =
                    x.rounds + min (2 ^ min (own r).losses 16) x.backoffCap.toNat + 1))) ∧
  (∀ (p : Fin 32) (s : State) (b : Burst), Runs .main s → s.fab.pwr.st = 0 → (portOf s.fab p).cur = .burst b →
      (b.moved + 1 ≠ b.len ∨ (portOf s.fab p).next.isSome = true) → Gives (.roundDecision p) s s.fab) ∧
  (∀ (p : Fin 32) (s : State) (w : Nat) (v : Nat × Nat × Nat × Nat), Runs .main s → portRuns s.fab p = true →
      (portOf s.fab p).wrapped = false → (portOf s.fab p).round ≠ 255 → s.fab.lop.zero = none →
      bitAt s.fab.th.frozen (p % 16) = false → forcedIdle s.fab p = false →
        let g := refreshReqs p (tickGuards p s.fab)
        let e := activeSlot s.slots g p ((portOf s.fab p).round.toNat + 1)
        stillPort g p = false → fallback g = false → injKind g ≠ 4 → eOdd e = false → eKind e ≠ 2 → ownerOf e = some w →
        (readyOn g p).contains w = true → wantsOf (ahead p g) p w = some v →
          (∀ b, (portOf s.fab p).cur = .burst b → (portOf s.fab p).next = none → b.moved + 1 = b.len →
            ∃ f n, Gives (.roundDecision p) s f ∧ (portOf f p).cur = .burst b ∧ (portOf f p).next = some (.burst n) ∧ n.req = w ∧
              n.grant = .owned ∧ n.moved = 0 ∧ (portOf f p).round = (portOf s.fab p).round ∧
              counterOf f (0x8100 + p) 2 = counterOf s.fab (0x8100 + p) 2 + 1) ∧
          ((portOf s.fab p).cur = .empty → ∃ f n, Gives (.roundDecision p) s f ∧ (portOf f p).cur = .burst n ∧
            (portOf f p).next = none ∧ n.req = w ∧ n.grant = .owned ∧ n.moved = 0 ∧
            (portOf f p).round = (portOf s.fab p).round + 1 ∧
            counterOf f (0x8100 + p) 8 = counterOf s.fab (0x8100 + p) 8 + 1)) ∧
  (∀ (p : Fin 32) (slots : Tbl (BitVec 16)) (f : Fab) (b : Burst), (portOf f p).cur = .burst b → b.moved + 1 ≠ b.len →
      b.lastBeat = false → b.waited = false → b.tied = false → preemptible f b = true → (portOf f p).round ≠ 255 →
      (portOf f p).wrapped = false →
        let g := refreshReqs p f
        let x := portOf g p
        let own := fun r => tget {} x.reqs r
        let e := activeSlot slots g p (x.round.toNat + 1)
        let others := (readyOn g p).filter fun r => r != b.req
        let taken := fun w how => let h := checkPreempt slots p f
          burstOf (portOf h p) = some { b with lastBeat := true } ∧
          (∃ n, nextBurst (portOf h p) = some n ∧ n.req = w ∧ n.grant = how ∧ n.moved = 0) ∧
          counterOf h (0x8100 + p) 6 = counterOf f (0x8100 + p) 6 + 1
        ((eOdd e = true ∨ eKind e = 2 ∨ stillPort g p = true ∨ ∃ o, ownerOf e = some o ∧ (o = b.req ∨ o ∈ readyOn g p)) →
          checkPreempt slots p f = g) ∧
        (fallback g = false → stillPort g p = false → forcedIdle g p = false → eOdd e = false → eKind e ≠ 2 →
          (∀ o, ownerOf e = some o → o ≠ b.req ∧ o ∉ readyOn g p) →
            (∀ w v, guardedOf g p others = some w → wantsOf (ahead p g) p w = some v → taken w .guard) ∧
            (guardedOf g p others = none → (readyOn g p).Pairwise (· < ·) →
              let urgent := fun r => r ∈ others ∧ r < 256 ∧ (queueOf g r).level = 3 ∧ (queueOf g r).urgent = true ∧
                (own r).used < (queueOf g r).quota.toNat ∧ (own r).backUntil ≤ x.rounds + 1
              ((∀ r, ¬ urgent r) → checkPreempt slots p f = g) ∧
              (∀ w v, urgent w → wantsOf (ahead p g) p w = some v →
                (∀ r, urgent r → r ≠ w → ageOf x.rounds (own r) < ageOf x.rounds (own w) ∨
                  (ageOf x.rounds (own r) = ageOf x.rounds (own w) ∧ w < r)) → taken w .preempt)))) ∧
  (∀ (p : Fin 32) (s : State) (b : Burst) (x : Flight) (l : Leg), Runs .main s → s.fab.pwr.st = 0 →
      burstOf (portOf s.fab p) = some b → b.req < 256 → b.lastBeat = true → b.moved ≠ 0 → b.leg = 0 →
      (queueOf s.fab b.req).flights = [x] → x.ord = b.ord → x.stopping = none → x.legs = [l] → l.kind = .clear →
      gateOf s.fab p b.req x 0 l l.next = .go → fallback s.fab = false → s.fab.integ.march = none →
      (∀ n, nextBurst (portOf s.fab p) = some n → n.req ≠ b.req) →
        ∃ f y l', Gives (.beat p .prompt) s f ∧ (portOf f p).cur = (portOf s.fab p).next.getD .idle ∧ (portOf f p).next = none ∧
          (portOf f p).round = (portOf s.fab p).round + 1 ∧ (queueOf f b.req).flights = [y] ∧ y.legs = [l'] ∧ l'.next = b.first ∧
          (tget {} (portOf f p).reqs b.req).since = some b.since ∧ (tget {} (portOf f p).reqs b.req).guard = b.guard ∧
          rawState f.store (writeAddr x l l.next) = 0)

/-- R93, R99: at the end of round 255 the window count advances, every requester's grants of the window return to zero,
and a pending commit swaps the copies; every other port stands as it was. -/
def Obligations.WindowBoundaries : Prop :=
  ∀ (p : Fin 32) (s : State), Runs .main s → portRuns s.fab p = true → s.fab.pwr.st = 0 → (portOf s.fab p).cur ≠ .idle →
    (portOf s.fab p).round = 255 → (portOf s.fab p).wrapped = false →
      ∃ f, Gives (.windowBoundary p) s f ∧ (portOf f p).windows = (portOf s.fab p).windows + 1 ∧
        (∀ r, (tget {} (portOf f p).reqs r).used = 0) ∧
        (portOf f p).active = xor (portOf s.fab p).active (portOf s.fab p).commit.isSome ∧ (portOf f p).commit = none ∧
        (∀ j, j ≠ p.val → portOf f j = portOf s.fab j)

/-- R15, R53, R105, R106, R112: a beat of a queue's burst whose gate is open, and which nothing preempts, moves its leg's next row
through the port; a rotate's carried row, and an UNWRITTEN row that a write meets, takes no bank cycle.  A beat of a CLEAR makes its
row UNWRITTEN, counts one beat of its port and leaves the burst one beat further; the states of rows of other state words stay.  A
beat of a FILL writes the filled row. -/
def Obligations.BeatsMoveRows : Prop :=
  (∀ (p : Fin 32) (w : BeatWait) (s : State) (b : Burst) (x : Flight) (l : Leg) (f : Fab), Runs .main s →
      checkPreempt s.slots p s.fab = s.fab → burstOf (portOf s.fab p) = some b → b.req < 256 → b.moved ≠ 0 →
      flightOf s.fab b.req b.ord = some x → x.legs[b.leg]? = some l →
      gateOf s.fab p b.req x b.leg l (legStart s.fab b.req x b.leg l) = .go →
      (regionWaits s.fab p = false ∨ accessRows x l (legStart s.fab b.req x b.leg l) = []) →
      let k := legStart s.fab b.req x b.leg l
      let rows := accessRows x l k
      let reads := readsBank l.kind || (rmwBeat s.fab b.req x b.leg l k && rawState s.fab.store (writeAddr x l k) != 0)
      f = moveRow p b.req x b.leg l k (disturb rows (beginBeat p rows (cycleWait p w reads s.fab))) →
      (∃ y, flightOf f b.req b.ord = some y ∧ y.stopping = none) →
        Gives (.beat p w) s (when (l.kind == .spanRead || l.kind == .accSend || l.kind == .accOut) (askMore b.req b.ord)
          (afterBeat p (onFlight b.req b.ord (onLeg b.leg fun l' => { l' with next := max l'.next (k + 1) }) f)))) ∧
  (∀ (p : Fin 32) (s : State) (b : Burst) (x : Flight) (l : Leg), Runs .main s → burstOf (portOf s.fab p) = some b →
      b.req < 256 → b.grant = .owned → b.lastBeat = false → b.moved + 1 < b.len → b.leg = 0 →
      (queueOf s.fab b.req).flights = [x] → x.ord = b.ord → x.stopping = none → x.legs = [l] → (l.kind = .clear ∨ l.kind = .fill) →
      gateOf s.fab p b.req x 0 l l.next = .go → fallback s.fab = false → s.fab.integ.march = none →
        ∃ f, Gives (.beat p .prompt) s f ∧
          (l.kind = .clear → rawState f.store (writeAddr x l l.next) = 0 ∧
            (∀ ra, ra / 8 ≠ writeAddr x l l.next / 8 → rawState f.store ra = rawState s.fab.store ra)) ∧
          (l.kind = .fill → f.store = (writeTile p (writeAddr x l l.next) (dDstFmt x.desc) (dBytes x.desc)
            (fillRow (dDstFmt x.desc) (dBytes x.desc) (oValue (dSrc x.desc)) (oExp (dSrc x.desc))) false s.fab).store) ∧
          counterOf f (0x8100 + p) 1 = counterOf s.fab (0x8100 + p) 1 + 1 ∧
          (∃ b', burstOf (portOf f p) = some b' ∧ b'.moved = b.moved + 1 ∧ b'.len = b.len))

/-- R35, R53, R54, R57, R237 to R241: what a read of a row hands on and leaves, and what a write of a row stores.  A read of an UNWRITTEN
row gives the blank row and is counted; else it gives the 36 corrected words, marked POISONED where the row is or a word shows it,
makes the row POISONED where a word is uncorrectable, and queues it for repair where a word is correctable.  A write of an UNWRITTEN
row writes it whole; a write of a whole row replaces it, a write of whole words replaces those, and any other merges, a word merged
over poison staying poison.  No other row changes.  A FILL, a MOVE, a COLLECT, and a STACK_GET or STACK_CALL write the bytes of their
tile, and a MOVE and a DELIVER hand on what they read. -/
def Obligations.RowsReadAndStored : Prop :=
  (∀ (p : Fin 32) (req ra : Nat) (f : Fab), ra < 131072 → RowSound f ra →
      let st := rawState f.store ra
      let ws := rmwWords f.store ra
      let r := readRow p req ra f
      (st = 0 → r.1 = ⟨blankRow, false, false⟩ ∧ r.2.store = f.store ∧
        counterOf r.2 (0x8100 + p) 0x0D = counterOf f (0x8100 + p) 0x0D + 1) ∧
      (st ≠ 0 → heldMask f.store ra p = 0 →
        r.1 = ⟨rowOfWords (ws.map deliveredData), st != 1 || someWord .uncorrectable ws || someWord .poison ws, false⟩ ∧
        rawState r.2.store ra = (if st = 1 ∧ someWord .uncorrectable ws = true then 2 else st) ∧ rmwWords r.2.store ra = ws ∧
        OtherRowsKept r.2.store f.store ra ∧
        (someWord .correctable ws = true → f.integ.repairOn = true → (tget [] f.integ.repairs (groupAt ra)).length < 16 →
          ra ∈ tget [] r.2.integ.repairs (groupAt ra))) ∧
      (st ≠ 0 → heldMask f.store ra p ≠ 0 → r.1.bleat = true)) ∧
  (∀ (p ra bm : Nat) (new fresh : Row) (poison : Bool) (f : Fab), RowSound f ra →
      bufferTakes f.store ra (mergesAt f.store ra bm poison) = true →
        let st := rawState f.store ra
        let ws := rmwWords f.store ra
        let t := (writeRow p ra new fresh bm poison f).store
        OtherRowsKept t f.store ra ∧
        (st = 0 → rawState t ra = (if poison then 2 else 1) ∧ rmwWords t ra = (if poison then poisonRow fresh else encodeRow fresh)) ∧
        (st ≠ 0 → bm = 2 ^ 576 - 1 →
          rawState t ra = (if poison then 2 else 1) ∧ rmwWords t ra = (if poison then poisonRow new else encodeRow new)) ∧
        (st = 1 → bm ≠ 2 ^ 576 - 1 → mergesAt f.store ra bm poison = false → rawState t ra = 1 ∧
          ∀ w, w < 36 → (rmwWords t ra)[w]? = (if coverOf bm w = 0xFFFF then (encodeRow new)[w]? else ws[w]?)) ∧
        ((st = 1 ∨ st = 2) → mergesAt f.store ra bm poison = true →
          (poison = false → rmwWords t ra = mergedRow bm ws new ∧
            rawState t ra = (if someWord .poison (mergedRow bm ws new) then 2 else 1)) ∧
          (poison = true → rmwWords t ra = (mergedRow bm ws new).map (fun c => poisonWord (dataOf c)) ∧ rawState t ra = 2))) ∧
  (∀ (p q i k : Nat) (x : Flight) (l : Leg) (f : Fab),
      let g := dDstFmt x.desc
      let rb := dBytes x.desc
      let ra := writeAddr x l k
      let t := moveRow p q x i l k f
      let src := readRow p q (readAddr x l k) f
      (l.kind = .fill → t.store = (writeTile p ra g rb (fillRow g rb (oValue (dSrc x.desc)) (oExp (dSrc x.desc))) false f).store) ∧
      (∀ h, l.kind = .moveWrite → (x.held.find? fun h => h.leg == i && h.idx == k) = some h →
        t.store = (writeTile p ra g rb (copyRow g rb h.row (contribOf h.row) (epochOf h.row)) h.poison f).store) ∧
      (∀ r, l.kind = .stackWrite → ((rxRows f (.flight q x.ord)).find? fun r => r.idx == k) = some r →
        let row := ofStack (packOf x.src) (dSrcFmt x.desc) rb r.data
        t.store = (writeTile p ra g rb (if dOp x.desc = 6 then copyRow g rb row (contribOf row) (epochOf row)
          else copyRow g rb row 0 0) r.poison f).store) ∧
      (∀ a, l.kind = .collect → returnRow f x k = some a →
        let r := formReturn p x.desc a f
        (dOp x.desc = 2 → t.store = (writeTile p ra g rb (putTogether g r.1 0 0) false r.2).store) ∧
        (dOp x.desc = 3 → t.store =
          (accumulate p q ra ⟨r.1, dCtag x.desc, dEpoch x.desc, g, dRound x.desc, dOvf x.desc == 1, rb⟩ r.2).2.store)) ∧
      (∀ l', l.kind = .moveRead → x.legs[i + 1]? = some l' → l'.kind = .moveWrite → l'.next ≤ k → flightOf f q x.ord = some x →
        ∃ y, flightOf t q x.ord = some y ∧ y.held = (x.held.filter fun h => !(h.leg == i + 1 && h.idx == k)) ++
          [⟨i + 1, k, src.1.row, src.1.poison, src.1.bleat⟩]) ∧
      (l.kind = .deliver → p < 16 → dRotate x.desc = 0 → ∃ z ∈ (portOf t p).pipe, z.ord = x.ord ∧ z.mcast = dMcast x.desc ∧
        z.sb = sideband q k x src.1.bleat src.1.poison ∧
        z.row = (condition (dSrcFmt x.desc) g rb 0 (dTranspose x.desc) (dRound x.desc) src.1.row src.1.row (portOf f p).lfsr).1))

/-- R138 to R142: a contribution to a row that is POISONED, or whose read shows an uncorrectable or a poison word, is not added and
is counted; one whose tag the row's epoch has already recorded leaves the row as it is and is counted; any other is added, with its tag recorded and the first
touch of an epoch counted.  Two groups add under R140: a VOID one gives the other, and else the sums at the greater exponent stand
where they fit, are clamped under SATURATE or at exponent 127, and under HEADROOM go one exponent up, where they fit. -/
def Obligations.RowsAccumulate : Prop :=
  (∀ (p : Fin 32) (req ra : Nat) (c : Contribution) (f : Fab), ra < 131072 → RowSound f ra → bufferTakes f.store ra true = true →
      let st := rawState f.store ra
      let ws := rmwWords f.store ra
      let old := if st = 0 then blankRow else rowOfWords (ws.map deliveredData)
      let lost := 2 ≤ st ∨ (st = 1 ∧ (someWord .uncorrectable ws || someWord .poison ws) = true)
      let set := if st = 0 ∨ epochOf old ≠ c.epoch then 0 else contribOf old
      let r := accumulate p req ra c f
      let counted := fun sub n => counterOf r.2 (0x8100 + p) sub = counterOf f (0x8100 + p) sub + BitVec.ofNat 64 n
      OtherRowsKept r.2.store f.store ra ∧
      (lost → r.1 = .poisoned ∧ rmwWords r.2.store ra = ws ∧
        rawState r.2.store ra = (if st = 1 ∧ someWord .uncorrectable ws = true then 2 else st) ∧ counted 0x1A 1 ∧ counted 0x14 0) ∧
      (¬ lost → counted 0x16 (if st = 1 ∧ epochOf old ≠ c.epoch then 1 else 0) ∧
        (set.testBit c.tag = true → r.1 = .repeated ∧ r.2.store = f.store ∧ counted 0x15 1 ∧ counted 0x14 0) ∧
        (set.testBit c.tag = false →
          let a := accRow c.fmt (c.bytes / groupBytes c.fmt) c.round c.headroom (takeApart c.fmt old) c.parts (portOf f p).lfsr
          r.1 = .added ∧ rawState r.2.store ra = 1 ∧ (portOf r.2 p).lfsr = a.lfsr ∧
          rmwWords r.2.store ra = encodeRow (putTogether c.fmt a.parts (set ||| 2 ^ c.tag) c.epoch) ∧
          counted 0x14 1 ∧ counted 0x17 a.headroom ∧ counted 0x18 a.saturated ∧ counted 0x19 a.expSat))) ∧
  (∀ (oe ne mode : Nat) (old new : List Int) (hr : Bool) (l : BitVec 32), mode < 3 → oe < 256 → ne < 256 →
      old.length = new.length → (∀ x ∈ old ++ new, fits 32 x = true) →
        let r := accGroup oe old ne new mode hr l
        let e := max (signed 8 oe) (signed 8 ne)
        let a := roundAll mode (old.map fun x => (x, (e - signed 8 oe).toNat)) l
        let b := roundAll mode (new.map fun x => (x, (e - signed 8 ne).toNat)) a.2
        let t := List.zipWith (· + ·) a.1 b.1
        (ne = voidExp → r = ⟨oe, old, false, 0, false, l⟩) ∧
        (ne ≠ voidExp → oe = voidExp → r = ⟨ne, new, false, 0, false, l⟩) ∧
        (ne ≠ voidExp → oe ≠ voidExp →
          (∀ y ∈ r.elems, fits 32 y = true) ∧
          ((∀ y ∈ t, fits 32 y = true) → signed 8 r.exp = e ∧ r.elems = t ∧ r.headroom = false ∧ r.saturated = 0) ∧
          ((∃ y ∈ t, fits 32 y = false) →
            (hr = false → signed 8 r.exp = e ∧ r.elems = t.map (clampTo 32) ∧ 0 < r.saturated ∧ r.expSat = false) ∧
            (hr = true → e = 127 → r.exp = 127 ∧ r.elems = t.map (clampTo 32) ∧ r.expSat = true) ∧
            (hr = true → e ≠ 127 → signed 8 r.exp = e + 1 ∧ r.headroom = true ∧ r.saturated = 0 ∧
              r.elems = (roundAll mode (t.map fun x => (x, 1)) b.2).1))))

/-- R107, R229: a posted write buffer writes the words it holds into its row of the array and is empty; every other row, every
row state and every other buffer stays as it was.  A beat that has waited `STALL_BOUND` beat times in a burst that may
not be preempted is counted and reported once; the burst goes on. -/
def Obligations.PostedWritesAndGuardEnds : Prop :=
  (∀ (b : Fin 512) (s : State) (w : Pwb), Runs .main s → s.fab.lop.zero = none → tget none s.fab.store.pwb b = some w →
      ∃ f, Gives (.postedWriteRetire b) s f ∧
        arrayWords f.store (256 * b + w.row) = overlay (arrayWords s.fab.store (256 * b + w.row)) w.words w.mask ∧
        tget none f.store.pwb b = none ∧
        (∀ ra, ra ≠ 256 * b.val + w.row → arrayWords f.store ra = arrayWords s.fab.store ra) ∧
        (∀ j, j ≠ b.val → tget none f.store.pwb j = tget none s.fab.store.pwb j) ∧ f.store.rstate = s.fab.store.rstate ∧
        f.ports = s.fab.ports) ∧
  (∀ (p : Fin 32) (w : GuardWait) (s : State) (b : Burst), Runs .main s → burstOf (portOf s.fab p) = some b →
      preemptible s.fab b = false →
        (b.ended = false → ∃ f, Gives (.guardEnd p w) s f ∧ burstOf (portOf f p) = some { b with ended := true } ∧
          counterOf f (0x8100 + p) 0x10 = counterOf s.fab (0x8100 + p) 0x10 + 1 ∧ f.store = s.fab.store ∧
          f.queues = s.fab.queues) ∧
        (b.ended = true → Gives (.guardEnd p w) s s.fab))

/-- R113, R114, R124: a row that the crossbar moves leaves its OP's pipeline and enters every selected cluster: its bus where
that is free, else the cluster's delivery buffer; the other clusters keep what they hold.  A row that cannot cross stays.
R119, R121, R124, R378: an endpoint that latches the row on its cluster's bus is waited for no longer; with the last of them the
row leaves the bus and the next row of the delivery buffer takes it, shown whole and in its four quarter-rows, with the slots
whose request rises and the quarter that each latches. -/
def Obligations.CrossbarMovesAndLatches : Prop :=
  (∀ (n : Fin 16) (s : State) (r : PipeRow) (t : List PipeRow), Runs .main s → (portOf s.fab n).pipe = r :: t →
      (canCross s.fab n = false → Gives (.crossbarMove n) s s.fab) ∧
      (canCross s.fab n = true → ∃ f, Gives (.crossbarMove n) s f ∧ (portOf f n).pipe.length = t.length ∧
        (∀ c : Fin 16, bitAt r.mcast c = false → clusterOf f c = clusterOf s.fab c) ∧
        (∀ c : Fin 16, bitAt r.mcast c = true → (clusterOf s.fab c).bus.isSome = true →
          clusterOf f c = { clusterOf s.fab c with dbuf := (clusterOf s.fab c).dbuf ++ [r] }) ∧
        (∀ c : Fin 16, bitAt r.mcast c = true → (clusterOf s.fab c).bus = none → (clusterOf s.fab c).dbuf = [] →
          waitMask s.fab c r ≠ 0 → clusterOf f c = { clusterOf s.fab c with bus := some ⟨r, waitMask s.fab c r, 0⟩ }) ∧
        f.store = s.fab.store ∧ f.fences = s.fab.fences)) ∧
  (∀ (c : Fin 16) (e : Fin 256) (s : State) (b : BusRow), Runs .main s → (clusterOf s.fab c).bus = some b →
      (bitAt b.wait e = false → Gives (.endpointDeliveryAck c e) s s.fab) ∧
      (bitAt b.wait e = true → putBit b.wait e false ≠ 0 → ∃ f, Gives (.endpointDeliveryAck c e) s f ∧
        clusterOf f c = { clusterOf s.fab c with bus := some { b with wait := putBit b.wait e false } } ∧ f.out = s.fab.out) ∧
      (bitAt b.wait e = true → putBit b.wait e false = 0 → (clusterOf s.fab c).dbuf = [] →
        ∃ f, Gives (.endpointDeliveryAck c e) s f ∧ clusterOf f c = { clusterOf s.fab c with bus := none } ∧ f.out = s.fab.out) ∧
      (∀ r t, bitAt b.wait e = true → putBit b.wait e false = 0 → (clusterOf s.fab c).dbuf = r :: t → waitMask s.fab c r ≠ 0 →
        ∃ f, Gives (.endpointDeliveryAck c e) s f ∧
          clusterOf f c = { clusterOf s.fab c with bus := some ⟨r, waitMask s.fab c r, 0⟩, dbuf := t } ∧
          f.out = busOutput s.fab c r (waitMask s.fab c r) :: s.fab.out))

/-- R133 to R137: a cluster with no collect running starts its next one with the suppliers of its quarters; a quarter-row in
order is held until its row is complete, one out of order, or awaited from no one, is counted and reported and nothing is kept
of it, and one that finds no room is withheld.  The flight then asks for the credit it may ask for (R163). -/
def Obligations.CollectsRunInOrder : Prop :=
  ∀ (c : Fin 16) (s : State), Runs .main s →
    (∀ q ord t x, (clusterOf s.fab c).running = none → (clusterOf s.fab c).collects = (q, ord) :: t →
      flightOf s.fab q ord = some x → ∃ f o, Gives (.collectStart c) s (askMore q ord f) ∧ (clusterOf f c).collects = t ∧
        (clusterOf f c).running = some o ∧ o.q = q ∧ o.ord = ord ∧ o.rows = dRows x.desc ∧
        o.sup = suppliersOf s.fab c (groupAtIssue x c) x.desc ∧ o.need = o.sup.length ∧ f.store = s.fab.store) ∧
    (∀ (k : Fin 4) (trow : BitVec 8) (d : BitVec 1152) (o : OpenCollect) (e : Nat), (clusterOf s.fab c).running = some o →
      o.sup.getD k none = some e → responsive s.fab c e = true →
      (trow.toNat = o.expect.getD k 0 → roomFor s.fab c o trow.toNat = true →
        (∃ k', k' < o.need ∧ k' ≠ k.val ∧ gotAt o k' o.next = none ∧ gapAt s.fab c o k' = false) →
          ∃ f, Gives (.returnQuarterRow c k trow d) s (askMore o.q o.ord f) ∧ (clusterOf f c).ret = (clusterOf s.fab c).ret ∧
            ∃ o', (clusterOf f c).running = some o' ∧ o'.got = o.got ++ [(k.val, trow.toNat, d)] ∧ o'.next = o.next ∧
              o'.expect = o.expect.set k (trow.toNat + 1)) ∧
      (trow.toNat = o.expect.getD k 0 → roomFor s.fab c o trow.toNat = true → o.need = 1 → k = 0 → o.got = [] →
        o.next = trow.toNat → o.next < o.rows → returnHeld s.fab c < 32 →
          ∃ f, Gives (.returnQuarterRow c k trow d) s (askMore o.q o.ord f) ∧
            (clusterOf f c).ret = (clusterOf s.fab c).ret ++ [⟨o.ord, trow.toNat, some d, none, none, none⟩] ∧
            ∃ o', (clusterOf f c).running = some o' ∧ o'.next = o.next + 1 ∧ o'.got = []) ∧
      (trow.toNat ≠ o.expect.getD k 0 → ∃ f, Gives (.returnQuarterRow c k trow d) s f ∧ f.clusters = s.fab.clusters ∧
        counterOf f (0x8140 + c) 3 = counterOf s.fab (0x8140 + c) 3 + 1) ∧
      (trow.toNat = o.expect.getD k 0 → roomFor s.fab c o trow.toNat = false →
        Gives (.returnQuarterRow c k trow d) s s.fab)) ∧
    (∀ (k : Fin 4) (trow : BitVec 8) (d : BitVec 1152), ((clusterOf s.fab c).running = none ∨
      ∃ o, (clusterOf s.fab c).running = some o ∧ o.sup.getD k none = none) →
        ∃ f, Gives (.returnQuarterRow c k trow d) s f ∧ f.clusters = s.fab.clusters ∧
          counterOf f (0x8140 + c) 3 = counterOf s.fab (0x8140 + c) 3 + 1)

/-- R125, R147, R394: an endpoint that has not latched a row across two housekeeping rounds, or not returned a quarter-row
across two, is marked unresponsive and counted; one that is neither late nor already marked is left alone; and a write
of `UNRESPONSIVE_k` clears each mark of its 64 that is written 1. -/
def Obligations.UnresponsiveMarks : Prop :=
  ∀ (c : Fin 16) (s : State),
    (∀ (e : Fin 256) (b : BusRow), Runs .main s → responsive s.fab c e = true → (clusterOf s.fab c).bus = some b →
      (bitAt b.wait e = true ∧ 2 ≤ b.rounds) → (clusterOf s.fab c).running = none →
        ∃ f, Gives (.endpointUnresponsive c e) s f ∧ (clusterOf f c).unresp = putBit (clusterOf s.fab c).unresp e true ∧
          counterOf f (0x8140 + c) 4 = counterOf s.fab (0x8140 + c) 4 + 1 ∧
          (putBit b.wait e false ≠ 0 → (clusterOf f c).bus = some { b with wait := putBit b.wait e false })) ∧
    (∀ (e : Fin 256) (o : OpenCollect), Runs .main s → responsive s.fab c e = true → (clusterOf s.fab c).bus = none →
      lateQuarter s.fab c e = some o →
        ∃ f, Gives (.endpointUnresponsive c e) s (askMore o.q o.ord f) ∧
          (clusterOf f c).unresp = putBit (clusterOf s.fab c).unresp e true ∧
          counterOf f (0x8140 + c) 4 = counterOf s.fab (0x8140 + c) 4 + 1 ∧
          (∀ e', e' ≠ e.val → responsive f c e' = responsive s.fab c e')) ∧
    (∀ e : Fin 256, Runs .main s → (responsive s.fab c e = false ∨
      (lateQuarter s.fab c e = none ∧ ∀ b, (clusterOf s.fab c).bus = some b → b.rounds < 2)) →
        Gives (.endpointUnresponsive c e) s s.fab) ∧
    (∀ (k : Fin 4) (v : BitVec 64), Runs .ret s → s.fab.pwr.st ≠ 2 → ∃ f, Gives (.unresponsiveClear c k v) s f ∧
      (∀ e, e < 256 → bitAt (clusterOf f c).unresp e =
        (bitAt (clusterOf s.fab c).unresp e && !(decide (64 * k.val ≤ e) && bitAt v (e - 64 * k)))) ∧
      (∀ j, j ≠ c.val → clusterOf f j = clusterOf s.fab j))

/-- R154, R155, R158, R159, R170: what a link port does with a received flit: nothing unless it is UP; a flit whose CRC fails, or
whose header names nothing valid, is counted and asked for again; a NULL flit is dropped; one out of sequence is asked
for again; and one in sequence advances the expected number by one and is sunk, forwarded with one more hop, or, past its
last hop or without a route, discarded and counted. -/
def Obligations.FlitsInSequence : Prop :=
  ∀ (k : Fin 5) (w : BitVec 4704) (pool : Bool) (s : State), Runs .main s →
    let b : BitVec 4672 := BitVec.ofNat 4672 (fld w 0 4672)
    let l := linkOf s.fab k
    let sound := (crc32c (bytesOf 584 b.toNat)).toNat == fld w 4672 32
    let asked := fun sub => ∃ f, Gives (.flitReceive k ⟨w, pool⟩) s f ∧ linkOf f k = { l with nak := true } ∧ f.dom = s.fab.dom ∧
      counterOf f (0x8300 + k) sub = counterOf s.fab (0x8300 + k) sub + 1
    (linkUp s.fab k = false → Gives (.flitReceive k ⟨w, pool⟩) s s.fab) ∧
    (linkUp s.fab k = true →
      (sound = false → asked 3) ∧
      (sound = true → headOk b = false → asked 4) ∧
      (sound = true → headOk b = true → fType b = 0 → Gives (.flitReceive k ⟨w, pool⟩) s s.fab) ∧
      (sound = true → headOk b = true → fType b ≠ 0 → fLseq b ≠ l.expect.toNat →
        Gives (.flitReceive k ⟨w, pool⟩) s (onLink s.fab k fun l => { l with nak := true })) ∧
      (sound = true → headOk b = true → fType b ≠ 0 → fLseq b = l.expect.toNat → ∃ f, Gives (.flitReceive k ⟨w, pool⟩) s f ∧
        (linkOf f k).expect = l.expect + 1 ∧ (linkOf f k).ackSeq = l.expect ∧
        counterOf f (0x8300 + k) 2 = counterOf s.fab (0x8300 + k) 2 + 1 ∧
        (fDest b = (instanceId s.fab).toNat → fType b = 3 → fCount b = 1 → msgOk (BitVec.ofNat 512 (fld b 64 512)) (fVc b) = true →
          f.dom.inbox = s.fab.dom.inbox ++ [⟨BitVec.ofNat 512 (fld b 64 512), k⟩]) ∧
        (∀ c, fDest b = (instanceId s.fab).toNat → fType b ≠ 3 → ctxOf s.fab (fCtx b) = some c → c.arrived < c.granted →
          (cMode c.req = 2 ↔ fType b = 2) → f.dom.inbound = s.fab.dom.inbound ++ [⟨b, k, false, false⟩]) ∧
        (fDest b ≠ (instanceId s.fab).toNat → fHops b = 15 →
          f.dom = s.fab.dom ∧ counterOf f 0x8400 1 = counterOf s.fab 0x8400 1 + 1) ∧
        (∀ j, fDest b ≠ (instanceId s.fab).toNat → fHops b ≠ 15 → (routeTo s.fab (fDest b)).1 = some j →
          ∃ t, t.bits = putf b 6 4 (fHops b + 1) ∧
            tget [] (linkOf f j).txq (fVc t.bits) = tget [] (linkOf s.fab j).txq (fVc t.bits) ++ [t]) ∧
        (fDest b ≠ (instanceId s.fab).toNat → fHops b ≠ 15 → (routeTo s.fab (fDest b)).1 = none →
          f.dom = s.fab.dom ∧ counterOf f 0x8400 2 = counterOf s.fab 0x8400 2 + 1)))

/-- R155, R156, R189: a control block of a port that is not UP changes nothing, and one whose CRC or mark is wrong no link; a sound
one on a span link removes the flits it acknowledges, returns the credit its running counts show, and with `NAK` starts the
replay of everything not acknowledged.  With each frame of IL0 the symbols that its codewords corrected and the codewords
that failed are counted. -/
def Obligations.ControlBlocksTaken : Prop :=
  ∀ (k : Fin 5) (cb : BitVec 2976) (fec : List (Option (Fin 16))) (s : State), Runs .main s →
    let n := if k.val = 4 then 368 else 92
    let sound := (crc32c (bytesOf n cb.toNat)).toNat == fld cb (8 * n) 32 && fld cb 0 32 == 0xC35AA53C
    let l := linkOf s.fab k
    (linkUp s.fab k = false → Gives (.controlBlockReceive k ⟨cb, fec⟩) s s.fab) ∧
    (linkUp s.fab k = true → sound = false → ∃ f, Gives (.controlBlockReceive k ⟨cb, fec⟩) s f ∧ f.links = s.fab.links ∧ f.dom = s.fab.dom ∧
      (k.val < 4 → f = s.fab) ∧
      (k.val = 4 → counterOf f 0x8304 8 = counterOf s.fab 0x8304 8 + BitVec.ofNat 64 (fec.filter (·.isNone)).length ∧
        counterOf f 0x8304 7 = counterOf s.fab 0x8304 7 + BitVec.ofNat 64 ((fec.filterMap id).map (·.val)).sum)) ∧
    (linkUp s.fab k = true → sound = true → k.val < 4 → ∃ f, Gives (.controlBlockReceive k ⟨cb, fec⟩) s f ∧
      (linkOf f k).retry = (ackFlits (fld cb 40 10) l).retry ∧
      (bitAt cb 50 = false → (linkOf f k).replay = (ackFlits (fld cb 40 10) l).replay) ∧
      (bitAt cb 50 = true → (linkOf f k).replay = (linkOf f k).retry.length ∧
        counterOf f (0x8300 + k) 5 = counterOf s.fab (0x8300 + k) 5 + 1) ∧
      (∀ key, key < 51 → tget 0 (linkOf f k).seen key = creditIn cb key ∧ tget 0 (linkOf f k).taken key =
        tget 0 l.taken key - (creditIn cb key + 2 ^ creditWidth key - tget 0 l.seen key) % 2 ^ creditWidth key) ∧
      (∀ j, j ≠ k.val → linkOf f j = linkOf s.fab j) ∧ f.dom = s.fab.dom) ∧
    (linkUp s.fab k = true → sound = true → k.val = 4 → fld cb 1312 8 ≤ 3 → ∃ f, Gives (.controlBlockReceive k ⟨cb, fec⟩) s f ∧
      (linkOf f k).retry = (ackFlits (fld cb 40 10) l).retry ∧
      (fld cb 1312 8 ≠ 0 → (linkOf f k).heard = BitVec.ofNat 32 (fld cb 1312 32)) ∧
      (fld cb 1312 8 = 0 → (linkOf f k).heard = l.heard) ∧
      counterOf f 0x8304 8 = counterOf s.fab 0x8304 8 + BitVec.ofNat 64 (fec.filter (·.isNone)).length ∧
      counterOf f 0x8304 7 = counterOf s.fab 0x8304 7 + BitVec.ofNat 64 ((fec.filterMap id).map (·.val)).sum)

/-- R150, R151, R155 to R158: a frame of an UP port carries 64 flits and one control block, and clears what that block told; on IL0
the codewords it completes follow.  A port whose swap holds it back, or with nothing to send or no credit for it, sends NULL
flits alone; one with flits to replay sends them first; and a flit that waits leaves with the next sequence number, is kept
for its acknowledgement, and takes one buffer of credit. -/
def Obligations.FramesLeave : Prop :=
  ∀ (k : Fin 5) (picks : List (BitVec 2)) (s : State), Runs .main s →
    (linkUp s.fab k = false → Gives (.frame k picks) s s.fab) ∧
    (linkUp s.fab k = true → ∃ f flits cb l₁ l₂, Gives (.frame k picks) s f ∧ f.out = l₁ ++ .frame k flits cb :: (l₂ ++ s.fab.out) ∧
      (k.val = 4 → ∃ ws, .codewords ws ∈ l₁) ∧
      flits.length = 64 ∧ (linkOf f k).frameNo = (linkOf s.fab k).frameNo + 1 ∧ (linkOf f k).nak = false ∧
      (linkOf f k).swaps = (linkOf s.fab k).swaps.drop 1 ∧ fld cb 40 10 = (linkOf s.fab k).ackSeq.toNat ∧
      (((linkOf s.fab k).quiet = true ∨ ((linkOf s.fab k).replay = 0 ∧ ∀ v, tget [] (linkOf s.fab k).txq v = [])) →
        flits = List.replicate 64 (sealFlit 0 false) ∧ (linkOf f k).retry = (linkOf s.fab k).retry) ∧
      ((linkOf s.fab k).quiet = false → injKind s.fab ≠ 5 → ∀ x, (linkOf s.fab k).replay ≠ 0 →
        (linkOf s.fab k).retry[(linkOf s.fab k).retry.length - (linkOf s.fab k).replay]? = some x →
          flits[0]? = some (sealFlit x.bits false)) ∧
      (∀ v t key, v < 3 → (linkOf s.fab k).quiet = false → (linkOf s.fab k).replay = 0 → (linkOf s.fab k).retry.length < 512 →
        injKind s.fab ≠ 5 → tget [] (linkOf s.fab k).txq v = [t] → (∀ u, u ≠ v → tget [] (linkOf s.fab k).txq u = []) →
        creditKey (linkOf s.fab k) v (fHops t.bits) = some key →
          let b := putf t.bits 46 10 (linkOf s.fab k).nextSeq.toNat
          flits = sealFlit b false :: List.replicate 63 (sealFlit 0 false) ∧ (∀ u, tget [] (linkOf f k).txq u = []) ∧
            (linkOf f k).nextSeq = (linkOf s.fab k).nextSeq + 1 ∧
            (linkOf f k).retry = (linkOf s.fab k).retry ++ [⟨b, t.origin.isNone, (linkOf s.fab k).nextSeq.toNat, 1⟩] ∧
            tget 0 (linkOf f k).taken key = tget 0 (linkOf s.fab k).taken key + 1 ∧
            (∀ j, j ≠ key → tget 0 (linkOf f k).taken j = tget 0 (linkOf s.fab k).taken j)) ∧
      ((∀ v t, v < 3 → t ∈ tget [] (linkOf s.fab k).txq v → creditKey (linkOf s.fab k) v (fHops t.bits) = none) →
        (linkOf s.fab k).replay = 0 → flits = List.replicate 64 (sealFlit 0 false) ∧ (linkOf f k).txq = (linkOf s.fab k).txq) ∧
      f.store = s.fab.store)

/-- R168, R171, R180: a link that is UP and loses lock retrains and is counted; its retraining succeeds with a replay of
everything unacknowledged, or fails and the link is FAILED and empty; a hold on a path ends when no old row is
unacknowledged; LINK_DOWN and LINK_UP about another die's link are learned and forwarded once, to every other UP span partner.
The link changes are those of an instance with no transfer under way. -/
def Obligations.LinkChanges : Prop :=
  ∀ (s : State), Runs .main s →
    (∀ k : Fin 5, (linkUp s.fab k = true → ∃ f, Gives (.linkRetrain k) s f ∧
        linkOf f k = { linkOf s.fab k with st := .retraining } ∧
        counterOf f (0x8300 + k) 0x0B = counterOf s.fab (0x8300 + k) 0x0B + 1) ∧
      (linkUp s.fab k = false → Gives (.linkRetrain k) s s.fab) ∧
      ((linkOf s.fab k).st = .retraining → ∃ f, Gives (.retrainComplete k) s f ∧
        linkOf f k = { linkOf s.fab k with st := .up, replay := (linkOf s.fab k).retry.length, nak := false }) ∧
      ((linkOf s.fab k).st = .retraining → farEnds s.fab = [] → ∃ f, Gives (.retrainFailed k) s f ∧
        (linkOf f k).st = .failed ∧ (linkOf f k).retry = [] ∧
        counterOf f (0x8300 + k) 0x0C = counterOf s.fab (0x8300 + k) 0x0C + 1) ∧
      ((linkOf s.fab k).st ≠ .retraining → Gives (.retrainComplete k) s s.fab ∧ Gives (.retrainFailed k) s s.fab)) ∧
    (∀ dest : BitVec 16, ∃ f, Gives (.pathHoldRelease dest) s f ∧
      (∀ h ∈ f.dom.pathHolds, h ∈ s.fab.dom.pathHolds) ∧
      (∀ h ∈ s.fab.dom.pathHolds, h ∈ f.dom.pathHolds ↔
        (h.dest ≠ dest ∨ ∃ g ∈ openSegs s.fab, g.stag ∈ h.stags)) ∧ f.links = s.fab.links) ∧
    (∀ m rest, s.fab.dom.inbox = m :: rest → farEnds s.fab = [] → fld m.bits 32 3 ≠ s.fab.prm.die.toNat →
      fld m.bits 40 3 < 4 →
      let linkEnd := 8 * fld m.bits 32 3 + fld m.bits 40 3
      let forwarded := fun (f : Fab) => ∀ j, j < 4 → linkUp s.fab j = true → j ≠ m.link →
        ∃ t, tget [] (linkOf f j).txq 2 = tget [] (linkOf s.fab j).txq 2 ++ [t] ∧ fld t.bits 64 512 = m.bits.toNat ∧
          fDest t.bits = (linkOf s.fab j).partner.toNat
      (fld m.bits 0 8 = 0x10 → tget 0 s.fab.dom.spread linkEnd ≠ m.bits → s.fab.dom.knownDown.contains linkEnd = false →
        ∃ f, Gives .linkDown s f ∧ f.dom.inbox = rest ∧ f.dom.knownDown = s.fab.dom.knownDown ++ [linkEnd] ∧
          tget 0 f.dom.spread linkEnd = m.bits ∧ forwarded f) ∧
      (fld m.bits 0 8 = 0x11 → tget 0 s.fab.dom.spread linkEnd ≠ m.bits → ∃ f, Gives .linkUp s f ∧ f.dom.inbox = rest ∧
        f.dom.knownDown.contains linkEnd = false ∧ tget 0 f.dom.spread linkEnd = m.bits ∧ forwarded f) ∧
      (tget 0 s.fab.dom.spread linkEnd = m.bits → (fld m.bits 0 8 = 0x10 → Gives .linkDown s (messageTaken s.fab)) ∧
        (fld m.bits 0 8 = 0x11 → Gives .linkUp s (messageTaken s.fab))) ∧
      (fld m.bits 0 8 ≠ 0x10 → Gives .linkDown s s.fab) ∧ (fld m.bits 0 8 ≠ 0x11 → Gives .linkUp s s.fab))

/-- R176 to R179: a failing active lane of IL0 asks for a swap onto the lowest spare, waits for the swap under way while a further
spare is left (the model's choice, log 105), or with none left fails the link unless only its margin is low; the far end answers
with the frame eight on and holds back; the remap, the lock and the end of a swap move the lanes' roles; and a lane that has retrained for ten rounds is FAILED. -/
def Obligations.LanesSwap : Prop :=
  ∀ (s : State), Runs .main s →
    (linkUp s.fab 4 = false → (∀ i cause, Gives (.laneFault i cause) s s.fab) ∧ Gives .swapReq s s.fab ∧
      Gives .swapAck s s.fab ∧ Gives .laneRemap s s.fab ∧ Gives .swapLaneLocked s s.fab ∧ Gives .swapDone s s.fab) ∧
    (linkUp s.fab 4 = true →
    (∀ (i : Fin 36) (cause : BitVec 2) (w : Swap), (laneAt s.fab i).rx = .active → (swappingOut s.fab).contains i.val = false →
      s.fab.swapRx = some w →
        (s.fab.ibex.swapWait.length + 1 < sparesLeft s.fab → Gives (.laneFault i cause) s
          { s.fab with ibex := { s.fab.ibex with swapWait := s.fab.ibex.swapWait ++ [(i.val, cause)] } }) ∧
        (sparesLeft s.fab ≤ s.fab.ibex.swapWait.length + 1 → (cause = 2 → Gives (.laneFault i cause) s s.fab) ∧
          (cause ≠ 2 → farEnds s.fab = [] → ∃ f, Gives (.laneFault i cause) s f ∧ (linkOf f 4).st = .failed ∧
            (laneAt f i).rx = .failed ∧ f.swapRx = none ∧ f.swapTx = none ∧ f.ibex.swapWait = []))) ∧
    (∀ (i : Fin 36) (cause : BitVec 2), (laneAt s.fab i).rx = .active → s.fab.swapRx = none → (swappingOut s.fab).contains i.val = false →
      (∀ j, (List.range 36).find? (fun j => (laneAt s.fab j).rx = .spare) = some j →
        ∃ f, Gives (.laneFault i cause) s f ∧ f.swapRx = some ⟨(laneAt s.fab i).rxLog, i, j, cause, false, 0⟩ ∧
          (linkOf f 4).swaps = (linkOf s.fab 4).swaps ++ [pack 32 [(8, 1), (8, (laneAt s.fab i).rxLog), (8, j), (8, 0)]] ∧
          f.lanes = s.fab.lanes) ∧
      ((List.range 36).find? (fun j => (laneAt s.fab j).rx = .spare) = none →
        (cause = 2 → Gives (.laneFault i cause) s s.fab) ∧
        (cause ≠ 2 → farEnds s.fab = [] → ∃ f, Gives (.laneFault i cause) s f ∧ (linkOf f 4).st = .failed ∧
          (laneAt f i).rx = .failed))) ∧
    (heardCmd s.fab = 1 → ∃ f, Gives .swapReq s f ∧ (linkOf f 4).quiet = true ∧
      (∃ old, f.swapTx = some ⟨heardLog s.fab, old, heardPhys s.fab, 0, false, (linkOf s.fab 4).frameNo + 8⟩) ∧
      (linkOf f 4).swaps = (linkOf s.fab 4).swaps ++
        [pack 32 [(8, 2), (8, heardLog s.fab), (8, heardPhys s.fab), (8, ((linkOf s.fab 4).frameNo + 8).toNat)]]) ∧
    (∀ w, s.fab.swapRx = some w → heardCmd s.fab = 2 → ∃ f, Gives .swapAck s f ∧
      f.swapRx = some { w with step := true, frame := BitVec.ofNat 8 (heardFrame s.fab) } ∧ f.lanes = s.fab.lanes) ∧
    (∀ w, s.fab.swapTx = some w → w.step = false → w.old ≠ w.new → ((linkOf s.fab 4).frameNo - w.frame).toNat < 128 →
      ∃ f, Gives .laneRemap s f ∧ (laneAt f w.old).tx = .retraining ∧ (laneAt f w.new).tx = .active ∧
        (laneAt f w.new).txLog = w.logical ∧ f.swapTx = some { w with step := true }) ∧
    (∀ w, s.fab.swapRx = some w → w.step = true → w.old ≠ w.new → ∃ f, Gives .swapLaneLocked s f ∧
      (s.fab.ibex.swapWait = [] → f.swapRx = none) ∧
      (∀ i cause t j, s.fab.ibex.swapWait = (i, cause) :: t → i ≠ w.old → i ≠ w.new →
        (List.range 36).find? (fun j => decide (j ≠ w.old) && decide (j ≠ w.new) && (laneAt s.fab j).rx == .spare) = some j →
          f.swapRx = some ⟨(laneAt s.fab i).rxLog, i, j, cause, false, 0⟩ ∧ f.ibex.swapWait = t) ∧
      (laneAt f w.old).rx = .retraining ∧ (laneAt f w.new).rx = .active ∧ (laneAt f w.new).rxLog = w.logical ∧
      counterOf f 0x8304 9 = counterOf s.fab 0x8304 9 + 1) ∧
    (s.fab.swapTx.isSome = true → heardCmd s.fab = 3 → ∃ f, Gives .swapDone s f ∧ f.swapTx = none ∧
      (linkOf f 4).quiet = false ∧ (linkOf f 4).replay = (linkOf s.fab 4).retry.length)) ∧
    (∀ i : Fin 36, ((laneAt s.fab i).rx = .retraining → 10 ≤ (laneAt s.fab i).rounds →
        ∃ f, Gives (.laneRetrainTimeout i) s f ∧ (laneAt f i).rx = .failed ∧ (∀ j, j ≠ i.val → laneAt f j = laneAt s.fab j)) ∧
      (((laneAt s.fab i).rx ≠ .retraining ∨ (laneAt s.fab i).rounds < 10) → Gives (.laneRetrainTimeout i) s s.fab))

/-- R174, R175, R311, R315: the training of the one port that a LINK_TRAIN trains ends with the port UP, its sequence numbers at 1
and nothing kept, or with the port DOWN; the operation ends with OK where every port it selected is UP, PARTIAL where some is,
and else HOST_TIMEOUT where each has run out of time, or FAULT.  In IDLE it is held.  A port that trains is marked when its
PHY has reported no link in time.  The instance has no transfer under way. -/
def Obligations.TrainingEnds : Prop :=
  ∀ (s : State) (k : Fin 5), Runs .main s →
    ((linkOf s.fab k).train.isSome = true → ∃ f, Gives (.trainTimeout k) s f ∧
      linkOf f k = { linkOf s.fab k with timedOut := true }) ∧
    ((linkOf s.fab k).train = none → Gives (.trainTimeout k) s s.fab) ∧
    ((∀ j, (linkOf s.fab j).train = none) → ∀ r, Gives (.linkTrainComplete r) s s.fab) ∧
    (s.fab.pwr.st = 1 → ∀ r, Gives (.linkTrainComplete r) s s.fab) ∧
    (∀ (r : TrainResult) (h : BitVec 16) (w : BitVec 32) (full : Bool), h ≠ 0 → (linkOf s.fab k).train = some (h, full) →
      (∀ j, j ≠ k.val → (linkOf s.fab j).train = none) → farEnds s.fab = [] → s.fab.lop.ops = [⟨h, 6, none, false⟩] →
      s.fab.lop.trains = [(h, w)] → k.val ∈ trainMask w → s.fab.pwr.st = 0 →
      (failingStage r s.fab k = 0 → ∃ f, Gives (.linkTrainComplete r) s f ∧ (linkOf f k).st = .up ∧
        (linkOf f k).nextSeq = 1 ∧ (linkOf f k).expect = 1 ∧ (linkOf f k).retry = [] ∧ (linkOf f k).train = none ∧
        (linkOf f k).partner = BitVec.ofNat 16 (fld r.partners (16 * k) 16) ∧ f.lop.trains = [] ∧
        Ended s h (if (trainMask w).all fun j => j == k || linkUp s.fab j then sOk else sPartial) f) ∧
      (failingStage r s.fab k ≠ 0 → ∃ f, Gives (.linkTrainComplete r) s f ∧ (linkOf f k).st = .down ∧
        (linkOf f k).train = none ∧ f.lop.trains = [] ∧
        Ended s h (if (trainMask w).any fun j => j != k && linkUp s.fab j then sPartial
          else if (trainMask w).all fun j => (linkOf s.fab j).timedOut then sTimeout else sFault) f))

/-- R162, R163, R225: a CREDIT_REQ is refused with LOCALITY, STATE, CONTEXT or BUFFER, in that order of cause, and counted; else
it is granted a free receive context for the rows that may be had, and its source's refusals start again from 0. -/
def Obligations.CreditAnswered : Prop :=
  ∀ (s : State) (m : BitVec 512), Runs .main s → HeadMessage s 1 m →
    let g := messageTaken s.fab
    let src : BitVec 16 := BitVec.ofNat 16 (fld m 16 16)
    let refused := fun r => ∃ f, Gives .creditReq s f ∧ f.dom.ctxs = s.fab.dom.ctxs ∧
      counterOf f 0x8400 (3 + r) = counterOf s.fab 0x8400 (3 + r) + 1
    (reqMisplaced g m = true → refused 4) ∧
    (reqMisplaced g m = false → reqState g m = true → refused 3) ∧
    (reqMisplaced g m = false → reqState g m = false → ctxFree g src = false → refused 2) ∧
    (reqMisplaced g m = false → reqState g m = false → ctxFree g src = true →
      (reqRows g src (fld m 56 8 + 1) < min (fld m 56 8 + 1) 16 → refused 1) ∧
      (min (fld m 56 8 + 1) 16 ≤ reqRows g src (fld m 56 8 + 1) → tcanon none s.fab.dom.ctxs = true →
        ∃ f i, Gives .creditReq s f ∧ ctxOf s.fab i = none ∧
          ctxOf f i = some ⟨src, m, reqRows g src (fld m 56 8 + 1), 0, 0, false, [], 0⟩ ∧
          (∀ j, j ≠ i → ctxOf f j = ctxOf s.fab j) ∧ (holdOf g src = none → tget 0 f.dom.refusals src.toNat = 0)))

/-- R163, R164, R170, R183, R224: what the source of a transfer does with the answer to a segment of a flight: a grant is
taken, no further than was asked, and more may be asked for; a refusal sends the segment into back-off, one for LOCALITY
stops the flight with FAULT, as XFER_FAULT and an answer awaited across two rounds do; a segment whose back-off is over
is asked for again; and a ROW_ACK for a grant sent whole counts its rows done.  A grant that answers nothing is cancelled. -/
def Obligations.CreditAtSource : Prop :=
  ∀ (s : State) (m : BitVec 512) (stag : BitVec 16) (q : Nat) (x : Flight) (g : Seg), Runs .main s →
    flightOf s.fab q x.ord = some x →
    let on := fun (h : Seg → Seg) => x.segs.map fun e => if e.stag = g.stag then h e else e
    (HeadMessage s 2 m →
      (segFor s.fab (fld m 32 16) (· == .asked) = some (q, x, g) → ∃ f y, Gives .creditGrant s (askMore q x.ord f) ∧
        flightOf f q x.ord = some y ∧ y.asks = tset 0 x.asks g.leg (g.first + min (fld m 64 8 + 1) g.count) ∧
        y.segs = on fun e => { e with phase := .granted, granted := min (fld m 64 8 + 1) g.count,
                                      rctx := BitVec.ofNat 12 (fld m 48 12), refusals := 0, rounds := 0 }) ∧
      (segFor s.fab (fld m 32 16) (· == .asked) = none → migSegFor s.fab (fld m 32 16) (· == .asked) = none →
        Gives .creditGrant s (answer (fld m 16 16) (msgOf (messageTaken s.fab) 5 [(48, fld m 48 12)]) (messageTaken s.fab)))) ∧
    (HeadMessage s 3 m → segFor s.fab (fld m 32 16) (· == .asked) = some (q, x, g) →
      (1 ≤ fld m 48 8 → fld m 48 8 ≤ 3 → ∃ f y, Gives .creditRefuse s f ∧ flightOf f q x.ord = some y ∧
        counterOf f 0x8400 (7 + fld m 48 8) = counterOf s.fab 0x8400 (7 + fld m 48 8) + 1 ∧
        y.segs = on fun e => { e with phase := .backoff (segRounds s.fab x g + creditBackoff s.fab (g.refusals + 1)),
                                      refusals := g.refusals + 1 }) ∧
      (fld m 48 8 = 4 → abortable s.fab x = true → ∃ f, Gives .creditRefuse s f ∧ Stopping f q x.ord 4)) ∧
    (HeadMessage s 4 m → segFor s.fab (fld m 32 16) (· == .granted) = some (q, x, g) → sentWhole g = true →
      g.rctx.toNat = fld m 48 12 → ∃ f y, Gives .rowAck s (askMore q x.ord f) ∧ flightOf f q x.ord = some y ∧
        y.done = x.done + g.granted ∧ y.segs = on fun e => { e with phase := .acked }) ∧
    (HeadMessage s 6 m → segFor s.fab (fld m 32 16) segOpen = some (q, x, g) → abortable s.fab x = true →
      ∃ f, Gives .xferFault s f ∧ Stopping f q x.ord 4) ∧
    (segFor s.fab stag.toNat segOpen = some (q, x, g) →
      (2 ≤ g.rounds → abortable s.fab x = true → ∃ f, Gives (.transferTimeout stag) s f ∧ Stopping f q x.ord 4) ∧
      (g.rounds < 2 → Gives (.transferTimeout stag) s s.fab)) ∧
    (∀ r l, segFor s.fab stag.toNat (fun p => match p with | .backoff _ => true | _ => false) = some (q, x, g) →
      g.phase = .backoff r → x.legs[g.leg]? = some l →
      (segRounds s.fab x g < r → Gives (.creditReqResend stag) s s.fab) ∧
      (r ≤ segRounds s.fab x g → (routeTo s.fab g.dest.toNat).1.isSome = true → ∃ f y, Gives (.creditReqResend stag) s f ∧
        flightOf f q x.ord = some y ∧ (y.segs = on fun e => { e with phase := .asked }) ∧
        counterOf f 0x8400 0x15 = counterOf s.fab 0x8400 0x15 + 1))

/-- R164, R225: a grant's source cancels it, and one without a flit across two rounds expires: its context is free and no
flit of it waits; a CANCEL from another source changes no context.  A source refused `STARVE_THRESHOLD` times is given a
starvation hold, or waits for one of the four, and a hold not granted across two rounds ends. -/
def Obligations.ContextsAndHolds : Prop :=
  ∀ (s : State), Runs .main s →
    (∀ m c, HeadMessage s 5 m → ctxOf s.fab (fld m 48 12) = some c →
      (c.src.toNat = fld m 16 16 → ∃ f, Gives .cancel s f ∧ ctxOf f (fld m 48 12) = none ∧
        (∀ j, j ≠ fld m 48 12 → ctxOf f j = ctxOf s.fab j) ∧ (∀ x ∈ f.dom.inbound, fCtx x.bits ≠ fld m 48 12)) ∧
      (c.src.toNat ≠ fld m 16 16 → Gives .cancel s (messageTaken s.fab))) ∧
    (∀ (i : BitVec 12) (c : Ctx), ctxOf s.fab i.toNat = some c →
      (2 ≤ c.rounds → ∃ f, Gives (.contextExpired i) s f ∧ ctxOf f i.toNat = none ∧
        (∀ j, j ≠ i.toNat → ctxOf f j = ctxOf s.fab j) ∧ counterOf f 0x8400 0x0D = counterOf s.fab 0x8400 0x0D + 1) ∧
      (c.rounds < 2 → Gives (.contextExpired i) s s.fab)) ∧
    (∀ src : BitVec 16, (tget 0 s.fab.dom.refusals src.toNat < s.fab.dom.starve.toNat → Gives (.starvationHold src) s s.fab) ∧
      (s.fab.dom.starve.toNat ≤ tget 0 s.fab.dom.refusals src.toNat → holdOf s.fab src = none → src ∉ s.fab.dom.holdWait →
        ∃ f, Gives (.starvationHold src) s f ∧
          (s.fab.dom.holds.length < 4 → f.dom.holds = s.fab.dom.holds ++ [⟨src, 0, false, 0⟩] ∧
            counterOf f 0x8400 0x16 = counterOf s.fab 0x8400 0x16 + 1) ∧
          (4 ≤ s.fab.dom.holds.length → f.dom.holds = s.fab.dom.holds ∧ f.dom.holdWait = s.fab.dom.holdWait ++ [src])) ∧
      (∀ h, holdOf s.fab src = some h →
        (h.rounds < 2 → Gives (.holdExpired src) s s.fab) ∧
        (2 ≤ h.rounds → s.fab.dom.holdWait = [] → ∃ f, Gives (.holdExpired src) s f ∧ holdOf f src = none ∧
          counterOf f 0x8400 0x17 = counterOf s.fab 0x8400 0x17 + 1)))

/-- R163, R170, R198: a beat of an INBOUND burst writes its flit's row at the place the grant gives it, or adds it there for a
COLLECT_ACC, and no other row; the row is accepted, and the last one accepted ends the grant; a flit that an earlier beat has
taken is written again and accepted no second time.  A WRITE stores the bytes of its tile, poison as poison.  A STREAM chunk is
written to its stack under a tag of its own and takes a request slot.  Each does nothing where no such burst runs. -/
def Obligations.InboundMovesRows : Prop :=
  (∀ (n : Fin 16) (w : BeatWait) (s : State) (b : Burst) (c : Ctx) (x : InFlit), Runs .main s →
      burstOf (portOf s.fab (16 + n)) = some b → b.req = rInbound → checkPreempt s.slots (16 + n) s.fab = s.fab →
      ctxOf s.fab b.leg = some c → nextFlit s.fab b.leg = some x →
      (cMode c.req = 2 → Gives (.rowFlit n w) s s.fab) ∧
      (cMode c.req ≠ 2 → trowOk c x = true → flitGate s.fab c x = .go → regionWaits s.fab (16 + n) = false →
        let ra := grantRow c.req (fTrow x.bits)
        let g := fld c.req 96 8
        let rb := (fld c.req 104 4 + 1) * 32
        let row := copyRow g rb (fBody x.bits) (contribOf (fBody x.bits)) (epochOf (fBody x.bits))
        let h := disturb [ra] (beginBeat (16 + n) [ra]
          (cycleWait (16 + n) w (flitMerges s.fab c x && rawState s.fab.store ra != 0) s.fab))
        ∃ f, Gives (.rowFlit n w) s (afterBeat (16 + n) f) ∧ f.store = (writeGrant (16 + n) b.leg c.req x ra h).store ∧
          (x.taken = false → (c.accepted + 1 < c.granted → ∃ c', ctxOf f b.leg = some c' ∧ c'.accepted = c.accepted + 1) ∧
            (c.granted ≤ c.accepted + 1 → ctxOf f b.leg = none)) ∧
          (x.taken = true → ∃ c', ctxOf f b.leg = some c' ∧ c'.accepted = c.accepted) ∧
          (RowSound s.fab ra → OtherRowsKept f.store s.fab.store ra) ∧
          (cMode c.req = 0 → RowSound s.fab ra →
            f.store = (writeTile (16 + n) ra g rb row (fPoison x.bits) s.fab).store ∧
            ((rawState s.fab.store ra = 0 ∨ rb = 512) → rawState f.store ra = (if fPoison x.bits then 2 else 1) ∧
              rmwWords f.store ra = (if fPoison x.bits then poisonRow row else encodeRow row))))) ∧
  (∀ (n : Fin 16) (s : State) (b : Burst) (c : Ctx) (x : InFlit), Runs .main s →
      burstOf (portOf s.fab (16 + n)) = some b → b.req = rInbound → checkPreempt s.slots (16 + n) s.fab = s.fab →
      ctxOf s.fab b.leg = some c → nextFlit s.fab b.leg = some x →
      (cMode c.req ≠ 2 → Gives (.streamFlit n) s s.fab) ∧
      (∀ k, cMode c.req = 2 → servingPort s.fab (streamStack c.req) = some k → (kportOf s.fab k).st = .up →
        (kportOf s.fab k).slots ≠ 0 → 9 ≤ (kportOf s.fab k).units →
          ∃ f t, Gives (.streamFlit n) s (afterBeat (16 + n) f) ∧ (kportOf f k).slots = (kportOf s.fab k).slots - 1 ∧
            (kportOf f k).tags = (kportOf s.fab k).tags ++ [t] ∧ t.job.owner = .inbound b.leg ∧ t.job.op = 2 ∧ t.index = 1 ∧
            ctxOf f b.leg = some c ∧ f.store = s.fab.store)) ∧
  (∀ (n : Fin 16) (s : State), Runs .main s → checkPreempt s.slots (16 + n) s.fab = s.fab →
      (∀ b, burstOf (portOf s.fab (16 + n)) = some b → b.req ≠ rInbound) →
        (∀ w, Gives (.rowFlit n w) s s.fab) ∧ Gives (.streamFlit n) s s.fab)

/-- R165, R224: a remote FENCE_SIGNAL adds its count to a fence of a READY fabric, kept at 0xFFFF, and changes no fence of one
that is not; at its source, OK completes the signal, NOT_READY sends it into back-off, and it is sent again after that. -/
def Obligations.RemoteSignals : Prop :=
  ∀ (s : State) (m : BitVec 512), Runs .main s →
    (HeadMessage s 7 m → ∃ f, Gives .fenceSignalMessage s f ∧
      (isReady s.fab = true → f.fences = tset 0 s.fab.fences (fld m 48 6)
        (BitVec.ofNat 16 (min 0xFFFF ((fenceOf s.fab (fld m 48 6)).toNat + fld m 64 16)))) ∧
      (isReady s.fab = false → f.fences = s.fab.fences)) ∧
    (∀ q x y, HeadMessage s 8 m → signalFor s.fab (fld m 32 16) = some (q, x, y) → (queueOf s.fab q).flights = [x] →
      (fld m 48 8 = 0 → ∃ f, Gives .fenceAck s f ∧ (queueOf f q).flights = []) ∧
      (fld m 48 8 = 1 → y.resumeAt = none → ∃ f, Gives .fenceAck s f ∧ (queueOf f q).flights =
        [{ x with fsig := some { y with refusals := y.refusals + 1
                                        resumeAt := some ((portOf s.fab 16).rounds + creditBackoff s.fab (y.refusals + 1)) } }])) ∧
    (∀ (stag : BitVec 16) q x y r, signalFor s.fab stag.toNat = some (q, x, y) → (queueOf s.fab q).flights = [x] → y.resumeAt = some r →
      ((portOf s.fab 16).rounds < r → Gives (.fenceSignalResend stag) s s.fab) ∧
      (r ≤ (portOf s.fab 16).rounds → (routeTo s.fab (oFinst (dDst x.desc))).1.isSome = true →
        ∃ f, Gives (.fenceSignalResend stag) s f ∧ (queueOf f q).flights = [{ x with fsig := some { y with resumeAt := none } }]))

/-- R78, R186, R200, R224: an install is answered BUSY while 64 wait, waits while its entry drains or the next epoch still tags
something, and else takes effect with ME advanced by one; at its source OK ends the entry's install, BUSY sends it into
back-off, and it is sent again after that; a STREAM_POISON sets the mask of its chunk. -/
def Obligations.InstallsAndNotes : Prop :=
  ∀ (s : State) (m : BitVec 512), Runs .main s →
    (HeadMessage s 9 m →
      (64 ≤ s.fab.map.installs.length → ∃ f, Gives .mapInstall s f ∧ f.map = s.fab.map) ∧
      (s.fab.map.installs.length < 64 → changeWaits s.fab [fld m 48 17] = true → ∃ f, Gives .mapInstall s f ∧
        f.map = { s.fab.map with installs := s.fab.map.installs ++ [⟨BitVec.ofNat 16 (fld m 16 16), m, true⟩] } ∧
        counterOf f 0x8400 0x11 = counterOf s.fab 0x8400 0x11 + 1) ∧
      (s.fab.map.installs.length < 64 → changeWaits s.fab [fld m 48 17] = false → ∃ f, Gives .mapInstall s f ∧
        f.map.epoch = s.fab.map.epoch + 1 ∧ f.map.installs = s.fab.map.installs ∧
        f.map.entries = tset 0 s.fab.map.entries (fld m 48 17)
          (encodeWord (putBit (putf (installBits m) 32 16 (s.fab.map.epoch + 1).toNat) 63 false).toNat))) ∧
    (∀ mg k e, HeadMessage s 0x0A m → installFor s.fab (fld m 32 16) = some (mg, k, e) → s.fab.lop.migs = [mg] → e.inst = 1 →
      mg.segs.any (fun g => g.phase != .acked) = true →
      (fld m 48 8 = 0 → ∃ f, Gives .mapAck s f ∧ f.lop.migs =
        [{ mg with destMe := BitVec.ofNat 16 (fld m 56 16), entries := mg.entries.modify k fun e => { e with inst := 2 } }]) ∧
      (fld m 48 8 = 1 → ∃ f, Gives .mapAck s f ∧ f.lop.migs = [{ mg with entries := mg.entries.modify k fun e =>
        { e with inst := 3, refusals := (e.refusals + 1), resumeAt := (portOf s.fab 16).rounds + creditBackoff s.fab (e.refusals + 1) } }])) ∧
    (∀ (stag : BitVec 16) mg k e, installFor s.fab stag.toNat = some (mg, k, e) → s.fab.lop.migs = [mg] → e.inst = 3 →
      ((portOf s.fab 16).rounds < e.resumeAt → Gives (.mapInstallResend stag) s s.fab) ∧
      (e.resumeAt ≤ (portOf s.fab 16).rounds → (routeTo s.fab (mgDest mg)).1.isSome = true →
        ∃ f, Gives (.mapInstallResend stag) s f ∧ f.lop.migs = [{ mg with entries := mg.entries.modify k fun x =>
          { x with inst := 1, stag := e.stag } }] ∧ counterOf f 0x8400 0x15 = counterOf s.fab 0x8400 0x15 + 1)) ∧
    (∀ c, HeadMessage s 0x0B m → ctxOf s.fab (fld m 48 12) = some c → ∃ f, Gives .streamPoison s f ∧
      ctxOf f (fld m 48 12) = some { c with masks := tset 0 c.masks (fld m 64 8) (BitVec.ofNat 72 (fld m 72 72)) } ∧
      (∀ j, j ≠ fld m 48 12 → ctxOf f j = ctxOf s.fab j))

/-- R192, R195, R196: the oldest request of an UP stack port with a slot goes out under a tag of its own as far as its receive
buffer has rows, a WRITE or a CALL whole; what is left of it stays in front; with no slot that no granted burst has reserved, or no
room, nothing goes. -/
def Obligations.StackRequestsGoOut : Prop :=
  ∀ (k : Fin 2) (s : State) (j : Job) (rest : List Job), Runs .main s → (kportOf s.fab k).jobs = j :: rest →
    let room := if j.op = 2 then j.rows else rxFree s.fab k
    let n := if j.op = 1 then min j.rows room else if j.rows ≤ room then j.rows else 0
    (((kportOf s.fab k).st ≠ .up ∨ (stackRoom s.fab k).1 = 0 ∨ n = 0) → Gives (.stackRequestSend k) s s.fab) ∧
    ((kportOf s.fab k).st = .up → (stackRoom s.fab k).1 ≠ 0 → n ≠ 0 → ∃ f t, Gives (.stackRequestSend k) s f ∧
      (kportOf f k).tags = (kportOf s.fab k).tags ++ [t] ∧ t.job.owner = j.owner ∧ t.job.op = j.op ∧ t.job.rows = n ∧
      t.job.base = j.base ∧ t.index = 0 ∧ t.phase = .running ∧ (kportOf f k).slots = (kportOf s.fab k).slots - 1 ∧
      (n = j.rows → (kportOf f k).jobs = rest) ∧
      (n < j.rows → ∃ j', (kportOf f k).jobs = j' :: rest ∧ j'.rows = j.rows - n ∧ j'.base = j.base + n) ∧
      (∃ h, f.out = .sop k h none :: s.fab.out) ∧ f.store = s.fab.store)

/-- R194, R197 to R199, R202, R203: a response on an UP port whose CRC holds, whose form is right and which names a running
tag: a data row in order enters the receive buffer, the next is expected, and the last ends the tag; a WRITE_ACK of a
WRITE sent whole ends the tag and its rows are done; PROGRESS changes nothing; CANCEL_ACK ends a cancelled tag.  A
response that names no tag, and one of bad CRC, are counted. -/
def Obligations.StackResponses : Prop :=
  ∀ (k : Fin 2) (h : BitVec 256) (d : Row) (s : State), Runs .main s → (kportOf s.fab k).st = .up → respOk h = true →
    (∀ (t : SopTag) (q ord : Nat) (c : Instr) (op : Nat), sopCrc h (some d) = sCrc h → sopTagOf s.fab k (sTag h) = some t →
      t.phase = .running → t.job.owner = .flight q ord → t.job.op.toNat = op → sIndex h = t.index →
      ((sType h = 0x81 ∧ op = 1 ∧ c = .readData k h d) ∨ (sType h = 0x83 ∧ op = 4 ∧ c = .callData k h d)) →
        ∃ f r, Gives c s f ∧ r ∈ (kportOf f k).rx ∧ r.owner = t.job.owner ∧ r.idx = t.job.base + t.index ∧
          r.data = strideBytes h d ∧ r.poison = (sStatus h == 1) ∧
          ((sLast h = true ∨ t.index + 1 = t.job.rows) → ∀ u ∈ (kportOf f k).tags, u.tag ≠ t.tag) ∧
          ((sLast h = false ∧ t.index + 1 ≠ t.job.rows) →
            ∃ u ∈ (kportOf f k).tags, u.tag = t.tag ∧ u.index = t.index + 1) ∧ f.store = s.fab.store) ∧
    (sopCrc h none = sCrc h → ∀ t, sopTagOf s.fab k (sTag h) = some t →
      (∀ q ord x, sType h = 0x82 → t.job.op = 2 → t.job.rows ≤ t.index → t.phase = .running → t.job.owner = .flight q ord →
        flightOf s.fab q ord = some x → ∃ f y, Gives (.writeAck k h) s f ∧ (∀ u ∈ (kportOf f k).tags, u.tag ≠ t.tag) ∧
          flightOf f q ord = some y ∧ y.done = x.done + t.job.rows) ∧
      (sType h = 0x84 → Gives (.progress k h) s s.fab) ∧
      (∀ r, sType h = 0x86 → t.phase = .cancelling r → ∃ f, Gives (.cancelAck k h) s f ∧
        (∀ u ∈ (kportOf f k).tags, u.tag ≠ t.tag) ∧ f.queues = s.fab.queues ∧ f.store = s.fab.store)) ∧
    (0x81 ≤ sType h → sType h ≤ 0x87 →
      (sopCrc h none = sCrc h → sopTagOf s.fab k (sTag h) = none → sType h = 0x82 →
        Gives (.writeAck k h) s (countStack k 7 1 s.fab)) ∧
      (sopCrc h none ≠ sCrc h → ∃ f, Gives (.writeAck k h) s f ∧ f.queues = s.fab.queues ∧
        counterOf f (0x8310 + k) 6 = counterOf s.fab (0x8310 + k) 6 + 1))

/-- R201 to R204: a FAULT response is counted by its code, a reserved one as reserved and as a format error; but for code 5 it ends
its running tag, and its flight stops with ADDRESS and the address for code 1 and with FAULT for every other.  Code 5 is met as a
CRC failure: the first time the tag is cancelled and what it has not received is asked for again, the second time the flight
stops with FAULT.  A tag that has received nothing in time is cancelled and counted, and its flight stops with FAULT; the third in a
row loses the port, as does a CANCEL_ACK that has not come in time.  A tag under CANCEL is left to its CANCEL_ACK. -/
def Obligations.StackFaults : Prop :=
  ∀ (k : Fin 2) (s : State) (t : SopTag) (q ord : Nat) (x : Flight), Runs .main s → (kportOf s.fab k).st = .up →
    t.job.owner = .flight q ord → flightOf s.fab q ord = some x →
    (∀ h, respOk h = true → sopCrc h none = sCrc h → sType h = 0x85 → sopTagOf s.fab k (sTag h) = some t →
      let n := if t.job.op = 1 then t.index else 0
      let counted := fun f sub => counterOf f (0x8310 + k) sub = counterOf s.fab (0x8310 + k) sub + 1
      (t.phase = .running → sStatus h ≠ 5 → abortable s.fab x = true →
        ∃ f y a, Gives (.fault k h) s f ∧ (∀ u ∈ (kportOf f k).tags, u.tag ≠ t.tag) ∧ (queueOf f q).qstate = 2 ∧
          flightOf f q ord = some y ∧ y.stopping = some a ∧ a.reason = (if sStatus h = 1 then 3 else 4) ∧
          (sStatus h = 1 → a.addr.toNat = sAddr h ∧ a.stack.toNat = sStack t.job.hdr) ∧
          (1 ≤ sStatus h → sStatus h ≤ 4 → counted f (8 + sStatus h)) ∧
          (sStatus h = 0 ∨ 5 < sStatus h → counted f 0x0C ∧ counted f 7)) ∧
      (t.phase = .running → sStatus h = 5 → t.job.again = false →
        ∃ f j u, Gives (.fault k h) s f ∧ (kportOf f k).jobs = j :: (kportOf s.fab k).jobs ∧ j.again = true ∧
          j.owner = t.job.owner ∧ j.op = t.job.op ∧ j.rows = t.job.rows - n ∧ j.base = t.job.base + n ∧
          u ∈ (kportOf f k).tags ∧ u.tag = t.tag ∧ u.phase = .cancelling true ∧ counted f 0x0D ∧ counted f 8 ∧
          f.queues = s.fab.queues) ∧
      (t.phase = .running → sStatus h = 5 → t.job.again = true → abortable s.fab x = true →
        ∃ f u, Gives (.fault k h) s f ∧ Stopping f q ord 4 ∧ u ∈ (kportOf f k).tags ∧ u.tag = t.tag ∧
          u.phase = .cancelling false ∧ counted f 0x0D) ∧
      (∀ r, t.phase = .cancelling r → ∃ f, Gives (.fault k h) s f ∧ f.kports = s.fab.kports ∧ f.queues = s.fab.queues)) ∧
    (∀ tag : BitVec 16, sopTagOf s.fab k tag.toNat = some t →
      let counted := fun f sub => counterOf f (0x8310 + k) sub = counterOf s.fab (0x8310 + k) sub + 1
      (t.phase = .running → abortable s.fab x = true → (kportOf s.fab k).timeouts < 2 →
        ∃ f u, Gives (.sopTimeout k tag) s f ∧ Stopping f q ord 4 ∧ counted f 0x0E ∧
          (kportOf f k).timeouts = (kportOf s.fab k).timeouts + 1 ∧ (kportOf f k).st = .up ∧ u ∈ (kportOf f k).tags ∧
          u.tag = t.tag ∧ u.phase = .cancelling false ∧ u.late = true) ∧
      (t.phase = .running → 2 ≤ (kportOf s.fab k).timeouts →
        ∃ f, Gives (.sopTimeout k tag) s f ∧ (kportOf f k).st = .failed ∧ (kportOf f k).tags = [] ∧ counted f 0x0E ∧
          counted f 0x0F) ∧
      (∀ r, t.phase = .cancelling r → Gives (.sopTimeout k tag) s s.fab ∧
        Gives (.cancelAckTimeout k tag) s (losePort k 1 s.fab)) ∧
      (t.phase = .running → Gives (.cancelAckTimeout k tag) s s.fab))

/-- R191, R196, R204, R205: the first CREDIT of an enabled DOWN port whose path is ready brings it UP with the slots and units it
names, and a later one adds what has been freed; the fall of ready, or another loss, makes an UP port FAILED with nothing
outstanding and its sweep due, and those it served fail; the sweep ends once, every valid entry of the map that names one of the
port's stacks then in health STACK_LOST and no other changed; `KP_ENABLE` is written only over an idle port. -/
def Obligations.StackPortStates : Prop :=
  ∀ (k : Fin 2) (s : State),
    (∀ h, Runs .main s → sopCrc h none = sCrc h → respOk h = true → sType h = 0x87 →
      ((kportOf s.fab k).st = .down → (kportOf s.fab k).enable = true → (kportOf s.fab k).ready = true →
        (s.fab.start.fawn || s.fab.pwr.parked || inPhase s.fab 2 || inPhase s.fab 5) = false →
          ∃ f, Gives (.credit k h) s f ∧ (kportOf f k).st = .up ∧ (kportOf f k).slots = fld h 32 16 ∧
            (kportOf f k).units = fld h 48 32 ∧ (kportOf f k).tags = (kportOf s.fab k).tags) ∧
      ((kportOf s.fab k).st = .up → ∃ f, Gives (.credit k h) s f ∧ (kportOf f k).st = .up ∧
        (kportOf f k).slots = (kportOf s.fab k).slots + (BitVec.ofNat 16 (fld h 32 16) - (kportOf s.fab k).slotsSeen).toNat ∧
        (kportOf f k).units = (kportOf s.fab k).units + (BitVec.ofNat 32 (fld h 48 32) - (kportOf s.fab k).unitsSeen).toNat)) ∧
    (Runs .main s → (kportOf s.fab k).st = .up →
      let owners := ((kportOf s.fab k).tags.map (·.job.owner) ++ (kportOf s.fab k).jobs.map (·.owner)).dedup
      ∀ (c : Instr) (cause : BitVec 2), (c = .kpReadyChange k false ∨ (c = .stackPortDown k cause ∧ cause ≠ 3)) →
        ∃ f, Gives c s (each owners (fun f o => failOwner o 4 0 0 f) f) ∧ (kportOf f k).st = .failed ∧
          (kportOf f k).tags = [] ∧ (kportOf f k).jobs = [] ∧ (kportOf f k).slots = 0 ∧ (kportOf f k).sweep = true ∧
          counterOf f (0x8310 + k) 0x0F = counterOf s.fab (0x8310 + k) 0x0F + 1) ∧
    (Runs .main s → (∃ f, Gives (.kpReadyChange k true) s f ∧ kportOf f k = { kportOf s.fab k with ready := true }) ∧
      ((kportOf s.fab k).st ≠ .up → Gives (.stackPortDown k 0) s s.fab) ∧
      ((kportOf s.fab k).sweep = false → Gives (.lostSweep k) s s.fab) ∧
      ((kportOf s.fab k).sweep = true → ∃ f, Gives (.lostSweep k) s f ∧ (kportOf f k).sweep = false ∧
        f.map.epoch = s.fab.map.epoch ∧ f.map.changes = s.fab.map.changes ∧
        (∀ i, i ∉ s.fab.map.entries.map (·.1) → tget 0 f.map.entries i = 0) ∧
        (∀ i, injKind s.fab ≠ 8 → classOf (tget 0 s.fab.map.entries i) = .clean →
          let e : BitVec 128 := BitVec.ofNat 128 (dataOf (tget 0 s.fab.map.entries i))
          tget 0 f.map.entries i = if eValid e = true ∧ eIsStack e = true ∧ servingPort s.fab (eStack e) = some k.val then
              encodeWord (putBit (putf e 2 2 1) 63 false).toNat
            else tget 0 s.fab.map.entries i))) ∧
    (Runs .ret s → s.fab.pwr.st ≠ 2 →
      ((kportOf s.fab k).st = .absent → ∀ v, Gives (.kpEnable k v) s (emit s.fab (.status 0))) ∧
      ((kportOf s.fab k).st ≠ .absent → (kportOf s.fab k).tags ≠ [] → Gives (.kpEnable k false) s (emit s.fab (.status 6))) ∧
      ((kportOf s.fab k).st ≠ .absent → ∃ f, Gives (.kpEnable k true) s f ∧
        kportOf f k = { kportOf s.fab k with enable := true }) ∧
      ((kportOf s.fab k).st ≠ .absent → (kportOf s.fab k).tags = [] → ∃ f, Gives (.kpEnable k false) s f ∧
        kportOf f k = { kportOf s.fab k with enable := false, st := .down, slots := 0, units := 0 }))

/-- R252 to R254: a march engine takes a bank it can have, for the first time or after 256 rounds without a claim, a
DESTRUCTIVE run making every row of it UNWRITTEN; a PRESERVING engine yields a claimed bank, between row tests or for an
urgent claim, and one whose row test is late, with its saved row written back, and waits anew. -/
def Obligations.BanksBorrowedAndYielded : Prop :=
  ∀ (n : Fin 16) (s : State) (m : MarchRun) (e : Engine), Runs .main s → s.fab.integ.march = some m → engineOf s.fab n = some e →
    (canBorrow s.fab n = false → Gives (.marchBorrow n) s s.fab ∧ Gives (.marchReborrow n) s s.fab) ∧
    (canBorrow s.fab n = true → s.fab.pwr.st = 0 → ∀ c : Instr,
      (c = .marchBorrow n ∧ e.quietFrom = 0 ∨
        c = .marchReborrow n ∧ e.quietFrom ≠ 0 ∧ 256 ≤ (portOf s.fab (16 + n)).rounds - (e.quietFrom - 1)) →
        ∃ f, Gives c s f ∧ engineOf f n = some { e with borrowed := true, claim := false, urgent := false } ∧
          (mPreserving m = false → e.op = 0 → ∀ ra, ra / 256 = e.bank → rawState f.store ra = 0) ∧
          (∀ ra, ra / 256 ≠ e.bank → rawState f.store ra = rawState s.fab.store ra) ∧ f.store.rows = s.fab.store.rows) ∧
    (mPreserving m = true → e.borrowed = true → ∀ c : Instr,
      (c = .marchYield n ∧ e.claim = true ∧ (e.urgent = true ∨ e.op = 0) ∨ c = .rowTestTimeout n ∧ e.op ≠ 0) →
        ∃ f m', Gives c s f ∧ f.integ.march = some m' ∧ m'.yields = min 0xFFFF (m.yields + 1) ∧
          engineOf f n = some { e with borrowed := false, op := 0, saved := none, claim := false, urgent := false, bad := false
                                       quietFrom := (portOf s.fab (16 + n)).rounds + 1 } ∧
          (e.op = 0 → f.store = s.fab.store) ∧
          (∀ ws, e.op ≠ 0 → e.saved = some ws → injKind s.fab ≠ 1 → injKind s.fab ≠ 2 →
            f.store = { s.fab.store with rows := tset zeroWords s.fab.store.rows (256 * e.bank + e.row) ws })) ∧
    (mPreserving m = false → Gives (.marchYield n) s s.fab ∧ Gives (.rowTestTimeout n) s s.fab)

/-- R308, R309, R264: a long operation commanded in RETAIN is refused with STATE, but for POWER_SET, and one commanded while 64
are outstanding with BUSY; neither changes anything else. -/
def Obligations.LongOperationsNeedAHandle : Prop :=
  ∀ (c : Instr) (n : BitVec 8) (s : State), longOpcode c = some n → Runs .ret s →
    (s.fab.pwr.st = 2 → n ≠ 5 → Gives c s (emit s.fab (.status 6))) ∧
    ((s.fab.pwr.st ≠ 2 ∨ n = 5) → 64 ≤ s.fab.lop.ops.length → Gives c s (emit s.fab (.status 0x11)))

/-- R93, R94, R104, R308, R317, R319: SLOT_COMMIT, DRAIN, ZEROIZE and CANARY_CAL accepted in ON: the selected ports wait to swap;
the drained port, every port, or the ports of the selected groups are frozen; and one whose argument, or the state, does
not admit it ends at once with STATE, a CANARY_CAL at no valid or too high a temperature with TEMPERATURE, and changes no port. -/
def Obligations.PortOperationsStart : Prop :=
  ∀ (w : BitVec 32) (s : State), Ready64 s →
    (w ≠ 0 → (∀ p, bitAt w p = true → (portOf s.fab p).commit = none) → s.fab.start.fawn = false →
      ∃ f r, Gives (.slotCommit w) s f ∧ Accepted s 3 f ∧ f.lop.commits = s.fab.lop.commits ++ [r] ∧ r.handle = newHandle s.fab ∧
        r.mask = w ∧ r.swapped = 0 ∧ ∀ p, (portOf f p).commit = if bitAt w p then some (newHandle s.fab) else (portOf s.fab p).commit) ∧
    ((w = 0 ∨ s.fab.start.fawn = true ∨ ∃ p, p < 32 ∧ bitAt w p = true ∧ (portOf s.fab p).commit ≠ none) →
      ∃ f, Gives (.slotCommit w) s f ∧ Ended s (newHandle s.fab) sState f ∧ f.ports = s.fab.ports ∧
        f.lop.commits = s.fab.lop.commits) ∧
    (w.toNat < 32 → tget none s.fab.lop.drains w.toNat = none → ∃ f, Gives (.drain w) s f ∧ Accepted s 4 f ∧
      (portOf f w.toNat).freeze = true ∧ tget none f.lop.drains w.toNat = some ⟨newHandle s.fab, 0, 0⟩ ∧
      (∀ p, p ≠ w.toNat → portOf f p = portOf s.fab p)) ∧
    ((32 ≤ w.toNat ∨ tget none s.fab.lop.drains w.toNat ≠ none) →
      ∃ f, Gives (.drain w) s f ∧ Ended s (newHandle s.fab) sState f ∧ f.ports = s.fab.ports ∧ f.lop.drains = s.fab.lop.drains) ∧
    (w ≠ 0 → w.toNat < 16 → s.fab.lop.zero = none → s.fab.integ.march = none → (∀ n, tget none s.fab.integ.scrubs n = none) →
      ∃ f z, Gives (.zeroize w) s f ∧ Accepted s 8 f ∧ f.lop.zero = some z ∧ z.handle = newHandle s.fab ∧
        z.scope = BitVec.ofNat 4 w.toNat ∧ z.trigger = 0 ∧ (∀ p, p < 32 → (portOf f p).freeze = true)) ∧
    ((w = 0 ∨ 16 ≤ w.toNat ∨ s.fab.lop.zero.isSome = true) →
      ∃ f, Gives (.zeroize w) s f ∧ Ended s (newHandle s.fab) sState f ∧ f.ports = s.fab.ports ∧ f.lop.zero = s.fab.lop.zero) ∧
    (w ≠ 0 → w.toNat < 65536 → s.fab.lop.cal = none → s.fab.th.valid = true → s.fab.lop.zero = none →
      signed 16 s.fab.th.inUse.toNat < (s.fab.th.startAct.toNat : Int) * 16 → ∃ f c, Gives (.canaryCal w) s f ∧ Accepted s 0x0C f ∧
        f.lop.cal = some c ∧ c.todo = BitVec.ofNat 16 w.toNat ∧
        (∀ n, n < 16 → bitAt w n = true → (portOf f n).freeze = true ∧ (portOf f (16 + n)).freeze = true)) ∧
    ((w = 0 ∨ 65536 ≤ w.toNat ∨ s.fab.lop.cal.isSome = true) →
      ∃ f, Gives (.canaryCal w) s f ∧ Ended s (newHandle s.fab) sState f ∧ f.ports = s.fab.ports ∧ f.lop.cal = s.fab.lop.cal) ∧
    (w ≠ 0 → w.toNat < 65536 → s.fab.lop.cal = none →
      (s.fab.th.valid = false ∨ (s.fab.th.startAct.toNat : Int) * 16 ≤ signed 16 s.fab.th.inUse.toNat) →
        ∃ f, Gives (.canaryCal w) s f ∧ Ended s (newHandle s.fab) sTemperature f ∧ f.ports = s.fab.ports ∧ f.lop.cal = none)

/-- R174, R185, R212, R244, R255, R276, R278, R308: MARCH, SCRUB, LINK_TRAIN, MAP_LOAD, MIGRATE and SAVE accepted in ON: the
march and the scrub stand as their arguments select them, the selected ports train, a clearing load is checked at once, one from a
bank has its rows to read and one from a stack asks for them, the migrate joins the others, and the save waits. -/
def Obligations.StorageOperationsStart : Prop :=
  ∀ (s : State), Ready64 s →
    (∀ w0 w1 : BitVec 32, marchRefused w0 w1 s.fab = false → ∃ f, Gives (.march w0 w1) s f ∧ Accepted s 1 f ∧
      f.integ.march = some (newMarch (newHandle s.fab) w0 w1)) ∧
    (∀ w : BitVec 32, bitAt w 31 = false → scFirstBank w ≤ scLastBank w → scFirstRow w ≤ scLastRow w →
      tget none s.fab.integ.scrubs (fld w 0 4) = none → s.fab.integ.march = none → ∃ f, Gives (.scrub w) s f ∧ Accepted s 2 f ∧
        tget none f.integ.scrubs (fld w 0 4) = some ⟨newHandle s.fab, w, 0, 0, 0, 0, none, none, 0, 0⟩) ∧
    (∀ k : Fin 5, linkPresent s.fab k = true → s.fab.start.fawn = false → (linkOf s.fab k).train = none → linkUp s.fab k = false →
      (∀ t ∈ s.fab.lop.trains, k.val ∉ trainMask t.2) → farEnds s.fab = [] →
        ∃ f, Gives (.linkTrain (BitVec.ofNat 32 (2 ^ k.val))) s f ∧ Accepted s 6 f ∧
          (linkOf f k).st = .training ∧ (linkOf f k).train = some (newHandle s.fab, false) ∧
          f.lop.trains = s.fab.lop.trains ++ [(newHandle s.fab, BitVec.ofNat 32 (2 ^ k.val))]) ∧
    (∀ w0 w1 w2 w3 : BitVec 32, w0.toNat < 2 ^ 15 → w1.toNat < 2 ^ 20 → w3.toNat < 2 ^ 17 → s.fab.map.load = none → fld w0 0 2 = 2 →
      fld w3 0 17 + fld w0 2 13 + 1 ≤ 131072 → ∃ f l, Gives (.mapLoad w0 w1 w2 w3) s f ∧ Accepted s 9 f ∧
        f.map.load = some l ∧ l.handle = newHandle s.fab ∧ l.checked = true ∧ l.effect = none ∧ f.map.entries = s.fab.map.entries) ∧
    (∀ w0 w1 w2 w3 : BitVec 32, w0.toNat < 2 ^ 15 → w1.toNat < 2 ^ 20 → w3.toNat < 2 ^ 17 → s.fab.map.load = none → fld w0 0 2 < 2 →
      (fld w0 0 2 = 1 → fld w3 0 17 + fld w0 2 13 + 1 ≤ 131072) →
        let l : MapLoadRun := ⟨newHandle s.fab, w0, w1, w2, w3, [], 0, none, false, false, none⟩
        let f : Fab := { handleTaken 9 s.fab with map := { s.fab.map with load := some l } }
        (bitAt w1 0 = false → fld w1 18 2 ≠ 3 → placeOk (fld w1 1 9) (fld w1 10 8) (stripeOf (fld w1 18 2)) (fld w0 2 13 / 32) = true →
          Gives (.mapLoad w0 w1 w2 w3) s f) ∧
        (bitAt w1 0 = true → stackUp s.fab (fld w1 1 4) = true → Gives (.mapLoad w0 w1 w2 w3) s (askRecords l f))) ∧
    (∀ w0 w1 w2 w3 w4 : BitVec 32, w0.toNat < 2 ^ 29 → w1.toNat < 2 ^ 20 → w2.toNat < 2 ^ 17 → w4.toNat < 2 ^ 16 → w4 ≠ 0 →
      (bitAt w0 27 = true → bitAt w0 28 = true) → fld w1 0 16 ≠ (instanceId s.fab).toNat → s.fab.start.fawn = false →
      s.fab.lop.migs.length < 4 → ∀ l g, sourceEntries w4.toNat (fld w0 17 10 + 1) (fld w0 0 17) 0 (handleTaken 0x0A s.fab) = (some l, g) →
        ∃ m, m.handle = newHandle s.fab ∧ m.entries = l ∧ m.meTag = g.map.epoch ∧ m.segs = [] ∧ m.sent = 0 ∧
          Gives (.migrate w0 w1 w2 w3 w4) s (holdIdle (newHandle s.fab)
            (driveMigrate (newHandle s.fab) (onLop g fun x => { x with migs := x.migs ++ [m] })))) ∧
    (s.fab.sec.st ≠ 0 → s.fab.img.waiting = none → ∃ f r, Gives .save s f ∧ f.lop.last = newHandle s.fab ∧
      f.img.waiting = some r ∧ r.handles = [newHandle s.fab] ∧ r.self = false ∧ f.img.writing = s.fab.img.writing)

/-- R78, R104, R212, R246, R255, R311, R335: a MARCH with no engine left, a SCRUB with every row visited and a DRAIN of an empty
port end with their record; a MAP_LOAD takes effect with ME advanced by one, or waits; a group whose ports are empty is
calibrated with the fewest taps that leave the margin, and leaves its CANARY_CAL. -/
def Obligations.OperationsEnd : Prop :=
  ∀ (s : State), Runs .main s →
    (∀ m, s.fab.integ.march = some m → outstanding s.fab m.handle = true →
      (m.engines.all (fun e => match e.2 with | some x => x.finished | none => true) = true →
        ∃ f, Gives .marchComplete s f ∧ f.integ.march = none ∧ Ended s m.handle (if m.lowest.isSome then 1 else 0) f) ∧
      (m.engines.all (fun e => match e.2 with | some x => x.finished | none => true) = false → Gives .marchComplete s s.fab)) ∧
    (∀ (n : Fin 16) x, tget none s.fab.integ.scrubs n = some x → outstanding s.fab x.handle = true →
      (scrubTotal x.w ≤ x.visited → ∃ f, Gives (.scrubComplete n) s f ∧ tget none f.integ.scrubs n = none ∧ Ended s x.handle 0 f) ∧
      (x.visited < scrubTotal x.w → Gives (.scrubComplete n) s s.fab)) ∧
    (∀ (p : Fin 32) d, tget none s.fab.lop.drains p = some d → outstanding s.fab d.handle = true →
      (portEmpty s.fab p = true → ∃ f, Gives (.drainComplete p) s f ∧ tget none f.lop.drains p = none ∧ Ended s d.handle 0 f ∧
        f.ports = s.fab.ports) ∧
      (portEmpty s.fab p = false → Gives (.drainComplete p) s s.fab)) ∧
    (∀ l, s.fab.map.load = some l → l.checked = true → l.effect = none → (lMode l = 1 → (allocRun s.fab l).isSome = true) →
      (changeWaits s.fab ((loadWrites s.fab l).2.map (·.1)).dedup = false → ∃ f l', Gives .mapLoadTakeEffect s f ∧
        f.map.epoch = s.fab.map.epoch + 1 ∧ f.map.load = some l' ∧
        l'.effect = some ((loadWrites s.fab l).1, ((loadWrites s.fab l).2.map (·.1)).dedup.length, s.fab.map.epoch + 1)) ∧
      (changeWaits s.fab ((loadWrites s.fab l).2.map (·.1)).dedup = true → ∃ f, Gives .mapLoadTakeEffect s f ∧
        f.map.entries = s.fab.map.entries ∧ f.map.epoch = s.fab.map.epoch ∧ ∃ l', f.map.load = some l' ∧ l'.waited = true)) ∧
    (∀ (n : Fin 16) (meas : BitVec 384) (c : CalRun), s.fab.lop.cal = some c → bitAt c.todo n = true →
      portEmpty s.fab n = true → portEmpty s.fab (16 + n) = true → ∃ f, Gives (.calibrationComplete n meas) s f ∧
        tget 0 f.th.taps n = BitVec.ofNat 8 (chosenTaps s.fab meas) ∧ tget 0 f.th.added n = 0 ∧
        (calReached s.fab meas = true → bitAt f.th.frozen n = false) ∧
        (∀ c', f.lop.cal = some c' → bitAt c'.todo n = false))

/-- R316, R347 to R352, R363, R368: POWER_SET takes its place in the one-deep slot while a transition or a start runs, and is
refused with STATE when that is taken; else it ends at once with OK in the state it names, closes intake and quiesces for IDLE,
enters RETAIN or OFF once the ports are empty, resumes from IDLE with OK, leaves RETAIN, ends with OK as OFF is entered from
RETAIN, or runs the start that a refused off entry left due.  With descriptors waiting or in flight an entry to a lower state is
refused with STATE, and IDLE and RETAIN with SECURITY at level INTRUSIVE, while an unlock waits, or while a granted one is not over
(the model's choice, log 108); a refusal leaves the power state as it was. -/
def Obligations.PowerSetTransitions : Prop :=
  ∀ (c : Instr) (target : BitVec 2) (s : State), (c, target) ∈ [(Instr.powerSetOn, 0), (.powerSetIdle, 1), (.powerSetRetain, 2), (.powerSetOff, 3)] →
    Runs .ret s → s.fab.lop.ops.length < 64 → outstanding s.fab (newHandle s.fab) = false →
    let ended := fun status => ∃ f, Gives c s f ∧ Ended s (newHandle s.fab) status f ∧ f.pwr = s.fab.pwr
    let begins := fun f phase => ∃ t, f.pwr.trans = some t ∧ t.phase = phase ∧ t.target = target ∧ t.handle = newHandle s.fab
    let holds := (target = 1 ∨ target = 2) ∧ debugHolds s.fab = true
    (s.fab.pwr.queued.isSome = true → ended sState) ∧
    (s.fab.pwr.queued = none → moving s.fab = true → ∃ f, Gives c s f ∧
      f.pwr = { s.fab.pwr with queued := some (newHandle s.fab, target) } ∧
      f.lop.ops = s.fab.lop.ops ++ [⟨newHandle s.fab, 5, some 5, false⟩]) ∧
    (s.fab.pwr.queued = none → moving s.fab = false →
      (holds → ended sSecurity) ∧
      (s.fab.pwr.parked = true → target = 0 → ∃ f, Gives c s f ∧ begins f 4 ∧ f.start.stage = 5 ∧ f.start.warm = true ∧
        f.start.running = true ∧ f.pwr.st = 0 ∧ f.pwr.parked = false) ∧
      (¬ holds → (s.fab.pwr.parked = false ∨ target ≠ 0) →
        (target = s.fab.pwr.st → ended sOk) ∧
        (target = 1 → s.fab.pwr.st = 0 → queuesBusy s.fab = false → ∃ f, Gives c s f ∧ begins f 0 ∧ f.pwr.intakeOpen = false ∧
          f.pwr.st = 0 ∧ f.integ.march = none) ∧
        (2 ≤ target.toNat → s.fab.pwr.st.toNat < 2 → queuesBusy s.fab = false →
          ∃ f, Gives c s (advanceEntry f) ∧ begins f 1 ∧ f.pwr.intakeOpen = false) ∧
        (target ≠ 0 → target ≠ s.fab.pwr.st → s.fab.pwr.st.toNat < 2 → queuesBusy s.fab = true → ended sState) ∧
        (target = 0 → s.fab.pwr.st = 1 → s.fab.lop.migs = [] → s.fab.lop.trains = [] → (∀ o ∈ s.fab.lop.ops, o.pending = none) →
          ∃ f, Gives c s f ∧ Ended s (newHandle s.fab) sOk f ∧ f.pwr.st = 0 ∧ f.pwr.trans = none ∧
            (s.fab.start.stage = 7 → f.pwr.intakeOpen = true)) ∧
        (target = 0 → s.fab.pwr.st = 2 → ∃ f, Gives c s f ∧ begins f 3 ∧ f.pwr.retReq = false ∧ f.pwr.st = 2) ∧
        (target = 3 → s.fab.pwr.st = 2 → ∃ f, Gives c s f ∧ Ended s (newHandle s.fab) sOk f ∧ begins f 5 ∧ f.pwr.offReq = true ∧
          f.pwr.st = 2)))

/-- R346, R349 to R351: what the answers of the power manager, or their absence, do to the transition that waits for them, no
other POWER_SET waiting: RETAIN is reached, with the rows kept and the fences lost; the entry is taken back; the warm start
out of RETAIN begins at stage 1; RETAIN is kept; OFF is reached, with what the surroundings hold alone; or the off request
falls.  A transition that waits for something else is not affected. -/
def Obligations.PowerAnswers : Prop :=
  ∀ (s : State) (t : Machine.PSet), Runs .ret s → s.fab.pwr.trans = some t → s.fab.pwr.queued = none → (∀ o ∈ s.fab.lop.ops, o.opcode = 5) →
    (t.phase = 2 → (∃ f, Gives .pwrRetAck s f ∧ f.pwr.st = 2 ∧ f.pwr.trans = none ∧ f.store = s.fab.store ∧ f.fences = [] ∧
        f.map.entries = s.fab.map.entries) ∧
      (∃ f t', Gives .retainAckTimeout s f ∧ f.pwr.retReq = false ∧ f.pwr.trans = some t' ∧ t'.phase = 4 ∧ t'.status = 8 ∧
        f.pwr.st = 0 ∧ f.start.stage = 5 ∧ f.start.warm = true ∧ f.start.running = true)) ∧
    (t.phase = 3 → (∃ f t', Gives .retainExit s f ∧ f.start.stage = 1 ∧ f.start.warm = true ∧ f.start.running = true ∧
        f.pwr.trans = some t' ∧ t'.phase = 4) ∧
      (∃ f, Gives .retainExitTimeout s f ∧ f.pwr.trans = none ∧ f.pwr.st = s.fab.pwr.st ∧ f.store = s.fab.store ∧
        (outstanding s.fab t.handle = true → Ended s t.handle 8 f))) ∧
    (t.phase = 5 → (∃ f, exec .pwrOffAck s = .next { s with slots := [], fab := f } ∧ f.pwr.st = 3 ∧ f.store = {} ∧ f.ports = [] ∧
        f.queues = [] ∧ f.prm = s.fab.prm ∧ f.img.a = s.fab.img.a ∧ f.img.b = s.fab.img.b) ∧
      (∃ f, Gives .offAckTimeout s f ∧ f.pwr.offReq = false ∧ f.pwr.trans = none ∧ f.pwr.st = s.fab.pwr.st ∧
        f.store = s.fab.store)) ∧
    (t.phase ≠ 2 → Gives .pwrRetAck s s.fab ∧ Gives .retainAckTimeout s s.fab) ∧
    (t.phase ≠ 3 → Gives .retainExit s s.fab ∧ Gives .retainExitTimeout s s.fab) ∧
    (t.phase ≠ 5 → exec .pwrOffAck s = .next s ∧ Gives .offAckTimeout s s.fab)

/-- R9, R338, R346, R354, R385, R387: a fall of a rail good signal is noted, and outside the power sequences that may lose it leaves
a rail outside its limits; POWER_GOOD out of OFF or after that is a cold start with every slot entry at its default and nothing
stored, ends stage 1 of a start that waits for it with the security values latched, and else only notes the rails.  While the
security core presents no values stage 1 goes on, and a cold start that does not get past it in its time stops there with its record.
A descriptor whose `REQ` was high as RETAIN ended is then taken. -/
def Obligations.RailsAndPowerGood : Prop :=
  ∀ (s : State),
    (∀ goods : BitVec 3, ∃ f, Gives (.railLoss goods) s f ∧ f.pwr.goods = goods ∧ f.store = s.fab.store ∧ f.start = s.fab.start ∧
      (f.pwr.excursion = true ↔ (s.fab.pwr.excursion = true ∨
        ((bitAt goods 0 = false ∨ bitAt goods 1 = false) ∧ s.fab.pwr.st.toNat < 2 ∧
          ∀ t, s.fab.pwr.trans = some t → t.phase ≠ 2 ∧ t.phase ≠ 3 ∧ t.phase ≠ 5) ∨
        (bitAt goods 2 = false ∧ s.fab.pwr.st ≠ 3)))) ∧
    ((s.fab.pwr.excursion = true ∨ s.fab.pwr.st = 3) →
      (∀ v : SecValues, ∃ f, exec (.powerGood (some v)) s = .next { s with slots := [], fab := f } ∧
        f.start.stage = 2 ∧ f.start.warm = false ∧ f.start.running = true ∧ f.pwr.excursion = false ∧ f.pwr.st = 0 ∧
        f.sec.st = v.state ∧ f.sec.epoch = v.epoch ∧ f.store = {} ∧ f.queues = [] ∧ f.img.a = s.fab.img.a) ∧
      (∃ f, exec (.powerGood none) s = .next { s with slots := [], fab := f } ∧ f.start.stage = 1 ∧ f.start.warm = false ∧
        f.start.running = true ∧ f.pwr.excursion = false ∧ f.pwr.goods = 7 ∧ f.store = {} ∧ f.queues = [] ∧
        f.img.a = s.fab.img.a)) ∧
    (s.fab.pwr.excursion = false → s.fab.pwr.st ≠ 3 → s.fab.isolated = [] →
      let noted := fun c => ∃ f, Gives c s f ∧ f.pwr = { s.fab.pwr with goods := 7 } ∧ f.start = s.fab.start ∧ f.store = s.fab.store
      noted (.powerGood none) ∧
      ((atStage s.fab 1 = false ∨ s.fab.wir = .extest ∨ s.fab.wir = .intestScan) → ∀ v, noted (.powerGood (some v))) ∧
      (s.fab.wir ≠ .extest → s.fab.wir ≠ .intestScan → atStage s.fab 1 = true → s.fab.start.handle = none →
        ∀ v : SecValues, ∃ f, Gives (.powerGood (some v)) s f ∧ f.start.stage = 2 ∧ f.pwr.st = 0 ∧ f.pwr.goods = 7 ∧
          f.sec.st = v.state ∧ f.sec.epoch = v.epoch ∧ f.store = s.fab.store)) ∧
    (∀ (q : Fin 256) (d : Desc) (v : SecValues), s.fab.pwr.excursion = false → s.fab.pwr.st = 2 → s.fab.wir ≠ .extest →
      s.fab.wir ≠ .intestScan → atStage s.fab 1 = true → s.fab.start.handle = none →
      s.fab.isolated = [.descriptorIntake q d] → (queueOf s.fab q).intake.length < 8 →
        ∃ f w, Gives (.powerGood (some v)) s f ∧ f.pwr.st = 0 ∧ f.isolated = [] ∧
          (queueOf f q).intake = (queueOf s.fab q).intake ++ [w] ∧ w.desc = d) ∧
    (∀ sub : BitVec 8, s.fab.pwr.excursion = false → s.fab.pwr.st = 3 → s.fab.wir ≠ .extest → s.fab.wir ≠ .intestScan →
      (1 ≤ sub.toNat → sub.toNat ≤ 4 → ∃ f, exec (.stageTimeout sub) s = .next { s with slots := [], fab := f } ∧
        f.start.stage = 1 ∧ f.start.running = false ∧ fld (tget 0 f.start.history 0) 0 4 = 1 ∧
        fld (tget 0 f.start.history 0) 8 8 = sub.toNat ∧ f.store = {} ∧ f.queues = []) ∧
      ((sub = 0 ∨ 4 < sub.toNat) → exec (.stageTimeout sub) s = .next s))

/-- R250, R335, R338, R340, R341, R345: each stage of a start, where nothing fails, leaves the next one to follow: a cold start's
march leaves every row UNWRITTEN, every group is calibrated once every port is empty, an accounting save is due unless the instance
is BLANK, the links train or a Fawn start holds them DOWN, the map and the groups are empty; READY opens intake with the fences at zero.  A stage out of its turn does
nothing. -/
def Obligations.StagesPass : Prop :=
  ∀ (s : State), Runs .main s →
    (atStage s.fab 2 = true → s.fab.start.warm = false → ∃ f, Gives (.stageQuickMarch []) s f ∧ f.start.stage = 3 ∧
      f.store.rows = [] ∧ f.store.rstate = [] ∧ f.store.pwb = []) ∧
    (∀ failed, atStage s.fab 2 = true → s.fab.start.warm = true → s.fab.start.zeroAtTwo = false →
      ∃ f, Gives (.stageQuickMarch failed) s f ∧ f.start.stage = 3 ∧ f.store.rows = s.fab.store.rows) ∧
    (∀ meas, atStage s.fab 3 = true → allEmpty s.fab = false → Gives (.stageCanaryCal meas) s s.fab) ∧
    (∀ meas, atStage s.fab 3 = true → allEmpty s.fab = true → s.fab.th.valid = true → (∀ n, n < 16 → calReached s.fab (measOf meas n) = true) →
      ∃ f, Gives (.stageCanaryCal meas) s f ∧ f.start.stage = 4 ∧
        (∀ n, n < 16 → tget 0 f.th.taps n = BitVec.ofNat 8 (chosenTaps s.fab (measOf meas n)) ∧ bitAt f.th.frozen n = false)) ∧
    (atStage s.fab 4 = true → s.fab.start.saving = false → s.fab.start.warm = true → s.fab.start.counted = false →
      s.fab.start.failed.toNat < s.fab.start.fawnAt.toNat → s.fab.start.fawnStart = false →
      (s.fab.start.fawn = false ∨ (s.fab.start.handle.isSome = true ∧ s.fab.start.failed = 0)) → ∃ f, Gives .stageDictionary s f ∧
        f.start.fawn = false ∧
        f.start.count = s.fab.start.count + 1 ∧ f.start.failed = BitVec.ofNat 8 (min 7 (s.fab.start.failed.toNat + 1)) ∧
        (s.fab.sec.st = 0 → f.start.stage = 5) ∧
        (s.fab.sec.st ≠ 0 → f.start.stage = 4 ∧ f.start.saving = true ∧ f.img.waiting.isSome = true)) ∧
    (∀ r, atStage s.fab 5 = true →
      (s.fab.start.fawnStart = true → Gives (.stageLinks r) s (fawnLinks s.fab)) ∧
      (s.fab.start.fawnStart = false → linkFailure (trainAll false r s.fab).1 = none →
        Gives (.stageLinks r) s (toStage 6 (trainAll false r s.fab).2))) ∧
    (atStage s.fab 4 = true → s.fab.start.saving = false → s.fab.start.warm = false → s.fab.start.counted = false →
      s.fab.start.fawnStart = false → s.fab.start.fawn = false → s.fab.img.a = [] → s.fab.img.b = [] → ∃ f, Gives .stageDictionary s f ∧
        f.start.count = 1 ∧ f.start.failed = 1 ∧ f.img.source = 0 ∧ f.dom.route = [] ∧ (s.fab.sec.st = 0 → f.start.stage = 5)) ∧
    (atStage s.fab 6 = true → s.fab.start.warm = false →
      (s.fab.start.fawnStart = true ∨ ∀ k, k < 4 → linkUp s.fab k = true →
        (linkOf s.fab k).partner.toNat / 8 = (s.fab.dom.packageId.setWidth 13 : BitVec 13).toNat) → ∃ f, Gives (.stageMapRoute true) s f ∧
      f.start.done = true ∧ f.map.entries = [] ∧ f.map.epoch = 0 ∧ f.epgroups = [] ∧ f.dom.routeInUse = true) ∧
    (s.fab.start.running = true → s.fab.start.done = true → s.fab.pwr.trans = none → s.fab.pwr.queued = none →
      ∃ f, Gives .ready s f ∧ f.start.stage = (if s.fab.start.fawnStart then 8 else 7) ∧ f.start.running = false ∧
        f.pwr.intakeOpen = true ∧ f.fences = [] ∧ (s.fab.start.fawnStart = false → f.start.failed = 0)) ∧
    (∀ n, atStage s.fab n = false →
      (n = 2 → ∀ l, Gives (.stageQuickMarch l) s s.fab) ∧ (n = 3 → ∀ l, Gives (.stageCanaryCal l) s s.fab) ∧
      (n = 4 → Gives .stageDictionary s s.fab) ∧ (n = 5 → ∀ r, Gives (.stageLinks r) s s.fab) ∧
      (n = 6 → ∀ b, Gives (.stageMapRoute b) s s.fab)) ∧
    ((s.fab.start.running && s.fab.start.done) = false → Gives .ready s s.fab)

/-- R302, R315, R318, R338 to R341, R343: a stage that runs out of its time stands first in `FAIL_HISTORY` with its subcode, that of
stage 5 made of the port it fails for and the port's stage, and the start stops, or goes on in Fawn mode; RESTART closes intake and
begins at stage 1 with what it holds kept where no march is asked for; with a descriptor in flight, or while a transition, a start, a
waiting POWER_SET or a ZEROIZE stands before it, it ends with STATE. -/
def Obligations.StartsFailAndRestart : Prop :=
  ∀ (s : State), Runs .ret s →
    (∀ (sub : BitVec 8), atStage s.fab s.fab.start.stage.toNat = true → 1 ≤ s.fab.start.stage.toNat → s.fab.start.stage.toNat ≤ 4 →
      s.fab.pwr.trans = none → s.fab.pwr.queued = none →
      (lateSubcode s.fab.start.stage.toNat sub.toNat = true → (s.fab.start.stage = 3 → s.fab.start.fawnStart = false) →
        ∃ f, Gives (.stageTimeout sub) s f ∧
        fld (tget 0 f.start.history 0) 0 4 = s.fab.start.stage.toNat ∧ fld (tget 0 f.start.history 0) 8 8 = sub.toNat ∧
        (f.start.running = false ∨ f.start.fawnStart = true)) ∧
      (lateSubcode s.fab.start.stage.toNat sub.toNat = false → Gives (.stageTimeout sub) s s.fab)) ∧
    (∀ (sub : BitVec 8), atStage s.fab 5 = true → s.fab.start.fawnStart = false → s.fab.pwr.trans = none → s.fab.pwr.queued = none →
      let t := trainAll true ⟨0, 0, 0, 0, 0⟩ s.fab
      (linkFailure t.1 = none → Gives (.stageTimeout sub) s (toStage 6 t.2)) ∧
      (∀ e, linkFailure t.1 = some e → ∃ f, Gives (.stageTimeout sub) s f ∧ fld (tget 0 f.start.history 0) 0 4 = 5 ∧
        fld (tget 0 f.start.history 0) 8 8 = (e.2 + 16 * e.1) % 256 ∧ (f.start.running = false ∨ f.start.fawnStart = true))) ∧
    (∀ w : BitVec 32, w.toNat < 2 → s.fab.pwr.st.toNat < 2 → s.fab.lop.ops.length < 64 → moving s.fab = false →
      s.fab.pwr.queued = none → s.fab.lop.zero = none → zeroFirst s.fab = false →
      ((∀ e ∈ s.fab.queues, e.2.flights = []) → ∃ f, Gives (.restart w) s (advanceRestart f) ∧
        f.start.stage = 1 ∧ f.start.running = true ∧ f.start.entering = true ∧ f.start.handle = some (newHandle s.fab) ∧
        f.start.warm = !bitAt w 0 ∧ f.pwr.intakeOpen = false ∧ f.store = s.fab.store ∧ f.queues = s.fab.queues) ∧
      ((∃ e ∈ s.fab.queues, e.2.flights ≠ []) → ∃ f, Gives (.restart w) s f ∧ Ended s (newHandle s.fab) sState f ∧
        f.start = s.fab.start ∧ f.pwr = s.fab.pwr)) ∧
    (∀ w : BitVec 32, s.fab.lop.ops.length < 64 → s.fab.pwr.st ≠ 2 →
      (2 ≤ w.toNat ∨ moving s.fab = true ∨ s.fab.pwr.queued.isSome = true ∨ s.fab.lop.zero.isSome = true) →
        ∃ f, Gives (.restart w) s f ∧ Ended s (newHandle s.fab) sState f ∧ f.start = s.fab.start ∧ f.pwr = s.fab.pwr)

/-- R276 to R278, R317, R348, R358: a waiting SAVE begins once the temperature is in its window and none writes, with its copy invalid,
and is put off outside the window, and in BLANK it ends with SECURITY; one that writes ends with its copy whole, or with FAULT or TIMEOUT; a ZEROIZE whose scope
is written clears the rest of it, restores FREEZE and is counted; a quiesce whose ports are empty is IDLE.  No other
transition or start waits. -/
def Obligations.SavesAndZeroizesEnd : Prop :=
  ∀ (s : State), Runs .main s → s.fab.pwr.queued = none → s.fab.start.entering = false →
    (∀ r, s.fab.img.waiting = some r → s.fab.img.writing = none →
      (∀ h, s.fab.sec.st = 0 → r.handles = [h] → outstanding s.fab h = true → s.fab.start.saving = false →
        ∃ f, Gives .saveStart s f ∧ f.img.waiting = none ∧ f.img.writing = none ∧ Ended s h sSecurity f ∧
          f.img.a = s.fab.img.a ∧ f.img.b = s.fab.img.b) ∧
      (s.fab.sec.st ≠ 0 → saveWindow s.fab = true → ∃ f w, Gives .saveStart s f ∧ f.img.waiting = none ∧ f.img.writing = some w ∧
        w.bytes = imageBytes s.fab (nextSeqNo s.fab) ∧ w.toB = targetCopy s.fab ∧
        (copyOf f w.toB).take 4 = [0, 0, 0, 0] ∧ copyOf f (!w.toB) = copyOf s.fab (!w.toB)) ∧
      (s.fab.sec.st ≠ 0 → saveWindow s.fab = false → s.fab.start.saving = false → ∃ f, Gives .saveStart s f ∧ f.img.writing = none ∧
        (∃ r', f.img.waiting = some r' ∧ r'.reported = true ∧ r'.handles = r.handles) ∧ f.img.a = s.fab.img.a ∧ f.img.b = s.fab.img.b)) ∧
    (s.fab.img.waiting = none → Gives .saveStart s s.fab) ∧
    (∀ r h, s.fab.img.writing = some r → r.handles = [h] → outstanding s.fab h = true → s.fab.pwr.trans = none →
      s.fab.start.saving = false →
      (∃ f, Gives (.saveComplete true) s f ∧ f.img.writing = none ∧ Ended s h 0 f ∧
        copyOf f r.toB = r.bytes ++ (copyOf s.fab r.toB).drop r.bytes.length) ∧
      (∃ f, Gives (.saveComplete false) s f ∧ f.img.writing = none ∧ Ended s h 7 f ∧ copyOf f r.toB = copyOf s.fab r.toB) ∧
      (∃ f, Gives .saveTimeout s f ∧ f.img.writing = none ∧ Ended s h 8 f ∧ copyOf f r.toB = copyOf s.fab r.toB)) ∧
    (∀ z, s.fab.lop.zero = some z → z.begun = true → z.trigger = 0 → s.fab.sec.zeroing = false → s.fab.pwr.trans = none →
      outstanding s.fab z.handle = true →
      (zeroWritten z = true → ∃ f, Gives .zeroizeDone s f ∧ f.lop.zero = none ∧ Ended s z.handle 0 f ∧
        (∀ p, p < 32 → (portOf f p).freeze = bitAt z.froze p) ∧ f.sec.zeroCount = s.fab.sec.zeroCount + 1 ∧
        (bitAt z.scope 0 = true → f.store.rows = [] ∧ f.store.rstate = [] ∧ f.store.pwb = []) ∧
        (bitAt z.scope 1 = true → f.map.entries = [] ∧ f.map.epoch = 0) ∧ (bitAt z.scope 2 = true → f.epgroups = []) ∧
        (bitAt z.scope 3 = true → f.integ.log = [] ∧ f.sec.trace = [])) ∧
      (zeroWritten z = false → Gives .zeroizeDone s s.fab)) ∧
    (∀ t, s.fab.pwr.trans = some t → t.phase = 0 → allEmpty s.fab = true → ∃ f, Gives .idleReached s f ∧ f.pwr.st = 1 ∧
      f.pwr.trans = none ∧ f.store = s.fab.store) ∧
    ((s.fab.pwr.trans = none ∨ ∃ t, s.fab.pwr.trans = some t ∧ t.phase = 0 ∧ allEmpty s.fab = false) → Gives .idleReached s s.fab)

/-- R299, R328 to R330, R332, R334, R384: a housekeeping round counts, takes the time base, the diode and the rails its partner
gave, and puts the values written since the last one in effect; in ON and IDLE the throttle level rises at once to what the
temperature asks for and falls a level at a time, and the shutdown request follows its limits; in RETAIN nothing but the
diode and VDD_RET is read, and a level is held while the diode has no reading.  A round's missing answers are noted.
R337: a collapsed group is frozen and is to be recalibrated; another is left alone. -/
def Obligations.HousekeepingRounds : Prop :=
  (∀ (s : State), Runs .ret s →
      (∀ (h : HkSample) (c : Instr), (c = .housekeepingRound h ∨ c = .backstopRound h) →
        (∃ f, Gives c s f ∧ f.th.rounds = s.fab.th.rounds + 1 ∧ f.th.hkLost = false ∧ f.th.tbLost = false ∧
          f.pwr.hostNs = (if s.fab.th.tbLost then s.fab.pwr.hostNs else h.ns) ∧
          f.th.diode = (if s.fab.th.hkLost then 0x8000 else h.temp) ∧
          f.pwr.vret = (if s.fab.th.hkLost then s.fab.pwr.vret else h.vret.setWidth 16) ∧
          f.th.startAct = s.fab.th.start ∧ f.th.canaryAct = s.fab.th.canary ∧
          (f.th.dilAct1, f.th.dilAct2, f.th.dilAct3) = (s.fab.th.dil1, s.fab.th.dil2, s.fab.th.dil3) ∧ f.store = s.fab.store ∧
          (s.fab.pwr.st = 2 → f.th.held = (!f.th.valid && f.th.level != 0) ∧ f.pwr.vtrf = s.fab.pwr.vtrf ∧ f.th.level = s.fab.th.level ∧ f.th.inUse = s.fab.th.inUse ∧
            f.ports = s.fab.ports ∧ f.queues = s.fab.queues) ∧
          (s.fab.pwr.st ≠ 2 →
            f.pwr.vtrf = (if s.fab.th.hkLost then s.fab.pwr.vtrf else h.vtrf.setWidth 16) ∧
            (s.fab.th.level.toNat < computedLevel f → f.th.level.toNat = computedLevel f) ∧
            (s.fab.start.recompute = false → computedLevel f ≤ s.fab.th.level.toNat → f.th.level = s.fab.th.level ∨
              (f.th.level.toNat + 1 = s.fab.th.level.toNat ∧ f.th.valid = true ∧ 1 ≤ s.fab.th.easeRun)) ∧
            (∀ x, actingTemp f = some x → 16 * ((s.fab.th.start.toNat : Int) + 15) ≤ x → f.th.shutdown = true) ∧
            (∀ x, actingTemp f = some x → x < 16 * ((s.fab.th.start.toNat : Int) + 12) → f.th.valid = true →
              f.th.shutdown = false)))) ∧
      Gives .hkTimeout s { s.fab with th := { s.fab.th with hkLost := true } } ∧
      Gives .tbTimeout s { s.fab with th := { s.fab.th with tbLost := true } }) ∧
  (∀ (n : Fin 16) (s : State), Runs .main s →
      (bitAt s.fab.th.collapsed n = false → Gives (.groupFrozen n) s s.fab) ∧
      (bitAt s.fab.th.collapsed n = true → ∃ f, Gives (.groupFrozen n) s f ∧ f.th.frozen = putBit s.fab.th.frozen n true ∧
        f.th.recal = putBit s.fab.th.recal n true ∧ f.th.collapsed = putBit s.fab.th.collapsed n false ∧
        f.th.taps = s.fab.th.taps ∧ f.ports = s.fab.ports ∧ f.queues = s.fab.queues ∧ f.store = s.fab.store))

/-- R355 to R357: step 2 of a change handshake latches the values presented, and where state or epoch differ the level falls to
NONE, a pending unlock is denied and the zeroize done signal falls; step 5 leaves a zeroize owed for a change that no
running or waiting one covers; the zeroize owed longest, in ON or IDLE, closes intake, empties every queue and runs over its scope,
after a ZEROIZE that runs, and those owed after it wait. -/
def Obligations.SecurityChangesZeroize : Prop :=
  ∀ (s : State), Runs .ret s →
    (∀ v : SecValues,
      (s.fab.sec.chgAck = true → Gives (.securityChange v) s s.fab) ∧
      (s.fab.sec.chgAck = false → ∃ f, Gives (.securityChange v) s f ∧ f.sec.st = v.state ∧ f.sec.epoch = v.epoch ∧
        f.sec.key = v.key ∧ f.sec.keyValid = v.keyValid ∧ f.sec.chgAck = true ∧ f.store = s.fab.store ∧ f.queues = s.fab.queues ∧
        (v.state = s.fab.sec.st → v.epoch = s.fab.sec.epoch → f.sec.changed = false ∧ f.sec.level = s.fab.sec.level ∧
          f.sec.unlock = s.fab.sec.unlock ∧ f.sec.zeroDone = s.fab.sec.zeroDone ∧ f.out = s.fab.out) ∧
        (v.state ≠ s.fab.sec.st ∨ v.epoch ≠ s.fab.sec.epoch → f.sec.changed = true ∧ f.sec.level = 0 ∧ f.sec.zeroDone = false ∧
          (s.fab.sec.level ≠ 0 → f.sec.request = 0) ∧ f.sec.owed = s.fab.sec.owed ∧
          (s.fab.sec.level.toNat < 2 → (s.fab.sec.unlock = 1 ∨ s.fab.sec.unlock = 2) →
            f.sec.unlock = 3 ∧ f.sec.unlockReq = false)))) ∧
    (s.fab.sec.chgAck = false → Gives .secChgRelease s s.fab) ∧
    (s.fab.sec.chgAck = true → Gives .secChgRelease s
      { s.fab with sec := { s.fab.sec with
          chgAck := false, changed := false, covered := false,
          owed := if s.fab.sec.changed = true ∧ s.fab.sec.covered = false ∧ (∀ t ∈ s.fab.sec.owed, t = 2) then
              s.fab.sec.owed ++ [if s.fab.pwr.st = 2 ∧ s.fab.pwr.trans = none then 3 else 1]
            else s.fab.sec.owed } }) ∧
    (Runs .main s → (s.fab.sec.owed = [] ∨ moving s.fab = true ∨ s.fab.sec.zeroing = true) → Gives .securityZeroize s s.fab) ∧
    (∀ t rest, Runs .main s → s.fab.sec.owed = t :: rest → moving s.fab = false → s.fab.sec.zeroing = false →
      ∃ f, Gives .securityZeroize s f ∧ f.sec.zeroing = true ∧ f.pwr.intakeOpen = false ∧
        (∀ q, (queueOf f q).intake = [] ∧ (queueOf f q).reissue = []) ∧
        (s.fab.lop.zero.isSome = true → f.sec.owed = t :: rest ∧ f.lop.zero = s.fab.lop.zero) ∧
        (s.fab.lop.zero = none → f.sec.owed = rest ∧ (∃ z, f.lop.zero = some z ∧ z.trigger = t ∧
            z.scope = (if t = 2 then 7 else 15)) ∧ (∀ p, p < 32 → (portOf f p).freeze = true)))

/-- R262, R297: a fault is armed under INTRUSIVE with the kind, target, word and bit commanded, is refused with LAYOUT where a
field lies outside its kind's range, with SECURITY_DEBUG below INTRUSIVE and with STATE in RETAIN (R264). -/
def Obligations.InjectionsNeedIntrusive : Prop :=
  ∀ (c : Instr) (kind target word bit : Nat) (s : State), injection c = some (kind, target, word, bit) → Runs .ret s →
    (s.fab.pwr.st = 2 → Gives c s (emit s.fab (.status 6))) ∧
    (s.fab.pwr.st ≠ 2 → s.fab.sec.level ≠ 2 → Gives c s (emit s.fab (.status 8))) ∧
    (s.fab.pwr.st ≠ 2 → s.fab.sec.level = 2 → ¬InjectRange kind target word bit → Gives c s (emit s.fab (.status 0x0C))) ∧
    (s.fab.pwr.st ≠ 2 → s.fab.sec.level = 2 → InjectRange kind target word bit →
      ∃ v : BitVec 64, Gives c s (emit { s.fab with sec := { s.fab.sec with inject := v } } (.status 0)) ∧ fld v 0 4 = kind ∧
        fld v 4 17 = target ∧ fld v 21 6 = word ∧ fld v 27 8 = bit ∧ fld v 35 29 = 0)

/-- R256, R298, R360 to R362: the debug level rises to OBSERVE at once, to INTRUSIVE at once outside SECURE and by an unlock in it,
where the state admits it; it falls at once; an unlock is granted for the epoch, denied, or runs out of rounds; PORT_HALT and
FALLBACK_TEST are written under INTRUSIVE, and the fall-back arrangement takes effect once every port is empty. -/
def Obligations.DebugLevelsAndHalts : Prop :=
  ∀ (s : State), Runs .ret s →
    (s.fab.pwr.st = 2 → Gives .debugObserve s (emit s.fab (.status 6)) ∧ Gives .debugIntrusive s (emit s.fab (.status 6)) ∧
      (∀ v, Gives (.debugLower v) s (emit s.fab (.status 6))) ∧ (∀ v, Gives (.portHalt v) s (emit s.fab (.status 6)))) ∧
    (s.fab.pwr.st ≠ 2 → s.fab.sec.level = 0 → ∃ f, Gives .debugObserve s f ∧ f.sec.level = 1 ∧ f.sec.request = 1 ∧
      f.out.head? = some (.status 0)) ∧
    (∀ v : BitVec 2, s.fab.pwr.st ≠ 2 → (v = 3 → Gives (.debugLower v) s (emit s.fab (.status 0x0B))) ∧
      (v.toNat ≤ s.fab.sec.level.toNat → v ≠ 3 → ∃ f, Gives (.debugLower v) s f ∧ f.sec.level = v ∧ f.sec.request = v.setWidth 8 ∧
        f.out.head? = some (.status 0) ∧ (s.fab.sec.level = 2 → v ≠ 2 → f.sec.portHalt = 0 ∧ f.sec.inject = 0 ∧
          f.integ.fallTest = false) ∧ (v = 0 → s.fab.sec.level ≠ 0 → f.sec.traceQ = 0 ∧ f.sec.trace = []))) ∧
    (s.fab.pwr.st ≠ 2 → s.fab.sec.level.toNat < 2 →
      (intrusiveOk s.fab = false → Gives .debugIntrusive s (emit s.fab (.status 6))) ∧
      (intrusiveOk s.fab = true → s.fab.sec.st ≠ 2 → ∃ f, Gives .debugIntrusive s f ∧ f.sec.level = 2 ∧ f.sec.request = 2) ∧
      (intrusiveOk s.fab = true → s.fab.sec.st = 2 → s.fab.sec.unlock ≠ 1 → s.fab.sec.unlock ≠ 2 → ∃ f,
        Gives .debugIntrusive s f ∧ f.sec.level = s.fab.sec.level ∧ f.sec.unlock = 1 ∧ f.sec.unlockReq = true)) ∧
    (∀ (granted : Bool) (echo : BitVec 32),
      (s.fab.sec.unlock ≠ 1 → Gives (.unlock granted echo) s s.fab ∧ Gives .unlockTimeout s s.fab) ∧
      (s.fab.sec.unlock = 1 → (granted = true ∧ echo = s.fab.sec.epoch) → ∃ f, Gives (.unlock granted echo) s f ∧
        f.sec.unlock = 2 ∧ f.sec.unlockReq = false ∧ f.sec.owed = s.fab.sec.owed ++ [2] ∧ f.sec.level = s.fab.sec.level) ∧
      (s.fab.sec.unlock = 1 → ¬(granted = true ∧ echo = s.fab.sec.epoch) → ∃ f, Gives (.unlock granted echo) s f ∧
        f.sec.unlock = 3 ∧ f.sec.unlockReq = false ∧ f.sec.level = s.fab.sec.level ∧ f.sec.owed = s.fab.sec.owed)) ∧
    (s.fab.sec.unlock = 1 → (s.fab.sec.unlockRounds < 1250 → Gives .unlockTimeout s s.fab) ∧
      (1250 ≤ s.fab.sec.unlockRounds → ∃ f, Gives .unlockTimeout s f ∧ f.sec.unlock = 3 ∧ f.sec.unlockReq = false)) ∧
    (∀ v : BitVec 32, s.fab.pwr.st ≠ 2 → (s.fab.sec.level ≠ 2 → Gives (.portHalt v) s (emit s.fab (.status 8))) ∧
      (s.fab.sec.level = 2 → ∃ f, Gives (.portHalt v) s f ∧ f.sec.portHalt = v ∧ f.store = s.fab.store ∧
        f.out.head? = some (.status 0) ∧
        ((∀ p, burstOf (portOf s.fab p) = none) → ∀ p, p < 32 → ∀ n, nextBurst (portOf s.fab p) = some n → n.req ≠ rZero →
          (portOf f p).next = if bitAt v p = true ∧ bitAt s.fab.sec.portHalt p = false then some .empty
            else (portOf s.fab p).next))) ∧
    (∀ v : BitVec 8, (s.fab.pwr.st ≠ 0 → Gives (.fallbackTest v) s (emit s.fab (.status 6))) ∧
      (s.fab.pwr.st = 0 → s.fab.sec.level ≠ 2 → Gives (.fallbackTest v) s (emit s.fab (.status 8))) ∧
      (s.fab.pwr.st = 0 → s.fab.sec.level = 2 → 1 < v.toNat → Gives (.fallbackTest v) s (emit s.fab (.status 0x0B))) ∧
      (s.fab.pwr.st = 0 → s.fab.sec.level = 2 → v.toNat ≤ 1 → Gives (.fallbackTest v) s
        (emit { s.fab with integ := { s.fab.integ with fallTest := v == 1 } } (.status 0)))) ∧
    (Runs .main s → (allEmpty s.fab = false → Gives .fallbackEngage s s.fab) ∧
      (allEmpty s.fab = true → Gives .fallbackEngage s { s.fab with integ := { s.fab.integ with fallOn := s.fab.integ.fallTest } }))

/-- R265, R267 to R269, R305, R309, R310: what a message to a free engine is answered with: the bytes of the entry read, the status
of the write, with nothing changed by a refused one, the elements of the block, the handle of the long operation, the same
handle when the command is repeated, the state of a handle, and the subscription's new mask. -/
def Obligations.MessagesAnswered : Prop :=
  ∀ (m : BdpMsg) (s : State), Runs .ret s →
    let x := hIndex (msgHdr m)
    let y := hSub (msgHdr m)
    let g := engineTook false s.fab
    (Acted 1 m s.fab →
      (∀ c, readCheck x y s.fab = c → c ≠ 0 → ∃ f, Gives (.read m) s f ∧ Responds m c 0 0 [] s.fab.out f ∧ f.store = s.fab.store) ∧
      (readCheck x y s.fab = 0 → readsPlain x y s.fab = true → hCount (msgHdr m) = 0 → msgPayload m = [] →
        ∃ f, Gives (.read m) s f ∧ f.store = s.fab.store ∧ f.map = s.fab.map ∧
          Responds m 0 0 0 (bytesOf (sizeAt x y) (plainValue (some m.eid) s.slots g x y)) s.fab.out f)) ∧
    (Acted 2 m s.fab → isRowData x y = false →
      let r := writeEntryAt (some m.eid) x y (if hCount (msgHdr m) = 0 then (msgPayload m).length else 2048) (ofBytes (msgPayload m)) s.slots g
      ∃ f, exec (.write m) s = .next { s with slots := r.2.1, fab := f } ∧ Responds m r.1 0 0 [] r.2.2.out f ∧
        f.ports = r.2.2.ports ∧ (r.1 ≠ 0 → r.2.1 = s.slots ∧ r.2.2 = g)) ∧
    (Acted 3 m s.fab → firstStatus (some m.eid) s.slots x y g = 0 → x ≠ 0x9100 → 1 ≤ hCount (msgHdr m) → hCount (msgHdr m) ≤ 256 →
      msgPayload m = [] → ∃ f bytes n l, Gives (.readBlock m) s f ∧ Responds m 0 n 0 bytes l f ∧
        (bytes, n) = ((blockRead (some m.eid) s.slots x (hCount (msgHdr m)) y 1024 g).1,
          (blockRead (some m.eid) s.slots x (hCount (msgHdr m)) y 1024 g).2.1) ∧ n ≤ hCount (msgHdr m) ∧ bytes.length ≤ 1024) ∧
    (Acted 4 m s.fab → commandCheck x y (hCount (msgHdr m)) (msgPayload m).length s.fab = 0 →
      ((∀ e ∈ tget [] s.fab.bdp.seen m.eid.toNat, sameCommand m e = false) →
        (64 ≤ s.fab.lop.ops.length → ∃ f, Gives (.command m) s f ∧ Responds m 0x11 0 0 [] s.fab.out f ∧ f.lop = s.fab.lop) ∧
        (s.fab.lop.ops.length < 64 → ∃ f l, Gives (.command m) s f ∧ Responds m 0 0 (newHandle s.fab).toNat [] l f)) ∧
      (∀ e, (tget [] s.fab.bdp.seen m.eid.toNat).find? (sameCommand m) = some e →
        ∃ f, Gives (.command m) s f ∧ Responds m 0 0 e.handle.toNat [] s.fab.out f ∧ f.lop = s.fab.lop)) ∧
    (Acted 5 m s.fab → hCount (msgHdr m) = 0 → msgPayload m = [] → ∃ f, Gives (.poll m) s f ∧
      Responds m 0 0 0 (pollBytes s.fab (hHandle (msgHdr m))) s.fab.out f ∧ f.lop = s.fab.lop) ∧
    (Acted 6 m s.fab → s.fab.pwr.st ≠ 2 → hCount (msgHdr m) ≤ 2 → (msgPayload m).length = 32 →
      (slotFor s.fab m.eid = none → ∃ f, Gives (.subscribe m) s f ∧ Responds m 0x11 0 0 [] s.fab.out f ∧ f.ev = s.fab.ev) ∧
      (∀ i, slotFor s.fab m.eid = some i →
        let u := tget {} s.fab.ev.subs i
        let v : BitVec 256 := BitVec.ofNat 256 (ofBytes (msgPayload m))
        let mask := if hCount (msgHdr m) = 0 then v else if hCount (msgHdr m) = 1 then u.mask ||| v else u.mask &&& ~~~v
        ∃ f, Gives (.subscribe m) s f ∧ Responds m 0 0 0 (bytesOf 32 mask.toNat) s.fab.out f ∧
          tget {} f.ev.subs i = if mask = 0 then {} else { u with eid := m.eid, mask := mask }))

/-- R263, R265, R269: a message that is not for the fabric is discarded and counted; one whose header is malformed is answered
FORMAT; one that finds the engine busy waits for it; and a command that carries another operation's message does
nothing, which is the model's own rule. -/
def Obligations.MessagesTakenOrDiscarded : Prop :=
  ∀ (op : Nat) (c : Instr) (m : BdpMsg) (s : State), messageCommand op m = some c → Runs .ret s →
    (discards m s.fab = true → Gives c s (countInst 0x1B 1 s.fab)) ∧
    (discards m s.fab = false → hOp (msgHdr m) = op →
      (formatBad m = true → EngineFree s.fab → ∃ f, Gives c s f ∧ Responds m 2 0 0 [] s.fab.out f ∧ f.store = s.fab.store) ∧
      (s.fab.bdp.accesses ≠ [] → ∃ f r, Gives c s f ∧ f = { s.fab with bdp := { s.fab.bdp with waiting := s.fab.bdp.waiting ++ [r] } } ∧
        r = (if pastLimit m s.fab then .refused m else .message m))) ∧
    (discards m s.fab = false → hOp (msgHdr m) ≠ op → 1 ≤ hOp (msgHdr m) → hOp (msgHdr m) ≤ 6 → Gives c s s.fab)

/-- R207, R263, R270 to R272, R324: the dictionary window: an aligned read of a mirrored entry puts out its value, its low half with
the high half held, and the high half held; a refused one puts out ones and leaves its status in `WIN_ERROR`; a write of a
narrow entry writes it; a misaligned access does nothing (the model's choice, log 46).  A row access ends with its beat, or without a grant
in time.  An EVENT message takes up to 16 records of the subscriber whose oldest record was raised first, and a touch
clears an entry's hits as it reads it. -/
def Obligations.WindowAccessesAndEvents : Prop :=
  ∀ (s : State), Runs .main s →
    (∀ (a : BitVec 28) (wide : Bool), a.toNat % (if wide then 8 else 4) ≠ 0 →
      Gives (.mirrorRead a wide) s s.fab ∧ ∀ d, Gives (.mirrorWrite a wide d) s s.fab) ∧
    (∀ a : BitVec 28, EngineFree s.fab → a.toNat < 0x8000000 → a.toNat % 8 = 0 →
      let x := a.toNat / 0x800
      let y := a.toNat % 0x800 / 8
      let g := engineTook true s.fab
      (readCheck x y s.fab = 0 → readsPlain x y s.fab = true → sizeAt x y ≤ 8 →
        let v := plainValue none s.slots g x y % 256 ^ sizeAt x y
        (∃ f, Gives (.mirrorRead a true) s f ∧ f.out = .window (BitVec.ofNat 64 v) :: s.fab.out ∧ f.store = s.fab.store) ∧
        (∃ f, Gives (.mirrorRead a false) s f ∧ f.out = .window (BitVec.ofNat 64 (v % 2 ^ 32)) :: s.fab.out ∧
          (sizeAt x y = 8 → tget none f.bdp.latched (256 * x + y) = some (BitVec.ofNat 32 (v / 2 ^ 32)) ∧
            ∀ j, j ≠ 256 * x + y → tget none f.bdp.latched j = tget none s.fab.bdp.latched j))) ∧
      (readCheck x y s.fab ≠ 0 → ∃ f, Gives (.mirrorRead a false) s f ∧ f.out = .window 0xFFFFFFFF :: s.fab.out ∧
        fld f.bdp.winError 0 8 = readCheck x y s.fab ∧ fld f.bdp.winError 8 16 = x ∧ fld f.bdp.winError 24 8 = y ∧
        f.store = s.fab.store) ∧
      (∀ d : BitVec 64, isRowData x y = false → 1 ≤ sizeAt x y → sizeAt x y ≤ 4 → d.toNat < 256 ^ sizeAt x y →
        let r := writeEntryAt none x y (sizeAt x y) d.toNat s.slots g
        (r.1 = 0 → exec (.mirrorWrite a false d) s = .next { s with slots := r.2.1, fab := r.2.2 }) ∧
        (r.1 ≠ 0 → ∃ f, Gives (.mirrorWrite a false d) s f ∧ f = { g with bdp := { g.bdp with winError := f.bdp.winError } } ∧
          fld f.bdp.winError 0 8 = r.1 % 256))) ∧
    (∀ (a : BitVec 28) (l : BitVec 32), EngineFree s.fab → a.toNat < 0x8000000 → a.toNat % 8 = 4 →
      let x := a.toNat / 0x800
      let y := a.toNat % 0x800 / 8
      readCheck x y s.fab = 0 → readsPlain x y s.fab = true → sizeAt x y = 8 → tget none s.fab.bdp.latched (256 * x + y) = some l →
        ∃ f, Gives (.mirrorRead a false) s f ∧ f.out = .window (BitVec.ofNat 64 l.toNat) :: s.fab.out ∧
          tget none f.bdp.latched (256 * x + y) = none ∧
          ∀ j, j ≠ 256 * x + y → tget none f.bdp.latched j = tget none s.fab.bdp.latched j) ∧
    (∀ (n : Fin 16) (w : BeatWait), s.fab.bdp.waiting = [] →
      (burstOf (portOf s.fab (16 + n)) = none → Gives (.rowDataRead n w) s s.fab ∧ Gives (.rowDataWrite n w) s s.fab) ∧
      (∀ b a, burstOf (portOf s.fab (16 + n)) = some b → b.req = rHost →
        s.fab.bdp.accesses.find? (fun a => xpOf (bankOf a.ra) == 16 + n.val) = some a → hostGate s.fab a = .go →
        regionWaits s.fab (16 + n) = false →
        (a.data = none →
          let r := readRow (16 + n) rHost a.ra
            (disturb [a.ra] (beginBeat (16 + n) [a.ra] (cycleWait (16 + n) w (rawState s.fab.store a.ra != 0) s.fab)))
          ∃ f, Gives (.rowDataRead n w) s f ∧ f.bdp.accesses = s.fab.bdp.accesses.filter (fun x => x != a) ∧
            (a.path = none → f.bdp.xbData = r.1.row ∧ f.bdp.xbStatus = blockStatus r.1.poison.toNat 0) ∧
            Gives (.rowDataWrite n w) s s.fab) ∧
        (∀ l, a.data = some l → Gives (.rowDataRead n w) s s.fab ∧
          (let h := disturb [a.ra] (beginBeat (16 + n) [a.ra]
              (cycleWait (16 + n) w (mergesAt s.fab.store a.ra (hostMask a l) false) s.fab))
           ∃ f, Gives (.rowDataWrite n w) s f ∧ f.bdp.accesses = s.fab.bdp.accesses.filter (fun x => x != a) ∧
              (a.path = none → f.bdp.xbStatus = blockStatus 0 0) ∧
              f.store = (writeRow (16 + n) a.ra (hostBytes a l 0) (hostBytes a l blankRow) (hostMask a l) false h).store)))) ∧
    (s.fab.bdp.waiting = [] →
      ((∀ a ∈ s.fab.bdp.accesses, accessGranted s.fab a = true) → Gives .windowAccessTimeout s s.fab) ∧
      (∀ a, s.fab.bdp.accesses.find? (fun a => !accessGranted s.fab a) = some a → ∃ f, Gives .windowAccessTimeout s f ∧
        f.bdp.accesses = s.fab.bdp.accesses.filter (fun x => x != a) ∧ f.store = s.fab.store ∧
        (a.path = none → f.bdp.xbStatus = blockStatus 0x11 0))) ∧
    (eventTurn s.fab = none → Gives .event s s.fab) ∧
    (∀ i, eventTurn s.fab = some i →
      let u := tget {} s.fab.ev.subs i
      ∃ f tag hdr, Gives .event s f ∧ f.out = .message u.eid tag (mgtWords hdr
          (((((u.out.take 16).modifyHead fun r => putBit r 9 u.lost).map (hideRecord s.fab))).flatMap fun r => bytesOf 32 r.toNat)) :: s.fab.out ∧
        hOp hdr = 7 ∧ 8 ≤ tag.toNat ∧
        hCount hdr = min 16 u.out.length ∧ hHandle hdr = u.seq.toNat ∧
        tget {} f.ev.subs i = { u with out := u.out.drop 16, lost := false, seq := u.seq + BitVec.ofNat 16 (min 16 u.out.length) }) ∧
    (∀ eid : BitVec 8, hidden s.fab = false →
      let p : Path := if eid = 0 then none else some eid
      let i := (selectors p s.fab).1.toNat
      let r := readEntry i s.fab
      Gives (.mapEntryTouch eid) s (emit (useSelectors p (putEntry i (putf r.1 48 8 0) r.2))
        (.value (BitVec.ofNat 128 (shownEntry r.2 i r.1).toNat))))

/-- R48, R111, R169, R231, R247, R248, R250, R290, R291, R303: a command that writes one entry of the dictionary with a value in its
range gives the entry that value, and what its rule adds, and its status; out of range it changes nothing.  A
persistent entry is written once its running values are there. -/
def Obligations.EntryWritesTakeEffect : Prop :=
  ∀ (s : State), Runs .ret s → s.fab.pwr.st ≠ 2 →
    (∀ (p : Fin 32) (v : BitVec 32), (v = 0 → Gives (.lfsrSeed p v) s (emit s.fab (.status 0x0B))) ∧
      (v ≠ 0 → ∃ f, Gives (.lfsrSeed p v) s f ∧ portOf f p = { portOf s.fab p with seed := v, lfsr := v } ∧
        (∀ r, r ≠ p.val → portOf f r = portOf s.fab r) ∧ f.out = .status 0 :: s.fab.out)) ∧
    (∀ (q : Fin 256) (v : BitVec 8), (3 < v.toNat → Gives (.arbLevelWrite q v) s (emit s.fab (.status 0x0B))) ∧
      (v.toNat ≤ 3 → ∃ f, Gives (.arbLevelWrite q v) s f ∧ queueOf f q = { queueOf s.fab q with level := v } ∧
        (∀ r, r ≠ q.val → queueOf f r = queueOf s.fab r) ∧
        ((queueOf s.fab q).level = 3 → v ≠ 3 → ∀ p, p < 32 → (tget {} (portOf f p).reqs q).used = 0))) ∧
    (∀ v : BitVec 16, (v.toNat < 256 → Gives (.stallBoundWrite v) s (emit s.fab (.status 0x0B))) ∧
      (256 ≤ v.toNat → Gives (.stallBoundWrite v) s (emit { s.fab with stallBound := v } (.status 0)))) ∧
    (∀ (b : Fin 512) (v : BitVec 8),
      (tget 0 s.fab.integ.alloc b = 2 → Gives (.allocWrite b v) s (emit s.fab (.status 6))) ∧
      (tget 0 s.fab.integ.alloc b ≠ 2 → 1 < v.toNat → Gives (.allocWrite b v) s (emit s.fab (.status 0x0B))) ∧
      (tget 0 s.fab.integ.alloc b ≠ 2 → v.toNat ≤ 1 → ∃ f, Gives (.allocWrite b v) s f ∧ tget 0 f.integ.alloc b = v ∧
        (∀ r, r ≠ b.val → tget 0 f.integ.alloc r = tget 0 s.fab.integ.alloc r) ∧ f.out = .status 0 :: s.fab.out)) ∧
    (∀ (c : Fin 16) (g : Fin 256) (v : BitVec 288), fld v 256 2 ≠ 3 → (fld v 258 2 = 0 ∨ fld v 256 2 = 2) → fld v 260 28 = 0 →
      (∀ i, i < 256 → bitAt v i = true → bitAt (tget 0 s.fab.prm.empty c) i = false ∧
        (i % 4 = 0 ∨ bitAt (tget 0 s.fab.prm.fullWide c) (i / 4) = false)) →
      ∃ f, Gives (.epgroupWrite c g v) s f ∧ epgroupOf f c g = v ∧ f.out = .status 0 :: s.fab.out) ∧
    (∀ (copy : Fin 2) (p : Fin 32) (k : Fin 256) (v : BitVec 16), (portOf s.fab p).active.toNat ≠ copy → slotLegal p v = true →
      (portOf s.fab p).commit = none → ∃ t, exec (.slotEntryWrite copy p k v) s = .next { s with slots := t, fab := emit s.fab (.status 0) } ∧
        slotOf t copy p k = v ∧ ∀ c' p' k', c' < 2 → p' < 32 → k' < 256 → (c', p', k') ≠ (copy.val, p.val, k.val) →
          slotOf t c' p' k' = slotOf s.slots c' p' k') ∧
    (∀ (x : BitVec 16) (y : BitVec 8), isCounter x.toNat y.toNat = true →
      (∃ f, Gives (.counterClear x y) s f ∧ counterOf f x.toNat y.toNat = 0 ∧ tget false f.cnt.spent (cKey x.toNat y.toNat) = false ∧
        ∀ x' y', cKey x' y' ≠ cKey x.toNat y.toNat → counterOf f x' y' = counterOf s.fab x' y') ∧
      (∀ v : BitVec 64, (v = 0 ∨ counterOf s.fab x.toNat y.toNat < v) → ∃ f, Gives (.thresholdWrite x y v) s f ∧
        thresholdOf f x.toNat y.toNat = v ∧ tget false f.cnt.spent (cKey x.toNat y.toNat) = false ∧ f.cnt.val = s.fab.cnt.val)) ∧
    (∀ (x : BitVec 16) (y : BitVec 8) (v : BitVec 64), isCounter x.toNat y.toNat = false →
      Gives (.counterClear x y) s (emit s.fab (.status 4)) ∧ Gives (.thresholdWrite x y v) s (emit s.fab (.status 4))) ∧
    (∃ f, Gives .counterClearAll s f ∧ f.cnt.val = [] ∧ f.cnt.thr = s.fab.cnt.thr ∧ f.out = .status 0 :: s.fab.out) ∧
    (rwpClosed s.fab = true → Gives .failedStartsClear s (emit s.fab (.status 6)) ∧
      (∀ v, Gives (.retiredMaskWrite v) s (emit s.fab (.status 6)))) ∧
    (rwpClosed s.fab = false →
      (∃ f, Gives .failedStartsClear s f ∧ f.start.failed = 0 ∧ f.out.head? = some (.status 0)) ∧
      (∀ i : Fin 8, ∃ f, Gives (.failHistoryClear i) s f ∧ tget 0 f.start.history i = 0) ∧
      (∀ v : BitVec 8, (1 ≤ v.toNat → v.toNat ≤ 7 → ∃ f, Gives (.fawnThresholdWrite v) s f ∧ f.start.fawnAt = v) ∧
        (v = 0 → Gives (.fawnThresholdWrite v) s (emit s.fab (.status 0x0B)))) ∧
      (∀ v : BitVec 8, v ≠ 0 → ∃ f, Gives (.retireThresholdWrite v) s f ∧ f.integ.retireAt = v ∧
        (∀ b, b < 512 → v.toNat ≤ (tget 0 s.fab.integ.ueCount b).toNat → tget 0 f.integ.alloc b = 2)) ∧
      (∀ v : BitVec 512, s.fab.sec.st.toNat < 2 → ∃ f, Gives (.retiredMaskWrite v) s f ∧ f.integ.retired = v ∧
        (∀ b, b < 512 → bitAt v b = true → bitAt s.fab.integ.retired b = false → tget 0 f.integ.alloc b = 2) ∧
        (∀ b, b < 512 → bitAt v b = false → bitAt s.fab.integ.retired b = true →
          tget 0 f.integ.alloc b = 0 ∧ tget 0 f.integ.ueCount b = 0)) ∧
      (∀ (k : BitVec 13) (v : BitVec 64), routeOk s.fab s.fab.dom.package.toNat k.toNat v.toNat = true → v.toNat < 2 ^ 34 →
        ∃ f, Gives (.routeWrite k v) s f ∧ tget 0 f.dom.route k.toNat = v ∧
          ∀ j, j ≠ k.toNat → tget 0 f.dom.route j = tget 0 s.fab.dom.route j))

/-- R91, R118: a write of a slot entry of the active copy, with an illegal value, or with a commit pending, and a write of an
endpoint group entry with an illegal value, are refused on every path of the dictionary and leave the tables as they
are; so are the commands that make them. -/
def Obligations.TableWritesRefused : Prop :=
  (∀ (path : Path) (copy : Fin 2) (p : Fin 32) (k : Fin 256) (n v : Nat) (slots : Tbl (BitVec 16)) (f : Fab), v < 2 ^ 16 →
    ((portOf f p).active.toNat = copy ∨ slotLegal p (BitVec.ofNat 16 v) = false ∨ (portOf f p).commit ≠ none) →
      let r := writeEntryAt path (0x4200 + 0x40 * copy.val + p.val) k n v slots f
      r.1 ≠ 0 ∧ r.2.1 = slots ∧ r.2.2 = f) ∧
  (∀ (copy : Fin 2) (p : Fin 32) (k : Fin 256) (v : BitVec 16) (s : State), Runs .ret s →
    ((portOf s.fab p).active.toNat = copy ∨ slotLegal p v = false ∨ (portOf s.fab p).commit ≠ none) →
      ∃ c : BitVec 8, c ≠ 0 ∧ Gives (.slotEntryWrite copy p k v) s (emit s.fab (.status c))) ∧
  (∀ (path : Path) (c : Fin 16) (g : Fin 256) (n v : Nat) (slots : Tbl (BitVec 16)) (f : Fab), v < 2 ^ 288 →
    (let e : BitVec 288 := BitVec.ofNat 288 v
     fld e 256 2 = 3 ∨ (fld e 258 2 ≠ 0 ∧ fld e 256 2 ≠ 2) ∨ fld e 260 28 ≠ 0 ∨
      ∃ i, i < 256 ∧ bitAt e i = true ∧ (bitAt (tget 0 f.prm.empty c) i = true ∨
        (i % 4 ≠ 0 ∧ bitAt (tget 0 f.prm.fullWide c) (i / 4) = true))) →
      let r := writeEntryAt path (0x4400 + c.val) g n v slots f
      r.1 ≠ 0 ∧ r.2.1 = slots ∧ r.2.2 = f) ∧
  (∀ (c : Fin 16) (g : Fin 256) (v : BitVec 288) (s : State), Runs .ret s →
    (fld v 256 2 = 3 ∨ (fld v 258 2 ≠ 0 ∧ fld v 256 2 ≠ 2) ∨ fld v 260 28 ≠ 0 ∨
      ∃ i, i < 256 ∧ bitAt v i = true ∧ (bitAt (tget 0 s.fab.prm.empty c) i = true ∨
        (i % 4 ≠ 0 ∧ bitAt (tget 0 s.fab.prm.fullWide c) (i / 4) = true))) →
      ∃ k : BitVec 8, k ≠ 0 ∧ Gives (.epgroupWrite c g v) s (emit s.fab (.status k)))

/-- R390: a wrapper instruction is loaded in ON and IDLE, EXTEST, INTEST_SCAN and IJTAG only where the security state or the
level admits them; IDENTITY shifts out the identity entries, EXTEST drives the boundary cells and captures the inputs, INTEST_SCAN
shifts out a bit for each bit in, and IJTAG, by the access shifted in, reads a canary margin, an eye margin or the parameter block, or starts a march as MARCH
does (log 111); leaving a scan is a cold start. -/
def Obligations.WrapperInstructions : Prop :=
  (∀ (c : Instr) (v : Wrapper) (s : State), wrapperOf c = some v → WithinLimits s →
    (2 ≤ s.fab.pwr.st.toNat → exec c s = .next s) ∧
    (v ≠ .bypass → v ≠ .identity → s.fab.sec.st = 2 → s.fab.sec.level ≠ 2 → exec c s = .next s) ∧
    (s.fab.pwr.st.toNat < 2 → (v = .bypass ∨ v = .identity ∨ s.fab.sec.st ≠ 2 ∨ s.fab.sec.level = 2) →
      (s.fab.wir = .extest ∨ s.fab.wir = .intestScan) → s.fab.wir ≠ v →
        ∃ f, exec c s = .next { s with slots := [], fab := f } ∧ f.wir = v ∧ f.start.stage = 1 ∧ f.start.warm = false ∧
          f.start.running = true ∧ f.pwr.st = 0 ∧ f.pwr.intakeOpen = false ∧ f.store = {} ∧ f.queues = [] ∧ f.prm = s.fab.prm ∧
          f.pins = s.fab.pins ∧ f.img.a = s.fab.img.a ∧ f.img.b = s.fab.img.b)) ∧
  (∀ s : State, WithinLimits s → s.fab.pwr.st.toNat < 2 →
    let stays := fun v => s.fab.wir = v ∨ (s.fab.wir ≠ .extest ∧ s.fab.wir ≠ .intestScan)
    (stays .bypass → Gives .bypass s { s.fab with wir := .bypass }) ∧
    (stays .identity → Gives .identity s { s.fab with wir := .identity, out := .wrapper (identityBits s.fab) :: s.fab.out }) ∧
    (s.fab.sec.st ≠ 2 ∨ s.fab.sec.level = 2 →
      (stays .extest → Gives .extest s
        { s.fab with wir := .extest, cells := s.fab.pins.drive, out := .boundary s.fab.pins.drive s.fab.pins.inputs :: s.fab.out }) ∧
      (stays .intestScan → ∃ l n, l.length = s.fab.pins.scan.length ∧ Gives .intestScan s
        { s.fab with wir := .intestScan, free := n, out := .scan l :: s.fab.out }) ∧
      (stays .ijtag →
        let answers := fun a w => s.fab.pins.access = a → Gives .ijtag s { s.fab with wir := .ijtag, out := .jtag w :: s.fab.out }
        (s.fab.pins.access = .none → Gives .ijtag s { s.fab with wir := .ijtag }) ∧
        (∀ n : Fin 16, answers (.canary n) (BitVec.ofNat 32 (tget 0 s.fab.th.margin n).toNat)) ∧
        (∀ i : Fin 36, answers (.eye i) (BitVec.ofNat 32 (laneAt s.fab i).eye.toNat)) ∧
        (∀ a, ∃ w, answers (.param a) w) ∧
        (∀ w0 w1, s.fab.pins.access = .march w0 w1 → s.fab.pwr.st = 0 → s.fab.lop.ops.length < 64 → marchRefused w0 w1 s.fab = false →
          ∃ f, Gives .ijtag s f ∧ f.wir = .ijtag ∧ Accepted s 1 f ∧
            f.integ.march = some (newMarch (newHandle s.fab) w0 w1)))))

/-- R9, R370, R387, R390: while a rail is outside its limits every command but the rails' own stops, which is the model's choice
(log 2); while the fabric is in OFF or scanned, every command but the rails' own, the wrapper's and the end of stage 1's time
changes nothing (log 3), and while it is scanned that does neither.
R263, R346, R390: no command changes the commands that wait, what the integration fixes or what stands at the wrapper's pins, and none but the writes of slot
entries, the dictionary's paths and what begins a cold start or ends in OFF changes a slot table.
R385: in RETAIN a transfer into the MAIN interfaces changes nothing but that its `REQ` stays high, one for each channel. -/
def Obligations.EveryCommandKeeps : Prop :=
  (∀ (c : Instr) (s : State), (∀ g, c ≠ .railLoss g) → (∀ v, c ≠ .powerGood v) →
      (s.fab.pwr.excursion = true → exec c s = .fault .outsideLimits) ∧
      (s.fab.pwr.excursion = false → alive .ret s.fab = false → wrapperOf c = none →
        ((∀ n, c ≠ .stageTimeout n) ∨ s.fab.wir = .extest ∨ s.fab.wir = .intestScan) → exec c s = .next s) ∧
      (s.fab.pwr.excursion = false → ∃ t, exec c s = .next t)) ∧
  (∀ (c : Instr) (s t : State), exec c s = .next t →
      t.pending = s.pending ∧ t.fab.prm = s.fab.prm ∧ t.fab.pins = s.fab.pins ∧ (mayWriteSlots c = false → t.slots = s.slots)) ∧
  (∀ (c : Instr) (n : Nat) (s : State), channelOf c = some n → Runs .ret s → s.fab.pwr.st = 2 →
      ((∀ x ∈ s.fab.isolated, channelOf x ≠ some n) → Gives c s { s.fab with isolated := s.fab.isolated ++ [c] }) ∧
      ((∃ x ∈ s.fab.isolated, channelOf x = some n) → Gives c s s.fab))

/-- R48, R74, R89, R90, R103, R111, R214, R231, R248, R290, R299, R346: at reset nothing waits, every slot entry has its default,
every port its seed, every queue its level, quota and burst limit, no row is written (before the first march the model's
choice, log 6), the map, the fences, the endpoint
groups and the counters are empty, the thresholds and limits have their defaults, and stage 1 of a cold start is next. -/
def Obligations.ResetState : Prop :=
  let f := State.reset.fab
  State.reset.pending = [] ∧ (∀ c p k, slotOf State.reset.slots c p k = 0x3C00) ∧ SlotsLegal State.reset ∧
  (∀ p, (portOf f p).lfsr = 1 ∧ (portOf f p).seed = 1 ∧ (portOf f p).freeze = false ∧ (portOf f p).active = 0) ∧
  (∀ q, (queueOf f q).level = 1 ∧ (queueOf f q).quota = 16 ∧ (queueOf f q).maxBurst = 16 ∧ (queueOf f q).urgent = false) ∧
  (∀ i, fenceOf f i = 0) ∧ (∀ c g, epgroupOf f c g = 0) ∧ (∀ ra, rawState f.store ra = 0) ∧ f.map.epoch = 0 ∧
  (∀ i, readEntry i f = (0, f)) ∧ (∀ x y, counterOf f x y = 0 ∧ thresholdOf f x y = 0) ∧ f.stallBound = 4096 ∧
  f.integ.retireAt = 3 ∧ f.start.stage = 1 ∧ f.start.warm = false ∧ f.start.running = true ∧ f.start.fawnAt = 3 ∧
  (f.th.start, f.th.canary, f.th.dil1, f.th.dil2, f.th.dil3) = (95, 8, 8, 4, 2) ∧ f.pwr.intakeOpen = false ∧ f.sec.level = 0

/-- R90, R91: every step keeps every slot entry of both copies legal, whatever command it takes. -/
def Obligations.SlotsStayLegal : Prop :=
  ∀ (s t : State), SlotsLegal s → step s = .next t → SlotsLegal t

/-- R234, R235: the columns of the SEC-DED code, the check bits of clean and of poisoned words, the classes of a checked word and
what is delivered; a double-bit error in a clean word, and a single flip in a poisoned one, read as UNCORRECTABLE. -/
def Obligations.EccCode : Prop :=
  (∀ i, i < 84 → columnOf i < 512 ∧ weight9 (columnOf i) = 3 ∧ rankAmong 3 (columnOf i) = i) ∧
  (∀ i, 84 ≤ i → i < 128 → columnOf i < 512 ∧ weight9 (columnOf i) = 5 ∧ rankAmong 5 (columnOf i) = i - 84) ∧
  (∀ j, j < 9 → columnOf (128 + j) = 2 ^ j) ∧
  (∀ d, d < 2 ^ 128 → checkBits d = xorOfOnes d ∧ dataOf (encodeWord d) = d ∧ (encodeWord d).toNat / 2 ^ 128 = xorOfOnes d ∧
    dataOf (poisonWord d) = d ∧ (poisonWord d).toNat / 2 ^ 128 = xorOfOnes d ^^^ 0x1FF) ∧
  (∀ c : Code,
    (syndromeOf c = 0 ↔ classOf c = .clean) ∧ (syndromeOf c = 0x1FF ↔ classOf c = .poison) ∧
    ((∃ i, i < 137 ∧ columnOf i = syndromeOf c) ↔ classOf c = .correctable) ∧
    (∀ i, i < 137 → columnOf i = syndromeOf c → deliveredData c = dataOf (flipBit c i)) ∧
    (classOf c ≠ .correctable → deliveredData c = dataOf c)) ∧
  (∀ d i j, d < 2 ^ 128 → i < 137 → j < 137 → i ≠ j →
    classOf (flipBit (flipBit (encodeWord d) i) j) = .uncorrectable ∧ classOf (flipBit (poisonWord d) i) = .uncorrectable)

/-- R127 to R132, how a DELIVER conditions a row.  A rotate takes elements, exponent slots and micro-offsets from the row and the next
one, R bytes on; a transpose moves element 64b + 8r + c of each run of 64 to 64b + 8c + r; widening keeps every value, exponent and
offset.  A group of I32 elements requantized to a type of width 2, 4, 8 or 16 whose exponent has room: the shift is the smallest that
brings every element in range, each element is rounded under the mode, the exponent rises by the shift, and every rounded element is
in range under every mode; a VOID group stays VOID with zero elements; an all-zero group keeps its exponent.  Under MICRO the group
takes the greater of its least sub-block shift and its greatest less 3, and each sub-block what is left of its own.  Where the
exponent would pass +127 it is +127, the elements are clamped and the group is marked. -/
def Obligations.RowsConditioned : Prop :=
  (∀ (w mode e : Nat) (q : List Int) (l : BitVec 32), w ∈ [2, 4, 8, 16] → mode < 3 → (∀ x ∈ q, -(2 ^ 31) ≤ x ∧ x < 2 ^ 31) →
    ((requantGroup w false mode voidExp q l).exp = voidExp ∧ (requantGroup w false mode voidExp q l).elems = q.map fun _ => 0) ∧
    (e < 256 → e ≠ voidExp → ∀ s : Nat, (∀ x ∈ q, minOf w * 2 ^ s ≤ x ∧ x ≤ maxOf w * 2 ^ s) →
      (∀ t, t < s → ∃ x ∈ q, x < minOf w * 2 ^ t ∨ maxOf w * 2 ^ t < x) →
        let r := requantGroup w false mode e q l
        (signed 8 e + s ≤ 127 →
          signed 8 r.exp = signed 8 e + s ∧ (r.elems, r.lfsr) = roundAll mode (q.map fun x => (x, s)) l ∧ r.sat = false ∧
          (∀ y ∈ r.elems, minOf w ≤ y ∧ y ≤ maxOf w) ∧ ((∀ x ∈ q, x = 0) → r.exp = e ∧ r.elems = q)) ∧
        (127 < signed 8 e + s → r.exp = 127 ∧ r.sat = true ∧ (∀ y ∈ r.elems, minOf w ≤ y ∧ y ≤ maxOf w) ∧
          r.elems = (roundAll mode (q.map fun x => (x, (127 - signed 8 e).toNat)) l).1.map (clampTo w)))) ∧
  (∀ (w mode e m : Nat) (q : List Int) (l : BitVec 32) (sb : Nat → Nat) (low top : Nat), w ∈ [2, 4, 8, 16] → mode < 3 →
    (∀ x ∈ q, -(2 ^ 31) ≤ x ∧ x < 2 ^ 31) → e < 256 → e ≠ voidExp → q.length = 8 * m →
    (∀ b, b < m → (∀ x ∈ (q.drop (8 * b)).take 8, minOf w * 2 ^ sb b ≤ x ∧ x ≤ maxOf w * 2 ^ sb b) ∧
      ∀ t, t < sb b → ∃ x ∈ (q.drop (8 * b)).take 8, x < minOf w * 2 ^ t ∨ maxOf w * 2 ^ t < x) →
    (∀ b, b < m → low ≤ sb b ∧ sb b ≤ top) → (∃ b, b < m ∧ sb b = low) → (∃ b, b < m ∧ sb b = top) →
      let r := requantGroup w true mode e q l
      let sg := max low (top - 3)
      let room := (127 - signed 8 e).toNat
      (signed 8 e + sg ≤ 127 → signed 8 r.exp = signed 8 e + sg ∧ r.sat = false ∧ (∀ b, b < m → r.micros[b]? = some (sb b - sg) ∧ sb b - sg ≤ 3) ∧
        (r.elems, r.lfsr) = roundAll mode ((List.range q.length).map fun i => (q.getD i 0, sg + (sb (i / 8) - sg))) l ∧
        (∀ y ∈ r.elems, minOf w ≤ y ∧ y ≤ maxOf w)) ∧
      (127 < signed 8 e + sg → r.exp = 127 ∧ r.sat = true ∧ (∀ b, b < m → r.micros[b]? = some (min 3 (sb b - room))) ∧
        r.elems = (roundAll mode ((List.range q.length).map fun i => (q.getD i 0, room + min 3 (sb (i / 8) - room))) l).1.map (clampTo w))) ∧
  (∀ (f g rot : Nat) (a b : Parts),
    (∀ i, i < a.elems.length →
      (rotateParts f rot a b).elems[i]? = (a.elems ++ b.elems)[i + rot * 8 / widthOf f]?) ∧
    (∀ i, i < a.exps.length → (rotateParts f rot a b).exps[i]? = (a.exps ++ b.exps)[i + rot / groupBytes f]?) ∧
    (∀ i, i < a.micros.length → (rotateParts f rot a b).micros[i]? = (a.micros ++ b.micros)[i + rot / widthOf f]?) ∧
    (transposeParts a).exps = a.exps ∧ (transposeParts a).elems.length = a.elems.length ∧
    (∀ n r c, r < 8 → c < 8 → 64 * n + 64 ≤ a.elems.length →
      (transposeParts a).elems[64 * n + 8 * c + r]? = a.elems[64 * n + 8 * r + c]?) ∧
    (widenParts f g a).exps = a.exps ∧ (widenParts f g a).micros = a.micros ∧ (widenParts f g a).elems.length = a.elems.length ∧
    (widthOf f ≤ widthOf g → ∀ (i v : Nat), v < 2 ^ widthOf f → a.elems[i]? = some v →
      ∃ u, (widenParts f g a).elems[i]? = some u ∧ u < 2 ^ widthOf g ∧ signed (widthOf g) u = signed (widthOf f) v))

end
end

