-- ==== Sys2Proof/Laws/Bits.lean ====
section
/-!
SUPPORT. What setting a bit does to every bit of a word, and which positions `bitsSet` lists.
-/

namespace Sys2Proof.Machine

theorem mem_onesList (x i : Nat) (l : List Nat) : i ∈ onesList x l ↔ i ∈ l ∧ x.testBit i = true := by
  induction l with
  | nil => simp [onesList]
  | cons a t ih =>
    unfold onesList
    split <;> rename_i h <;> simp only [List.mem_cons, ih]
    · constructor
      · rintro (rfl | h')
        · exact ⟨.inl rfl, h⟩
        · exact ⟨.inr h'.1, h'.2⟩
      · rintro ⟨rfl | h1, h2⟩
        · exact .inl rfl
        · exact .inr ⟨h1, h2⟩
    · constructor
      · rintro ⟨h1, h2⟩; exact ⟨.inr h1, h2⟩
      · rintro ⟨rfl | h1, h2⟩
        · exact absurd h2 h
        · exact ⟨h1, h2⟩

theorem onesList_sublist (x : Nat) (l : List Nat) : (onesList x l).Sublist l := by
  induction l with
  | nil => exact .slnil
  | cons a t ih =>
    unfold onesList
    split
    · exact ih.cons_cons a
    · exact ih.cons a

/-- `bitsSet` lists exactly the positions of the ones. -/
theorem mem_bitsSet {n : Nat} (x : BitVec n) (i : Nat) : i ∈ bitsSet x ↔ bitAt x i = true := by
  unfold bitsSet bitAt
  rw [mem_onesList, List.mem_range, BitVec.getLsbD]
  constructor
  · exact fun h => h.2
  · intro h
    refine ⟨?_, h⟩
    by_contra hc
    rw [Nat.testBit_lt_two_pow (Nat.lt_of_lt_of_le x.isLt (Nat.pow_le_pow_right (by decide) (by omega)))] at h
    cases h

theorem nodup_bitsSet {n : Nat} (x : BitVec n) : (bitsSet x).Nodup := (onesList_sublist _ _).nodup List.nodup_range

/-- A bit set to `b` reads `b`, and every other bit reads as before. -/
theorem bitAt_putBit {n : Nat} (x : BitVec n) {i : Nat} (b : Bool) (j : Nat) (hi : i < n) :
    bitAt (putBit x i b) j = if j = i then b else bitAt x j := by
  have key : putBit x i b = BitVec.ofNat n (x.toNat - (x.toNat.testBit i).toNat * 2 ^ i + b.toNat * 2 ^ i) := by
    have e : fld x i 1 = (x.toNat.testBit i).toNat := by
      rw [Nat.toNat_testBit, fld, Nat.shiftRight_eq_div_pow, pow_one]
    have e2 : b.toNat % 2 ^ 1 = b.toNat := by cases b <;> rfl
    rw [putBit, putf, e, e2]
  have hx : x.toNat = 2 ^ i * (2 * (x.toNat / 2 ^ (i + 1)) + (x.toNat.testBit i).toNat) + x.toNat % 2 ^ i := by
    rw [Nat.toNat_testBit, pow_succ, ← Nat.div_div_eq_div_mul]
    have := Nat.div_add_mod x.toNat (2 ^ i)
    have h2 := Nat.div_add_mod (x.toNat / 2 ^ i) 2
    rw [h2, this]
  have hy : x.toNat - (x.toNat.testBit i).toNat * 2 ^ i + b.toNat * 2 ^ i =
      2 ^ i * (2 * (x.toNat / 2 ^ (i + 1)) + b.toNat) + x.toNat % 2 ^ i := by
    have a : (x.toNat.testBit i).toNat * 2 ^ i ≤ 2 ^ i * (2 * (x.toNat / 2 ^ (i + 1)) + (x.toNat.testBit i).toNat) := by
      rw [Nat.mul_comm]; exact Nat.mul_le_mul_left _ (by omega)
    generalize x.toNat % 2 ^ i = r at *
    generalize x.toNat / 2 ^ (i + 1) = d at *
    generalize (x.toNat.testBit i).toNat = t at *
    rw [hx]
    have e1 : 2 ^ i * (2 * d + t) = 2 ^ i * (2 * d) + t * 2 ^ i := by ring
    have e2 : 2 ^ i * (2 * d + b.toNat) = 2 ^ i * (2 * d) + b.toNat * 2 ^ i := by ring
    omega
  have hlt : x.toNat % 2 ^ i < 2 ^ i := Nat.mod_lt _ (by positivity)
  have hb : ∀ k : Nat, ∀ c : Bool, (2 ^ i * (2 * k + c.toNat) + x.toNat % 2 ^ i).testBit j =
      if j < i then (x.toNat % 2 ^ i).testBit j else if j = i then c else k.testBit (j - i - 1) := by
    intro k c
    rw [Nat.testBit_two_pow_mul_add _ hlt]
    split
    · rfl
    · split
      · subst j
        rw [Nat.sub_self, Nat.testBit_zero]
        cases c <;> simp [Nat.add_mod]
      · obtain ⟨m, rfl⟩ : ∃ m, j = i + (m + 1) := ⟨j - i - 1, by omega⟩
        rw [show i + (m + 1) - i = m + 1 by omega, show m + 1 - 1 = m by omega, Nat.testBit_succ]
        congr 1
        cases c <;> simp <;> omega
  have hold : x.toNat.testBit j = if j < i then (x.toNat % 2 ^ i).testBit j
      else if j = i then x.toNat.testBit i else (x.toNat / 2 ^ (i + 1)).testBit (j - i - 1) := by
    conv => lhs; rw [hx]
    exact hb _ _
  show (putBit x i b).toNat.testBit j = if j = i then b else x.toNat.testBit j
  rw [key, hy, BitVec.toNat_ofNat, Nat.testBit_mod_two_pow, hb]
  by_cases hj : j < n
  · simp only [hj, decide_true, Bool.true_and, hold]
    split
    · rw [if_neg (by omega)]
    · split <;> rfl
  · have : x.toNat.testBit j = false :=
      Nat.testBit_lt_two_pow (Nat.lt_of_lt_of_le x.isLt (Nat.pow_le_pow_right (by decide) (by omega)))
    simp only [hj, decide_false, Bool.false_and, this]
    rw [if_neg (by omega)]

/-- A number's upper part, a field of it and its lower part put together. -/
theorem split_field (x lo w : Nat) :
    x = x / 2 ^ (lo + w) * 2 ^ (lo + w) + x / 2 ^ lo % 2 ^ w * 2 ^ lo + x % 2 ^ lo := by
  have h1 := Nat.div_add_mod x (2 ^ lo)
  have h2 := Nat.div_add_mod (x / 2 ^ lo) (2 ^ w)
  rw [Nat.div_div_eq_div_mul, ← pow_add] at h2
  have h3 : 2 ^ (lo + w) = 2 ^ w * 2 ^ lo := by rw [pow_add, mul_comm]
  calc x = 2 ^ lo * (x / 2 ^ lo) + x % 2 ^ lo := h1.symm
    _ = 2 ^ lo * (2 ^ w * (x / 2 ^ (lo + w)) + x / 2 ^ lo % 2 ^ w) + x % 2 ^ lo := by rw [h2]
    _ = _ := by rw [h3]; ring

theorem putf_toNat {n : Nat} (x : BitVec n) {lo w : Nat} (v : Nat) (h : lo + w ≤ n) :
    (putf x lo w v).toNat = x.toNat / 2 ^ (lo + w) * 2 ^ (lo + w) + v % 2 ^ w * 2 ^ lo + x.toNat % 2 ^ lo := by
  have hx := split_field x.toNat lo w
  have hf : fld x lo w = x.toNat / 2 ^ lo % 2 ^ w := by simp [fld, Nat.shiftRight_eq_div_pow]
  unfold putf
  rw [hf, BitVec.toNat_ofNat]
  have hb : x.toNat - x.toNat / 2 ^ lo % 2 ^ w * 2 ^ lo + v % 2 ^ w * 2 ^ lo
      = x.toNat / 2 ^ (lo + w) * 2 ^ (lo + w) + v % 2 ^ w * 2 ^ lo + x.toNat % 2 ^ lo := by omega
  rw [hb]
  apply Nat.mod_eq_of_lt
  have hv : v % 2 ^ w + 1 ≤ 2 ^ w := Nat.mod_lt _ (by positivity)
  have hl : x.toNat % 2 ^ lo < 2 ^ lo := Nat.mod_lt _ (by positivity)
  have hq : x.toNat / 2 ^ (lo + w) + 1 ≤ 2 ^ (n - (lo + w)) := by
    have : x.toNat < 2 ^ (lo + w) * 2 ^ (n - (lo + w)) := by rw [← pow_add]; simpa [Nat.add_sub_cancel' h] using x.isLt
    exact Nat.div_lt_of_lt_mul this
  have h3 : 2 ^ n = 2 ^ (n - (lo + w)) * 2 ^ (lo + w) := by rw [← pow_add]; congr 1; omega
  have h4 : 2 ^ (lo + w) = 2 ^ w * 2 ^ lo := by rw [pow_add, mul_comm]
  have h5 := Nat.mul_le_mul_right (2 ^ (lo + w)) hq
  have h6 := Nat.mul_le_mul_right (2 ^ lo) hv
  rw [h3]
  rw [add_mul] at h5 h6
  omega

/-- A field set reads the value set. -/
theorem fld_putf_self {n : Nat} (x : BitVec n) {lo w : Nat} (v : Nat) (h : lo + w ≤ n) : fld (putf x lo w v) lo w = v % 2 ^ w := by
  rw [fld, putf_toNat x v h, Nat.shiftRight_eq_div_pow]
  have h4 : 2 ^ (lo + w) = 2 ^ w * 2 ^ lo := by rw [pow_add, mul_comm]
  have : x.toNat / 2 ^ (lo + w) * 2 ^ (lo + w) + v % 2 ^ w * 2 ^ lo + x.toNat % 2 ^ lo
      = x.toNat % 2 ^ lo + (x.toNat / 2 ^ (lo + w) * 2 ^ w + v % 2 ^ w) * 2 ^ lo := by rw [h4]; ring
  rw [this, Nat.add_mul_div_right _ _ (by positivity), Nat.div_eq_of_lt (Nat.mod_lt _ (by positivity)), zero_add,
    Nat.mul_add_mod_self_right, Nat.mod_mod]

theorem fld_testBit {n : Nat} (x : BitVec n) (lo w i : Nat) : (fld x lo w).testBit i = (decide (i < w) && x.toNat.testBit (lo + i)) := by
  rw [fld, Nat.testBit_mod_two_pow, Nat.testBit_shiftRight]

theorem putf_testBit {n : Nat} (x : BitVec n) {lo w : Nat} (v j : Nat) (h : lo + w ≤ n) (hj : j < lo ∨ lo + w ≤ j) :
    (putf x lo w v).toNat.testBit j = x.toNat.testBit j := by
  rw [putf_toNat x v h]
  have hl : x.toNat % 2 ^ lo < 2 ^ lo := Nat.mod_lt _ (by positivity)
  have hv : v % 2 ^ w + 1 ≤ 2 ^ w := Nat.mod_lt _ (by positivity)
  have h4 : 2 ^ (lo + w) = 2 ^ lo * 2 ^ w := by rw [pow_add]
  rcases hj with hj | hj
  · have : x.toNat / 2 ^ (lo + w) * 2 ^ (lo + w) + v % 2 ^ w * 2 ^ lo + x.toNat % 2 ^ lo
        = 2 ^ lo * (x.toNat / 2 ^ (lo + w) * 2 ^ w + v % 2 ^ w) + x.toNat % 2 ^ lo := by rw [h4]; ring
    rw [this, Nat.testBit_two_pow_mul_add _ hl, if_pos hj, Nat.testBit_mod_two_pow]; simp [hj]
  · have hb : v % 2 ^ w * 2 ^ lo + x.toNat % 2 ^ lo < 2 ^ (lo + w) := by
      have h6 := Nat.mul_le_mul_right (2 ^ lo) hv
      rw [add_mul] at h6; rw [h4, mul_comm (2 ^ lo)]; omega
    rw [add_assoc, mul_comm, Nat.testBit_two_pow_mul_add _ hb, if_neg (by omega), Nat.testBit_div_two_pow]
    congr 1; omega

/-- Setting a field leaves a field that lies apart from it. -/
theorem fld_putf_ne {n : Nat} (x : BitVec n) {lo w lo' w' : Nat} (v : Nat) (h : lo + w ≤ n) (hd : lo' + w' ≤ lo ∨ lo + w ≤ lo') :
    fld (putf x lo w v) lo' w' = fld x lo' w' := by
  apply Nat.eq_of_testBit_eq
  intro i
  rw [fld_testBit, fld_testBit]
  by_cases hi : i < w'
  · rw [putf_testBit x v (lo' + i) h (by omega)]
  · simp [hi]
end Sys2Proof.Machine
end

