-- ==== Sys2Proof/Laws/Tables.lean ====
section
/-!
SUPPORT. Laws of the sparse tables: a read after a write, and the canonical form that every operation keeps.
-/

namespace Sys2Proof.Machine

variable {α : Type}

theorem tget_tdrop_self (d : α) (t : Tbl α) (k : Nat) : tget d (tdrop t k) k = d := by
  induction t with
  | nil => rfl
  | cons e t ih =>
    unfold tdrop
    split
    · exact ih
    · next h => simp [tget, h, ih]

theorem tget_tdrop_ne (d : α) (t : Tbl α) {j k : Nat} (h : j ≠ k) : tget d (tdrop t k) j = tget d t j := by
  induction t with
  | nil => rfl
  | cons e t ih =>
    unfold tdrop
    split
    · next hk => rw [ih]; simp [tget, hk, Ne.symm h]
    · simp [tget, ih]

theorem tget_tput_self (d : α) (t : Tbl α) (k : Nat) (v : α) (h : tdrop t k = t) : tget d (tput t k v) k = v := by
  induction t with
  | nil => simp [tput, tget]
  | cons e t ih =>
    unfold tput
    split
    · simp [tget]
    · have hne : e.1 ≠ k := by
        intro he
        have := congrArg List.length h
        simp only [tdrop, he, if_true] at this
        have hle : ∀ l : Tbl α, (tdrop l k).length ≤ l.length := by
          intro l
          induction l with
          | nil => simp [tdrop]
          | cons x l il => unfold tdrop; split <;> simp <;> omega
        have := hle t
        simp at *
        omega
      have ht : tdrop t k = t := by simpa [tdrop, hne] using h
      simp [tget, hne, ih ht]

theorem tdrop_tdrop (t : Tbl α) (k : Nat) : tdrop (tdrop t k) k = tdrop t k := by
  induction t with
  | nil => rfl
  | cons e t ih =>
    by_cases h : e.1 = k
    · simp [tdrop, h, ih]
    · simp [tdrop, h, ih]

theorem tget_tput_ne (d : α) (t : Tbl α) (v : α) {j k : Nat} (h : j ≠ k) : tget d (tput t k v) j = tget d t j := by
  induction t with
  | nil => simp [tput, tget, Ne.symm h]
  | cons e t ih =>
    unfold tput
    split
    · simp [tget, Ne.symm h]
    · simp [tget, ih]

/-- A read of the key written gives the value written. -/
@[simp] theorem tget_tset_self [DecidableEq α] (d : α) (t : Tbl α) (k : Nat) (v : α) : tget d (tset d t k v) k = v := by
  unfold tset
  split
  · next h => rw [tget_tdrop_self, h]
  · exact tget_tput_self d _ k v (tdrop_tdrop t k)

/-- A write leaves every other key as it was. -/
theorem tget_tset_ne [DecidableEq α] (d : α) (t : Tbl α) (v : α) {j k : Nat} (h : j ≠ k) :
    tget d (tset d t k v) j = tget d t j := by
  unfold tset
  split
  · exact tget_tdrop_ne d t h
  · rw [tget_tput_ne d _ v h, tget_tdrop_ne d t h]

/-- Both in one: what a read gives after a write. -/
theorem tget_tset [DecidableEq α] (d : α) (t : Tbl α) (k j : Nat) (v : α) :
    tget d (tset d t k v) j = if j = k then v else tget d t j := by
  by_cases h : j = k
  · simp [h]
  · simp [h, tget_tset_ne d t v h]

@[simp] theorem tget_nil (d : α) (k : Nat) : tget d [] k = d := rfl

theorem tcanonFrom_mono [DecidableEq α] (d : α) {lo hi : Nat} (h : lo ≤ hi) (t : Tbl α) (ht : tcanonFrom d hi t = true) :
    tcanonFrom d lo t = true := by
  cases t with
  | nil => rfl
  | cons e t =>
    simp only [tcanonFrom, Bool.and_eq_true, decide_eq_true_eq] at *
    exact ⟨⟨by omega, ht.1.2⟩, ht.2⟩

theorem tdrop_canonFrom [DecidableEq α] (d : α) (lo k : Nat) (t : Tbl α) (h : tcanonFrom d lo t = true) :
    tcanonFrom d lo (tdrop t k) = true := by
  induction t generalizing lo with
  | nil => rfl
  | cons e t ih =>
    simp only [tcanonFrom, Bool.and_eq_true, decide_eq_true_eq] at h
    unfold tdrop
    split
    · exact tcanonFrom_mono d (by omega) _ (ih _ h.2)
    · simp only [tcanonFrom, Bool.and_eq_true, decide_eq_true_eq]
      exact ⟨h.1, ih _ h.2⟩

theorem tput_canonFrom [DecidableEq α] (d : α) (lo k : Nat) (v : α) (t : Tbl α) (hv : v ≠ d) (hk : lo ≤ k)
    (hn : ∀ e ∈ t, e.1 ≠ k) (h : tcanonFrom d lo t = true) : tcanonFrom d lo (tput t k v) = true := by
  induction t generalizing lo with
  | nil => simp [tput, tcanonFrom, hv, hk]
  | cons e t ih =>
    simp only [tcanonFrom, Bool.and_eq_true, decide_eq_true_eq] at h
    unfold tput
    split
    · next hlt =>
      simp only [tcanonFrom, Bool.and_eq_true, decide_eq_true_eq]
      exact ⟨⟨hk, hv⟩, ⟨by omega, h.1.2⟩, h.2⟩
    · next hge =>
      have hne : e.1 ≠ k := hn e (by simp)
      simp only [tcanonFrom, Bool.and_eq_true, decide_eq_true_eq]
      exact ⟨h.1, ih _ (by omega) (fun x hx => hn x (by simp [hx])) h.2⟩

theorem tdrop_ne (t : Tbl α) (k : Nat) : ∀ e ∈ tdrop t k, e.1 ≠ k := by
  induction t with
  | nil => simp [tdrop]
  | cons e t ih =>
    unfold tdrop
    split
    · exact ih
    · next h =>
      intro x hx
      rcases List.mem_cons.mp hx with rfl | hx
      · exact h
      · exact ih x hx

/-- A write keeps the canonical form. -/
theorem tset_canon [DecidableEq α] (d : α) (t : Tbl α) (k : Nat) (v : α) (h : tcanon d t = true) :
    tcanon d (tset d t k v) = true := by
  unfold tset tcanon
  split
  · exact tdrop_canonFrom d 0 k t h
  · next hv => exact tput_canonFrom d 0 k v _ hv (by omega) (tdrop_ne t k) (tdrop_canonFrom d 0 k t h)

theorem mem_tdrop (t : Tbl α) (k : Nat) (e : Nat × α) (h : e ∈ tdrop t k) : e ∈ t := by
  induction t with
  | nil => exact h
  | cons x t ih =>
    unfold tdrop at h
    split at h
    · exact List.mem_cons_of_mem _ (ih h)
    · rcases List.mem_cons.mp h with rfl | h
      · simp
      · exact List.mem_cons_of_mem _ (ih h)

theorem mem_tput (t : Tbl α) (k : Nat) (v : α) (e : Nat × α) (h : e ∈ tput t k v) : e = (k, v) ∨ e ∈ t := by
  induction t with
  | nil => simpa [tput] using h
  | cons x t ih =>
    unfold tput at h
    split at h
    · rcases List.mem_cons.mp h with rfl | h
      · exact .inl rfl
      · exact .inr h
    · rcases List.mem_cons.mp h with rfl | h
      · exact .inr (by simp)
      · rcases ih h with h | h
        · exact .inl h
        · exact .inr (List.mem_cons_of_mem _ h)

/-- A pair of a table after a write is the pair written or one that stood before. -/
theorem mem_tset [DecidableEq α] (d : α) (t : Tbl α) (k : Nat) (v : α) (e : Nat × α) (h : e ∈ tset d t k v) :
    e = (k, v) ∨ e ∈ t := by
  unfold tset at h
  split at h
  · exact .inr (mem_tdrop t k e h)
  · rcases mem_tput _ k v e h with h | h
    · exact .inl h
    · exact .inr (mem_tdrop t k e h)

/-- Every value put through `g` keeps the canonical form. -/
theorem tmap_canonFrom [DecidableEq α] (d : α) (g : Nat → α → α) (lo : Nat) (t : Tbl α) (h : tcanonFrom d lo t = true) :
    tcanonFrom d lo (tmap d g t) = true := by
  induction t generalizing lo with
  | nil => rfl
  | cons e t ih =>
    simp only [tcanonFrom, Bool.and_eq_true, decide_eq_true_eq] at h
    unfold tmap
    rw [List.filterMap_cons]
    by_cases hg : g e.1 e.2 = d
    · simp only [hg, if_true]
      exact tcanonFrom_mono d (by omega) _ (ih _ h.2)
    · simp only [hg, if_false, tcanonFrom, Bool.and_eq_true, decide_eq_true_eq]
      exact ⟨⟨h.1.1, by simpa using hg⟩, ih _ h.2⟩

/-- Every value put through `g` keeps the canonical form. -/
theorem tmap_canon [DecidableEq α] (d : α) (g : Nat → α → α) (t : Tbl α) (h : tcanon d t = true) :
    tcanon d (tmap d g t) = true := tmap_canonFrom d g 0 t h

/-- A mapped table reads the mapped value, where `g` keeps the default. -/
theorem tget_tmap [DecidableEq α] (d : α) (g : Nat → α → α) (t : Tbl α) (k : Nat) (hd : g k d = d)
    (h : tcanon d t = true) : tget d (tmap d g t) k = g k (tget d t k) := by
  have key : ∀ (t : Tbl α) (lo : Nat), tcanonFrom d lo t = true → k < lo → tget d (tmap d g t) k = d := by
    intro t
    induction t with
    | nil => intros; rfl
    | cons e t ih =>
      intro lo ht hlt
      simp only [tcanonFrom, Bool.and_eq_true, decide_eq_true_eq] at ht
      unfold tmap
      rw [List.filterMap_cons]
      have hne : e.1 ≠ k := by omega
      by_cases hg : g e.1 e.2 = d
      · simp only [hg, if_true]
        exact ih _ ht.2 (by omega)
      · simp only [hg, if_false, tget, hne]
        exact ih _ ht.2 (by omega)
  have main : ∀ (t : Tbl α) (lo : Nat), tcanonFrom d lo t = true → tget d (tmap d g t) k = g k (tget d t k) := by
    intro t
    induction t with
    | nil => intros; simp [tmap, tget, hd]
    | cons e t ih =>
      intro lo ht
      simp only [tcanonFrom, Bool.and_eq_true, decide_eq_true_eq] at ht
      by_cases hk : e.1 = k
      · have hrest := key t (e.1 + 1) ht.2 (by omega)
        unfold tmap at *
        rw [List.filterMap_cons]
        subst hk
        by_cases hg : g e.1 e.2 = d
        · simp [hg, tget, hrest]
        · simp [hg, tget]
      · have := ih _ ht.2
        unfold tmap at *
        rw [List.filterMap_cons]
        by_cases hg : g e.1 e.2 = d
        · simp only [hg, if_true, tget, hk, if_false]; exact this
        · simp only [hg, if_false, tget, hk]; exact this
  exact main t 0 h

end Sys2Proof.Machine
end

