-- ==== Sys2Proof/Laws/State.lean ====
section
/-!
SUPPORT. Reading a field after one of the named updates: the field updated, and every other field as it was.
-/

namespace Sys2Proof.Machine

@[simp] theorem onPort_prm (f : Fab) (p : Nat) (g : Port → Port) : (onPort f p g).prm = f.prm := rfl
@[simp] theorem onPort_store (f : Fab) (p : Nat) (g : Port → Port) : (onPort f p g).store = f.store := rfl
@[simp] theorem onPort_queues (f : Fab) (p : Nat) (g : Port → Port) : (onPort f p g).queues = f.queues := rfl
@[simp] theorem onPort_fences (f : Fab) (p : Nat) (g : Port → Port) : (onPort f p g).fences = f.fences := rfl
@[simp] theorem onPort_stallBound (f : Fab) (p : Nat) (g : Port → Port) : (onPort f p g).stallBound = f.stallBound := rfl
@[simp] theorem onPort_fenceLimit (f : Fab) (p : Nat) (g : Port → Port) : (onPort f p g).fenceLimit = f.fenceLimit := rfl
@[simp] theorem onPort_epgroups (f : Fab) (p : Nat) (g : Port → Port) : (onPort f p g).epgroups = f.epgroups := rfl
@[simp] theorem onPort_clusters (f : Fab) (p : Nat) (g : Port → Port) : (onPort f p g).clusters = f.clusters := rfl
@[simp] theorem onPort_shown (f : Fab) (p : Nat) (g : Port → Port) : (onPort f p g).shown = f.shown := rfl
@[simp] theorem onPort_links (f : Fab) (p : Nat) (g : Port → Port) : (onPort f p g).links = f.links := rfl
@[simp] theorem onPort_lanes (f : Fab) (p : Nat) (g : Port → Port) : (onPort f p g).lanes = f.lanes := rfl
@[simp] theorem onPort_swapRx (f : Fab) (p : Nat) (g : Port → Port) : (onPort f p g).swapRx = f.swapRx := rfl
@[simp] theorem onPort_swapTx (f : Fab) (p : Nat) (g : Port → Port) : (onPort f p g).swapTx = f.swapTx := rfl
@[simp] theorem onPort_ibex (f : Fab) (p : Nat) (g : Port → Port) : (onPort f p g).ibex = f.ibex := rfl
@[simp] theorem onPort_cells (f : Fab) (p : Nat) (g : Port → Port) : (onPort f p g).cells = f.cells := rfl
@[simp] theorem onPort_pins (f : Fab) (p : Nat) (g : Port → Port) : (onPort f p g).pins = f.pins := rfl
@[simp] theorem onPort_isolated (f : Fab) (p : Nat) (g : Port → Port) : (onPort f p g).isolated = f.isolated := rfl
@[simp] theorem onPort_eyeWarn (f : Fab) (p : Nat) (g : Port → Port) : (onPort f p g).eyeWarn = f.eyeWarn := rfl
@[simp] theorem onPort_eyeSwap (f : Fab) (p : Nat) (g : Port → Port) : (onPort f p g).eyeSwap = f.eyeSwap := rfl
@[simp] theorem onPort_trainTimeout (f : Fab) (p : Nat) (g : Port → Port) : (onPort f p g).trainTimeout = f.trainTimeout := rfl
@[simp] theorem onPort_dom (f : Fab) (p : Nat) (g : Port → Port) : (onPort f p g).dom = f.dom := rfl
@[simp] theorem onPort_kports (f : Fab) (p : Nat) (g : Port → Port) : (onPort f p g).kports = f.kports := rfl
@[simp] theorem onPort_map (f : Fab) (p : Nat) (g : Port → Port) : (onPort f p g).map = f.map := rfl
@[simp] theorem onPort_integ (f : Fab) (p : Nat) (g : Port → Port) : (onPort f p g).integ = f.integ := rfl
@[simp] theorem onPort_ev (f : Fab) (p : Nat) (g : Port → Port) : (onPort f p g).ev = f.ev := rfl
@[simp] theorem onPort_cnt (f : Fab) (p : Nat) (g : Port → Port) : (onPort f p g).cnt = f.cnt := rfl
@[simp] theorem onPort_lop (f : Fab) (p : Nat) (g : Port → Port) : (onPort f p g).lop = f.lop := rfl
@[simp] theorem onPort_bdp (f : Fab) (p : Nat) (g : Port → Port) : (onPort f p g).bdp = f.bdp := rfl
@[simp] theorem onPort_pwr (f : Fab) (p : Nat) (g : Port → Port) : (onPort f p g).pwr = f.pwr := rfl
@[simp] theorem onPort_start (f : Fab) (p : Nat) (g : Port → Port) : (onPort f p g).start = f.start := rfl
@[simp] theorem onPort_th (f : Fab) (p : Nat) (g : Port → Port) : (onPort f p g).th = f.th := rfl
@[simp] theorem onPort_sec (f : Fab) (p : Nat) (g : Port → Port) : (onPort f p g).sec = f.sec := rfl
@[simp] theorem onPort_img (f : Fab) (p : Nat) (g : Port → Port) : (onPort f p g).img = f.img := rfl
@[simp] theorem onPort_wir (f : Fab) (p : Nat) (g : Port → Port) : (onPort f p g).wir = f.wir := rfl
@[simp] theorem onPort_out (f : Fab) (p : Nat) (g : Port → Port) : (onPort f p g).out = f.out := rfl
@[simp] theorem onPort_free (f : Fab) (p : Nat) (g : Port → Port) : (onPort f p g).free = f.free := rfl
@[simp] theorem onPort_stamps (f : Fab) (p : Nat) (g : Port → Port) : (onPort f p g).stamps = f.stamps := rfl
/-- The record updated reads as the update says. -/
@[simp] theorem onPort_self (f : Fab) (p : Nat) (g : Port → Port) : portOf (onPort f p g) p = g (portOf f p) := by simp [portOf, onPort]
/-- Another record reads as before. -/
theorem onPort_ne (f : Fab) (p : Nat) (g : Port → Port) (j : Nat) (h : j ≠ p) : portOf (onPort f p g) j = portOf f j := by
  simp [portOf, onPort, tget_tset_ne _ _ _ h]
@[simp] theorem onPort_queueOf (f : Fab) (p : Nat) (g : Port → Port) (j : Nat) : queueOf (onPort f p g) j = queueOf f j := rfl
@[simp] theorem onPort_clusterOf (f : Fab) (p : Nat) (g : Port → Port) (j : Nat) : clusterOf (onPort f p g) j = clusterOf f j := rfl
@[simp] theorem onPort_linkOf (f : Fab) (p : Nat) (g : Port → Port) (j : Nat) : linkOf (onPort f p g) j = linkOf f j := rfl
@[simp] theorem onPort_laneAt (f : Fab) (p : Nat) (g : Port → Port) (j : Nat) : laneAt (onPort f p g) j = laneAt f j := rfl
@[simp] theorem onPort_kportOf (f : Fab) (p : Nat) (g : Port → Port) (j : Nat) : kportOf (onPort f p g) j = kportOf f j := rfl
@[simp] theorem onQueue_prm (f : Fab) (q : Nat) (g : Queue → Queue) : (onQueue f q g).prm = f.prm := rfl
@[simp] theorem onQueue_store (f : Fab) (q : Nat) (g : Queue → Queue) : (onQueue f q g).store = f.store := rfl
@[simp] theorem onQueue_ports (f : Fab) (q : Nat) (g : Queue → Queue) : (onQueue f q g).ports = f.ports := rfl
@[simp] theorem onQueue_fences (f : Fab) (q : Nat) (g : Queue → Queue) : (onQueue f q g).fences = f.fences := rfl
@[simp] theorem onQueue_stallBound (f : Fab) (q : Nat) (g : Queue → Queue) : (onQueue f q g).stallBound = f.stallBound := rfl
@[simp] theorem onQueue_fenceLimit (f : Fab) (q : Nat) (g : Queue → Queue) : (onQueue f q g).fenceLimit = f.fenceLimit := rfl
@[simp] theorem onQueue_epgroups (f : Fab) (q : Nat) (g : Queue → Queue) : (onQueue f q g).epgroups = f.epgroups := rfl
@[simp] theorem onQueue_clusters (f : Fab) (q : Nat) (g : Queue → Queue) : (onQueue f q g).clusters = f.clusters := rfl
@[simp] theorem onQueue_shown (f : Fab) (q : Nat) (g : Queue → Queue) : (onQueue f q g).shown = f.shown := rfl
@[simp] theorem onQueue_links (f : Fab) (q : Nat) (g : Queue → Queue) : (onQueue f q g).links = f.links := rfl
@[simp] theorem onQueue_lanes (f : Fab) (q : Nat) (g : Queue → Queue) : (onQueue f q g).lanes = f.lanes := rfl
@[simp] theorem onQueue_swapRx (f : Fab) (q : Nat) (g : Queue → Queue) : (onQueue f q g).swapRx = f.swapRx := rfl
@[simp] theorem onQueue_swapTx (f : Fab) (q : Nat) (g : Queue → Queue) : (onQueue f q g).swapTx = f.swapTx := rfl
@[simp] theorem onQueue_ibex (f : Fab) (q : Nat) (g : Queue → Queue) : (onQueue f q g).ibex = f.ibex := rfl
@[simp] theorem onQueue_cells (f : Fab) (q : Nat) (g : Queue → Queue) : (onQueue f q g).cells = f.cells := rfl
@[simp] theorem onQueue_pins (f : Fab) (q : Nat) (g : Queue → Queue) : (onQueue f q g).pins = f.pins := rfl
@[simp] theorem onQueue_isolated (f : Fab) (q : Nat) (g : Queue → Queue) : (onQueue f q g).isolated = f.isolated := rfl
@[simp] theorem onQueue_eyeWarn (f : Fab) (q : Nat) (g : Queue → Queue) : (onQueue f q g).eyeWarn = f.eyeWarn := rfl
@[simp] theorem onQueue_eyeSwap (f : Fab) (q : Nat) (g : Queue → Queue) : (onQueue f q g).eyeSwap = f.eyeSwap := rfl
@[simp] theorem onQueue_trainTimeout (f : Fab) (q : Nat) (g : Queue → Queue) : (onQueue f q g).trainTimeout = f.trainTimeout := rfl
@[simp] theorem onQueue_dom (f : Fab) (q : Nat) (g : Queue → Queue) : (onQueue f q g).dom = f.dom := rfl
@[simp] theorem onQueue_kports (f : Fab) (q : Nat) (g : Queue → Queue) : (onQueue f q g).kports = f.kports := rfl
@[simp] theorem onQueue_map (f : Fab) (q : Nat) (g : Queue → Queue) : (onQueue f q g).map = f.map := rfl
@[simp] theorem onQueue_integ (f : Fab) (q : Nat) (g : Queue → Queue) : (onQueue f q g).integ = f.integ := rfl
@[simp] theorem onQueue_ev (f : Fab) (q : Nat) (g : Queue → Queue) : (onQueue f q g).ev = f.ev := rfl
@[simp] theorem onQueue_cnt (f : Fab) (q : Nat) (g : Queue → Queue) : (onQueue f q g).cnt = f.cnt := rfl
@[simp] theorem onQueue_lop (f : Fab) (q : Nat) (g : Queue → Queue) : (onQueue f q g).lop = f.lop := rfl
@[simp] theorem onQueue_bdp (f : Fab) (q : Nat) (g : Queue → Queue) : (onQueue f q g).bdp = f.bdp := rfl
@[simp] theorem onQueue_pwr (f : Fab) (q : Nat) (g : Queue → Queue) : (onQueue f q g).pwr = f.pwr := rfl
@[simp] theorem onQueue_start (f : Fab) (q : Nat) (g : Queue → Queue) : (onQueue f q g).start = f.start := rfl
@[simp] theorem onQueue_th (f : Fab) (q : Nat) (g : Queue → Queue) : (onQueue f q g).th = f.th := rfl
@[simp] theorem onQueue_sec (f : Fab) (q : Nat) (g : Queue → Queue) : (onQueue f q g).sec = f.sec := rfl
@[simp] theorem onQueue_img (f : Fab) (q : Nat) (g : Queue → Queue) : (onQueue f q g).img = f.img := rfl
@[simp] theorem onQueue_wir (f : Fab) (q : Nat) (g : Queue → Queue) : (onQueue f q g).wir = f.wir := rfl
@[simp] theorem onQueue_out (f : Fab) (q : Nat) (g : Queue → Queue) : (onQueue f q g).out = f.out := rfl
@[simp] theorem onQueue_free (f : Fab) (q : Nat) (g : Queue → Queue) : (onQueue f q g).free = f.free := rfl
@[simp] theorem onQueue_stamps (f : Fab) (q : Nat) (g : Queue → Queue) : (onQueue f q g).stamps = f.stamps := rfl
/-- The record updated reads as the update says. -/
@[simp] theorem onQueue_self (f : Fab) (q : Nat) (g : Queue → Queue) : queueOf (onQueue f q g) q = g (queueOf f q) := by simp [queueOf, onQueue]
/-- Another record reads as before. -/
theorem onQueue_ne (f : Fab) (q : Nat) (g : Queue → Queue) (j : Nat) (h : j ≠ q) : queueOf (onQueue f q g) j = queueOf f j := by
  simp [queueOf, onQueue, tget_tset_ne _ _ _ h]
@[simp] theorem onQueue_portOf (f : Fab) (q : Nat) (g : Queue → Queue) (j : Nat) : portOf (onQueue f q g) j = portOf f j := rfl
@[simp] theorem onQueue_clusterOf (f : Fab) (q : Nat) (g : Queue → Queue) (j : Nat) : clusterOf (onQueue f q g) j = clusterOf f j := rfl
@[simp] theorem onQueue_linkOf (f : Fab) (q : Nat) (g : Queue → Queue) (j : Nat) : linkOf (onQueue f q g) j = linkOf f j := rfl
@[simp] theorem onQueue_laneAt (f : Fab) (q : Nat) (g : Queue → Queue) (j : Nat) : laneAt (onQueue f q g) j = laneAt f j := rfl
@[simp] theorem onQueue_kportOf (f : Fab) (q : Nat) (g : Queue → Queue) (j : Nat) : kportOf (onQueue f q g) j = kportOf f j := rfl
@[simp] theorem onCluster_prm (f : Fab) (c : Nat) (g : Cluster → Cluster) : (onCluster f c g).prm = f.prm := rfl
@[simp] theorem onCluster_store (f : Fab) (c : Nat) (g : Cluster → Cluster) : (onCluster f c g).store = f.store := rfl
@[simp] theorem onCluster_ports (f : Fab) (c : Nat) (g : Cluster → Cluster) : (onCluster f c g).ports = f.ports := rfl
@[simp] theorem onCluster_queues (f : Fab) (c : Nat) (g : Cluster → Cluster) : (onCluster f c g).queues = f.queues := rfl
@[simp] theorem onCluster_fences (f : Fab) (c : Nat) (g : Cluster → Cluster) : (onCluster f c g).fences = f.fences := rfl
@[simp] theorem onCluster_stallBound (f : Fab) (c : Nat) (g : Cluster → Cluster) : (onCluster f c g).stallBound = f.stallBound := rfl
@[simp] theorem onCluster_fenceLimit (f : Fab) (c : Nat) (g : Cluster → Cluster) : (onCluster f c g).fenceLimit = f.fenceLimit := rfl
@[simp] theorem onCluster_epgroups (f : Fab) (c : Nat) (g : Cluster → Cluster) : (onCluster f c g).epgroups = f.epgroups := rfl
@[simp] theorem onCluster_shown (f : Fab) (c : Nat) (g : Cluster → Cluster) : (onCluster f c g).shown = f.shown := rfl
@[simp] theorem onCluster_links (f : Fab) (c : Nat) (g : Cluster → Cluster) : (onCluster f c g).links = f.links := rfl
@[simp] theorem onCluster_lanes (f : Fab) (c : Nat) (g : Cluster → Cluster) : (onCluster f c g).lanes = f.lanes := rfl
@[simp] theorem onCluster_swapRx (f : Fab) (c : Nat) (g : Cluster → Cluster) : (onCluster f c g).swapRx = f.swapRx := rfl
@[simp] theorem onCluster_swapTx (f : Fab) (c : Nat) (g : Cluster → Cluster) : (onCluster f c g).swapTx = f.swapTx := rfl
@[simp] theorem onCluster_ibex (f : Fab) (c : Nat) (g : Cluster → Cluster) : (onCluster f c g).ibex = f.ibex := rfl
@[simp] theorem onCluster_cells (f : Fab) (c : Nat) (g : Cluster → Cluster) : (onCluster f c g).cells = f.cells := rfl
@[simp] theorem onCluster_pins (f : Fab) (c : Nat) (g : Cluster → Cluster) : (onCluster f c g).pins = f.pins := rfl
@[simp] theorem onCluster_isolated (f : Fab) (c : Nat) (g : Cluster → Cluster) : (onCluster f c g).isolated = f.isolated := rfl
@[simp] theorem onCluster_eyeWarn (f : Fab) (c : Nat) (g : Cluster → Cluster) : (onCluster f c g).eyeWarn = f.eyeWarn := rfl
@[simp] theorem onCluster_eyeSwap (f : Fab) (c : Nat) (g : Cluster → Cluster) : (onCluster f c g).eyeSwap = f.eyeSwap := rfl
@[simp] theorem onCluster_trainTimeout (f : Fab) (c : Nat) (g : Cluster → Cluster) : (onCluster f c g).trainTimeout = f.trainTimeout := rfl
@[simp] theorem onCluster_dom (f : Fab) (c : Nat) (g : Cluster → Cluster) : (onCluster f c g).dom = f.dom := rfl
@[simp] theorem onCluster_kports (f : Fab) (c : Nat) (g : Cluster → Cluster) : (onCluster f c g).kports = f.kports := rfl
@[simp] theorem onCluster_map (f : Fab) (c : Nat) (g : Cluster → Cluster) : (onCluster f c g).map = f.map := rfl
@[simp] theorem onCluster_integ (f : Fab) (c : Nat) (g : Cluster → Cluster) : (onCluster f c g).integ = f.integ := rfl
@[simp] theorem onCluster_ev (f : Fab) (c : Nat) (g : Cluster → Cluster) : (onCluster f c g).ev = f.ev := rfl
@[simp] theorem onCluster_cnt (f : Fab) (c : Nat) (g : Cluster → Cluster) : (onCluster f c g).cnt = f.cnt := rfl
@[simp] theorem onCluster_lop (f : Fab) (c : Nat) (g : Cluster → Cluster) : (onCluster f c g).lop = f.lop := rfl
@[simp] theorem onCluster_bdp (f : Fab) (c : Nat) (g : Cluster → Cluster) : (onCluster f c g).bdp = f.bdp := rfl
@[simp] theorem onCluster_pwr (f : Fab) (c : Nat) (g : Cluster → Cluster) : (onCluster f c g).pwr = f.pwr := rfl
@[simp] theorem onCluster_start (f : Fab) (c : Nat) (g : Cluster → Cluster) : (onCluster f c g).start = f.start := rfl
@[simp] theorem onCluster_th (f : Fab) (c : Nat) (g : Cluster → Cluster) : (onCluster f c g).th = f.th := rfl
@[simp] theorem onCluster_sec (f : Fab) (c : Nat) (g : Cluster → Cluster) : (onCluster f c g).sec = f.sec := rfl
@[simp] theorem onCluster_img (f : Fab) (c : Nat) (g : Cluster → Cluster) : (onCluster f c g).img = f.img := rfl
@[simp] theorem onCluster_wir (f : Fab) (c : Nat) (g : Cluster → Cluster) : (onCluster f c g).wir = f.wir := rfl
@[simp] theorem onCluster_out (f : Fab) (c : Nat) (g : Cluster → Cluster) : (onCluster f c g).out = f.out := rfl
@[simp] theorem onCluster_free (f : Fab) (c : Nat) (g : Cluster → Cluster) : (onCluster f c g).free = f.free := rfl
@[simp] theorem onCluster_stamps (f : Fab) (c : Nat) (g : Cluster → Cluster) : (onCluster f c g).stamps = f.stamps := rfl
/-- The record updated reads as the update says. -/
@[simp] theorem onCluster_self (f : Fab) (c : Nat) (g : Cluster → Cluster) : clusterOf (onCluster f c g) c = g (clusterOf f c) := by simp [clusterOf, onCluster]
/-- Another record reads as before. -/
theorem onCluster_ne (f : Fab) (c : Nat) (g : Cluster → Cluster) (j : Nat) (h : j ≠ c) : clusterOf (onCluster f c g) j = clusterOf f j := by
  simp [clusterOf, onCluster, tget_tset_ne _ _ _ h]
@[simp] theorem onCluster_portOf (f : Fab) (c : Nat) (g : Cluster → Cluster) (j : Nat) : portOf (onCluster f c g) j = portOf f j := rfl
@[simp] theorem onCluster_queueOf (f : Fab) (c : Nat) (g : Cluster → Cluster) (j : Nat) : queueOf (onCluster f c g) j = queueOf f j := rfl
@[simp] theorem onCluster_linkOf (f : Fab) (c : Nat) (g : Cluster → Cluster) (j : Nat) : linkOf (onCluster f c g) j = linkOf f j := rfl
@[simp] theorem onCluster_laneAt (f : Fab) (c : Nat) (g : Cluster → Cluster) (j : Nat) : laneAt (onCluster f c g) j = laneAt f j := rfl
@[simp] theorem onCluster_kportOf (f : Fab) (c : Nat) (g : Cluster → Cluster) (j : Nat) : kportOf (onCluster f c g) j = kportOf f j := rfl
@[simp] theorem onLink_prm (f : Fab) (k : Nat) (g : Link → Link) : (onLink f k g).prm = f.prm := rfl
@[simp] theorem onLink_store (f : Fab) (k : Nat) (g : Link → Link) : (onLink f k g).store = f.store := rfl
@[simp] theorem onLink_ports (f : Fab) (k : Nat) (g : Link → Link) : (onLink f k g).ports = f.ports := rfl
@[simp] theorem onLink_queues (f : Fab) (k : Nat) (g : Link → Link) : (onLink f k g).queues = f.queues := rfl
@[simp] theorem onLink_fences (f : Fab) (k : Nat) (g : Link → Link) : (onLink f k g).fences = f.fences := rfl
@[simp] theorem onLink_stallBound (f : Fab) (k : Nat) (g : Link → Link) : (onLink f k g).stallBound = f.stallBound := rfl
@[simp] theorem onLink_fenceLimit (f : Fab) (k : Nat) (g : Link → Link) : (onLink f k g).fenceLimit = f.fenceLimit := rfl
@[simp] theorem onLink_epgroups (f : Fab) (k : Nat) (g : Link → Link) : (onLink f k g).epgroups = f.epgroups := rfl
@[simp] theorem onLink_clusters (f : Fab) (k : Nat) (g : Link → Link) : (onLink f k g).clusters = f.clusters := rfl
@[simp] theorem onLink_shown (f : Fab) (k : Nat) (g : Link → Link) : (onLink f k g).shown = f.shown := rfl
@[simp] theorem onLink_lanes (f : Fab) (k : Nat) (g : Link → Link) : (onLink f k g).lanes = f.lanes := rfl
@[simp] theorem onLink_swapRx (f : Fab) (k : Nat) (g : Link → Link) : (onLink f k g).swapRx = f.swapRx := rfl
@[simp] theorem onLink_swapTx (f : Fab) (k : Nat) (g : Link → Link) : (onLink f k g).swapTx = f.swapTx := rfl
@[simp] theorem onLink_ibex (f : Fab) (k : Nat) (g : Link → Link) : (onLink f k g).ibex = f.ibex := rfl
@[simp] theorem onLink_cells (f : Fab) (k : Nat) (g : Link → Link) : (onLink f k g).cells = f.cells := rfl
@[simp] theorem onLink_pins (f : Fab) (k : Nat) (g : Link → Link) : (onLink f k g).pins = f.pins := rfl
@[simp] theorem onLink_isolated (f : Fab) (k : Nat) (g : Link → Link) : (onLink f k g).isolated = f.isolated := rfl
@[simp] theorem onLink_eyeWarn (f : Fab) (k : Nat) (g : Link → Link) : (onLink f k g).eyeWarn = f.eyeWarn := rfl
@[simp] theorem onLink_eyeSwap (f : Fab) (k : Nat) (g : Link → Link) : (onLink f k g).eyeSwap = f.eyeSwap := rfl
@[simp] theorem onLink_trainTimeout (f : Fab) (k : Nat) (g : Link → Link) : (onLink f k g).trainTimeout = f.trainTimeout := rfl
@[simp] theorem onLink_dom (f : Fab) (k : Nat) (g : Link → Link) : (onLink f k g).dom = f.dom := rfl
@[simp] theorem onLink_kports (f : Fab) (k : Nat) (g : Link → Link) : (onLink f k g).kports = f.kports := rfl
@[simp] theorem onLink_map (f : Fab) (k : Nat) (g : Link → Link) : (onLink f k g).map = f.map := rfl
@[simp] theorem onLink_integ (f : Fab) (k : Nat) (g : Link → Link) : (onLink f k g).integ = f.integ := rfl
@[simp] theorem onLink_ev (f : Fab) (k : Nat) (g : Link → Link) : (onLink f k g).ev = f.ev := rfl
@[simp] theorem onLink_cnt (f : Fab) (k : Nat) (g : Link → Link) : (onLink f k g).cnt = f.cnt := rfl
@[simp] theorem onLink_lop (f : Fab) (k : Nat) (g : Link → Link) : (onLink f k g).lop = f.lop := rfl
@[simp] theorem onLink_bdp (f : Fab) (k : Nat) (g : Link → Link) : (onLink f k g).bdp = f.bdp := rfl
@[simp] theorem onLink_pwr (f : Fab) (k : Nat) (g : Link → Link) : (onLink f k g).pwr = f.pwr := rfl
@[simp] theorem onLink_start (f : Fab) (k : Nat) (g : Link → Link) : (onLink f k g).start = f.start := rfl
@[simp] theorem onLink_th (f : Fab) (k : Nat) (g : Link → Link) : (onLink f k g).th = f.th := rfl
@[simp] theorem onLink_sec (f : Fab) (k : Nat) (g : Link → Link) : (onLink f k g).sec = f.sec := rfl
@[simp] theorem onLink_img (f : Fab) (k : Nat) (g : Link → Link) : (onLink f k g).img = f.img := rfl
@[simp] theorem onLink_wir (f : Fab) (k : Nat) (g : Link → Link) : (onLink f k g).wir = f.wir := rfl
@[simp] theorem onLink_out (f : Fab) (k : Nat) (g : Link → Link) : (onLink f k g).out = f.out := rfl
@[simp] theorem onLink_free (f : Fab) (k : Nat) (g : Link → Link) : (onLink f k g).free = f.free := rfl
@[simp] theorem onLink_stamps (f : Fab) (k : Nat) (g : Link → Link) : (onLink f k g).stamps = f.stamps := rfl
/-- The record updated reads as the update says. -/
@[simp] theorem onLink_self (f : Fab) (k : Nat) (g : Link → Link) : linkOf (onLink f k g) k = g (linkOf f k) := by simp [linkOf, onLink]
/-- Another record reads as before. -/
theorem onLink_ne (f : Fab) (k : Nat) (g : Link → Link) (j : Nat) (h : j ≠ k) : linkOf (onLink f k g) j = linkOf f j := by
  simp [linkOf, onLink, tget_tset_ne _ _ _ h]
@[simp] theorem onLink_portOf (f : Fab) (k : Nat) (g : Link → Link) (j : Nat) : portOf (onLink f k g) j = portOf f j := rfl
@[simp] theorem onLink_queueOf (f : Fab) (k : Nat) (g : Link → Link) (j : Nat) : queueOf (onLink f k g) j = queueOf f j := rfl
@[simp] theorem onLink_clusterOf (f : Fab) (k : Nat) (g : Link → Link) (j : Nat) : clusterOf (onLink f k g) j = clusterOf f j := rfl
@[simp] theorem onLink_laneAt (f : Fab) (k : Nat) (g : Link → Link) (j : Nat) : laneAt (onLink f k g) j = laneAt f j := rfl
@[simp] theorem onLink_kportOf (f : Fab) (k : Nat) (g : Link → Link) (j : Nat) : kportOf (onLink f k g) j = kportOf f j := rfl
@[simp] theorem onLane_prm (f : Fab) (l : Nat) (g : Lane → Lane) : (onLane f l g).prm = f.prm := rfl
@[simp] theorem onLane_store (f : Fab) (l : Nat) (g : Lane → Lane) : (onLane f l g).store = f.store := rfl
@[simp] theorem onLane_ports (f : Fab) (l : Nat) (g : Lane → Lane) : (onLane f l g).ports = f.ports := rfl
@[simp] theorem onLane_queues (f : Fab) (l : Nat) (g : Lane → Lane) : (onLane f l g).queues = f.queues := rfl
@[simp] theorem onLane_fences (f : Fab) (l : Nat) (g : Lane → Lane) : (onLane f l g).fences = f.fences := rfl
@[simp] theorem onLane_stallBound (f : Fab) (l : Nat) (g : Lane → Lane) : (onLane f l g).stallBound = f.stallBound := rfl
@[simp] theorem onLane_fenceLimit (f : Fab) (l : Nat) (g : Lane → Lane) : (onLane f l g).fenceLimit = f.fenceLimit := rfl
@[simp] theorem onLane_epgroups (f : Fab) (l : Nat) (g : Lane → Lane) : (onLane f l g).epgroups = f.epgroups := rfl
@[simp] theorem onLane_clusters (f : Fab) (l : Nat) (g : Lane → Lane) : (onLane f l g).clusters = f.clusters := rfl
@[simp] theorem onLane_shown (f : Fab) (l : Nat) (g : Lane → Lane) : (onLane f l g).shown = f.shown := rfl
@[simp] theorem onLane_links (f : Fab) (l : Nat) (g : Lane → Lane) : (onLane f l g).links = f.links := rfl
@[simp] theorem onLane_swapRx (f : Fab) (l : Nat) (g : Lane → Lane) : (onLane f l g).swapRx = f.swapRx := rfl
@[simp] theorem onLane_swapTx (f : Fab) (l : Nat) (g : Lane → Lane) : (onLane f l g).swapTx = f.swapTx := rfl
@[simp] theorem onLane_ibex (f : Fab) (l : Nat) (g : Lane → Lane) : (onLane f l g).ibex = f.ibex := rfl
@[simp] theorem onLane_cells (f : Fab) (l : Nat) (g : Lane → Lane) : (onLane f l g).cells = f.cells := rfl
@[simp] theorem onLane_pins (f : Fab) (l : Nat) (g : Lane → Lane) : (onLane f l g).pins = f.pins := rfl
@[simp] theorem onLane_isolated (f : Fab) (l : Nat) (g : Lane → Lane) : (onLane f l g).isolated = f.isolated := rfl
@[simp] theorem onLane_eyeWarn (f : Fab) (l : Nat) (g : Lane → Lane) : (onLane f l g).eyeWarn = f.eyeWarn := rfl
@[simp] theorem onLane_eyeSwap (f : Fab) (l : Nat) (g : Lane → Lane) : (onLane f l g).eyeSwap = f.eyeSwap := rfl
@[simp] theorem onLane_trainTimeout (f : Fab) (l : Nat) (g : Lane → Lane) : (onLane f l g).trainTimeout = f.trainTimeout := rfl
@[simp] theorem onLane_dom (f : Fab) (l : Nat) (g : Lane → Lane) : (onLane f l g).dom = f.dom := rfl
@[simp] theorem onLane_kports (f : Fab) (l : Nat) (g : Lane → Lane) : (onLane f l g).kports = f.kports := rfl
@[simp] theorem onLane_map (f : Fab) (l : Nat) (g : Lane → Lane) : (onLane f l g).map = f.map := rfl
@[simp] theorem onLane_integ (f : Fab) (l : Nat) (g : Lane → Lane) : (onLane f l g).integ = f.integ := rfl
@[simp] theorem onLane_ev (f : Fab) (l : Nat) (g : Lane → Lane) : (onLane f l g).ev = f.ev := rfl
@[simp] theorem onLane_cnt (f : Fab) (l : Nat) (g : Lane → Lane) : (onLane f l g).cnt = f.cnt := rfl
@[simp] theorem onLane_lop (f : Fab) (l : Nat) (g : Lane → Lane) : (onLane f l g).lop = f.lop := rfl
@[simp] theorem onLane_bdp (f : Fab) (l : Nat) (g : Lane → Lane) : (onLane f l g).bdp = f.bdp := rfl
@[simp] theorem onLane_pwr (f : Fab) (l : Nat) (g : Lane → Lane) : (onLane f l g).pwr = f.pwr := rfl
@[simp] theorem onLane_start (f : Fab) (l : Nat) (g : Lane → Lane) : (onLane f l g).start = f.start := rfl
@[simp] theorem onLane_th (f : Fab) (l : Nat) (g : Lane → Lane) : (onLane f l g).th = f.th := rfl
@[simp] theorem onLane_sec (f : Fab) (l : Nat) (g : Lane → Lane) : (onLane f l g).sec = f.sec := rfl
@[simp] theorem onLane_img (f : Fab) (l : Nat) (g : Lane → Lane) : (onLane f l g).img = f.img := rfl
@[simp] theorem onLane_wir (f : Fab) (l : Nat) (g : Lane → Lane) : (onLane f l g).wir = f.wir := rfl
@[simp] theorem onLane_out (f : Fab) (l : Nat) (g : Lane → Lane) : (onLane f l g).out = f.out := rfl
@[simp] theorem onLane_free (f : Fab) (l : Nat) (g : Lane → Lane) : (onLane f l g).free = f.free := rfl
@[simp] theorem onLane_stamps (f : Fab) (l : Nat) (g : Lane → Lane) : (onLane f l g).stamps = f.stamps := rfl
/-- The record updated reads as the update says. -/
@[simp] theorem onLane_self (f : Fab) (l : Nat) (g : Lane → Lane) : laneAt (onLane f l g) l = g (laneAt f l) := by simp [laneAt, onLane]
/-- Another record reads as before. -/
theorem onLane_ne (f : Fab) (l : Nat) (g : Lane → Lane) (j : Nat) (h : j ≠ l) : laneAt (onLane f l g) j = laneAt f j := by
  simp [laneAt, onLane, tget_tset_ne _ _ _ h]
@[simp] theorem onLane_portOf (f : Fab) (l : Nat) (g : Lane → Lane) (j : Nat) : portOf (onLane f l g) j = portOf f j := rfl
@[simp] theorem onLane_queueOf (f : Fab) (l : Nat) (g : Lane → Lane) (j : Nat) : queueOf (onLane f l g) j = queueOf f j := rfl
@[simp] theorem onLane_clusterOf (f : Fab) (l : Nat) (g : Lane → Lane) (j : Nat) : clusterOf (onLane f l g) j = clusterOf f j := rfl
@[simp] theorem onLane_linkOf (f : Fab) (l : Nat) (g : Lane → Lane) (j : Nat) : linkOf (onLane f l g) j = linkOf f j := rfl
@[simp] theorem onLane_kportOf (f : Fab) (l : Nat) (g : Lane → Lane) (j : Nat) : kportOf (onLane f l g) j = kportOf f j := rfl
@[simp] theorem onKport_prm (f : Fab) (k : Nat) (g : KPort → KPort) : (onKport f k g).prm = f.prm := rfl
@[simp] theorem onKport_store (f : Fab) (k : Nat) (g : KPort → KPort) : (onKport f k g).store = f.store := rfl
@[simp] theorem onKport_ports (f : Fab) (k : Nat) (g : KPort → KPort) : (onKport f k g).ports = f.ports := rfl
@[simp] theorem onKport_queues (f : Fab) (k : Nat) (g : KPort → KPort) : (onKport f k g).queues = f.queues := rfl
@[simp] theorem onKport_fences (f : Fab) (k : Nat) (g : KPort → KPort) : (onKport f k g).fences = f.fences := rfl
@[simp] theorem onKport_stallBound (f : Fab) (k : Nat) (g : KPort → KPort) : (onKport f k g).stallBound = f.stallBound := rfl
@[simp] theorem onKport_fenceLimit (f : Fab) (k : Nat) (g : KPort → KPort) : (onKport f k g).fenceLimit = f.fenceLimit := rfl
@[simp] theorem onKport_epgroups (f : Fab) (k : Nat) (g : KPort → KPort) : (onKport f k g).epgroups = f.epgroups := rfl
@[simp] theorem onKport_clusters (f : Fab) (k : Nat) (g : KPort → KPort) : (onKport f k g).clusters = f.clusters := rfl
@[simp] theorem onKport_shown (f : Fab) (k : Nat) (g : KPort → KPort) : (onKport f k g).shown = f.shown := rfl
@[simp] theorem onKport_links (f : Fab) (k : Nat) (g : KPort → KPort) : (onKport f k g).links = f.links := rfl
@[simp] theorem onKport_lanes (f : Fab) (k : Nat) (g : KPort → KPort) : (onKport f k g).lanes = f.lanes := rfl
@[simp] theorem onKport_swapRx (f : Fab) (k : Nat) (g : KPort → KPort) : (onKport f k g).swapRx = f.swapRx := rfl
@[simp] theorem onKport_swapTx (f : Fab) (k : Nat) (g : KPort → KPort) : (onKport f k g).swapTx = f.swapTx := rfl
@[simp] theorem onKport_ibex (f : Fab) (k : Nat) (g : KPort → KPort) : (onKport f k g).ibex = f.ibex := rfl
@[simp] theorem onKport_cells (f : Fab) (k : Nat) (g : KPort → KPort) : (onKport f k g).cells = f.cells := rfl
@[simp] theorem onKport_pins (f : Fab) (k : Nat) (g : KPort → KPort) : (onKport f k g).pins = f.pins := rfl
@[simp] theorem onKport_isolated (f : Fab) (k : Nat) (g : KPort → KPort) : (onKport f k g).isolated = f.isolated := rfl
@[simp] theorem onKport_eyeWarn (f : Fab) (k : Nat) (g : KPort → KPort) : (onKport f k g).eyeWarn = f.eyeWarn := rfl
@[simp] theorem onKport_eyeSwap (f : Fab) (k : Nat) (g : KPort → KPort) : (onKport f k g).eyeSwap = f.eyeSwap := rfl
@[simp] theorem onKport_trainTimeout (f : Fab) (k : Nat) (g : KPort → KPort) : (onKport f k g).trainTimeout = f.trainTimeout := rfl
@[simp] theorem onKport_dom (f : Fab) (k : Nat) (g : KPort → KPort) : (onKport f k g).dom = f.dom := rfl
@[simp] theorem onKport_map (f : Fab) (k : Nat) (g : KPort → KPort) : (onKport f k g).map = f.map := rfl
@[simp] theorem onKport_integ (f : Fab) (k : Nat) (g : KPort → KPort) : (onKport f k g).integ = f.integ := rfl
@[simp] theorem onKport_ev (f : Fab) (k : Nat) (g : KPort → KPort) : (onKport f k g).ev = f.ev := rfl
@[simp] theorem onKport_cnt (f : Fab) (k : Nat) (g : KPort → KPort) : (onKport f k g).cnt = f.cnt := rfl
@[simp] theorem onKport_lop (f : Fab) (k : Nat) (g : KPort → KPort) : (onKport f k g).lop = f.lop := rfl
@[simp] theorem onKport_bdp (f : Fab) (k : Nat) (g : KPort → KPort) : (onKport f k g).bdp = f.bdp := rfl
@[simp] theorem onKport_pwr (f : Fab) (k : Nat) (g : KPort → KPort) : (onKport f k g).pwr = f.pwr := rfl
@[simp] theorem onKport_start (f : Fab) (k : Nat) (g : KPort → KPort) : (onKport f k g).start = f.start := rfl
@[simp] theorem onKport_th (f : Fab) (k : Nat) (g : KPort → KPort) : (onKport f k g).th = f.th := rfl
@[simp] theorem onKport_sec (f : Fab) (k : Nat) (g : KPort → KPort) : (onKport f k g).sec = f.sec := rfl
@[simp] theorem onKport_img (f : Fab) (k : Nat) (g : KPort → KPort) : (onKport f k g).img = f.img := rfl
@[simp] theorem onKport_wir (f : Fab) (k : Nat) (g : KPort → KPort) : (onKport f k g).wir = f.wir := rfl
@[simp] theorem onKport_out (f : Fab) (k : Nat) (g : KPort → KPort) : (onKport f k g).out = f.out := rfl
@[simp] theorem onKport_free (f : Fab) (k : Nat) (g : KPort → KPort) : (onKport f k g).free = f.free := rfl
@[simp] theorem onKport_stamps (f : Fab) (k : Nat) (g : KPort → KPort) : (onKport f k g).stamps = f.stamps := rfl
/-- The record updated reads as the update says. -/
@[simp] theorem onKport_self (f : Fab) (k : Nat) (g : KPort → KPort) : kportOf (onKport f k g) k = g (kportOf f k) := by simp [kportOf, onKport]
/-- Another record reads as before. -/
theorem onKport_ne (f : Fab) (k : Nat) (g : KPort → KPort) (j : Nat) (h : j ≠ k) : kportOf (onKport f k g) j = kportOf f j := by
  simp [kportOf, onKport, tget_tset_ne _ _ _ h]
@[simp] theorem onKport_portOf (f : Fab) (k : Nat) (g : KPort → KPort) (j : Nat) : portOf (onKport f k g) j = portOf f j := rfl
@[simp] theorem onKport_queueOf (f : Fab) (k : Nat) (g : KPort → KPort) (j : Nat) : queueOf (onKport f k g) j = queueOf f j := rfl
@[simp] theorem onKport_clusterOf (f : Fab) (k : Nat) (g : KPort → KPort) (j : Nat) : clusterOf (onKport f k g) j = clusterOf f j := rfl
@[simp] theorem onKport_linkOf (f : Fab) (k : Nat) (g : KPort → KPort) (j : Nat) : linkOf (onKport f k g) j = linkOf f j := rfl
@[simp] theorem onKport_laneAt (f : Fab) (k : Nat) (g : KPort → KPort) (j : Nat) : laneAt (onKport f k g) j = laneAt f j := rfl
@[simp] theorem onStore_self (f : Fab) (g : Store → Store) : (onStore f g).store = g f.store := rfl
@[simp] theorem onStore_prm (f : Fab) (g : Store → Store) : (onStore f g).prm = f.prm := rfl
@[simp] theorem onStore_ports (f : Fab) (g : Store → Store) : (onStore f g).ports = f.ports := rfl
@[simp] theorem onStore_queues (f : Fab) (g : Store → Store) : (onStore f g).queues = f.queues := rfl
@[simp] theorem onStore_fences (f : Fab) (g : Store → Store) : (onStore f g).fences = f.fences := rfl
@[simp] theorem onStore_stallBound (f : Fab) (g : Store → Store) : (onStore f g).stallBound = f.stallBound := rfl
@[simp] theorem onStore_fenceLimit (f : Fab) (g : Store → Store) : (onStore f g).fenceLimit = f.fenceLimit := rfl
@[simp] theorem onStore_epgroups (f : Fab) (g : Store → Store) : (onStore f g).epgroups = f.epgroups := rfl
@[simp] theorem onStore_clusters (f : Fab) (g : Store → Store) : (onStore f g).clusters = f.clusters := rfl
@[simp] theorem onStore_shown (f : Fab) (g : Store → Store) : (onStore f g).shown = f.shown := rfl
@[simp] theorem onStore_links (f : Fab) (g : Store → Store) : (onStore f g).links = f.links := rfl
@[simp] theorem onStore_lanes (f : Fab) (g : Store → Store) : (onStore f g).lanes = f.lanes := rfl
@[simp] theorem onStore_swapRx (f : Fab) (g : Store → Store) : (onStore f g).swapRx = f.swapRx := rfl
@[simp] theorem onStore_swapTx (f : Fab) (g : Store → Store) : (onStore f g).swapTx = f.swapTx := rfl
@[simp] theorem onStore_ibex (f : Fab) (g : Store → Store) : (onStore f g).ibex = f.ibex := rfl
@[simp] theorem onStore_cells (f : Fab) (g : Store → Store) : (onStore f g).cells = f.cells := rfl
@[simp] theorem onStore_pins (f : Fab) (g : Store → Store) : (onStore f g).pins = f.pins := rfl
@[simp] theorem onStore_isolated (f : Fab) (g : Store → Store) : (onStore f g).isolated = f.isolated := rfl
@[simp] theorem onStore_eyeWarn (f : Fab) (g : Store → Store) : (onStore f g).eyeWarn = f.eyeWarn := rfl
@[simp] theorem onStore_eyeSwap (f : Fab) (g : Store → Store) : (onStore f g).eyeSwap = f.eyeSwap := rfl
@[simp] theorem onStore_trainTimeout (f : Fab) (g : Store → Store) : (onStore f g).trainTimeout = f.trainTimeout := rfl
@[simp] theorem onStore_dom (f : Fab) (g : Store → Store) : (onStore f g).dom = f.dom := rfl
@[simp] theorem onStore_kports (f : Fab) (g : Store → Store) : (onStore f g).kports = f.kports := rfl
@[simp] theorem onStore_map (f : Fab) (g : Store → Store) : (onStore f g).map = f.map := rfl
@[simp] theorem onStore_integ (f : Fab) (g : Store → Store) : (onStore f g).integ = f.integ := rfl
@[simp] theorem onStore_ev (f : Fab) (g : Store → Store) : (onStore f g).ev = f.ev := rfl
@[simp] theorem onStore_cnt (f : Fab) (g : Store → Store) : (onStore f g).cnt = f.cnt := rfl
@[simp] theorem onStore_lop (f : Fab) (g : Store → Store) : (onStore f g).lop = f.lop := rfl
@[simp] theorem onStore_bdp (f : Fab) (g : Store → Store) : (onStore f g).bdp = f.bdp := rfl
@[simp] theorem onStore_pwr (f : Fab) (g : Store → Store) : (onStore f g).pwr = f.pwr := rfl
@[simp] theorem onStore_start (f : Fab) (g : Store → Store) : (onStore f g).start = f.start := rfl
@[simp] theorem onStore_th (f : Fab) (g : Store → Store) : (onStore f g).th = f.th := rfl
@[simp] theorem onStore_sec (f : Fab) (g : Store → Store) : (onStore f g).sec = f.sec := rfl
@[simp] theorem onStore_img (f : Fab) (g : Store → Store) : (onStore f g).img = f.img := rfl
@[simp] theorem onStore_wir (f : Fab) (g : Store → Store) : (onStore f g).wir = f.wir := rfl
@[simp] theorem onStore_out (f : Fab) (g : Store → Store) : (onStore f g).out = f.out := rfl
@[simp] theorem onStore_free (f : Fab) (g : Store → Store) : (onStore f g).free = f.free := rfl
@[simp] theorem onStore_stamps (f : Fab) (g : Store → Store) : (onStore f g).stamps = f.stamps := rfl
@[simp] theorem onDom_self (f : Fab) (g : Domain → Domain) : (onDom f g).dom = g f.dom := rfl
@[simp] theorem onDom_prm (f : Fab) (g : Domain → Domain) : (onDom f g).prm = f.prm := rfl
@[simp] theorem onDom_store (f : Fab) (g : Domain → Domain) : (onDom f g).store = f.store := rfl
@[simp] theorem onDom_ports (f : Fab) (g : Domain → Domain) : (onDom f g).ports = f.ports := rfl
@[simp] theorem onDom_queues (f : Fab) (g : Domain → Domain) : (onDom f g).queues = f.queues := rfl
@[simp] theorem onDom_fences (f : Fab) (g : Domain → Domain) : (onDom f g).fences = f.fences := rfl
@[simp] theorem onDom_stallBound (f : Fab) (g : Domain → Domain) : (onDom f g).stallBound = f.stallBound := rfl
@[simp] theorem onDom_fenceLimit (f : Fab) (g : Domain → Domain) : (onDom f g).fenceLimit = f.fenceLimit := rfl
@[simp] theorem onDom_epgroups (f : Fab) (g : Domain → Domain) : (onDom f g).epgroups = f.epgroups := rfl
@[simp] theorem onDom_clusters (f : Fab) (g : Domain → Domain) : (onDom f g).clusters = f.clusters := rfl
@[simp] theorem onDom_shown (f : Fab) (g : Domain → Domain) : (onDom f g).shown = f.shown := rfl
@[simp] theorem onDom_links (f : Fab) (g : Domain → Domain) : (onDom f g).links = f.links := rfl
@[simp] theorem onDom_lanes (f : Fab) (g : Domain → Domain) : (onDom f g).lanes = f.lanes := rfl
@[simp] theorem onDom_swapRx (f : Fab) (g : Domain → Domain) : (onDom f g).swapRx = f.swapRx := rfl
@[simp] theorem onDom_swapTx (f : Fab) (g : Domain → Domain) : (onDom f g).swapTx = f.swapTx := rfl
@[simp] theorem onDom_ibex (f : Fab) (g : Domain → Domain) : (onDom f g).ibex = f.ibex := rfl
@[simp] theorem onDom_cells (f : Fab) (g : Domain → Domain) : (onDom f g).cells = f.cells := rfl
@[simp] theorem onDom_pins (f : Fab) (g : Domain → Domain) : (onDom f g).pins = f.pins := rfl
@[simp] theorem onDom_isolated (f : Fab) (g : Domain → Domain) : (onDom f g).isolated = f.isolated := rfl
@[simp] theorem onDom_eyeWarn (f : Fab) (g : Domain → Domain) : (onDom f g).eyeWarn = f.eyeWarn := rfl
@[simp] theorem onDom_eyeSwap (f : Fab) (g : Domain → Domain) : (onDom f g).eyeSwap = f.eyeSwap := rfl
@[simp] theorem onDom_trainTimeout (f : Fab) (g : Domain → Domain) : (onDom f g).trainTimeout = f.trainTimeout := rfl
@[simp] theorem onDom_kports (f : Fab) (g : Domain → Domain) : (onDom f g).kports = f.kports := rfl
@[simp] theorem onDom_map (f : Fab) (g : Domain → Domain) : (onDom f g).map = f.map := rfl
@[simp] theorem onDom_integ (f : Fab) (g : Domain → Domain) : (onDom f g).integ = f.integ := rfl
@[simp] theorem onDom_ev (f : Fab) (g : Domain → Domain) : (onDom f g).ev = f.ev := rfl
@[simp] theorem onDom_cnt (f : Fab) (g : Domain → Domain) : (onDom f g).cnt = f.cnt := rfl
@[simp] theorem onDom_lop (f : Fab) (g : Domain → Domain) : (onDom f g).lop = f.lop := rfl
@[simp] theorem onDom_bdp (f : Fab) (g : Domain → Domain) : (onDom f g).bdp = f.bdp := rfl
@[simp] theorem onDom_pwr (f : Fab) (g : Domain → Domain) : (onDom f g).pwr = f.pwr := rfl
@[simp] theorem onDom_start (f : Fab) (g : Domain → Domain) : (onDom f g).start = f.start := rfl
@[simp] theorem onDom_th (f : Fab) (g : Domain → Domain) : (onDom f g).th = f.th := rfl
@[simp] theorem onDom_sec (f : Fab) (g : Domain → Domain) : (onDom f g).sec = f.sec := rfl
@[simp] theorem onDom_img (f : Fab) (g : Domain → Domain) : (onDom f g).img = f.img := rfl
@[simp] theorem onDom_wir (f : Fab) (g : Domain → Domain) : (onDom f g).wir = f.wir := rfl
@[simp] theorem onDom_out (f : Fab) (g : Domain → Domain) : (onDom f g).out = f.out := rfl
@[simp] theorem onDom_free (f : Fab) (g : Domain → Domain) : (onDom f g).free = f.free := rfl
@[simp] theorem onDom_stamps (f : Fab) (g : Domain → Domain) : (onDom f g).stamps = f.stamps := rfl
@[simp] theorem onBdp_self (f : Fab) (g : Bdp → Bdp) : (onBdp f g).bdp = g f.bdp := rfl
@[simp] theorem onBdp_prm (f : Fab) (g : Bdp → Bdp) : (onBdp f g).prm = f.prm := rfl
@[simp] theorem onBdp_store (f : Fab) (g : Bdp → Bdp) : (onBdp f g).store = f.store := rfl
@[simp] theorem onBdp_ports (f : Fab) (g : Bdp → Bdp) : (onBdp f g).ports = f.ports := rfl
@[simp] theorem onBdp_queues (f : Fab) (g : Bdp → Bdp) : (onBdp f g).queues = f.queues := rfl
@[simp] theorem onBdp_fences (f : Fab) (g : Bdp → Bdp) : (onBdp f g).fences = f.fences := rfl
@[simp] theorem onBdp_stallBound (f : Fab) (g : Bdp → Bdp) : (onBdp f g).stallBound = f.stallBound := rfl
@[simp] theorem onBdp_fenceLimit (f : Fab) (g : Bdp → Bdp) : (onBdp f g).fenceLimit = f.fenceLimit := rfl
@[simp] theorem onBdp_epgroups (f : Fab) (g : Bdp → Bdp) : (onBdp f g).epgroups = f.epgroups := rfl
@[simp] theorem onBdp_clusters (f : Fab) (g : Bdp → Bdp) : (onBdp f g).clusters = f.clusters := rfl
@[simp] theorem onBdp_shown (f : Fab) (g : Bdp → Bdp) : (onBdp f g).shown = f.shown := rfl
@[simp] theorem onBdp_links (f : Fab) (g : Bdp → Bdp) : (onBdp f g).links = f.links := rfl
@[simp] theorem onBdp_lanes (f : Fab) (g : Bdp → Bdp) : (onBdp f g).lanes = f.lanes := rfl
@[simp] theorem onBdp_swapRx (f : Fab) (g : Bdp → Bdp) : (onBdp f g).swapRx = f.swapRx := rfl
@[simp] theorem onBdp_swapTx (f : Fab) (g : Bdp → Bdp) : (onBdp f g).swapTx = f.swapTx := rfl
@[simp] theorem onBdp_ibex (f : Fab) (g : Bdp → Bdp) : (onBdp f g).ibex = f.ibex := rfl
@[simp] theorem onBdp_cells (f : Fab) (g : Bdp → Bdp) : (onBdp f g).cells = f.cells := rfl
@[simp] theorem onBdp_pins (f : Fab) (g : Bdp → Bdp) : (onBdp f g).pins = f.pins := rfl
@[simp] theorem onBdp_isolated (f : Fab) (g : Bdp → Bdp) : (onBdp f g).isolated = f.isolated := rfl
@[simp] theorem onBdp_eyeWarn (f : Fab) (g : Bdp → Bdp) : (onBdp f g).eyeWarn = f.eyeWarn := rfl
@[simp] theorem onBdp_eyeSwap (f : Fab) (g : Bdp → Bdp) : (onBdp f g).eyeSwap = f.eyeSwap := rfl
@[simp] theorem onBdp_trainTimeout (f : Fab) (g : Bdp → Bdp) : (onBdp f g).trainTimeout = f.trainTimeout := rfl
@[simp] theorem onBdp_dom (f : Fab) (g : Bdp → Bdp) : (onBdp f g).dom = f.dom := rfl
@[simp] theorem onBdp_kports (f : Fab) (g : Bdp → Bdp) : (onBdp f g).kports = f.kports := rfl
@[simp] theorem onBdp_map (f : Fab) (g : Bdp → Bdp) : (onBdp f g).map = f.map := rfl
@[simp] theorem onBdp_integ (f : Fab) (g : Bdp → Bdp) : (onBdp f g).integ = f.integ := rfl
@[simp] theorem onBdp_ev (f : Fab) (g : Bdp → Bdp) : (onBdp f g).ev = f.ev := rfl
@[simp] theorem onBdp_cnt (f : Fab) (g : Bdp → Bdp) : (onBdp f g).cnt = f.cnt := rfl
@[simp] theorem onBdp_lop (f : Fab) (g : Bdp → Bdp) : (onBdp f g).lop = f.lop := rfl
@[simp] theorem onBdp_pwr (f : Fab) (g : Bdp → Bdp) : (onBdp f g).pwr = f.pwr := rfl
@[simp] theorem onBdp_start (f : Fab) (g : Bdp → Bdp) : (onBdp f g).start = f.start := rfl
@[simp] theorem onBdp_th (f : Fab) (g : Bdp → Bdp) : (onBdp f g).th = f.th := rfl
@[simp] theorem onBdp_sec (f : Fab) (g : Bdp → Bdp) : (onBdp f g).sec = f.sec := rfl
@[simp] theorem onBdp_img (f : Fab) (g : Bdp → Bdp) : (onBdp f g).img = f.img := rfl
@[simp] theorem onBdp_wir (f : Fab) (g : Bdp → Bdp) : (onBdp f g).wir = f.wir := rfl
@[simp] theorem onBdp_out (f : Fab) (g : Bdp → Bdp) : (onBdp f g).out = f.out := rfl
@[simp] theorem onBdp_free (f : Fab) (g : Bdp → Bdp) : (onBdp f g).free = f.free := rfl
@[simp] theorem onBdp_stamps (f : Fab) (g : Bdp → Bdp) : (onBdp f g).stamps = f.stamps := rfl
@[simp] theorem onInteg_self (f : Fab) (g : Integ → Integ) : (onInteg f g).integ = g f.integ := rfl
@[simp] theorem onInteg_prm (f : Fab) (g : Integ → Integ) : (onInteg f g).prm = f.prm := rfl
@[simp] theorem onInteg_store (f : Fab) (g : Integ → Integ) : (onInteg f g).store = f.store := rfl
@[simp] theorem onInteg_ports (f : Fab) (g : Integ → Integ) : (onInteg f g).ports = f.ports := rfl
@[simp] theorem onInteg_queues (f : Fab) (g : Integ → Integ) : (onInteg f g).queues = f.queues := rfl
@[simp] theorem onInteg_fences (f : Fab) (g : Integ → Integ) : (onInteg f g).fences = f.fences := rfl
@[simp] theorem onInteg_stallBound (f : Fab) (g : Integ → Integ) : (onInteg f g).stallBound = f.stallBound := rfl
@[simp] theorem onInteg_fenceLimit (f : Fab) (g : Integ → Integ) : (onInteg f g).fenceLimit = f.fenceLimit := rfl
@[simp] theorem onInteg_epgroups (f : Fab) (g : Integ → Integ) : (onInteg f g).epgroups = f.epgroups := rfl
@[simp] theorem onInteg_clusters (f : Fab) (g : Integ → Integ) : (onInteg f g).clusters = f.clusters := rfl
@[simp] theorem onInteg_shown (f : Fab) (g : Integ → Integ) : (onInteg f g).shown = f.shown := rfl
@[simp] theorem onInteg_links (f : Fab) (g : Integ → Integ) : (onInteg f g).links = f.links := rfl
@[simp] theorem onInteg_lanes (f : Fab) (g : Integ → Integ) : (onInteg f g).lanes = f.lanes := rfl
@[simp] theorem onInteg_swapRx (f : Fab) (g : Integ → Integ) : (onInteg f g).swapRx = f.swapRx := rfl
@[simp] theorem onInteg_swapTx (f : Fab) (g : Integ → Integ) : (onInteg f g).swapTx = f.swapTx := rfl
@[simp] theorem onInteg_ibex (f : Fab) (g : Integ → Integ) : (onInteg f g).ibex = f.ibex := rfl
@[simp] theorem onInteg_cells (f : Fab) (g : Integ → Integ) : (onInteg f g).cells = f.cells := rfl
@[simp] theorem onInteg_pins (f : Fab) (g : Integ → Integ) : (onInteg f g).pins = f.pins := rfl
@[simp] theorem onInteg_isolated (f : Fab) (g : Integ → Integ) : (onInteg f g).isolated = f.isolated := rfl
@[simp] theorem onInteg_eyeWarn (f : Fab) (g : Integ → Integ) : (onInteg f g).eyeWarn = f.eyeWarn := rfl
@[simp] theorem onInteg_eyeSwap (f : Fab) (g : Integ → Integ) : (onInteg f g).eyeSwap = f.eyeSwap := rfl
@[simp] theorem onInteg_trainTimeout (f : Fab) (g : Integ → Integ) : (onInteg f g).trainTimeout = f.trainTimeout := rfl
@[simp] theorem onInteg_dom (f : Fab) (g : Integ → Integ) : (onInteg f g).dom = f.dom := rfl
@[simp] theorem onInteg_kports (f : Fab) (g : Integ → Integ) : (onInteg f g).kports = f.kports := rfl
@[simp] theorem onInteg_map (f : Fab) (g : Integ → Integ) : (onInteg f g).map = f.map := rfl
@[simp] theorem onInteg_ev (f : Fab) (g : Integ → Integ) : (onInteg f g).ev = f.ev := rfl
@[simp] theorem onInteg_cnt (f : Fab) (g : Integ → Integ) : (onInteg f g).cnt = f.cnt := rfl
@[simp] theorem onInteg_lop (f : Fab) (g : Integ → Integ) : (onInteg f g).lop = f.lop := rfl
@[simp] theorem onInteg_bdp (f : Fab) (g : Integ → Integ) : (onInteg f g).bdp = f.bdp := rfl
@[simp] theorem onInteg_pwr (f : Fab) (g : Integ → Integ) : (onInteg f g).pwr = f.pwr := rfl
@[simp] theorem onInteg_start (f : Fab) (g : Integ → Integ) : (onInteg f g).start = f.start := rfl
@[simp] theorem onInteg_th (f : Fab) (g : Integ → Integ) : (onInteg f g).th = f.th := rfl
@[simp] theorem onInteg_sec (f : Fab) (g : Integ → Integ) : (onInteg f g).sec = f.sec := rfl
@[simp] theorem onInteg_img (f : Fab) (g : Integ → Integ) : (onInteg f g).img = f.img := rfl
@[simp] theorem onInteg_wir (f : Fab) (g : Integ → Integ) : (onInteg f g).wir = f.wir := rfl
@[simp] theorem onInteg_out (f : Fab) (g : Integ → Integ) : (onInteg f g).out = f.out := rfl
@[simp] theorem onInteg_free (f : Fab) (g : Integ → Integ) : (onInteg f g).free = f.free := rfl
@[simp] theorem onInteg_stamps (f : Fab) (g : Integ → Integ) : (onInteg f g).stamps = f.stamps := rfl
@[simp] theorem onPwr_self (f : Fab) (g : Power → Power) : (onPwr f g).pwr = g f.pwr := rfl
@[simp] theorem onPwr_prm (f : Fab) (g : Power → Power) : (onPwr f g).prm = f.prm := rfl
@[simp] theorem onPwr_store (f : Fab) (g : Power → Power) : (onPwr f g).store = f.store := rfl
@[simp] theorem onPwr_ports (f : Fab) (g : Power → Power) : (onPwr f g).ports = f.ports := rfl
@[simp] theorem onPwr_queues (f : Fab) (g : Power → Power) : (onPwr f g).queues = f.queues := rfl
@[simp] theorem onPwr_fences (f : Fab) (g : Power → Power) : (onPwr f g).fences = f.fences := rfl
@[simp] theorem onPwr_stallBound (f : Fab) (g : Power → Power) : (onPwr f g).stallBound = f.stallBound := rfl
@[simp] theorem onPwr_fenceLimit (f : Fab) (g : Power → Power) : (onPwr f g).fenceLimit = f.fenceLimit := rfl
@[simp] theorem onPwr_epgroups (f : Fab) (g : Power → Power) : (onPwr f g).epgroups = f.epgroups := rfl
@[simp] theorem onPwr_clusters (f : Fab) (g : Power → Power) : (onPwr f g).clusters = f.clusters := rfl
@[simp] theorem onPwr_shown (f : Fab) (g : Power → Power) : (onPwr f g).shown = f.shown := rfl
@[simp] theorem onPwr_links (f : Fab) (g : Power → Power) : (onPwr f g).links = f.links := rfl
@[simp] theorem onPwr_lanes (f : Fab) (g : Power → Power) : (onPwr f g).lanes = f.lanes := rfl
@[simp] theorem onPwr_swapRx (f : Fab) (g : Power → Power) : (onPwr f g).swapRx = f.swapRx := rfl
@[simp] theorem onPwr_swapTx (f : Fab) (g : Power → Power) : (onPwr f g).swapTx = f.swapTx := rfl
@[simp] theorem onPwr_ibex (f : Fab) (g : Power → Power) : (onPwr f g).ibex = f.ibex := rfl
@[simp] theorem onPwr_cells (f : Fab) (g : Power → Power) : (onPwr f g).cells = f.cells := rfl
@[simp] theorem onPwr_pins (f : Fab) (g : Power → Power) : (onPwr f g).pins = f.pins := rfl
@[simp] theorem onPwr_isolated (f : Fab) (g : Power → Power) : (onPwr f g).isolated = f.isolated := rfl
@[simp] theorem onPwr_eyeWarn (f : Fab) (g : Power → Power) : (onPwr f g).eyeWarn = f.eyeWarn := rfl
@[simp] theorem onPwr_eyeSwap (f : Fab) (g : Power → Power) : (onPwr f g).eyeSwap = f.eyeSwap := rfl
@[simp] theorem onPwr_trainTimeout (f : Fab) (g : Power → Power) : (onPwr f g).trainTimeout = f.trainTimeout := rfl
@[simp] theorem onPwr_dom (f : Fab) (g : Power → Power) : (onPwr f g).dom = f.dom := rfl
@[simp] theorem onPwr_kports (f : Fab) (g : Power → Power) : (onPwr f g).kports = f.kports := rfl
@[simp] theorem onPwr_map (f : Fab) (g : Power → Power) : (onPwr f g).map = f.map := rfl
@[simp] theorem onPwr_integ (f : Fab) (g : Power → Power) : (onPwr f g).integ = f.integ := rfl
@[simp] theorem onPwr_ev (f : Fab) (g : Power → Power) : (onPwr f g).ev = f.ev := rfl
@[simp] theorem onPwr_cnt (f : Fab) (g : Power → Power) : (onPwr f g).cnt = f.cnt := rfl
@[simp] theorem onPwr_lop (f : Fab) (g : Power → Power) : (onPwr f g).lop = f.lop := rfl
@[simp] theorem onPwr_bdp (f : Fab) (g : Power → Power) : (onPwr f g).bdp = f.bdp := rfl
@[simp] theorem onPwr_start (f : Fab) (g : Power → Power) : (onPwr f g).start = f.start := rfl
@[simp] theorem onPwr_th (f : Fab) (g : Power → Power) : (onPwr f g).th = f.th := rfl
@[simp] theorem onPwr_sec (f : Fab) (g : Power → Power) : (onPwr f g).sec = f.sec := rfl
@[simp] theorem onPwr_img (f : Fab) (g : Power → Power) : (onPwr f g).img = f.img := rfl
@[simp] theorem onPwr_wir (f : Fab) (g : Power → Power) : (onPwr f g).wir = f.wir := rfl
@[simp] theorem onPwr_out (f : Fab) (g : Power → Power) : (onPwr f g).out = f.out := rfl
@[simp] theorem onPwr_free (f : Fab) (g : Power → Power) : (onPwr f g).free = f.free := rfl
@[simp] theorem onPwr_stamps (f : Fab) (g : Power → Power) : (onPwr f g).stamps = f.stamps := rfl
@[simp] theorem onStart_self (f : Fab) (g : Start → Start) : (onStart f g).start = g f.start := rfl
@[simp] theorem onStart_prm (f : Fab) (g : Start → Start) : (onStart f g).prm = f.prm := rfl
@[simp] theorem onStart_store (f : Fab) (g : Start → Start) : (onStart f g).store = f.store := rfl
@[simp] theorem onStart_ports (f : Fab) (g : Start → Start) : (onStart f g).ports = f.ports := rfl
@[simp] theorem onStart_queues (f : Fab) (g : Start → Start) : (onStart f g).queues = f.queues := rfl
@[simp] theorem onStart_fences (f : Fab) (g : Start → Start) : (onStart f g).fences = f.fences := rfl
@[simp] theorem onStart_stallBound (f : Fab) (g : Start → Start) : (onStart f g).stallBound = f.stallBound := rfl
@[simp] theorem onStart_fenceLimit (f : Fab) (g : Start → Start) : (onStart f g).fenceLimit = f.fenceLimit := rfl
@[simp] theorem onStart_epgroups (f : Fab) (g : Start → Start) : (onStart f g).epgroups = f.epgroups := rfl
@[simp] theorem onStart_clusters (f : Fab) (g : Start → Start) : (onStart f g).clusters = f.clusters := rfl
@[simp] theorem onStart_shown (f : Fab) (g : Start → Start) : (onStart f g).shown = f.shown := rfl
@[simp] theorem onStart_links (f : Fab) (g : Start → Start) : (onStart f g).links = f.links := rfl
@[simp] theorem onStart_lanes (f : Fab) (g : Start → Start) : (onStart f g).lanes = f.lanes := rfl
@[simp] theorem onStart_swapRx (f : Fab) (g : Start → Start) : (onStart f g).swapRx = f.swapRx := rfl
@[simp] theorem onStart_swapTx (f : Fab) (g : Start → Start) : (onStart f g).swapTx = f.swapTx := rfl
@[simp] theorem onStart_ibex (f : Fab) (g : Start → Start) : (onStart f g).ibex = f.ibex := rfl
@[simp] theorem onStart_cells (f : Fab) (g : Start → Start) : (onStart f g).cells = f.cells := rfl
@[simp] theorem onStart_pins (f : Fab) (g : Start → Start) : (onStart f g).pins = f.pins := rfl
@[simp] theorem onStart_isolated (f : Fab) (g : Start → Start) : (onStart f g).isolated = f.isolated := rfl
@[simp] theorem onStart_eyeWarn (f : Fab) (g : Start → Start) : (onStart f g).eyeWarn = f.eyeWarn := rfl
@[simp] theorem onStart_eyeSwap (f : Fab) (g : Start → Start) : (onStart f g).eyeSwap = f.eyeSwap := rfl
@[simp] theorem onStart_trainTimeout (f : Fab) (g : Start → Start) : (onStart f g).trainTimeout = f.trainTimeout := rfl
@[simp] theorem onStart_dom (f : Fab) (g : Start → Start) : (onStart f g).dom = f.dom := rfl
@[simp] theorem onStart_kports (f : Fab) (g : Start → Start) : (onStart f g).kports = f.kports := rfl
@[simp] theorem onStart_map (f : Fab) (g : Start → Start) : (onStart f g).map = f.map := rfl
@[simp] theorem onStart_integ (f : Fab) (g : Start → Start) : (onStart f g).integ = f.integ := rfl
@[simp] theorem onStart_ev (f : Fab) (g : Start → Start) : (onStart f g).ev = f.ev := rfl
@[simp] theorem onStart_cnt (f : Fab) (g : Start → Start) : (onStart f g).cnt = f.cnt := rfl
@[simp] theorem onStart_lop (f : Fab) (g : Start → Start) : (onStart f g).lop = f.lop := rfl
@[simp] theorem onStart_bdp (f : Fab) (g : Start → Start) : (onStart f g).bdp = f.bdp := rfl
@[simp] theorem onStart_pwr (f : Fab) (g : Start → Start) : (onStart f g).pwr = f.pwr := rfl
@[simp] theorem onStart_th (f : Fab) (g : Start → Start) : (onStart f g).th = f.th := rfl
@[simp] theorem onStart_sec (f : Fab) (g : Start → Start) : (onStart f g).sec = f.sec := rfl
@[simp] theorem onStart_img (f : Fab) (g : Start → Start) : (onStart f g).img = f.img := rfl
@[simp] theorem onStart_wir (f : Fab) (g : Start → Start) : (onStart f g).wir = f.wir := rfl
@[simp] theorem onStart_out (f : Fab) (g : Start → Start) : (onStart f g).out = f.out := rfl
@[simp] theorem onStart_free (f : Fab) (g : Start → Start) : (onStart f g).free = f.free := rfl
@[simp] theorem onStart_stamps (f : Fab) (g : Start → Start) : (onStart f g).stamps = f.stamps := rfl
@[simp] theorem onTherm_self (f : Fab) (g : Therm → Therm) : (onTherm f g).th = g f.th := rfl
@[simp] theorem onTherm_prm (f : Fab) (g : Therm → Therm) : (onTherm f g).prm = f.prm := rfl
@[simp] theorem onTherm_store (f : Fab) (g : Therm → Therm) : (onTherm f g).store = f.store := rfl
@[simp] theorem onTherm_ports (f : Fab) (g : Therm → Therm) : (onTherm f g).ports = f.ports := rfl
@[simp] theorem onTherm_queues (f : Fab) (g : Therm → Therm) : (onTherm f g).queues = f.queues := rfl
@[simp] theorem onTherm_fences (f : Fab) (g : Therm → Therm) : (onTherm f g).fences = f.fences := rfl
@[simp] theorem onTherm_stallBound (f : Fab) (g : Therm → Therm) : (onTherm f g).stallBound = f.stallBound := rfl
@[simp] theorem onTherm_fenceLimit (f : Fab) (g : Therm → Therm) : (onTherm f g).fenceLimit = f.fenceLimit := rfl
@[simp] theorem onTherm_epgroups (f : Fab) (g : Therm → Therm) : (onTherm f g).epgroups = f.epgroups := rfl
@[simp] theorem onTherm_clusters (f : Fab) (g : Therm → Therm) : (onTherm f g).clusters = f.clusters := rfl
@[simp] theorem onTherm_shown (f : Fab) (g : Therm → Therm) : (onTherm f g).shown = f.shown := rfl
@[simp] theorem onTherm_links (f : Fab) (g : Therm → Therm) : (onTherm f g).links = f.links := rfl
@[simp] theorem onTherm_lanes (f : Fab) (g : Therm → Therm) : (onTherm f g).lanes = f.lanes := rfl
@[simp] theorem onTherm_swapRx (f : Fab) (g : Therm → Therm) : (onTherm f g).swapRx = f.swapRx := rfl
@[simp] theorem onTherm_swapTx (f : Fab) (g : Therm → Therm) : (onTherm f g).swapTx = f.swapTx := rfl
@[simp] theorem onTherm_ibex (f : Fab) (g : Therm → Therm) : (onTherm f g).ibex = f.ibex := rfl
@[simp] theorem onTherm_cells (f : Fab) (g : Therm → Therm) : (onTherm f g).cells = f.cells := rfl
@[simp] theorem onTherm_pins (f : Fab) (g : Therm → Therm) : (onTherm f g).pins = f.pins := rfl
@[simp] theorem onTherm_isolated (f : Fab) (g : Therm → Therm) : (onTherm f g).isolated = f.isolated := rfl
@[simp] theorem onTherm_eyeWarn (f : Fab) (g : Therm → Therm) : (onTherm f g).eyeWarn = f.eyeWarn := rfl
@[simp] theorem onTherm_eyeSwap (f : Fab) (g : Therm → Therm) : (onTherm f g).eyeSwap = f.eyeSwap := rfl
@[simp] theorem onTherm_trainTimeout (f : Fab) (g : Therm → Therm) : (onTherm f g).trainTimeout = f.trainTimeout := rfl
@[simp] theorem onTherm_dom (f : Fab) (g : Therm → Therm) : (onTherm f g).dom = f.dom := rfl
@[simp] theorem onTherm_kports (f : Fab) (g : Therm → Therm) : (onTherm f g).kports = f.kports := rfl
@[simp] theorem onTherm_map (f : Fab) (g : Therm → Therm) : (onTherm f g).map = f.map := rfl
@[simp] theorem onTherm_integ (f : Fab) (g : Therm → Therm) : (onTherm f g).integ = f.integ := rfl
@[simp] theorem onTherm_ev (f : Fab) (g : Therm → Therm) : (onTherm f g).ev = f.ev := rfl
@[simp] theorem onTherm_cnt (f : Fab) (g : Therm → Therm) : (onTherm f g).cnt = f.cnt := rfl
@[simp] theorem onTherm_lop (f : Fab) (g : Therm → Therm) : (onTherm f g).lop = f.lop := rfl
@[simp] theorem onTherm_bdp (f : Fab) (g : Therm → Therm) : (onTherm f g).bdp = f.bdp := rfl
@[simp] theorem onTherm_pwr (f : Fab) (g : Therm → Therm) : (onTherm f g).pwr = f.pwr := rfl
@[simp] theorem onTherm_start (f : Fab) (g : Therm → Therm) : (onTherm f g).start = f.start := rfl
@[simp] theorem onTherm_sec (f : Fab) (g : Therm → Therm) : (onTherm f g).sec = f.sec := rfl
@[simp] theorem onTherm_img (f : Fab) (g : Therm → Therm) : (onTherm f g).img = f.img := rfl
@[simp] theorem onTherm_wir (f : Fab) (g : Therm → Therm) : (onTherm f g).wir = f.wir := rfl
@[simp] theorem onTherm_out (f : Fab) (g : Therm → Therm) : (onTherm f g).out = f.out := rfl
@[simp] theorem onTherm_free (f : Fab) (g : Therm → Therm) : (onTherm f g).free = f.free := rfl
@[simp] theorem onTherm_stamps (f : Fab) (g : Therm → Therm) : (onTherm f g).stamps = f.stamps := rfl
@[simp] theorem onSec_self (f : Fab) (g : Sec → Sec) : (onSec f g).sec = g f.sec := rfl
@[simp] theorem onSec_prm (f : Fab) (g : Sec → Sec) : (onSec f g).prm = f.prm := rfl
@[simp] theorem onSec_store (f : Fab) (g : Sec → Sec) : (onSec f g).store = f.store := rfl
@[simp] theorem onSec_ports (f : Fab) (g : Sec → Sec) : (onSec f g).ports = f.ports := rfl
@[simp] theorem onSec_queues (f : Fab) (g : Sec → Sec) : (onSec f g).queues = f.queues := rfl
@[simp] theorem onSec_fences (f : Fab) (g : Sec → Sec) : (onSec f g).fences = f.fences := rfl
@[simp] theorem onSec_stallBound (f : Fab) (g : Sec → Sec) : (onSec f g).stallBound = f.stallBound := rfl
@[simp] theorem onSec_fenceLimit (f : Fab) (g : Sec → Sec) : (onSec f g).fenceLimit = f.fenceLimit := rfl
@[simp] theorem onSec_epgroups (f : Fab) (g : Sec → Sec) : (onSec f g).epgroups = f.epgroups := rfl
@[simp] theorem onSec_clusters (f : Fab) (g : Sec → Sec) : (onSec f g).clusters = f.clusters := rfl
@[simp] theorem onSec_shown (f : Fab) (g : Sec → Sec) : (onSec f g).shown = f.shown := rfl
@[simp] theorem onSec_links (f : Fab) (g : Sec → Sec) : (onSec f g).links = f.links := rfl
@[simp] theorem onSec_lanes (f : Fab) (g : Sec → Sec) : (onSec f g).lanes = f.lanes := rfl
@[simp] theorem onSec_swapRx (f : Fab) (g : Sec → Sec) : (onSec f g).swapRx = f.swapRx := rfl
@[simp] theorem onSec_swapTx (f : Fab) (g : Sec → Sec) : (onSec f g).swapTx = f.swapTx := rfl
@[simp] theorem onSec_ibex (f : Fab) (g : Sec → Sec) : (onSec f g).ibex = f.ibex := rfl
@[simp] theorem onSec_cells (f : Fab) (g : Sec → Sec) : (onSec f g).cells = f.cells := rfl
@[simp] theorem onSec_pins (f : Fab) (g : Sec → Sec) : (onSec f g).pins = f.pins := rfl
@[simp] theorem onSec_isolated (f : Fab) (g : Sec → Sec) : (onSec f g).isolated = f.isolated := rfl
@[simp] theorem onSec_eyeWarn (f : Fab) (g : Sec → Sec) : (onSec f g).eyeWarn = f.eyeWarn := rfl
@[simp] theorem onSec_eyeSwap (f : Fab) (g : Sec → Sec) : (onSec f g).eyeSwap = f.eyeSwap := rfl
@[simp] theorem onSec_trainTimeout (f : Fab) (g : Sec → Sec) : (onSec f g).trainTimeout = f.trainTimeout := rfl
@[simp] theorem onSec_dom (f : Fab) (g : Sec → Sec) : (onSec f g).dom = f.dom := rfl
@[simp] theorem onSec_kports (f : Fab) (g : Sec → Sec) : (onSec f g).kports = f.kports := rfl
@[simp] theorem onSec_map (f : Fab) (g : Sec → Sec) : (onSec f g).map = f.map := rfl
@[simp] theorem onSec_integ (f : Fab) (g : Sec → Sec) : (onSec f g).integ = f.integ := rfl
@[simp] theorem onSec_ev (f : Fab) (g : Sec → Sec) : (onSec f g).ev = f.ev := rfl
@[simp] theorem onSec_cnt (f : Fab) (g : Sec → Sec) : (onSec f g).cnt = f.cnt := rfl
@[simp] theorem onSec_lop (f : Fab) (g : Sec → Sec) : (onSec f g).lop = f.lop := rfl
@[simp] theorem onSec_bdp (f : Fab) (g : Sec → Sec) : (onSec f g).bdp = f.bdp := rfl
@[simp] theorem onSec_pwr (f : Fab) (g : Sec → Sec) : (onSec f g).pwr = f.pwr := rfl
@[simp] theorem onSec_start (f : Fab) (g : Sec → Sec) : (onSec f g).start = f.start := rfl
@[simp] theorem onSec_th (f : Fab) (g : Sec → Sec) : (onSec f g).th = f.th := rfl
@[simp] theorem onSec_img (f : Fab) (g : Sec → Sec) : (onSec f g).img = f.img := rfl
@[simp] theorem onSec_wir (f : Fab) (g : Sec → Sec) : (onSec f g).wir = f.wir := rfl
@[simp] theorem onSec_out (f : Fab) (g : Sec → Sec) : (onSec f g).out = f.out := rfl
@[simp] theorem onSec_free (f : Fab) (g : Sec → Sec) : (onSec f g).free = f.free := rfl
@[simp] theorem onSec_stamps (f : Fab) (g : Sec → Sec) : (onSec f g).stamps = f.stamps := rfl
@[simp] theorem onImg_self (f : Fab) (g : Image → Image) : (onImg f g).img = g f.img := rfl
@[simp] theorem onImg_prm (f : Fab) (g : Image → Image) : (onImg f g).prm = f.prm := rfl
@[simp] theorem onImg_store (f : Fab) (g : Image → Image) : (onImg f g).store = f.store := rfl
@[simp] theorem onImg_ports (f : Fab) (g : Image → Image) : (onImg f g).ports = f.ports := rfl
@[simp] theorem onImg_queues (f : Fab) (g : Image → Image) : (onImg f g).queues = f.queues := rfl
@[simp] theorem onImg_fences (f : Fab) (g : Image → Image) : (onImg f g).fences = f.fences := rfl
@[simp] theorem onImg_stallBound (f : Fab) (g : Image → Image) : (onImg f g).stallBound = f.stallBound := rfl
@[simp] theorem onImg_fenceLimit (f : Fab) (g : Image → Image) : (onImg f g).fenceLimit = f.fenceLimit := rfl
@[simp] theorem onImg_epgroups (f : Fab) (g : Image → Image) : (onImg f g).epgroups = f.epgroups := rfl
@[simp] theorem onImg_clusters (f : Fab) (g : Image → Image) : (onImg f g).clusters = f.clusters := rfl
@[simp] theorem onImg_shown (f : Fab) (g : Image → Image) : (onImg f g).shown = f.shown := rfl
@[simp] theorem onImg_links (f : Fab) (g : Image → Image) : (onImg f g).links = f.links := rfl
@[simp] theorem onImg_lanes (f : Fab) (g : Image → Image) : (onImg f g).lanes = f.lanes := rfl
@[simp] theorem onImg_swapRx (f : Fab) (g : Image → Image) : (onImg f g).swapRx = f.swapRx := rfl
@[simp] theorem onImg_swapTx (f : Fab) (g : Image → Image) : (onImg f g).swapTx = f.swapTx := rfl
@[simp] theorem onImg_ibex (f : Fab) (g : Image → Image) : (onImg f g).ibex = f.ibex := rfl
@[simp] theorem onImg_cells (f : Fab) (g : Image → Image) : (onImg f g).cells = f.cells := rfl
@[simp] theorem onImg_pins (f : Fab) (g : Image → Image) : (onImg f g).pins = f.pins := rfl
@[simp] theorem onImg_isolated (f : Fab) (g : Image → Image) : (onImg f g).isolated = f.isolated := rfl
@[simp] theorem onImg_eyeWarn (f : Fab) (g : Image → Image) : (onImg f g).eyeWarn = f.eyeWarn := rfl
@[simp] theorem onImg_eyeSwap (f : Fab) (g : Image → Image) : (onImg f g).eyeSwap = f.eyeSwap := rfl
@[simp] theorem onImg_trainTimeout (f : Fab) (g : Image → Image) : (onImg f g).trainTimeout = f.trainTimeout := rfl
@[simp] theorem onImg_dom (f : Fab) (g : Image → Image) : (onImg f g).dom = f.dom := rfl
@[simp] theorem onImg_kports (f : Fab) (g : Image → Image) : (onImg f g).kports = f.kports := rfl
@[simp] theorem onImg_map (f : Fab) (g : Image → Image) : (onImg f g).map = f.map := rfl
@[simp] theorem onImg_integ (f : Fab) (g : Image → Image) : (onImg f g).integ = f.integ := rfl
@[simp] theorem onImg_ev (f : Fab) (g : Image → Image) : (onImg f g).ev = f.ev := rfl
@[simp] theorem onImg_cnt (f : Fab) (g : Image → Image) : (onImg f g).cnt = f.cnt := rfl
@[simp] theorem onImg_lop (f : Fab) (g : Image → Image) : (onImg f g).lop = f.lop := rfl
@[simp] theorem onImg_bdp (f : Fab) (g : Image → Image) : (onImg f g).bdp = f.bdp := rfl
@[simp] theorem onImg_pwr (f : Fab) (g : Image → Image) : (onImg f g).pwr = f.pwr := rfl
@[simp] theorem onImg_start (f : Fab) (g : Image → Image) : (onImg f g).start = f.start := rfl
@[simp] theorem onImg_th (f : Fab) (g : Image → Image) : (onImg f g).th = f.th := rfl
@[simp] theorem onImg_sec (f : Fab) (g : Image → Image) : (onImg f g).sec = f.sec := rfl
@[simp] theorem onImg_wir (f : Fab) (g : Image → Image) : (onImg f g).wir = f.wir := rfl
@[simp] theorem onImg_out (f : Fab) (g : Image → Image) : (onImg f g).out = f.out := rfl
@[simp] theorem onImg_free (f : Fab) (g : Image → Image) : (onImg f g).free = f.free := rfl
@[simp] theorem onImg_stamps (f : Fab) (g : Image → Image) : (onImg f g).stamps = f.stamps := rfl
@[simp] theorem onLop_self (f : Fab) (g : LongOps → LongOps) : (onLop f g).lop = g f.lop := rfl
@[simp] theorem onLop_prm (f : Fab) (g : LongOps → LongOps) : (onLop f g).prm = f.prm := rfl
@[simp] theorem onLop_store (f : Fab) (g : LongOps → LongOps) : (onLop f g).store = f.store := rfl
@[simp] theorem onLop_ports (f : Fab) (g : LongOps → LongOps) : (onLop f g).ports = f.ports := rfl
@[simp] theorem onLop_queues (f : Fab) (g : LongOps → LongOps) : (onLop f g).queues = f.queues := rfl
@[simp] theorem onLop_fences (f : Fab) (g : LongOps → LongOps) : (onLop f g).fences = f.fences := rfl
@[simp] theorem onLop_stallBound (f : Fab) (g : LongOps → LongOps) : (onLop f g).stallBound = f.stallBound := rfl
@[simp] theorem onLop_fenceLimit (f : Fab) (g : LongOps → LongOps) : (onLop f g).fenceLimit = f.fenceLimit := rfl
@[simp] theorem onLop_epgroups (f : Fab) (g : LongOps → LongOps) : (onLop f g).epgroups = f.epgroups := rfl
@[simp] theorem onLop_clusters (f : Fab) (g : LongOps → LongOps) : (onLop f g).clusters = f.clusters := rfl
@[simp] theorem onLop_shown (f : Fab) (g : LongOps → LongOps) : (onLop f g).shown = f.shown := rfl
@[simp] theorem onLop_links (f : Fab) (g : LongOps → LongOps) : (onLop f g).links = f.links := rfl
@[simp] theorem onLop_lanes (f : Fab) (g : LongOps → LongOps) : (onLop f g).lanes = f.lanes := rfl
@[simp] theorem onLop_swapRx (f : Fab) (g : LongOps → LongOps) : (onLop f g).swapRx = f.swapRx := rfl
@[simp] theorem onLop_swapTx (f : Fab) (g : LongOps → LongOps) : (onLop f g).swapTx = f.swapTx := rfl
@[simp] theorem onLop_ibex (f : Fab) (g : LongOps → LongOps) : (onLop f g).ibex = f.ibex := rfl
@[simp] theorem onLop_cells (f : Fab) (g : LongOps → LongOps) : (onLop f g).cells = f.cells := rfl
@[simp] theorem onLop_pins (f : Fab) (g : LongOps → LongOps) : (onLop f g).pins = f.pins := rfl
@[simp] theorem onLop_isolated (f : Fab) (g : LongOps → LongOps) : (onLop f g).isolated = f.isolated := rfl
@[simp] theorem onLop_eyeWarn (f : Fab) (g : LongOps → LongOps) : (onLop f g).eyeWarn = f.eyeWarn := rfl
@[simp] theorem onLop_eyeSwap (f : Fab) (g : LongOps → LongOps) : (onLop f g).eyeSwap = f.eyeSwap := rfl
@[simp] theorem onLop_trainTimeout (f : Fab) (g : LongOps → LongOps) : (onLop f g).trainTimeout = f.trainTimeout := rfl
@[simp] theorem onLop_dom (f : Fab) (g : LongOps → LongOps) : (onLop f g).dom = f.dom := rfl
@[simp] theorem onLop_kports (f : Fab) (g : LongOps → LongOps) : (onLop f g).kports = f.kports := rfl
@[simp] theorem onLop_map (f : Fab) (g : LongOps → LongOps) : (onLop f g).map = f.map := rfl
@[simp] theorem onLop_integ (f : Fab) (g : LongOps → LongOps) : (onLop f g).integ = f.integ := rfl
@[simp] theorem onLop_ev (f : Fab) (g : LongOps → LongOps) : (onLop f g).ev = f.ev := rfl
@[simp] theorem onLop_cnt (f : Fab) (g : LongOps → LongOps) : (onLop f g).cnt = f.cnt := rfl
@[simp] theorem onLop_bdp (f : Fab) (g : LongOps → LongOps) : (onLop f g).bdp = f.bdp := rfl
@[simp] theorem onLop_pwr (f : Fab) (g : LongOps → LongOps) : (onLop f g).pwr = f.pwr := rfl
@[simp] theorem onLop_start (f : Fab) (g : LongOps → LongOps) : (onLop f g).start = f.start := rfl
@[simp] theorem onLop_th (f : Fab) (g : LongOps → LongOps) : (onLop f g).th = f.th := rfl
@[simp] theorem onLop_sec (f : Fab) (g : LongOps → LongOps) : (onLop f g).sec = f.sec := rfl
@[simp] theorem onLop_img (f : Fab) (g : LongOps → LongOps) : (onLop f g).img = f.img := rfl
@[simp] theorem onLop_wir (f : Fab) (g : LongOps → LongOps) : (onLop f g).wir = f.wir := rfl
@[simp] theorem onLop_out (f : Fab) (g : LongOps → LongOps) : (onLop f g).out = f.out := rfl
@[simp] theorem onLop_free (f : Fab) (g : LongOps → LongOps) : (onLop f g).free = f.free := rfl
@[simp] theorem onLop_stamps (f : Fab) (g : LongOps → LongOps) : (onLop f g).stamps = f.stamps := rfl
@[simp] theorem setFence_prm (f : Fab) (i : Nat) (v : BitVec 16) : (setFence f i v).prm = f.prm := rfl
@[simp] theorem setFence_store (f : Fab) (i : Nat) (v : BitVec 16) : (setFence f i v).store = f.store := rfl
@[simp] theorem setFence_ports (f : Fab) (i : Nat) (v : BitVec 16) : (setFence f i v).ports = f.ports := rfl
@[simp] theorem setFence_queues (f : Fab) (i : Nat) (v : BitVec 16) : (setFence f i v).queues = f.queues := rfl
@[simp] theorem setFence_stallBound (f : Fab) (i : Nat) (v : BitVec 16) : (setFence f i v).stallBound = f.stallBound := rfl
@[simp] theorem setFence_fenceLimit (f : Fab) (i : Nat) (v : BitVec 16) : (setFence f i v).fenceLimit = f.fenceLimit := rfl
@[simp] theorem setFence_epgroups (f : Fab) (i : Nat) (v : BitVec 16) : (setFence f i v).epgroups = f.epgroups := rfl
@[simp] theorem setFence_clusters (f : Fab) (i : Nat) (v : BitVec 16) : (setFence f i v).clusters = f.clusters := rfl
@[simp] theorem setFence_shown (f : Fab) (i : Nat) (v : BitVec 16) : (setFence f i v).shown = f.shown := rfl
@[simp] theorem setFence_links (f : Fab) (i : Nat) (v : BitVec 16) : (setFence f i v).links = f.links := rfl
@[simp] theorem setFence_lanes (f : Fab) (i : Nat) (v : BitVec 16) : (setFence f i v).lanes = f.lanes := rfl
@[simp] theorem setFence_swapRx (f : Fab) (i : Nat) (v : BitVec 16) : (setFence f i v).swapRx = f.swapRx := rfl
@[simp] theorem setFence_swapTx (f : Fab) (i : Nat) (v : BitVec 16) : (setFence f i v).swapTx = f.swapTx := rfl
@[simp] theorem setFence_ibex (f : Fab) (i : Nat) (v : BitVec 16) : (setFence f i v).ibex = f.ibex := rfl
@[simp] theorem setFence_cells (f : Fab) (i : Nat) (v : BitVec 16) : (setFence f i v).cells = f.cells := rfl
@[simp] theorem setFence_pins (f : Fab) (i : Nat) (v : BitVec 16) : (setFence f i v).pins = f.pins := rfl
@[simp] theorem setFence_isolated (f : Fab) (i : Nat) (v : BitVec 16) : (setFence f i v).isolated = f.isolated := rfl
@[simp] theorem setFence_eyeWarn (f : Fab) (i : Nat) (v : BitVec 16) : (setFence f i v).eyeWarn = f.eyeWarn := rfl
@[simp] theorem setFence_eyeSwap (f : Fab) (i : Nat) (v : BitVec 16) : (setFence f i v).eyeSwap = f.eyeSwap := rfl
@[simp] theorem setFence_trainTimeout (f : Fab) (i : Nat) (v : BitVec 16) : (setFence f i v).trainTimeout = f.trainTimeout := rfl
@[simp] theorem setFence_dom (f : Fab) (i : Nat) (v : BitVec 16) : (setFence f i v).dom = f.dom := rfl
@[simp] theorem setFence_kports (f : Fab) (i : Nat) (v : BitVec 16) : (setFence f i v).kports = f.kports := rfl
@[simp] theorem setFence_map (f : Fab) (i : Nat) (v : BitVec 16) : (setFence f i v).map = f.map := rfl
@[simp] theorem setFence_integ (f : Fab) (i : Nat) (v : BitVec 16) : (setFence f i v).integ = f.integ := rfl
@[simp] theorem setFence_ev (f : Fab) (i : Nat) (v : BitVec 16) : (setFence f i v).ev = f.ev := rfl
@[simp] theorem setFence_cnt (f : Fab) (i : Nat) (v : BitVec 16) : (setFence f i v).cnt = f.cnt := rfl
@[simp] theorem setFence_lop (f : Fab) (i : Nat) (v : BitVec 16) : (setFence f i v).lop = f.lop := rfl
@[simp] theorem setFence_bdp (f : Fab) (i : Nat) (v : BitVec 16) : (setFence f i v).bdp = f.bdp := rfl
@[simp] theorem setFence_pwr (f : Fab) (i : Nat) (v : BitVec 16) : (setFence f i v).pwr = f.pwr := rfl
@[simp] theorem setFence_start (f : Fab) (i : Nat) (v : BitVec 16) : (setFence f i v).start = f.start := rfl
@[simp] theorem setFence_th (f : Fab) (i : Nat) (v : BitVec 16) : (setFence f i v).th = f.th := rfl
@[simp] theorem setFence_sec (f : Fab) (i : Nat) (v : BitVec 16) : (setFence f i v).sec = f.sec := rfl
@[simp] theorem setFence_img (f : Fab) (i : Nat) (v : BitVec 16) : (setFence f i v).img = f.img := rfl
@[simp] theorem setFence_wir (f : Fab) (i : Nat) (v : BitVec 16) : (setFence f i v).wir = f.wir := rfl
@[simp] theorem setFence_out (f : Fab) (i : Nat) (v : BitVec 16) : (setFence f i v).out = f.out := rfl
@[simp] theorem setFence_free (f : Fab) (i : Nat) (v : BitVec 16) : (setFence f i v).free = f.free := rfl
@[simp] theorem setFence_stamps (f : Fab) (i : Nat) (v : BitVec 16) : (setFence f i v).stamps = f.stamps := rfl
@[simp] theorem emit_prm (f : Fab) (o : Output) : (emit f o).prm = f.prm := rfl
@[simp] theorem emit_store (f : Fab) (o : Output) : (emit f o).store = f.store := rfl
@[simp] theorem emit_ports (f : Fab) (o : Output) : (emit f o).ports = f.ports := rfl
@[simp] theorem emit_queues (f : Fab) (o : Output) : (emit f o).queues = f.queues := rfl
@[simp] theorem emit_fences (f : Fab) (o : Output) : (emit f o).fences = f.fences := rfl
@[simp] theorem emit_stallBound (f : Fab) (o : Output) : (emit f o).stallBound = f.stallBound := rfl
@[simp] theorem emit_fenceLimit (f : Fab) (o : Output) : (emit f o).fenceLimit = f.fenceLimit := rfl
@[simp] theorem emit_epgroups (f : Fab) (o : Output) : (emit f o).epgroups = f.epgroups := rfl
@[simp] theorem emit_clusters (f : Fab) (o : Output) : (emit f o).clusters = f.clusters := rfl
@[simp] theorem emit_shown (f : Fab) (o : Output) : (emit f o).shown = f.shown := rfl
@[simp] theorem emit_links (f : Fab) (o : Output) : (emit f o).links = f.links := rfl
@[simp] theorem emit_lanes (f : Fab) (o : Output) : (emit f o).lanes = f.lanes := rfl
@[simp] theorem emit_swapRx (f : Fab) (o : Output) : (emit f o).swapRx = f.swapRx := rfl
@[simp] theorem emit_swapTx (f : Fab) (o : Output) : (emit f o).swapTx = f.swapTx := rfl
@[simp] theorem emit_ibex (f : Fab) (o : Output) : (emit f o).ibex = f.ibex := rfl
@[simp] theorem emit_cells (f : Fab) (o : Output) : (emit f o).cells = f.cells := rfl
@[simp] theorem emit_pins (f : Fab) (o : Output) : (emit f o).pins = f.pins := rfl
@[simp] theorem emit_isolated (f : Fab) (o : Output) : (emit f o).isolated = f.isolated := rfl
@[simp] theorem emit_eyeWarn (f : Fab) (o : Output) : (emit f o).eyeWarn = f.eyeWarn := rfl
@[simp] theorem emit_eyeSwap (f : Fab) (o : Output) : (emit f o).eyeSwap = f.eyeSwap := rfl
@[simp] theorem emit_trainTimeout (f : Fab) (o : Output) : (emit f o).trainTimeout = f.trainTimeout := rfl
@[simp] theorem emit_dom (f : Fab) (o : Output) : (emit f o).dom = f.dom := rfl
@[simp] theorem emit_kports (f : Fab) (o : Output) : (emit f o).kports = f.kports := rfl
@[simp] theorem emit_map (f : Fab) (o : Output) : (emit f o).map = f.map := rfl
@[simp] theorem emit_integ (f : Fab) (o : Output) : (emit f o).integ = f.integ := rfl
@[simp] theorem emit_ev (f : Fab) (o : Output) : (emit f o).ev = f.ev := rfl
@[simp] theorem emit_cnt (f : Fab) (o : Output) : (emit f o).cnt = f.cnt := rfl
@[simp] theorem emit_lop (f : Fab) (o : Output) : (emit f o).lop = f.lop := rfl
@[simp] theorem emit_bdp (f : Fab) (o : Output) : (emit f o).bdp = f.bdp := rfl
@[simp] theorem emit_pwr (f : Fab) (o : Output) : (emit f o).pwr = f.pwr := rfl
@[simp] theorem emit_start (f : Fab) (o : Output) : (emit f o).start = f.start := rfl
@[simp] theorem emit_th (f : Fab) (o : Output) : (emit f o).th = f.th := rfl
@[simp] theorem emit_sec (f : Fab) (o : Output) : (emit f o).sec = f.sec := rfl
@[simp] theorem emit_img (f : Fab) (o : Output) : (emit f o).img = f.img := rfl
@[simp] theorem emit_wir (f : Fab) (o : Output) : (emit f o).wir = f.wir := rfl
@[simp] theorem emit_free (f : Fab) (o : Output) : (emit f o).free = f.free := rfl
@[simp] theorem emit_stamps (f : Fab) (o : Output) : (emit f o).stamps = f.stamps := rfl
@[simp] theorem emit_out (f : Fab) (o : Output) : (emit f o).out = o :: f.out := rfl
@[simp] theorem setFence_self (f : Fab) (i : Nat) (v : BitVec 16) : fenceOf (setFence f i v) i = v := by simp [fenceOf, setFence]
theorem setFence_ne (f : Fab) (i : Nat) (v : BitVec 16) (j : Nat) (h : j ≠ i) : fenceOf (setFence f i v) j = fenceOf f j := by
  simp [fenceOf, setFence, tget_tset_ne _ _ _ h]
@[simp] theorem setFence_portOf (f : Fab) (i : Nat) (v : BitVec 16) (j : Nat) : portOf (setFence f i v) j = portOf f j := rfl
@[simp] theorem emit_portOf (f : Fab) (o : Output) (j : Nat) : portOf (emit f o) j = portOf f j := rfl
@[simp] theorem onStore_portOf (f : Fab) (g : Store → Store) (j : Nat) : portOf (onStore f g) j = portOf f j := rfl
@[simp] theorem onDom_portOf (f : Fab) (g : Domain → Domain) (j : Nat) : portOf (onDom f g) j = portOf f j := rfl
@[simp] theorem onBdp_portOf (f : Fab) (g : Bdp → Bdp) (j : Nat) : portOf (onBdp f g) j = portOf f j := rfl
@[simp] theorem onInteg_portOf (f : Fab) (g : Integ → Integ) (j : Nat) : portOf (onInteg f g) j = portOf f j := rfl
@[simp] theorem onPwr_portOf (f : Fab) (g : Power → Power) (j : Nat) : portOf (onPwr f g) j = portOf f j := rfl
@[simp] theorem onStart_portOf (f : Fab) (g : Start → Start) (j : Nat) : portOf (onStart f g) j = portOf f j := rfl
@[simp] theorem onTherm_portOf (f : Fab) (g : Therm → Therm) (j : Nat) : portOf (onTherm f g) j = portOf f j := rfl
@[simp] theorem onSec_portOf (f : Fab) (g : Sec → Sec) (j : Nat) : portOf (onSec f g) j = portOf f j := rfl
@[simp] theorem onImg_portOf (f : Fab) (g : Image → Image) (j : Nat) : portOf (onImg f g) j = portOf f j := rfl
@[simp] theorem onLop_portOf (f : Fab) (g : LongOps → LongOps) (j : Nat) : portOf (onLop f g) j = portOf f j := rfl
@[simp] theorem setFence_queueOf (f : Fab) (i : Nat) (v : BitVec 16) (j : Nat) : queueOf (setFence f i v) j = queueOf f j := rfl
@[simp] theorem emit_queueOf (f : Fab) (o : Output) (j : Nat) : queueOf (emit f o) j = queueOf f j := rfl
@[simp] theorem onStore_queueOf (f : Fab) (g : Store → Store) (j : Nat) : queueOf (onStore f g) j = queueOf f j := rfl
@[simp] theorem onDom_queueOf (f : Fab) (g : Domain → Domain) (j : Nat) : queueOf (onDom f g) j = queueOf f j := rfl
@[simp] theorem onBdp_queueOf (f : Fab) (g : Bdp → Bdp) (j : Nat) : queueOf (onBdp f g) j = queueOf f j := rfl
@[simp] theorem onInteg_queueOf (f : Fab) (g : Integ → Integ) (j : Nat) : queueOf (onInteg f g) j = queueOf f j := rfl
@[simp] theorem onPwr_queueOf (f : Fab) (g : Power → Power) (j : Nat) : queueOf (onPwr f g) j = queueOf f j := rfl
@[simp] theorem onStart_queueOf (f : Fab) (g : Start → Start) (j : Nat) : queueOf (onStart f g) j = queueOf f j := rfl
@[simp] theorem onTherm_queueOf (f : Fab) (g : Therm → Therm) (j : Nat) : queueOf (onTherm f g) j = queueOf f j := rfl
@[simp] theorem onSec_queueOf (f : Fab) (g : Sec → Sec) (j : Nat) : queueOf (onSec f g) j = queueOf f j := rfl
@[simp] theorem onImg_queueOf (f : Fab) (g : Image → Image) (j : Nat) : queueOf (onImg f g) j = queueOf f j := rfl
@[simp] theorem onLop_queueOf (f : Fab) (g : LongOps → LongOps) (j : Nat) : queueOf (onLop f g) j = queueOf f j := rfl
@[simp] theorem setFence_clusterOf (f : Fab) (i : Nat) (v : BitVec 16) (j : Nat) : clusterOf (setFence f i v) j = clusterOf f j := rfl
@[simp] theorem emit_clusterOf (f : Fab) (o : Output) (j : Nat) : clusterOf (emit f o) j = clusterOf f j := rfl
@[simp] theorem onStore_clusterOf (f : Fab) (g : Store → Store) (j : Nat) : clusterOf (onStore f g) j = clusterOf f j := rfl
@[simp] theorem onDom_clusterOf (f : Fab) (g : Domain → Domain) (j : Nat) : clusterOf (onDom f g) j = clusterOf f j := rfl
@[simp] theorem onBdp_clusterOf (f : Fab) (g : Bdp → Bdp) (j : Nat) : clusterOf (onBdp f g) j = clusterOf f j := rfl
@[simp] theorem onInteg_clusterOf (f : Fab) (g : Integ → Integ) (j : Nat) : clusterOf (onInteg f g) j = clusterOf f j := rfl
@[simp] theorem onPwr_clusterOf (f : Fab) (g : Power → Power) (j : Nat) : clusterOf (onPwr f g) j = clusterOf f j := rfl
@[simp] theorem onStart_clusterOf (f : Fab) (g : Start → Start) (j : Nat) : clusterOf (onStart f g) j = clusterOf f j := rfl
@[simp] theorem onTherm_clusterOf (f : Fab) (g : Therm → Therm) (j : Nat) : clusterOf (onTherm f g) j = clusterOf f j := rfl
@[simp] theorem onSec_clusterOf (f : Fab) (g : Sec → Sec) (j : Nat) : clusterOf (onSec f g) j = clusterOf f j := rfl
@[simp] theorem onImg_clusterOf (f : Fab) (g : Image → Image) (j : Nat) : clusterOf (onImg f g) j = clusterOf f j := rfl
@[simp] theorem onLop_clusterOf (f : Fab) (g : LongOps → LongOps) (j : Nat) : clusterOf (onLop f g) j = clusterOf f j := rfl
@[simp] theorem setFence_linkOf (f : Fab) (i : Nat) (v : BitVec 16) (j : Nat) : linkOf (setFence f i v) j = linkOf f j := rfl
@[simp] theorem emit_linkOf (f : Fab) (o : Output) (j : Nat) : linkOf (emit f o) j = linkOf f j := rfl
@[simp] theorem onStore_linkOf (f : Fab) (g : Store → Store) (j : Nat) : linkOf (onStore f g) j = linkOf f j := rfl
@[simp] theorem onDom_linkOf (f : Fab) (g : Domain → Domain) (j : Nat) : linkOf (onDom f g) j = linkOf f j := rfl
@[simp] theorem onBdp_linkOf (f : Fab) (g : Bdp → Bdp) (j : Nat) : linkOf (onBdp f g) j = linkOf f j := rfl
@[simp] theorem onInteg_linkOf (f : Fab) (g : Integ → Integ) (j : Nat) : linkOf (onInteg f g) j = linkOf f j := rfl
@[simp] theorem onPwr_linkOf (f : Fab) (g : Power → Power) (j : Nat) : linkOf (onPwr f g) j = linkOf f j := rfl
@[simp] theorem onStart_linkOf (f : Fab) (g : Start → Start) (j : Nat) : linkOf (onStart f g) j = linkOf f j := rfl
@[simp] theorem onTherm_linkOf (f : Fab) (g : Therm → Therm) (j : Nat) : linkOf (onTherm f g) j = linkOf f j := rfl
@[simp] theorem onSec_linkOf (f : Fab) (g : Sec → Sec) (j : Nat) : linkOf (onSec f g) j = linkOf f j := rfl
@[simp] theorem onImg_linkOf (f : Fab) (g : Image → Image) (j : Nat) : linkOf (onImg f g) j = linkOf f j := rfl
@[simp] theorem onLop_linkOf (f : Fab) (g : LongOps → LongOps) (j : Nat) : linkOf (onLop f g) j = linkOf f j := rfl
@[simp] theorem setFence_laneAt (f : Fab) (i : Nat) (v : BitVec 16) (j : Nat) : laneAt (setFence f i v) j = laneAt f j := rfl
@[simp] theorem emit_laneAt (f : Fab) (o : Output) (j : Nat) : laneAt (emit f o) j = laneAt f j := rfl
@[simp] theorem onStore_laneAt (f : Fab) (g : Store → Store) (j : Nat) : laneAt (onStore f g) j = laneAt f j := rfl
@[simp] theorem onDom_laneAt (f : Fab) (g : Domain → Domain) (j : Nat) : laneAt (onDom f g) j = laneAt f j := rfl
@[simp] theorem onBdp_laneAt (f : Fab) (g : Bdp → Bdp) (j : Nat) : laneAt (onBdp f g) j = laneAt f j := rfl
@[simp] theorem onInteg_laneAt (f : Fab) (g : Integ → Integ) (j : Nat) : laneAt (onInteg f g) j = laneAt f j := rfl
@[simp] theorem onPwr_laneAt (f : Fab) (g : Power → Power) (j : Nat) : laneAt (onPwr f g) j = laneAt f j := rfl
@[simp] theorem onStart_laneAt (f : Fab) (g : Start → Start) (j : Nat) : laneAt (onStart f g) j = laneAt f j := rfl
@[simp] theorem onTherm_laneAt (f : Fab) (g : Therm → Therm) (j : Nat) : laneAt (onTherm f g) j = laneAt f j := rfl
@[simp] theorem onSec_laneAt (f : Fab) (g : Sec → Sec) (j : Nat) : laneAt (onSec f g) j = laneAt f j := rfl
@[simp] theorem onImg_laneAt (f : Fab) (g : Image → Image) (j : Nat) : laneAt (onImg f g) j = laneAt f j := rfl
@[simp] theorem onLop_laneAt (f : Fab) (g : LongOps → LongOps) (j : Nat) : laneAt (onLop f g) j = laneAt f j := rfl
@[simp] theorem setFence_kportOf (f : Fab) (i : Nat) (v : BitVec 16) (j : Nat) : kportOf (setFence f i v) j = kportOf f j := rfl
@[simp] theorem emit_kportOf (f : Fab) (o : Output) (j : Nat) : kportOf (emit f o) j = kportOf f j := rfl
@[simp] theorem onStore_kportOf (f : Fab) (g : Store → Store) (j : Nat) : kportOf (onStore f g) j = kportOf f j := rfl
@[simp] theorem onDom_kportOf (f : Fab) (g : Domain → Domain) (j : Nat) : kportOf (onDom f g) j = kportOf f j := rfl
@[simp] theorem onBdp_kportOf (f : Fab) (g : Bdp → Bdp) (j : Nat) : kportOf (onBdp f g) j = kportOf f j := rfl
@[simp] theorem onInteg_kportOf (f : Fab) (g : Integ → Integ) (j : Nat) : kportOf (onInteg f g) j = kportOf f j := rfl
@[simp] theorem onPwr_kportOf (f : Fab) (g : Power → Power) (j : Nat) : kportOf (onPwr f g) j = kportOf f j := rfl
@[simp] theorem onStart_kportOf (f : Fab) (g : Start → Start) (j : Nat) : kportOf (onStart f g) j = kportOf f j := rfl
@[simp] theorem onTherm_kportOf (f : Fab) (g : Therm → Therm) (j : Nat) : kportOf (onTherm f g) j = kportOf f j := rfl
@[simp] theorem onSec_kportOf (f : Fab) (g : Sec → Sec) (j : Nat) : kportOf (onSec f g) j = kportOf f j := rfl
@[simp] theorem onImg_kportOf (f : Fab) (g : Image → Image) (j : Nat) : kportOf (onImg f g) j = kportOf f j := rfl
@[simp] theorem onLop_kportOf (f : Fab) (g : LongOps → LongOps) (j : Nat) : kportOf (onLop f g) j = kportOf f j := rfl
@[simp] theorem emit_fenceOf (f : Fab) (o : Output) (j : Nat) : fenceOf (emit f o) j = fenceOf f j := rfl

end Sys2Proof.Machine
end

