-- ==== Sys2Proof/Laws/Commands.lean ====
section
/-!
SUPPORT. What the three frames of a command answer (`onFab`, `onAll`, `onPower`): its effect, no change or the fault of R9; and
what holds of an effect applied over a list.
-/

namespace Sys2Proof.Machine

/-- Within limits and on a live interface a command has its effect. -/
theorem onFab_runs {u : Supply} {s : State} (h : Runs u s) (g : Tbl (BitVec 16) → Fab → Fab) :
    onFab u s g = .next { s with fab := g s.slots s.fab } := by
  obtain ⟨h1, h2⟩ := h
  simp [onFab, show s.fab.pwr.excursion = false from h1, h2]

/-- On an interface that is not alive it changes nothing. -/
theorem onFab_dead {u : Supply} {s : State} (h : WithinLimits s) (hd : alive u s.fab = false) (g : Tbl (BitVec 16) → Fab → Fab) :
    onFab u s g = .next s := by
  simp [onFab, show s.fab.pwr.excursion = false from h, hd]

/-- In an excursion it faults (R9). -/
theorem onFab_outside {u : Supply} {s : State} (h : s.fab.pwr.excursion = true) (g : Tbl (BitVec 16) → Fab → Fab) :
    onFab u s g = .fault .outsideLimits := by
  simp [onFab, h]

/-- All that a command's effect on the fabric can answer: never a refusal, and the slot tables and the waiting commands as
before. -/
theorem onFab_answers {u : Supply} {s t : State} {g : Tbl (BitVec 16) → Fab → Fab} (h : onFab u s g = .next t) :
    WithinLimits s ∧ t.slots = s.slots ∧ t.pending = s.pending ∧ (t.fab = g s.slots s.fab ∨ t.fab = s.fab) := by
  unfold onFab at h
  split at h
  · cases h
  · next hx =>
    have hw : WithinLimits s := by simpa [WithinLimits] using hx
    split at h <;> cases h
    · exact ⟨hw, rfl, rfl, .inl rfl⟩
    · exact ⟨hw, rfl, rfl, .inr rfl⟩

theorem onAll_runs {u : Supply} {s : State} (h : Runs u s) (g : Tbl (BitVec 16) → Fab → Tbl (BitVec 16) × Fab) :
    onAll u s g = .next { s with slots := (g s.slots s.fab).1, fab := (g s.slots s.fab).2 } := by
  obtain ⟨h1, h2⟩ := h
  simp [onAll, show s.fab.pwr.excursion = false from h1, h2]

/-- All that a command that may write the slot tables can answer. -/
theorem onAll_answers {u : Supply} {s t : State} {g : Tbl (BitVec 16) → Fab → Tbl (BitVec 16) × Fab} (h : onAll u s g = .next t) :
    WithinLimits s ∧ t.pending = s.pending ∧
      (t.slots = (g s.slots s.fab).1 ∧ t.fab = (g s.slots s.fab).2 ∨ t.slots = s.slots ∧ t.fab = s.fab) := by
  unfold onAll at h
  split at h
  · cases h
  · next hx =>
    have hw : WithinLimits s := by simpa [WithinLimits] using hx
    split at h <;> cases h
    · exact ⟨hw, rfl, .inl ⟨rfl, rfl⟩⟩
    · exact ⟨hw, rfl, .inr ⟨rfl, rfl⟩⟩

/-- A command whose meaning is an effect on the fabric gives that effect. -/
theorem gives_of_onFab {c : Instr} {s : State} {u : Supply} (g : Tbl (BitVec 16) → Fab → Fab) (hr : Runs u s)
    (he : exec c s = onFab u s g) : Gives c s (g s.slots s.fab) := by
  rw [Gives, he, onFab_runs hr]

/-- A step that changes nothing on any member changes nothing in all. -/
theorem each_id {α} (l : List α) (g : Fab → α → Fab) (f : Fab) (h : ∀ a ∈ l, g f a = f) : each l g f = f := by
  induction l with
  | nil => rfl
  | cons a t ih =>
    show each t g (g f a) = f
    rw [h a (by simp)]; exact ih fun b hb => h b (by simp [hb])
/-- What every step keeps, all of them keep. -/
theorem each_inv {α} (P : Fab → Prop) (l : List α) (g : Fab → α → Fab) (hg : ∀ f a, P f → P (g f a)) (f : Fab) (h : P f) : P (each l g f) := by
  induction l generalizing f with
  | nil => exact h
  | cons a t ih => exact ih _ (hg _ _ h)
/-- A part that no member's step changes is unchanged in all. -/
theorem each_proj {α β} (π : Fab → β) (l : List α) (g : Fab → α → Fab) (hg : ∀ f, ∀ a ∈ l, π (g f a) = π f) (f : Fab) : π (each l g f) = π f := by
  induction l generalizing f with
  | nil => rfl
  | cons a t ih => exact (ih (fun f b hb => hg f b (by simp [hb])) _).trans (hg f a (by simp))

theorem each_cons {α} (a : α) (l : List α) (g : Fab → α → Fab) (f : Fab) : each (a :: l) g f = each l g (g f a) := rfl
/-- What one member of a duplicate-free list does to its own part, where the other members leave it alone. -/
theorem each_at {α β} (π : α → Fab → β) (g : Fab → α → Fab) (hg : ∀ f a b, a ≠ b → π b (g f a) = π b f) (l : List α) (hn : l.Nodup)
    (c : α) (hc : c ∈ l) (f : Fab) : ∃ F, π c F = π c f ∧ π c (each l g f) = π c (g F c) := by
  obtain ⟨l1, l2, rfl⟩ := List.append_of_mem hc
  have hd := List.nodup_append.mp hn
  refine ⟨each l1 g f, each_proj (π c) l1 g (fun f a ha => hg f a c ?_) f, ?_⟩
  · rintro rfl; exact (hd.2.2 a ha a (by simp)) rfl
  · have : each (l1 ++ c :: l2) g f = each l2 g (g (each l1 g f) c) := by simp [each, List.foldl_append]
    rw [this]
    refine each_proj (π c) l2 g (fun f a ha => hg f a c ?_) _
    rintro rfl
    exact (List.nodup_cons.mp hd.2.1).1 ha

end Sys2Proof.Machine
end

