-- ==== Sys2Proof/Laws/Events.lean ====
section
/-!
SUPPORT. Everything that reporting can change: counters, events, outputs and stamps, and nothing else; a trace record
also changes the trace.
-/

namespace Sys2Proof.Machine

/-- Counters, events, outputs and stamps may differ; everything else is the same. -/
def SameButReports (f g : Fab) : Prop := g = { f with ev := g.ev, cnt := g.cnt, out := g.out, stamps := g.stamps }

theorem SameButReports.refl (f : Fab) : SameButReports f f := rfl

theorem SameButReports.trans {f g h : Fab} (a : SameButReports f g) (b : SameButReports g h) : SameButReports f h := by
  unfold SameButReports at *
  rw [b, a]

theorem setCounter_same (f : Fab) (x y : Nat) (v : BitVec 64) : SameButReports f (setCounter f x y v).1 := rfl

theorem SameButReports.onEv {f g : Fab} (h : SameButReports f g) (e : Events) : SameButReports f { g with ev := e } := by
  unfold SameButReports at *
  rw [h]

theorem SameButReports.onStamps {f g : Fab} (h : SameButReports f g) (n : Nat) : SameButReports f { g with stamps := n } := by
  unfold SameButReports at *
  rw [h]

theorem SameButReports.emit {f g : Fab} (h : SameButReports f g) (o : Output) : SameButReports f (emit g o) := by
  unfold SameButReports Machine.emit at *
  rw [h]

theorem ringRecord_same (f : Fab) (c : Nat) (r : BitVec 256) : SameButReports f (ringRecord f c r) := by
  unfold ringRecord
  split
  · dsimp only
    split
    · exact (SameButReports.refl f).onEv _
    · exact ((SameButReports.refl f).onEv _).emit _
  · exact .refl f

/-- Raising an event changes reports only (R305, R321 to R323). -/
theorem raiseWith_same (n c p : Nat) (h : Bool) (f : Fab) : SameButReports f (raiseWith n c p h f) := by
  induction n generalizing c p h f with
  | zero => exact .refl f
  | succ n ih =>
    simp only [raiseWith]
    split
    · exact .refl f
    · split
      · split
        · exact ((setCounter_same ..).onEv _).trans (ih ..)
        · exact (setCounter_same ..).onEv _
      · split
        · exact ((((SameButReports.refl f).onStamps _).onEv _).trans (ringRecord_same ..)).onEv _
        · split
          · exact ((((((SameButReports.refl f).onStamps _).onEv _).trans (ringRecord_same ..)).onEv _).trans
              (setCounter_same ..)).trans (ih ..)
          · exact (((((SameButReports.refl f).onStamps _).onEv _).trans (ringRecord_same ..)).onEv _).trans
              (setCounter_same ..)

/-- Raising an event changes reports only. -/
theorem raise_same (c p : Nat) (f : Fab) : SameButReports f (raise c p f) := raiseWith_same ..

/-- Counting changes reports only (R291, R325). -/
theorem count_same (x y n : Nat) (f : Fab) : SameButReports f (count x y n f) := by
  unfold count
  split
  · exact .refl f
  · dsimp only
    split
    · exact .trans (setCounter_same ..) (raise_same ..)
    · exact setCounter_same ..

theorem countMax_same (x y n : Nat) (f : Fab) : SameButReports f (countMax x y n f) := by
  unfold countMax
  split
  · exact .refl f
  · dsimp only
    split
    · exact .trans (setCounter_same ..) (raise_same ..)
    · exact setCounter_same ..

theorem SameButReports.prm_eq {f g : Fab} (h : SameButReports f g) : g.prm = f.prm := by rw [h]
@[simp] theorem raiseWith_prm (n c p : Nat) (h : Bool) (f : Fab) : (raiseWith n c p h f).prm = f.prm := (raiseWith_same ..).prm_eq
@[simp] theorem raise_prm (c p : Nat) (f : Fab) : (raise c p f).prm = f.prm := (raise_same ..).prm_eq
@[simp] theorem count_prm (x y n : Nat) (f : Fab) : (count x y n f).prm = f.prm := (count_same ..).prm_eq
@[simp] theorem countMax_prm (x y n : Nat) (f : Fab) : (countMax x y n f).prm = f.prm := (countMax_same ..).prm_eq
theorem SameButReports.store_eq {f g : Fab} (h : SameButReports f g) : g.store = f.store := by rw [h]
@[simp] theorem raiseWith_store (n c p : Nat) (h : Bool) (f : Fab) : (raiseWith n c p h f).store = f.store := (raiseWith_same ..).store_eq
@[simp] theorem raise_store (c p : Nat) (f : Fab) : (raise c p f).store = f.store := (raise_same ..).store_eq
@[simp] theorem count_store (x y n : Nat) (f : Fab) : (count x y n f).store = f.store := (count_same ..).store_eq
@[simp] theorem countMax_store (x y n : Nat) (f : Fab) : (countMax x y n f).store = f.store := (countMax_same ..).store_eq
theorem SameButReports.ports_eq {f g : Fab} (h : SameButReports f g) : g.ports = f.ports := by rw [h]
@[simp] theorem raiseWith_ports (n c p : Nat) (h : Bool) (f : Fab) : (raiseWith n c p h f).ports = f.ports := (raiseWith_same ..).ports_eq
@[simp] theorem raise_ports (c p : Nat) (f : Fab) : (raise c p f).ports = f.ports := (raise_same ..).ports_eq
@[simp] theorem count_ports (x y n : Nat) (f : Fab) : (count x y n f).ports = f.ports := (count_same ..).ports_eq
@[simp] theorem countMax_ports (x y n : Nat) (f : Fab) : (countMax x y n f).ports = f.ports := (countMax_same ..).ports_eq
theorem SameButReports.queues_eq {f g : Fab} (h : SameButReports f g) : g.queues = f.queues := by rw [h]
@[simp] theorem raiseWith_queues (n c p : Nat) (h : Bool) (f : Fab) : (raiseWith n c p h f).queues = f.queues := (raiseWith_same ..).queues_eq
@[simp] theorem raise_queues (c p : Nat) (f : Fab) : (raise c p f).queues = f.queues := (raise_same ..).queues_eq
@[simp] theorem count_queues (x y n : Nat) (f : Fab) : (count x y n f).queues = f.queues := (count_same ..).queues_eq
@[simp] theorem countMax_queues (x y n : Nat) (f : Fab) : (countMax x y n f).queues = f.queues := (countMax_same ..).queues_eq
theorem SameButReports.fences_eq {f g : Fab} (h : SameButReports f g) : g.fences = f.fences := by rw [h]
@[simp] theorem raiseWith_fences (n c p : Nat) (h : Bool) (f : Fab) : (raiseWith n c p h f).fences = f.fences := (raiseWith_same ..).fences_eq
@[simp] theorem raise_fences (c p : Nat) (f : Fab) : (raise c p f).fences = f.fences := (raise_same ..).fences_eq
@[simp] theorem count_fences (x y n : Nat) (f : Fab) : (count x y n f).fences = f.fences := (count_same ..).fences_eq
@[simp] theorem countMax_fences (x y n : Nat) (f : Fab) : (countMax x y n f).fences = f.fences := (countMax_same ..).fences_eq
theorem SameButReports.stallBound_eq {f g : Fab} (h : SameButReports f g) : g.stallBound = f.stallBound := by rw [h]
@[simp] theorem raiseWith_stallBound (n c p : Nat) (h : Bool) (f : Fab) : (raiseWith n c p h f).stallBound = f.stallBound := (raiseWith_same ..).stallBound_eq
@[simp] theorem raise_stallBound (c p : Nat) (f : Fab) : (raise c p f).stallBound = f.stallBound := (raise_same ..).stallBound_eq
@[simp] theorem count_stallBound (x y n : Nat) (f : Fab) : (count x y n f).stallBound = f.stallBound := (count_same ..).stallBound_eq
@[simp] theorem countMax_stallBound (x y n : Nat) (f : Fab) : (countMax x y n f).stallBound = f.stallBound := (countMax_same ..).stallBound_eq
theorem SameButReports.fenceLimit_eq {f g : Fab} (h : SameButReports f g) : g.fenceLimit = f.fenceLimit := by rw [h]
@[simp] theorem raiseWith_fenceLimit (n c p : Nat) (h : Bool) (f : Fab) : (raiseWith n c p h f).fenceLimit = f.fenceLimit := (raiseWith_same ..).fenceLimit_eq
@[simp] theorem raise_fenceLimit (c p : Nat) (f : Fab) : (raise c p f).fenceLimit = f.fenceLimit := (raise_same ..).fenceLimit_eq
@[simp] theorem count_fenceLimit (x y n : Nat) (f : Fab) : (count x y n f).fenceLimit = f.fenceLimit := (count_same ..).fenceLimit_eq
@[simp] theorem countMax_fenceLimit (x y n : Nat) (f : Fab) : (countMax x y n f).fenceLimit = f.fenceLimit := (countMax_same ..).fenceLimit_eq
theorem SameButReports.epgroups_eq {f g : Fab} (h : SameButReports f g) : g.epgroups = f.epgroups := by rw [h]
@[simp] theorem raiseWith_epgroups (n c p : Nat) (h : Bool) (f : Fab) : (raiseWith n c p h f).epgroups = f.epgroups := (raiseWith_same ..).epgroups_eq
@[simp] theorem raise_epgroups (c p : Nat) (f : Fab) : (raise c p f).epgroups = f.epgroups := (raise_same ..).epgroups_eq
@[simp] theorem count_epgroups (x y n : Nat) (f : Fab) : (count x y n f).epgroups = f.epgroups := (count_same ..).epgroups_eq
@[simp] theorem countMax_epgroups (x y n : Nat) (f : Fab) : (countMax x y n f).epgroups = f.epgroups := (countMax_same ..).epgroups_eq
theorem SameButReports.clusters_eq {f g : Fab} (h : SameButReports f g) : g.clusters = f.clusters := by rw [h]
@[simp] theorem raiseWith_clusters (n c p : Nat) (h : Bool) (f : Fab) : (raiseWith n c p h f).clusters = f.clusters := (raiseWith_same ..).clusters_eq
@[simp] theorem raise_clusters (c p : Nat) (f : Fab) : (raise c p f).clusters = f.clusters := (raise_same ..).clusters_eq
@[simp] theorem count_clusters (x y n : Nat) (f : Fab) : (count x y n f).clusters = f.clusters := (count_same ..).clusters_eq
@[simp] theorem countMax_clusters (x y n : Nat) (f : Fab) : (countMax x y n f).clusters = f.clusters := (countMax_same ..).clusters_eq
theorem SameButReports.shown_eq {f g : Fab} (h : SameButReports f g) : g.shown = f.shown := by rw [h]
@[simp] theorem raiseWith_shown (n c p : Nat) (h : Bool) (f : Fab) : (raiseWith n c p h f).shown = f.shown := (raiseWith_same ..).shown_eq
@[simp] theorem raise_shown (c p : Nat) (f : Fab) : (raise c p f).shown = f.shown := (raise_same ..).shown_eq
@[simp] theorem count_shown (x y n : Nat) (f : Fab) : (count x y n f).shown = f.shown := (count_same ..).shown_eq
@[simp] theorem countMax_shown (x y n : Nat) (f : Fab) : (countMax x y n f).shown = f.shown := (countMax_same ..).shown_eq
theorem SameButReports.links_eq {f g : Fab} (h : SameButReports f g) : g.links = f.links := by rw [h]
@[simp] theorem raiseWith_links (n c p : Nat) (h : Bool) (f : Fab) : (raiseWith n c p h f).links = f.links := (raiseWith_same ..).links_eq
@[simp] theorem raise_links (c p : Nat) (f : Fab) : (raise c p f).links = f.links := (raise_same ..).links_eq
@[simp] theorem count_links (x y n : Nat) (f : Fab) : (count x y n f).links = f.links := (count_same ..).links_eq
@[simp] theorem countMax_links (x y n : Nat) (f : Fab) : (countMax x y n f).links = f.links := (countMax_same ..).links_eq
theorem SameButReports.lanes_eq {f g : Fab} (h : SameButReports f g) : g.lanes = f.lanes := by rw [h]
@[simp] theorem raiseWith_lanes (n c p : Nat) (h : Bool) (f : Fab) : (raiseWith n c p h f).lanes = f.lanes := (raiseWith_same ..).lanes_eq
@[simp] theorem raise_lanes (c p : Nat) (f : Fab) : (raise c p f).lanes = f.lanes := (raise_same ..).lanes_eq
@[simp] theorem count_lanes (x y n : Nat) (f : Fab) : (count x y n f).lanes = f.lanes := (count_same ..).lanes_eq
@[simp] theorem countMax_lanes (x y n : Nat) (f : Fab) : (countMax x y n f).lanes = f.lanes := (countMax_same ..).lanes_eq
theorem SameButReports.swapRx_eq {f g : Fab} (h : SameButReports f g) : g.swapRx = f.swapRx := by rw [h]
@[simp] theorem raiseWith_swapRx (n c p : Nat) (h : Bool) (f : Fab) : (raiseWith n c p h f).swapRx = f.swapRx := (raiseWith_same ..).swapRx_eq
@[simp] theorem raise_swapRx (c p : Nat) (f : Fab) : (raise c p f).swapRx = f.swapRx := (raise_same ..).swapRx_eq
@[simp] theorem count_swapRx (x y n : Nat) (f : Fab) : (count x y n f).swapRx = f.swapRx := (count_same ..).swapRx_eq
@[simp] theorem countMax_swapRx (x y n : Nat) (f : Fab) : (countMax x y n f).swapRx = f.swapRx := (countMax_same ..).swapRx_eq
theorem SameButReports.swapTx_eq {f g : Fab} (h : SameButReports f g) : g.swapTx = f.swapTx := by rw [h]
theorem SameButReports.ibex_eq {f g : Fab} (h : SameButReports f g) : g.ibex = f.ibex := by rw [h]
theorem SameButReports.cells_eq {f g : Fab} (h : SameButReports f g) : g.cells = f.cells := by rw [h]
theorem SameButReports.pins_eq {f g : Fab} (h : SameButReports f g) : g.pins = f.pins := by rw [h]
theorem SameButReports.isolated_eq {f g : Fab} (h : SameButReports f g) : g.isolated = f.isolated := by rw [h]
@[simp] theorem raiseWith_swapTx (n c p : Nat) (h : Bool) (f : Fab) : (raiseWith n c p h f).swapTx = f.swapTx := (raiseWith_same ..).swapTx_eq
@[simp] theorem raiseWith_ibex (n c p : Nat) (h : Bool) (f : Fab) : (raiseWith n c p h f).ibex = f.ibex := (raiseWith_same ..).ibex_eq
@[simp] theorem raiseWith_cells (n c p : Nat) (h : Bool) (f : Fab) : (raiseWith n c p h f).cells = f.cells := (raiseWith_same ..).cells_eq
@[simp] theorem raiseWith_pins (n c p : Nat) (h : Bool) (f : Fab) : (raiseWith n c p h f).pins = f.pins := (raiseWith_same ..).pins_eq
@[simp] theorem raiseWith_isolated (n c p : Nat) (h : Bool) (f : Fab) : (raiseWith n c p h f).isolated = f.isolated := (raiseWith_same ..).isolated_eq
@[simp] theorem raise_swapTx (c p : Nat) (f : Fab) : (raise c p f).swapTx = f.swapTx := (raise_same ..).swapTx_eq
@[simp] theorem raise_ibex (c p : Nat) (f : Fab) : (raise c p f).ibex = f.ibex := (raise_same ..).ibex_eq
@[simp] theorem raise_cells (c p : Nat) (f : Fab) : (raise c p f).cells = f.cells := (raise_same ..).cells_eq
@[simp] theorem raise_pins (c p : Nat) (f : Fab) : (raise c p f).pins = f.pins := (raise_same ..).pins_eq
@[simp] theorem raise_isolated (c p : Nat) (f : Fab) : (raise c p f).isolated = f.isolated := (raise_same ..).isolated_eq
@[simp] theorem count_swapTx (x y n : Nat) (f : Fab) : (count x y n f).swapTx = f.swapTx := (count_same ..).swapTx_eq
@[simp] theorem count_ibex (x y n : Nat) (f : Fab) : (count x y n f).ibex = f.ibex := (count_same ..).ibex_eq
@[simp] theorem count_cells (x y n : Nat) (f : Fab) : (count x y n f).cells = f.cells := (count_same ..).cells_eq
@[simp] theorem count_pins (x y n : Nat) (f : Fab) : (count x y n f).pins = f.pins := (count_same ..).pins_eq
@[simp] theorem count_isolated (x y n : Nat) (f : Fab) : (count x y n f).isolated = f.isolated := (count_same ..).isolated_eq
@[simp] theorem countMax_swapTx (x y n : Nat) (f : Fab) : (countMax x y n f).swapTx = f.swapTx := (countMax_same ..).swapTx_eq
@[simp] theorem countMax_ibex (x y n : Nat) (f : Fab) : (countMax x y n f).ibex = f.ibex := (countMax_same ..).ibex_eq
@[simp] theorem countMax_cells (x y n : Nat) (f : Fab) : (countMax x y n f).cells = f.cells := (countMax_same ..).cells_eq
@[simp] theorem countMax_pins (x y n : Nat) (f : Fab) : (countMax x y n f).pins = f.pins := (countMax_same ..).pins_eq
@[simp] theorem countMax_isolated (x y n : Nat) (f : Fab) : (countMax x y n f).isolated = f.isolated := (countMax_same ..).isolated_eq
theorem SameButReports.eyeWarn_eq {f g : Fab} (h : SameButReports f g) : g.eyeWarn = f.eyeWarn := by rw [h]
@[simp] theorem raiseWith_eyeWarn (n c p : Nat) (h : Bool) (f : Fab) : (raiseWith n c p h f).eyeWarn = f.eyeWarn := (raiseWith_same ..).eyeWarn_eq
@[simp] theorem raise_eyeWarn (c p : Nat) (f : Fab) : (raise c p f).eyeWarn = f.eyeWarn := (raise_same ..).eyeWarn_eq
@[simp] theorem count_eyeWarn (x y n : Nat) (f : Fab) : (count x y n f).eyeWarn = f.eyeWarn := (count_same ..).eyeWarn_eq
@[simp] theorem countMax_eyeWarn (x y n : Nat) (f : Fab) : (countMax x y n f).eyeWarn = f.eyeWarn := (countMax_same ..).eyeWarn_eq
theorem SameButReports.eyeSwap_eq {f g : Fab} (h : SameButReports f g) : g.eyeSwap = f.eyeSwap := by rw [h]
@[simp] theorem raiseWith_eyeSwap (n c p : Nat) (h : Bool) (f : Fab) : (raiseWith n c p h f).eyeSwap = f.eyeSwap := (raiseWith_same ..).eyeSwap_eq
@[simp] theorem raise_eyeSwap (c p : Nat) (f : Fab) : (raise c p f).eyeSwap = f.eyeSwap := (raise_same ..).eyeSwap_eq
@[simp] theorem count_eyeSwap (x y n : Nat) (f : Fab) : (count x y n f).eyeSwap = f.eyeSwap := (count_same ..).eyeSwap_eq
@[simp] theorem countMax_eyeSwap (x y n : Nat) (f : Fab) : (countMax x y n f).eyeSwap = f.eyeSwap := (countMax_same ..).eyeSwap_eq
theorem SameButReports.trainTimeout_eq {f g : Fab} (h : SameButReports f g) : g.trainTimeout = f.trainTimeout := by rw [h]
@[simp] theorem raiseWith_trainTimeout (n c p : Nat) (h : Bool) (f : Fab) : (raiseWith n c p h f).trainTimeout = f.trainTimeout := (raiseWith_same ..).trainTimeout_eq
@[simp] theorem raise_trainTimeout (c p : Nat) (f : Fab) : (raise c p f).trainTimeout = f.trainTimeout := (raise_same ..).trainTimeout_eq
@[simp] theorem count_trainTimeout (x y n : Nat) (f : Fab) : (count x y n f).trainTimeout = f.trainTimeout := (count_same ..).trainTimeout_eq
@[simp] theorem countMax_trainTimeout (x y n : Nat) (f : Fab) : (countMax x y n f).trainTimeout = f.trainTimeout := (countMax_same ..).trainTimeout_eq
theorem SameButReports.dom_eq {f g : Fab} (h : SameButReports f g) : g.dom = f.dom := by rw [h]
@[simp] theorem raiseWith_dom (n c p : Nat) (h : Bool) (f : Fab) : (raiseWith n c p h f).dom = f.dom := (raiseWith_same ..).dom_eq
@[simp] theorem raise_dom (c p : Nat) (f : Fab) : (raise c p f).dom = f.dom := (raise_same ..).dom_eq
@[simp] theorem count_dom (x y n : Nat) (f : Fab) : (count x y n f).dom = f.dom := (count_same ..).dom_eq
@[simp] theorem countMax_dom (x y n : Nat) (f : Fab) : (countMax x y n f).dom = f.dom := (countMax_same ..).dom_eq
theorem SameButReports.kports_eq {f g : Fab} (h : SameButReports f g) : g.kports = f.kports := by rw [h]
@[simp] theorem raiseWith_kports (n c p : Nat) (h : Bool) (f : Fab) : (raiseWith n c p h f).kports = f.kports := (raiseWith_same ..).kports_eq
@[simp] theorem raise_kports (c p : Nat) (f : Fab) : (raise c p f).kports = f.kports := (raise_same ..).kports_eq
@[simp] theorem count_kports (x y n : Nat) (f : Fab) : (count x y n f).kports = f.kports := (count_same ..).kports_eq
@[simp] theorem countMax_kports (x y n : Nat) (f : Fab) : (countMax x y n f).kports = f.kports := (countMax_same ..).kports_eq
theorem SameButReports.map_eq {f g : Fab} (h : SameButReports f g) : g.map = f.map := by rw [h]
@[simp] theorem raiseWith_map (n c p : Nat) (h : Bool) (f : Fab) : (raiseWith n c p h f).map = f.map := (raiseWith_same ..).map_eq
@[simp] theorem raise_map (c p : Nat) (f : Fab) : (raise c p f).map = f.map := (raise_same ..).map_eq
@[simp] theorem count_map (x y n : Nat) (f : Fab) : (count x y n f).map = f.map := (count_same ..).map_eq
@[simp] theorem countMax_map (x y n : Nat) (f : Fab) : (countMax x y n f).map = f.map := (countMax_same ..).map_eq
theorem SameButReports.integ_eq {f g : Fab} (h : SameButReports f g) : g.integ = f.integ := by rw [h]
@[simp] theorem raiseWith_integ (n c p : Nat) (h : Bool) (f : Fab) : (raiseWith n c p h f).integ = f.integ := (raiseWith_same ..).integ_eq
@[simp] theorem raise_integ (c p : Nat) (f : Fab) : (raise c p f).integ = f.integ := (raise_same ..).integ_eq
@[simp] theorem count_integ (x y n : Nat) (f : Fab) : (count x y n f).integ = f.integ := (count_same ..).integ_eq
@[simp] theorem countMax_integ (x y n : Nat) (f : Fab) : (countMax x y n f).integ = f.integ := (countMax_same ..).integ_eq
theorem SameButReports.lop_eq {f g : Fab} (h : SameButReports f g) : g.lop = f.lop := by rw [h]
@[simp] theorem raiseWith_lop (n c p : Nat) (h : Bool) (f : Fab) : (raiseWith n c p h f).lop = f.lop := (raiseWith_same ..).lop_eq
@[simp] theorem raise_lop (c p : Nat) (f : Fab) : (raise c p f).lop = f.lop := (raise_same ..).lop_eq
@[simp] theorem count_lop (x y n : Nat) (f : Fab) : (count x y n f).lop = f.lop := (count_same ..).lop_eq
@[simp] theorem countMax_lop (x y n : Nat) (f : Fab) : (countMax x y n f).lop = f.lop := (countMax_same ..).lop_eq
theorem SameButReports.bdp_eq {f g : Fab} (h : SameButReports f g) : g.bdp = f.bdp := by rw [h]
@[simp] theorem raiseWith_bdp (n c p : Nat) (h : Bool) (f : Fab) : (raiseWith n c p h f).bdp = f.bdp := (raiseWith_same ..).bdp_eq
@[simp] theorem raise_bdp (c p : Nat) (f : Fab) : (raise c p f).bdp = f.bdp := (raise_same ..).bdp_eq
@[simp] theorem count_bdp (x y n : Nat) (f : Fab) : (count x y n f).bdp = f.bdp := (count_same ..).bdp_eq
@[simp] theorem countMax_bdp (x y n : Nat) (f : Fab) : (countMax x y n f).bdp = f.bdp := (countMax_same ..).bdp_eq
theorem SameButReports.pwr_eq {f g : Fab} (h : SameButReports f g) : g.pwr = f.pwr := by rw [h]
@[simp] theorem raiseWith_pwr (n c p : Nat) (h : Bool) (f : Fab) : (raiseWith n c p h f).pwr = f.pwr := (raiseWith_same ..).pwr_eq
@[simp] theorem raise_pwr (c p : Nat) (f : Fab) : (raise c p f).pwr = f.pwr := (raise_same ..).pwr_eq
@[simp] theorem count_pwr (x y n : Nat) (f : Fab) : (count x y n f).pwr = f.pwr := (count_same ..).pwr_eq
@[simp] theorem countMax_pwr (x y n : Nat) (f : Fab) : (countMax x y n f).pwr = f.pwr := (countMax_same ..).pwr_eq
theorem SameButReports.start_eq {f g : Fab} (h : SameButReports f g) : g.start = f.start := by rw [h]
@[simp] theorem raiseWith_start (n c p : Nat) (h : Bool) (f : Fab) : (raiseWith n c p h f).start = f.start := (raiseWith_same ..).start_eq
@[simp] theorem raise_start (c p : Nat) (f : Fab) : (raise c p f).start = f.start := (raise_same ..).start_eq
@[simp] theorem count_start (x y n : Nat) (f : Fab) : (count x y n f).start = f.start := (count_same ..).start_eq
@[simp] theorem countMax_start (x y n : Nat) (f : Fab) : (countMax x y n f).start = f.start := (countMax_same ..).start_eq
theorem SameButReports.th_eq {f g : Fab} (h : SameButReports f g) : g.th = f.th := by rw [h]
@[simp] theorem raiseWith_th (n c p : Nat) (h : Bool) (f : Fab) : (raiseWith n c p h f).th = f.th := (raiseWith_same ..).th_eq
@[simp] theorem raise_th (c p : Nat) (f : Fab) : (raise c p f).th = f.th := (raise_same ..).th_eq
@[simp] theorem count_th (x y n : Nat) (f : Fab) : (count x y n f).th = f.th := (count_same ..).th_eq
@[simp] theorem countMax_th (x y n : Nat) (f : Fab) : (countMax x y n f).th = f.th := (countMax_same ..).th_eq
theorem SameButReports.sec_eq {f g : Fab} (h : SameButReports f g) : g.sec = f.sec := by rw [h]
@[simp] theorem raiseWith_sec (n c p : Nat) (h : Bool) (f : Fab) : (raiseWith n c p h f).sec = f.sec := (raiseWith_same ..).sec_eq
@[simp] theorem raise_sec (c p : Nat) (f : Fab) : (raise c p f).sec = f.sec := (raise_same ..).sec_eq
@[simp] theorem count_sec (x y n : Nat) (f : Fab) : (count x y n f).sec = f.sec := (count_same ..).sec_eq
@[simp] theorem countMax_sec (x y n : Nat) (f : Fab) : (countMax x y n f).sec = f.sec := (countMax_same ..).sec_eq
theorem SameButReports.img_eq {f g : Fab} (h : SameButReports f g) : g.img = f.img := by rw [h]
@[simp] theorem raiseWith_img (n c p : Nat) (h : Bool) (f : Fab) : (raiseWith n c p h f).img = f.img := (raiseWith_same ..).img_eq
@[simp] theorem raise_img (c p : Nat) (f : Fab) : (raise c p f).img = f.img := (raise_same ..).img_eq
@[simp] theorem count_img (x y n : Nat) (f : Fab) : (count x y n f).img = f.img := (count_same ..).img_eq
@[simp] theorem countMax_img (x y n : Nat) (f : Fab) : (countMax x y n f).img = f.img := (countMax_same ..).img_eq
theorem SameButReports.wir_eq {f g : Fab} (h : SameButReports f g) : g.wir = f.wir := by rw [h]
@[simp] theorem raiseWith_wir (n c p : Nat) (h : Bool) (f : Fab) : (raiseWith n c p h f).wir = f.wir := (raiseWith_same ..).wir_eq
@[simp] theorem raise_wir (c p : Nat) (f : Fab) : (raise c p f).wir = f.wir := (raise_same ..).wir_eq
@[simp] theorem count_wir (x y n : Nat) (f : Fab) : (count x y n f).wir = f.wir := (count_same ..).wir_eq
@[simp] theorem countMax_wir (x y n : Nat) (f : Fab) : (countMax x y n f).wir = f.wir := (countMax_same ..).wir_eq
theorem SameButReports.free_eq {f g : Fab} (h : SameButReports f g) : g.free = f.free := by rw [h]
@[simp] theorem raiseWith_free (n c p : Nat) (h : Bool) (f : Fab) : (raiseWith n c p h f).free = f.free := (raiseWith_same ..).free_eq
@[simp] theorem raise_free (c p : Nat) (f : Fab) : (raise c p f).free = f.free := (raise_same ..).free_eq
@[simp] theorem count_free (x y n : Nat) (f : Fab) : (count x y n f).free = f.free := (count_same ..).free_eq
@[simp] theorem countMax_free (x y n : Nat) (f : Fab) : (countMax x y n f).free = f.free := (countMax_same ..).free_eq
@[simp] theorem countPort_prm (p s n : Nat) (f : Fab) : (countPort p s n f).prm = f.prm := count_prm ..
@[simp] theorem countPort_store (p s n : Nat) (f : Fab) : (countPort p s n f).store = f.store := count_store ..
@[simp] theorem countPort_ports (p s n : Nat) (f : Fab) : (countPort p s n f).ports = f.ports := count_ports ..
@[simp] theorem countPort_queues (p s n : Nat) (f : Fab) : (countPort p s n f).queues = f.queues := count_queues ..
@[simp] theorem countPort_fences (p s n : Nat) (f : Fab) : (countPort p s n f).fences = f.fences := count_fences ..
@[simp] theorem countPort_stallBound (p s n : Nat) (f : Fab) : (countPort p s n f).stallBound = f.stallBound := count_stallBound ..
@[simp] theorem countPort_fenceLimit (p s n : Nat) (f : Fab) : (countPort p s n f).fenceLimit = f.fenceLimit := count_fenceLimit ..
@[simp] theorem countPort_epgroups (p s n : Nat) (f : Fab) : (countPort p s n f).epgroups = f.epgroups := count_epgroups ..
@[simp] theorem countPort_clusters (p s n : Nat) (f : Fab) : (countPort p s n f).clusters = f.clusters := count_clusters ..
@[simp] theorem countPort_shown (p s n : Nat) (f : Fab) : (countPort p s n f).shown = f.shown := count_shown ..
@[simp] theorem countPort_links (p s n : Nat) (f : Fab) : (countPort p s n f).links = f.links := count_links ..
@[simp] theorem countPort_lanes (p s n : Nat) (f : Fab) : (countPort p s n f).lanes = f.lanes := count_lanes ..
@[simp] theorem countPort_swapRx (p s n : Nat) (f : Fab) : (countPort p s n f).swapRx = f.swapRx := count_swapRx ..
@[simp] theorem countPort_swapTx (p s n : Nat) (f : Fab) : (countPort p s n f).swapTx = f.swapTx := count_swapTx ..
@[simp] theorem countPort_ibex (p s n : Nat) (f : Fab) : (countPort p s n f).ibex = f.ibex := count_ibex ..
@[simp] theorem countPort_cells (p s n : Nat) (f : Fab) : (countPort p s n f).cells = f.cells := count_cells ..
@[simp] theorem countPort_pins (p s n : Nat) (f : Fab) : (countPort p s n f).pins = f.pins := count_pins ..
@[simp] theorem countPort_isolated (p s n : Nat) (f : Fab) : (countPort p s n f).isolated = f.isolated := count_isolated ..
@[simp] theorem countPort_eyeWarn (p s n : Nat) (f : Fab) : (countPort p s n f).eyeWarn = f.eyeWarn := count_eyeWarn ..
@[simp] theorem countPort_eyeSwap (p s n : Nat) (f : Fab) : (countPort p s n f).eyeSwap = f.eyeSwap := count_eyeSwap ..
@[simp] theorem countPort_trainTimeout (p s n : Nat) (f : Fab) : (countPort p s n f).trainTimeout = f.trainTimeout := count_trainTimeout ..
@[simp] theorem countPort_dom (p s n : Nat) (f : Fab) : (countPort p s n f).dom = f.dom := count_dom ..
@[simp] theorem countPort_kports (p s n : Nat) (f : Fab) : (countPort p s n f).kports = f.kports := count_kports ..
@[simp] theorem countPort_map (p s n : Nat) (f : Fab) : (countPort p s n f).map = f.map := count_map ..
@[simp] theorem countPort_integ (p s n : Nat) (f : Fab) : (countPort p s n f).integ = f.integ := count_integ ..
@[simp] theorem countPort_lop (p s n : Nat) (f : Fab) : (countPort p s n f).lop = f.lop := count_lop ..
@[simp] theorem countPort_bdp (p s n : Nat) (f : Fab) : (countPort p s n f).bdp = f.bdp := count_bdp ..
@[simp] theorem countPort_pwr (p s n : Nat) (f : Fab) : (countPort p s n f).pwr = f.pwr := count_pwr ..
@[simp] theorem countPort_start (p s n : Nat) (f : Fab) : (countPort p s n f).start = f.start := count_start ..
@[simp] theorem countPort_th (p s n : Nat) (f : Fab) : (countPort p s n f).th = f.th := count_th ..
@[simp] theorem countPort_sec (p s n : Nat) (f : Fab) : (countPort p s n f).sec = f.sec := count_sec ..
@[simp] theorem countPort_img (p s n : Nat) (f : Fab) : (countPort p s n f).img = f.img := count_img ..
@[simp] theorem countPort_wir (p s n : Nat) (f : Fab) : (countPort p s n f).wir = f.wir := count_wir ..
@[simp] theorem countPort_free (p s n : Nat) (f : Fab) : (countPort p s n f).free = f.free := count_free ..
@[simp] theorem countCluster_prm (p s n : Nat) (f : Fab) : (countCluster p s n f).prm = f.prm := count_prm ..
@[simp] theorem countCluster_store (p s n : Nat) (f : Fab) : (countCluster p s n f).store = f.store := count_store ..
@[simp] theorem countCluster_ports (p s n : Nat) (f : Fab) : (countCluster p s n f).ports = f.ports := count_ports ..
@[simp] theorem countCluster_queues (p s n : Nat) (f : Fab) : (countCluster p s n f).queues = f.queues := count_queues ..
@[simp] theorem countCluster_fences (p s n : Nat) (f : Fab) : (countCluster p s n f).fences = f.fences := count_fences ..
@[simp] theorem countCluster_stallBound (p s n : Nat) (f : Fab) : (countCluster p s n f).stallBound = f.stallBound := count_stallBound ..
@[simp] theorem countCluster_fenceLimit (p s n : Nat) (f : Fab) : (countCluster p s n f).fenceLimit = f.fenceLimit := count_fenceLimit ..
@[simp] theorem countCluster_epgroups (p s n : Nat) (f : Fab) : (countCluster p s n f).epgroups = f.epgroups := count_epgroups ..
@[simp] theorem countCluster_clusters (p s n : Nat) (f : Fab) : (countCluster p s n f).clusters = f.clusters := count_clusters ..
@[simp] theorem countCluster_shown (p s n : Nat) (f : Fab) : (countCluster p s n f).shown = f.shown := count_shown ..
@[simp] theorem countCluster_links (p s n : Nat) (f : Fab) : (countCluster p s n f).links = f.links := count_links ..
@[simp] theorem countCluster_lanes (p s n : Nat) (f : Fab) : (countCluster p s n f).lanes = f.lanes := count_lanes ..
@[simp] theorem countCluster_swapRx (p s n : Nat) (f : Fab) : (countCluster p s n f).swapRx = f.swapRx := count_swapRx ..
@[simp] theorem countCluster_swapTx (p s n : Nat) (f : Fab) : (countCluster p s n f).swapTx = f.swapTx := count_swapTx ..
@[simp] theorem countCluster_ibex (p s n : Nat) (f : Fab) : (countCluster p s n f).ibex = f.ibex := count_ibex ..
@[simp] theorem countCluster_cells (p s n : Nat) (f : Fab) : (countCluster p s n f).cells = f.cells := count_cells ..
@[simp] theorem countCluster_pins (p s n : Nat) (f : Fab) : (countCluster p s n f).pins = f.pins := count_pins ..
@[simp] theorem countCluster_isolated (p s n : Nat) (f : Fab) : (countCluster p s n f).isolated = f.isolated := count_isolated ..
@[simp] theorem countCluster_eyeWarn (p s n : Nat) (f : Fab) : (countCluster p s n f).eyeWarn = f.eyeWarn := count_eyeWarn ..
@[simp] theorem countCluster_eyeSwap (p s n : Nat) (f : Fab) : (countCluster p s n f).eyeSwap = f.eyeSwap := count_eyeSwap ..
@[simp] theorem countCluster_trainTimeout (p s n : Nat) (f : Fab) : (countCluster p s n f).trainTimeout = f.trainTimeout := count_trainTimeout ..
@[simp] theorem countCluster_dom (p s n : Nat) (f : Fab) : (countCluster p s n f).dom = f.dom := count_dom ..
@[simp] theorem countCluster_kports (p s n : Nat) (f : Fab) : (countCluster p s n f).kports = f.kports := count_kports ..
@[simp] theorem countCluster_map (p s n : Nat) (f : Fab) : (countCluster p s n f).map = f.map := count_map ..
@[simp] theorem countCluster_integ (p s n : Nat) (f : Fab) : (countCluster p s n f).integ = f.integ := count_integ ..
@[simp] theorem countCluster_lop (p s n : Nat) (f : Fab) : (countCluster p s n f).lop = f.lop := count_lop ..
@[simp] theorem countCluster_bdp (p s n : Nat) (f : Fab) : (countCluster p s n f).bdp = f.bdp := count_bdp ..
@[simp] theorem countCluster_pwr (p s n : Nat) (f : Fab) : (countCluster p s n f).pwr = f.pwr := count_pwr ..
@[simp] theorem countCluster_start (p s n : Nat) (f : Fab) : (countCluster p s n f).start = f.start := count_start ..
@[simp] theorem countCluster_th (p s n : Nat) (f : Fab) : (countCluster p s n f).th = f.th := count_th ..
@[simp] theorem countCluster_sec (p s n : Nat) (f : Fab) : (countCluster p s n f).sec = f.sec := count_sec ..
@[simp] theorem countCluster_img (p s n : Nat) (f : Fab) : (countCluster p s n f).img = f.img := count_img ..
@[simp] theorem countCluster_wir (p s n : Nat) (f : Fab) : (countCluster p s n f).wir = f.wir := count_wir ..
@[simp] theorem countCluster_free (p s n : Nat) (f : Fab) : (countCluster p s n f).free = f.free := count_free ..
@[simp] theorem countQueue_prm (p s n : Nat) (f : Fab) : (countQueue p s n f).prm = f.prm := count_prm ..
@[simp] theorem countQueue_store (p s n : Nat) (f : Fab) : (countQueue p s n f).store = f.store := count_store ..
@[simp] theorem countQueue_ports (p s n : Nat) (f : Fab) : (countQueue p s n f).ports = f.ports := count_ports ..
@[simp] theorem countQueue_queues (p s n : Nat) (f : Fab) : (countQueue p s n f).queues = f.queues := count_queues ..
@[simp] theorem countQueue_fences (p s n : Nat) (f : Fab) : (countQueue p s n f).fences = f.fences := count_fences ..
@[simp] theorem countQueue_stallBound (p s n : Nat) (f : Fab) : (countQueue p s n f).stallBound = f.stallBound := count_stallBound ..
@[simp] theorem countQueue_fenceLimit (p s n : Nat) (f : Fab) : (countQueue p s n f).fenceLimit = f.fenceLimit := count_fenceLimit ..
@[simp] theorem countQueue_epgroups (p s n : Nat) (f : Fab) : (countQueue p s n f).epgroups = f.epgroups := count_epgroups ..
@[simp] theorem countQueue_clusters (p s n : Nat) (f : Fab) : (countQueue p s n f).clusters = f.clusters := count_clusters ..
@[simp] theorem countQueue_shown (p s n : Nat) (f : Fab) : (countQueue p s n f).shown = f.shown := count_shown ..
@[simp] theorem countQueue_links (p s n : Nat) (f : Fab) : (countQueue p s n f).links = f.links := count_links ..
@[simp] theorem countQueue_lanes (p s n : Nat) (f : Fab) : (countQueue p s n f).lanes = f.lanes := count_lanes ..
@[simp] theorem countQueue_swapRx (p s n : Nat) (f : Fab) : (countQueue p s n f).swapRx = f.swapRx := count_swapRx ..
@[simp] theorem countQueue_swapTx (p s n : Nat) (f : Fab) : (countQueue p s n f).swapTx = f.swapTx := count_swapTx ..
@[simp] theorem countQueue_ibex (p s n : Nat) (f : Fab) : (countQueue p s n f).ibex = f.ibex := count_ibex ..
@[simp] theorem countQueue_cells (p s n : Nat) (f : Fab) : (countQueue p s n f).cells = f.cells := count_cells ..
@[simp] theorem countQueue_pins (p s n : Nat) (f : Fab) : (countQueue p s n f).pins = f.pins := count_pins ..
@[simp] theorem countQueue_isolated (p s n : Nat) (f : Fab) : (countQueue p s n f).isolated = f.isolated := count_isolated ..
@[simp] theorem countQueue_eyeWarn (p s n : Nat) (f : Fab) : (countQueue p s n f).eyeWarn = f.eyeWarn := count_eyeWarn ..
@[simp] theorem countQueue_eyeSwap (p s n : Nat) (f : Fab) : (countQueue p s n f).eyeSwap = f.eyeSwap := count_eyeSwap ..
@[simp] theorem countQueue_trainTimeout (p s n : Nat) (f : Fab) : (countQueue p s n f).trainTimeout = f.trainTimeout := count_trainTimeout ..
@[simp] theorem countQueue_dom (p s n : Nat) (f : Fab) : (countQueue p s n f).dom = f.dom := count_dom ..
@[simp] theorem countQueue_kports (p s n : Nat) (f : Fab) : (countQueue p s n f).kports = f.kports := count_kports ..
@[simp] theorem countQueue_map (p s n : Nat) (f : Fab) : (countQueue p s n f).map = f.map := count_map ..
@[simp] theorem countQueue_integ (p s n : Nat) (f : Fab) : (countQueue p s n f).integ = f.integ := count_integ ..
@[simp] theorem countQueue_lop (p s n : Nat) (f : Fab) : (countQueue p s n f).lop = f.lop := count_lop ..
@[simp] theorem countQueue_bdp (p s n : Nat) (f : Fab) : (countQueue p s n f).bdp = f.bdp := count_bdp ..
@[simp] theorem countQueue_pwr (p s n : Nat) (f : Fab) : (countQueue p s n f).pwr = f.pwr := count_pwr ..
@[simp] theorem countQueue_start (p s n : Nat) (f : Fab) : (countQueue p s n f).start = f.start := count_start ..
@[simp] theorem countQueue_th (p s n : Nat) (f : Fab) : (countQueue p s n f).th = f.th := count_th ..
@[simp] theorem countQueue_sec (p s n : Nat) (f : Fab) : (countQueue p s n f).sec = f.sec := count_sec ..
@[simp] theorem countQueue_img (p s n : Nat) (f : Fab) : (countQueue p s n f).img = f.img := count_img ..
@[simp] theorem countQueue_wir (p s n : Nat) (f : Fab) : (countQueue p s n f).wir = f.wir := count_wir ..
@[simp] theorem countQueue_free (p s n : Nat) (f : Fab) : (countQueue p s n f).free = f.free := count_free ..
@[simp] theorem countLink_prm (p s n : Nat) (f : Fab) : (countLink p s n f).prm = f.prm := count_prm ..
@[simp] theorem countLink_store (p s n : Nat) (f : Fab) : (countLink p s n f).store = f.store := count_store ..
@[simp] theorem countLink_ports (p s n : Nat) (f : Fab) : (countLink p s n f).ports = f.ports := count_ports ..
@[simp] theorem countLink_queues (p s n : Nat) (f : Fab) : (countLink p s n f).queues = f.queues := count_queues ..
@[simp] theorem countLink_fences (p s n : Nat) (f : Fab) : (countLink p s n f).fences = f.fences := count_fences ..
@[simp] theorem countLink_stallBound (p s n : Nat) (f : Fab) : (countLink p s n f).stallBound = f.stallBound := count_stallBound ..
@[simp] theorem countLink_fenceLimit (p s n : Nat) (f : Fab) : (countLink p s n f).fenceLimit = f.fenceLimit := count_fenceLimit ..
@[simp] theorem countLink_epgroups (p s n : Nat) (f : Fab) : (countLink p s n f).epgroups = f.epgroups := count_epgroups ..
@[simp] theorem countLink_clusters (p s n : Nat) (f : Fab) : (countLink p s n f).clusters = f.clusters := count_clusters ..
@[simp] theorem countLink_shown (p s n : Nat) (f : Fab) : (countLink p s n f).shown = f.shown := count_shown ..
@[simp] theorem countLink_links (p s n : Nat) (f : Fab) : (countLink p s n f).links = f.links := count_links ..
@[simp] theorem countLink_lanes (p s n : Nat) (f : Fab) : (countLink p s n f).lanes = f.lanes := count_lanes ..
@[simp] theorem countLink_swapRx (p s n : Nat) (f : Fab) : (countLink p s n f).swapRx = f.swapRx := count_swapRx ..
@[simp] theorem countLink_swapTx (p s n : Nat) (f : Fab) : (countLink p s n f).swapTx = f.swapTx := count_swapTx ..
@[simp] theorem countLink_ibex (p s n : Nat) (f : Fab) : (countLink p s n f).ibex = f.ibex := count_ibex ..
@[simp] theorem countLink_cells (p s n : Nat) (f : Fab) : (countLink p s n f).cells = f.cells := count_cells ..
@[simp] theorem countLink_pins (p s n : Nat) (f : Fab) : (countLink p s n f).pins = f.pins := count_pins ..
@[simp] theorem countLink_isolated (p s n : Nat) (f : Fab) : (countLink p s n f).isolated = f.isolated := count_isolated ..
@[simp] theorem countLink_eyeWarn (p s n : Nat) (f : Fab) : (countLink p s n f).eyeWarn = f.eyeWarn := count_eyeWarn ..
@[simp] theorem countLink_eyeSwap (p s n : Nat) (f : Fab) : (countLink p s n f).eyeSwap = f.eyeSwap := count_eyeSwap ..
@[simp] theorem countLink_trainTimeout (p s n : Nat) (f : Fab) : (countLink p s n f).trainTimeout = f.trainTimeout := count_trainTimeout ..
@[simp] theorem countLink_dom (p s n : Nat) (f : Fab) : (countLink p s n f).dom = f.dom := count_dom ..
@[simp] theorem countLink_kports (p s n : Nat) (f : Fab) : (countLink p s n f).kports = f.kports := count_kports ..
@[simp] theorem countLink_map (p s n : Nat) (f : Fab) : (countLink p s n f).map = f.map := count_map ..
@[simp] theorem countLink_integ (p s n : Nat) (f : Fab) : (countLink p s n f).integ = f.integ := count_integ ..
@[simp] theorem countLink_lop (p s n : Nat) (f : Fab) : (countLink p s n f).lop = f.lop := count_lop ..
@[simp] theorem countLink_bdp (p s n : Nat) (f : Fab) : (countLink p s n f).bdp = f.bdp := count_bdp ..
@[simp] theorem countLink_pwr (p s n : Nat) (f : Fab) : (countLink p s n f).pwr = f.pwr := count_pwr ..
@[simp] theorem countLink_start (p s n : Nat) (f : Fab) : (countLink p s n f).start = f.start := count_start ..
@[simp] theorem countLink_th (p s n : Nat) (f : Fab) : (countLink p s n f).th = f.th := count_th ..
@[simp] theorem countLink_sec (p s n : Nat) (f : Fab) : (countLink p s n f).sec = f.sec := count_sec ..
@[simp] theorem countLink_img (p s n : Nat) (f : Fab) : (countLink p s n f).img = f.img := count_img ..
@[simp] theorem countLink_wir (p s n : Nat) (f : Fab) : (countLink p s n f).wir = f.wir := count_wir ..
@[simp] theorem countLink_free (p s n : Nat) (f : Fab) : (countLink p s n f).free = f.free := count_free ..
@[simp] theorem countStack_prm (p s n : Nat) (f : Fab) : (countStack p s n f).prm = f.prm := count_prm ..
@[simp] theorem countStack_store (p s n : Nat) (f : Fab) : (countStack p s n f).store = f.store := count_store ..
@[simp] theorem countStack_ports (p s n : Nat) (f : Fab) : (countStack p s n f).ports = f.ports := count_ports ..
@[simp] theorem countStack_queues (p s n : Nat) (f : Fab) : (countStack p s n f).queues = f.queues := count_queues ..
@[simp] theorem countStack_fences (p s n : Nat) (f : Fab) : (countStack p s n f).fences = f.fences := count_fences ..
@[simp] theorem countStack_stallBound (p s n : Nat) (f : Fab) : (countStack p s n f).stallBound = f.stallBound := count_stallBound ..
@[simp] theorem countStack_fenceLimit (p s n : Nat) (f : Fab) : (countStack p s n f).fenceLimit = f.fenceLimit := count_fenceLimit ..
@[simp] theorem countStack_epgroups (p s n : Nat) (f : Fab) : (countStack p s n f).epgroups = f.epgroups := count_epgroups ..
@[simp] theorem countStack_clusters (p s n : Nat) (f : Fab) : (countStack p s n f).clusters = f.clusters := count_clusters ..
@[simp] theorem countStack_shown (p s n : Nat) (f : Fab) : (countStack p s n f).shown = f.shown := count_shown ..
@[simp] theorem countStack_links (p s n : Nat) (f : Fab) : (countStack p s n f).links = f.links := count_links ..
@[simp] theorem countStack_lanes (p s n : Nat) (f : Fab) : (countStack p s n f).lanes = f.lanes := count_lanes ..
@[simp] theorem countStack_swapRx (p s n : Nat) (f : Fab) : (countStack p s n f).swapRx = f.swapRx := count_swapRx ..
@[simp] theorem countStack_swapTx (p s n : Nat) (f : Fab) : (countStack p s n f).swapTx = f.swapTx := count_swapTx ..
@[simp] theorem countStack_ibex (p s n : Nat) (f : Fab) : (countStack p s n f).ibex = f.ibex := count_ibex ..
@[simp] theorem countStack_cells (p s n : Nat) (f : Fab) : (countStack p s n f).cells = f.cells := count_cells ..
@[simp] theorem countStack_pins (p s n : Nat) (f : Fab) : (countStack p s n f).pins = f.pins := count_pins ..
@[simp] theorem countStack_isolated (p s n : Nat) (f : Fab) : (countStack p s n f).isolated = f.isolated := count_isolated ..
@[simp] theorem countStack_eyeWarn (p s n : Nat) (f : Fab) : (countStack p s n f).eyeWarn = f.eyeWarn := count_eyeWarn ..
@[simp] theorem countStack_eyeSwap (p s n : Nat) (f : Fab) : (countStack p s n f).eyeSwap = f.eyeSwap := count_eyeSwap ..
@[simp] theorem countStack_trainTimeout (p s n : Nat) (f : Fab) : (countStack p s n f).trainTimeout = f.trainTimeout := count_trainTimeout ..
@[simp] theorem countStack_dom (p s n : Nat) (f : Fab) : (countStack p s n f).dom = f.dom := count_dom ..
@[simp] theorem countStack_kports (p s n : Nat) (f : Fab) : (countStack p s n f).kports = f.kports := count_kports ..
@[simp] theorem countStack_map (p s n : Nat) (f : Fab) : (countStack p s n f).map = f.map := count_map ..
@[simp] theorem countStack_integ (p s n : Nat) (f : Fab) : (countStack p s n f).integ = f.integ := count_integ ..
@[simp] theorem countStack_lop (p s n : Nat) (f : Fab) : (countStack p s n f).lop = f.lop := count_lop ..
@[simp] theorem countStack_bdp (p s n : Nat) (f : Fab) : (countStack p s n f).bdp = f.bdp := count_bdp ..
@[simp] theorem countStack_pwr (p s n : Nat) (f : Fab) : (countStack p s n f).pwr = f.pwr := count_pwr ..
@[simp] theorem countStack_start (p s n : Nat) (f : Fab) : (countStack p s n f).start = f.start := count_start ..
@[simp] theorem countStack_th (p s n : Nat) (f : Fab) : (countStack p s n f).th = f.th := count_th ..
@[simp] theorem countStack_sec (p s n : Nat) (f : Fab) : (countStack p s n f).sec = f.sec := count_sec ..
@[simp] theorem countStack_img (p s n : Nat) (f : Fab) : (countStack p s n f).img = f.img := count_img ..
@[simp] theorem countStack_wir (p s n : Nat) (f : Fab) : (countStack p s n f).wir = f.wir := count_wir ..
@[simp] theorem countStack_free (p s n : Nat) (f : Fab) : (countStack p s n f).free = f.free := count_free ..
@[simp] theorem countGroup_prm (p s n : Nat) (f : Fab) : (countGroup p s n f).prm = f.prm := count_prm ..
@[simp] theorem countGroup_store (p s n : Nat) (f : Fab) : (countGroup p s n f).store = f.store := count_store ..
@[simp] theorem countGroup_ports (p s n : Nat) (f : Fab) : (countGroup p s n f).ports = f.ports := count_ports ..
@[simp] theorem countGroup_queues (p s n : Nat) (f : Fab) : (countGroup p s n f).queues = f.queues := count_queues ..
@[simp] theorem countGroup_fences (p s n : Nat) (f : Fab) : (countGroup p s n f).fences = f.fences := count_fences ..
@[simp] theorem countGroup_stallBound (p s n : Nat) (f : Fab) : (countGroup p s n f).stallBound = f.stallBound := count_stallBound ..
@[simp] theorem countGroup_fenceLimit (p s n : Nat) (f : Fab) : (countGroup p s n f).fenceLimit = f.fenceLimit := count_fenceLimit ..
@[simp] theorem countGroup_epgroups (p s n : Nat) (f : Fab) : (countGroup p s n f).epgroups = f.epgroups := count_epgroups ..
@[simp] theorem countGroup_clusters (p s n : Nat) (f : Fab) : (countGroup p s n f).clusters = f.clusters := count_clusters ..
@[simp] theorem countGroup_shown (p s n : Nat) (f : Fab) : (countGroup p s n f).shown = f.shown := count_shown ..
@[simp] theorem countGroup_links (p s n : Nat) (f : Fab) : (countGroup p s n f).links = f.links := count_links ..
@[simp] theorem countGroup_lanes (p s n : Nat) (f : Fab) : (countGroup p s n f).lanes = f.lanes := count_lanes ..
@[simp] theorem countGroup_swapRx (p s n : Nat) (f : Fab) : (countGroup p s n f).swapRx = f.swapRx := count_swapRx ..
@[simp] theorem countGroup_swapTx (p s n : Nat) (f : Fab) : (countGroup p s n f).swapTx = f.swapTx := count_swapTx ..
@[simp] theorem countGroup_ibex (p s n : Nat) (f : Fab) : (countGroup p s n f).ibex = f.ibex := count_ibex ..
@[simp] theorem countGroup_cells (p s n : Nat) (f : Fab) : (countGroup p s n f).cells = f.cells := count_cells ..
@[simp] theorem countGroup_pins (p s n : Nat) (f : Fab) : (countGroup p s n f).pins = f.pins := count_pins ..
@[simp] theorem countGroup_isolated (p s n : Nat) (f : Fab) : (countGroup p s n f).isolated = f.isolated := count_isolated ..
@[simp] theorem countGroup_eyeWarn (p s n : Nat) (f : Fab) : (countGroup p s n f).eyeWarn = f.eyeWarn := count_eyeWarn ..
@[simp] theorem countGroup_eyeSwap (p s n : Nat) (f : Fab) : (countGroup p s n f).eyeSwap = f.eyeSwap := count_eyeSwap ..
@[simp] theorem countGroup_trainTimeout (p s n : Nat) (f : Fab) : (countGroup p s n f).trainTimeout = f.trainTimeout := count_trainTimeout ..
@[simp] theorem countGroup_dom (p s n : Nat) (f : Fab) : (countGroup p s n f).dom = f.dom := count_dom ..
@[simp] theorem countGroup_kports (p s n : Nat) (f : Fab) : (countGroup p s n f).kports = f.kports := count_kports ..
@[simp] theorem countGroup_map (p s n : Nat) (f : Fab) : (countGroup p s n f).map = f.map := count_map ..
@[simp] theorem countGroup_integ (p s n : Nat) (f : Fab) : (countGroup p s n f).integ = f.integ := count_integ ..
@[simp] theorem countGroup_lop (p s n : Nat) (f : Fab) : (countGroup p s n f).lop = f.lop := count_lop ..
@[simp] theorem countGroup_bdp (p s n : Nat) (f : Fab) : (countGroup p s n f).bdp = f.bdp := count_bdp ..
@[simp] theorem countGroup_pwr (p s n : Nat) (f : Fab) : (countGroup p s n f).pwr = f.pwr := count_pwr ..
@[simp] theorem countGroup_start (p s n : Nat) (f : Fab) : (countGroup p s n f).start = f.start := count_start ..
@[simp] theorem countGroup_th (p s n : Nat) (f : Fab) : (countGroup p s n f).th = f.th := count_th ..
@[simp] theorem countGroup_sec (p s n : Nat) (f : Fab) : (countGroup p s n f).sec = f.sec := count_sec ..
@[simp] theorem countGroup_img (p s n : Nat) (f : Fab) : (countGroup p s n f).img = f.img := count_img ..
@[simp] theorem countGroup_wir (p s n : Nat) (f : Fab) : (countGroup p s n f).wir = f.wir := count_wir ..
@[simp] theorem countGroup_free (p s n : Nat) (f : Fab) : (countGroup p s n f).free = f.free := count_free ..
@[simp] theorem countInst_prm (s n : Nat) (f : Fab) : (countInst s n f).prm = f.prm := count_prm ..
@[simp] theorem countInst_store (s n : Nat) (f : Fab) : (countInst s n f).store = f.store := count_store ..
@[simp] theorem countInst_ports (s n : Nat) (f : Fab) : (countInst s n f).ports = f.ports := count_ports ..
@[simp] theorem countInst_queues (s n : Nat) (f : Fab) : (countInst s n f).queues = f.queues := count_queues ..
@[simp] theorem countInst_fences (s n : Nat) (f : Fab) : (countInst s n f).fences = f.fences := count_fences ..
@[simp] theorem countInst_stallBound (s n : Nat) (f : Fab) : (countInst s n f).stallBound = f.stallBound := count_stallBound ..
@[simp] theorem countInst_fenceLimit (s n : Nat) (f : Fab) : (countInst s n f).fenceLimit = f.fenceLimit := count_fenceLimit ..
@[simp] theorem countInst_epgroups (s n : Nat) (f : Fab) : (countInst s n f).epgroups = f.epgroups := count_epgroups ..
@[simp] theorem countInst_clusters (s n : Nat) (f : Fab) : (countInst s n f).clusters = f.clusters := count_clusters ..
@[simp] theorem countInst_shown (s n : Nat) (f : Fab) : (countInst s n f).shown = f.shown := count_shown ..
@[simp] theorem countInst_links (s n : Nat) (f : Fab) : (countInst s n f).links = f.links := count_links ..
@[simp] theorem countInst_lanes (s n : Nat) (f : Fab) : (countInst s n f).lanes = f.lanes := count_lanes ..
@[simp] theorem countInst_swapRx (s n : Nat) (f : Fab) : (countInst s n f).swapRx = f.swapRx := count_swapRx ..
@[simp] theorem countInst_swapTx (s n : Nat) (f : Fab) : (countInst s n f).swapTx = f.swapTx := count_swapTx ..
@[simp] theorem countInst_ibex (s n : Nat) (f : Fab) : (countInst s n f).ibex = f.ibex := count_ibex ..
@[simp] theorem countInst_cells (s n : Nat) (f : Fab) : (countInst s n f).cells = f.cells := count_cells ..
@[simp] theorem countInst_pins (s n : Nat) (f : Fab) : (countInst s n f).pins = f.pins := count_pins ..
@[simp] theorem countInst_isolated (s n : Nat) (f : Fab) : (countInst s n f).isolated = f.isolated := count_isolated ..
@[simp] theorem countInst_eyeWarn (s n : Nat) (f : Fab) : (countInst s n f).eyeWarn = f.eyeWarn := count_eyeWarn ..
@[simp] theorem countInst_eyeSwap (s n : Nat) (f : Fab) : (countInst s n f).eyeSwap = f.eyeSwap := count_eyeSwap ..
@[simp] theorem countInst_trainTimeout (s n : Nat) (f : Fab) : (countInst s n f).trainTimeout = f.trainTimeout := count_trainTimeout ..
@[simp] theorem countInst_dom (s n : Nat) (f : Fab) : (countInst s n f).dom = f.dom := count_dom ..
@[simp] theorem countInst_kports (s n : Nat) (f : Fab) : (countInst s n f).kports = f.kports := count_kports ..
@[simp] theorem countInst_map (s n : Nat) (f : Fab) : (countInst s n f).map = f.map := count_map ..
@[simp] theorem countInst_integ (s n : Nat) (f : Fab) : (countInst s n f).integ = f.integ := count_integ ..
@[simp] theorem countInst_lop (s n : Nat) (f : Fab) : (countInst s n f).lop = f.lop := count_lop ..
@[simp] theorem countInst_bdp (s n : Nat) (f : Fab) : (countInst s n f).bdp = f.bdp := count_bdp ..
@[simp] theorem countInst_pwr (s n : Nat) (f : Fab) : (countInst s n f).pwr = f.pwr := count_pwr ..
@[simp] theorem countInst_start (s n : Nat) (f : Fab) : (countInst s n f).start = f.start := count_start ..
@[simp] theorem countInst_th (s n : Nat) (f : Fab) : (countInst s n f).th = f.th := count_th ..
@[simp] theorem countInst_sec (s n : Nat) (f : Fab) : (countInst s n f).sec = f.sec := count_sec ..
@[simp] theorem countInst_img (s n : Nat) (f : Fab) : (countInst s n f).img = f.img := count_img ..
@[simp] theorem countInst_wir (s n : Nat) (f : Fab) : (countInst s n f).wir = f.wir := count_wir ..
@[simp] theorem countInst_free (s n : Nat) (f : Fab) : (countInst s n f).free = f.free := count_free ..
@[simp] theorem traceAs_prm (k q s m : Nat) (d : Desc) (f : Fab) : (traceAs k q s m d f).prm = f.prm := by
  unfold traceAs
  split <;> rfl
@[simp] theorem traceAs_store (k q s m : Nat) (d : Desc) (f : Fab) : (traceAs k q s m d f).store = f.store := by
  unfold traceAs
  split <;> rfl
@[simp] theorem traceAs_ports (k q s m : Nat) (d : Desc) (f : Fab) : (traceAs k q s m d f).ports = f.ports := by
  unfold traceAs
  split <;> rfl
@[simp] theorem traceAs_queues (k q s m : Nat) (d : Desc) (f : Fab) : (traceAs k q s m d f).queues = f.queues := by
  unfold traceAs
  split <;> rfl
@[simp] theorem traceAs_fences (k q s m : Nat) (d : Desc) (f : Fab) : (traceAs k q s m d f).fences = f.fences := by
  unfold traceAs
  split <;> rfl
@[simp] theorem traceAs_stallBound (k q s m : Nat) (d : Desc) (f : Fab) : (traceAs k q s m d f).stallBound = f.stallBound := by
  unfold traceAs
  split <;> rfl
@[simp] theorem traceAs_fenceLimit (k q s m : Nat) (d : Desc) (f : Fab) : (traceAs k q s m d f).fenceLimit = f.fenceLimit := by
  unfold traceAs
  split <;> rfl
@[simp] theorem traceAs_epgroups (k q s m : Nat) (d : Desc) (f : Fab) : (traceAs k q s m d f).epgroups = f.epgroups := by
  unfold traceAs
  split <;> rfl
@[simp] theorem traceAs_clusters (k q s m : Nat) (d : Desc) (f : Fab) : (traceAs k q s m d f).clusters = f.clusters := by
  unfold traceAs
  split <;> rfl
@[simp] theorem traceAs_shown (k q s m : Nat) (d : Desc) (f : Fab) : (traceAs k q s m d f).shown = f.shown := by
  unfold traceAs
  split <;> rfl
@[simp] theorem traceAs_links (k q s m : Nat) (d : Desc) (f : Fab) : (traceAs k q s m d f).links = f.links := by
  unfold traceAs
  split <;> rfl
@[simp] theorem traceAs_lanes (k q s m : Nat) (d : Desc) (f : Fab) : (traceAs k q s m d f).lanes = f.lanes := by
  unfold traceAs
  split <;> rfl
@[simp] theorem traceAs_swapRx (k q s m : Nat) (d : Desc) (f : Fab) : (traceAs k q s m d f).swapRx = f.swapRx := by
  unfold traceAs
  split <;> rfl
@[simp] theorem traceAs_swapTx (k q s m : Nat) (d : Desc) (f : Fab) : (traceAs k q s m d f).swapTx = f.swapTx := by
  unfold traceAs
  split <;> rfl
@[simp] theorem traceAs_ibex (k q s m : Nat) (d : Desc) (f : Fab) : (traceAs k q s m d f).ibex = f.ibex := by
  unfold traceAs
  split <;> rfl
@[simp] theorem traceAs_cells (k q s m : Nat) (d : Desc) (f : Fab) : (traceAs k q s m d f).cells = f.cells := by
  unfold traceAs
  split <;> rfl
@[simp] theorem traceAs_pins (k q s m : Nat) (d : Desc) (f : Fab) : (traceAs k q s m d f).pins = f.pins := by
  unfold traceAs
  split <;> rfl
@[simp] theorem traceAs_isolated (k q s m : Nat) (d : Desc) (f : Fab) : (traceAs k q s m d f).isolated = f.isolated := by
  unfold traceAs
  split <;> rfl
@[simp] theorem traceAs_eyeWarn (k q s m : Nat) (d : Desc) (f : Fab) : (traceAs k q s m d f).eyeWarn = f.eyeWarn := by
  unfold traceAs
  split <;> rfl
@[simp] theorem traceAs_eyeSwap (k q s m : Nat) (d : Desc) (f : Fab) : (traceAs k q s m d f).eyeSwap = f.eyeSwap := by
  unfold traceAs
  split <;> rfl
@[simp] theorem traceAs_trainTimeout (k q s m : Nat) (d : Desc) (f : Fab) : (traceAs k q s m d f).trainTimeout = f.trainTimeout := by
  unfold traceAs
  split <;> rfl
@[simp] theorem traceAs_dom (k q s m : Nat) (d : Desc) (f : Fab) : (traceAs k q s m d f).dom = f.dom := by
  unfold traceAs
  split <;> rfl
@[simp] theorem traceAs_kports (k q s m : Nat) (d : Desc) (f : Fab) : (traceAs k q s m d f).kports = f.kports := by
  unfold traceAs
  split <;> rfl
@[simp] theorem traceAs_map (k q s m : Nat) (d : Desc) (f : Fab) : (traceAs k q s m d f).map = f.map := by
  unfold traceAs
  split <;> rfl
@[simp] theorem traceAs_integ (k q s m : Nat) (d : Desc) (f : Fab) : (traceAs k q s m d f).integ = f.integ := by
  unfold traceAs
  split <;> rfl
@[simp] theorem traceAs_lop (k q s m : Nat) (d : Desc) (f : Fab) : (traceAs k q s m d f).lop = f.lop := by
  unfold traceAs
  split <;> rfl
@[simp] theorem traceAs_bdp (k q s m : Nat) (d : Desc) (f : Fab) : (traceAs k q s m d f).bdp = f.bdp := by
  unfold traceAs
  split <;> rfl
@[simp] theorem traceAs_pwr (k q s m : Nat) (d : Desc) (f : Fab) : (traceAs k q s m d f).pwr = f.pwr := by
  unfold traceAs
  split <;> rfl
@[simp] theorem traceAs_start (k q s m : Nat) (d : Desc) (f : Fab) : (traceAs k q s m d f).start = f.start := by
  unfold traceAs
  split <;> rfl
@[simp] theorem traceAs_th (k q s m : Nat) (d : Desc) (f : Fab) : (traceAs k q s m d f).th = f.th := by
  unfold traceAs
  split <;> rfl
@[simp] theorem traceAs_img (k q s m : Nat) (d : Desc) (f : Fab) : (traceAs k q s m d f).img = f.img := by
  unfold traceAs
  split <;> rfl
@[simp] theorem traceAs_wir (k q s m : Nat) (d : Desc) (f : Fab) : (traceAs k q s m d f).wir = f.wir := by
  unfold traceAs
  split <;> rfl
@[simp] theorem traceAs_free (k q s m : Nat) (d : Desc) (f : Fab) : (traceAs k q s m d f).free = f.free := by
  unfold traceAs
  split <;> rfl
@[simp] theorem addFence_prm (i n r t : Nat) (f : Fab) : (addFence i n r t f).prm = f.prm := by
  unfold addFence
  dsimp only
  split <;> simp
@[simp] theorem addFence_store (i n r t : Nat) (f : Fab) : (addFence i n r t f).store = f.store := by
  unfold addFence
  dsimp only
  split <;> simp
@[simp] theorem addFence_ports (i n r t : Nat) (f : Fab) : (addFence i n r t f).ports = f.ports := by
  unfold addFence
  dsimp only
  split <;> simp
@[simp] theorem addFence_queues (i n r t : Nat) (f : Fab) : (addFence i n r t f).queues = f.queues := by
  unfold addFence
  dsimp only
  split <;> simp
@[simp] theorem addFence_stallBound (i n r t : Nat) (f : Fab) : (addFence i n r t f).stallBound = f.stallBound := by
  unfold addFence
  dsimp only
  split <;> simp
@[simp] theorem addFence_fenceLimit (i n r t : Nat) (f : Fab) : (addFence i n r t f).fenceLimit = f.fenceLimit := by
  unfold addFence
  dsimp only
  split <;> simp
@[simp] theorem addFence_epgroups (i n r t : Nat) (f : Fab) : (addFence i n r t f).epgroups = f.epgroups := by
  unfold addFence
  dsimp only
  split <;> simp
@[simp] theorem addFence_clusters (i n r t : Nat) (f : Fab) : (addFence i n r t f).clusters = f.clusters := by
  unfold addFence
  dsimp only
  split <;> simp
@[simp] theorem addFence_shown (i n r t : Nat) (f : Fab) : (addFence i n r t f).shown = f.shown := by
  unfold addFence
  dsimp only
  split <;> simp
@[simp] theorem addFence_links (i n r t : Nat) (f : Fab) : (addFence i n r t f).links = f.links := by
  unfold addFence
  dsimp only
  split <;> simp
@[simp] theorem addFence_lanes (i n r t : Nat) (f : Fab) : (addFence i n r t f).lanes = f.lanes := by
  unfold addFence
  dsimp only
  split <;> simp
@[simp] theorem addFence_swapRx (i n r t : Nat) (f : Fab) : (addFence i n r t f).swapRx = f.swapRx := by
  unfold addFence
  dsimp only
  split <;> simp
@[simp] theorem addFence_swapTx (i n r t : Nat) (f : Fab) : (addFence i n r t f).swapTx = f.swapTx := by
  unfold addFence
  dsimp only
  split <;> simp
@[simp] theorem addFence_ibex (i n r t : Nat) (f : Fab) : (addFence i n r t f).ibex = f.ibex := by
  unfold addFence
  dsimp only
  split <;> simp
@[simp] theorem addFence_cells (i n r t : Nat) (f : Fab) : (addFence i n r t f).cells = f.cells := by
  unfold addFence
  dsimp only
  split <;> simp
@[simp] theorem addFence_pins (i n r t : Nat) (f : Fab) : (addFence i n r t f).pins = f.pins := by
  unfold addFence
  dsimp only
  split <;> simp
@[simp] theorem addFence_isolated (i n r t : Nat) (f : Fab) : (addFence i n r t f).isolated = f.isolated := by
  unfold addFence
  dsimp only
  split <;> simp
@[simp] theorem addFence_eyeWarn (i n r t : Nat) (f : Fab) : (addFence i n r t f).eyeWarn = f.eyeWarn := by
  unfold addFence
  dsimp only
  split <;> simp
@[simp] theorem addFence_eyeSwap (i n r t : Nat) (f : Fab) : (addFence i n r t f).eyeSwap = f.eyeSwap := by
  unfold addFence
  dsimp only
  split <;> simp
@[simp] theorem addFence_trainTimeout (i n r t : Nat) (f : Fab) : (addFence i n r t f).trainTimeout = f.trainTimeout := by
  unfold addFence
  dsimp only
  split <;> simp
@[simp] theorem addFence_dom (i n r t : Nat) (f : Fab) : (addFence i n r t f).dom = f.dom := by
  unfold addFence
  dsimp only
  split <;> simp
@[simp] theorem addFence_kports (i n r t : Nat) (f : Fab) : (addFence i n r t f).kports = f.kports := by
  unfold addFence
  dsimp only
  split <;> simp
@[simp] theorem addFence_map (i n r t : Nat) (f : Fab) : (addFence i n r t f).map = f.map := by
  unfold addFence
  dsimp only
  split <;> simp
@[simp] theorem addFence_integ (i n r t : Nat) (f : Fab) : (addFence i n r t f).integ = f.integ := by
  unfold addFence
  dsimp only
  split <;> simp
@[simp] theorem addFence_lop (i n r t : Nat) (f : Fab) : (addFence i n r t f).lop = f.lop := by
  unfold addFence
  dsimp only
  split <;> simp
@[simp] theorem addFence_bdp (i n r t : Nat) (f : Fab) : (addFence i n r t f).bdp = f.bdp := by
  unfold addFence
  dsimp only
  split <;> simp
@[simp] theorem addFence_pwr (i n r t : Nat) (f : Fab) : (addFence i n r t f).pwr = f.pwr := by
  unfold addFence
  dsimp only
  split <;> simp
@[simp] theorem addFence_start (i n r t : Nat) (f : Fab) : (addFence i n r t f).start = f.start := by
  unfold addFence
  dsimp only
  split <;> simp
@[simp] theorem addFence_th (i n r t : Nat) (f : Fab) : (addFence i n r t f).th = f.th := by
  unfold addFence
  dsimp only
  split <;> simp
@[simp] theorem addFence_sec (i n r t : Nat) (f : Fab) : (addFence i n r t f).sec = f.sec := by
  unfold addFence
  dsimp only
  split <;> simp
@[simp] theorem addFence_img (i n r t : Nat) (f : Fab) : (addFence i n r t f).img = f.img := by
  unfold addFence
  dsimp only
  split <;> simp
@[simp] theorem addFence_wir (i n r t : Nat) (f : Fab) : (addFence i n r t f).wir = f.wir := by
  unfold addFence
  dsimp only
  split <;> simp
@[simp] theorem addFence_free (i n r t : Nat) (f : Fab) : (addFence i n r t f).free = f.free := by
  unfold addFence
  dsimp only
  split <;> simp
/-- The counter a fence addition leaves (R74): the sum, kept at 0xFFFF. -/
theorem addFence_fences (i n r t : Nat) (f : Fab) :
    (addFence i n r t f).fences = tset 0 f.fences i (BitVec.ofNat 16 (min 0xFFFF ((fenceOf f i).toNat + n))) := by
  unfold addFence
  dsimp only
  split
  · rw [raise_fences, Nat.min_eq_left (by omega)]
    rfl
  · rw [Nat.min_eq_right (by omega)]
    rfl

/-- A counter set reads its value. -/
theorem setCounter_self (f : Fab) (x y : Nat) (v : BitVec 64) : counterOf (setCounter f x y v).1 x y = v := by
  simp [counterOf, setCounter]

/-- A counter set leaves every other as it was. -/
theorem setCounter_ne (f : Fab) (x y : Nat) (v : BitVec 64) {a b : Nat} (h : cKey a b ≠ cKey x y) :
    counterOf (setCounter f x y v).1 a b = counterOf f a b := by
  simp [counterOf, setCounter, tget_tset_ne _ _ _ h]

theorem ringRecord_counter (f : Fab) (c : Nat) (r : BitVec 256) (a b : Nat) :
    counterOf (ringRecord f c r) a b = counterOf f a b := by
  unfold ringRecord
  split
  · dsimp only
    split <;> rfl
  · rfl

/-- Raising an event counts nothing but suppressed and lost events (R321, R324). -/
theorem raiseWith_counter (n c p : Nat) (h : Bool) (f : Fab) {a b : Nat} (h1 : cKey a b ≠ cKey 0x8400 0x1C)
    (h2 : cKey a b ≠ cKey 0x8400 0x1D) : counterOf (raiseWith n c p h f) a b = counterOf f a b := by
  induction n generalizing c p h f with
  | zero => rfl
  | succ n ih =>
    simp only [raiseWith]
    split
    · rfl
    · split
      · split
        · rw [ih]
          exact setCounter_ne f _ _ _ h1
        · exact setCounter_ne f _ _ _ h1
      · split
        · exact ringRecord_counter ..
        · split
          · rw [ih, setCounter_ne _ _ _ _ h2]
            exact ringRecord_counter ..
          · rw [setCounter_ne _ _ _ _ h2]
            exact ringRecord_counter ..

/-- A count adds to its counter (R290, R325). -/
theorem count_self (x y n : Nat) (f : Fab) (h1 : cKey x y ≠ cKey 0x8400 0x1C) (h2 : cKey x y ≠ cKey 0x8400 0x1D) :
    counterOf (count x y n f) x y = counterOf f x y + BitVec.ofNat 64 n := by
  unfold count
  split
  · rename_i h
    simp [h]
  · dsimp only
    split
    · rw [raise, raiseWith_counter _ _ _ _ _ h1 h2, setCounter_self]
    · rw [setCounter_self]

/-- A count leaves every other counter but those of events. -/
theorem count_ne (x y n : Nat) (f : Fab) {a b : Nat} (h : cKey a b ≠ cKey x y) (h1 : cKey a b ≠ cKey 0x8400 0x1C)
    (h2 : cKey a b ≠ cKey 0x8400 0x1D) : counterOf (count x y n f) a b = counterOf f a b := by
  unfold count
  split
  · rfl
  · dsimp only
    split
    · rw [raise, raiseWith_counter _ _ _ _ _ h1 h2, setCounter_ne _ _ _ _ h]
    · rw [setCounter_ne _ _ _ _ h]

end Sys2Proof.Machine
end

