-- ==== Sys2Proof/Laws/Frames.lean ====
section
/-!
SUPPORT. What the operations on the residency map, on a queue's intake and on a descriptor's resolution leave alone.
-/

namespace Sys2Proof.Machine

@[simp] theorem setMapCode_prm (i : Nat) (c : Code) (f : Fab) : (setMapCode i c f).prm = f.prm := rfl
@[simp] theorem setMapCode_store (i : Nat) (c : Code) (f : Fab) : (setMapCode i c f).store = f.store := rfl
@[simp] theorem setMapCode_ports (i : Nat) (c : Code) (f : Fab) : (setMapCode i c f).ports = f.ports := rfl
@[simp] theorem setMapCode_queues (i : Nat) (c : Code) (f : Fab) : (setMapCode i c f).queues = f.queues := rfl
@[simp] theorem setMapCode_fences (i : Nat) (c : Code) (f : Fab) : (setMapCode i c f).fences = f.fences := rfl
@[simp] theorem setMapCode_stallBound (i : Nat) (c : Code) (f : Fab) : (setMapCode i c f).stallBound = f.stallBound := rfl
@[simp] theorem setMapCode_fenceLimit (i : Nat) (c : Code) (f : Fab) : (setMapCode i c f).fenceLimit = f.fenceLimit := rfl
@[simp] theorem setMapCode_epgroups (i : Nat) (c : Code) (f : Fab) : (setMapCode i c f).epgroups = f.epgroups := rfl
@[simp] theorem setMapCode_clusters (i : Nat) (c : Code) (f : Fab) : (setMapCode i c f).clusters = f.clusters := rfl
@[simp] theorem setMapCode_shown (i : Nat) (c : Code) (f : Fab) : (setMapCode i c f).shown = f.shown := rfl
@[simp] theorem setMapCode_links (i : Nat) (c : Code) (f : Fab) : (setMapCode i c f).links = f.links := rfl
@[simp] theorem setMapCode_lanes (i : Nat) (c : Code) (f : Fab) : (setMapCode i c f).lanes = f.lanes := rfl
@[simp] theorem setMapCode_swapRx (i : Nat) (c : Code) (f : Fab) : (setMapCode i c f).swapRx = f.swapRx := rfl
@[simp] theorem setMapCode_swapTx (i : Nat) (c : Code) (f : Fab) : (setMapCode i c f).swapTx = f.swapTx := rfl
@[simp] theorem setMapCode_ibex (i : Nat) (c : Code) (f : Fab) : (setMapCode i c f).ibex = f.ibex := rfl
@[simp] theorem setMapCode_cells (i : Nat) (c : Code) (f : Fab) : (setMapCode i c f).cells = f.cells := rfl
@[simp] theorem setMapCode_pins (i : Nat) (c : Code) (f : Fab) : (setMapCode i c f).pins = f.pins := rfl
@[simp] theorem setMapCode_isolated (i : Nat) (c : Code) (f : Fab) : (setMapCode i c f).isolated = f.isolated := rfl
@[simp] theorem setMapCode_eyeWarn (i : Nat) (c : Code) (f : Fab) : (setMapCode i c f).eyeWarn = f.eyeWarn := rfl
@[simp] theorem setMapCode_eyeSwap (i : Nat) (c : Code) (f : Fab) : (setMapCode i c f).eyeSwap = f.eyeSwap := rfl
@[simp] theorem setMapCode_trainTimeout (i : Nat) (c : Code) (f : Fab) : (setMapCode i c f).trainTimeout = f.trainTimeout := rfl
@[simp] theorem setMapCode_dom (i : Nat) (c : Code) (f : Fab) : (setMapCode i c f).dom = f.dom := rfl
@[simp] theorem setMapCode_kports (i : Nat) (c : Code) (f : Fab) : (setMapCode i c f).kports = f.kports := rfl
@[simp] theorem setMapCode_integ (i : Nat) (c : Code) (f : Fab) : (setMapCode i c f).integ = f.integ := rfl
@[simp] theorem setMapCode_ev (i : Nat) (c : Code) (f : Fab) : (setMapCode i c f).ev = f.ev := rfl
@[simp] theorem setMapCode_cnt (i : Nat) (c : Code) (f : Fab) : (setMapCode i c f).cnt = f.cnt := rfl
@[simp] theorem setMapCode_lop (i : Nat) (c : Code) (f : Fab) : (setMapCode i c f).lop = f.lop := rfl
@[simp] theorem setMapCode_bdp (i : Nat) (c : Code) (f : Fab) : (setMapCode i c f).bdp = f.bdp := rfl
@[simp] theorem setMapCode_pwr (i : Nat) (c : Code) (f : Fab) : (setMapCode i c f).pwr = f.pwr := rfl
@[simp] theorem setMapCode_start (i : Nat) (c : Code) (f : Fab) : (setMapCode i c f).start = f.start := rfl
@[simp] theorem setMapCode_th (i : Nat) (c : Code) (f : Fab) : (setMapCode i c f).th = f.th := rfl
@[simp] theorem setMapCode_sec (i : Nat) (c : Code) (f : Fab) : (setMapCode i c f).sec = f.sec := rfl
@[simp] theorem setMapCode_img (i : Nat) (c : Code) (f : Fab) : (setMapCode i c f).img = f.img := rfl
@[simp] theorem setMapCode_wir (i : Nat) (c : Code) (f : Fab) : (setMapCode i c f).wir = f.wir := rfl
@[simp] theorem setMapCode_out (i : Nat) (c : Code) (f : Fab) : (setMapCode i c f).out = f.out := rfl
@[simp] theorem setMapCode_free (i : Nat) (c : Code) (f : Fab) : (setMapCode i c f).free = f.free := rfl
@[simp] theorem setMapCode_stamps (i : Nat) (c : Code) (f : Fab) : (setMapCode i c f).stamps = f.stamps := rfl
@[simp] theorem putEntry_prm (i : Nat) (e : BitVec 128) (f : Fab) : (putEntry i e f).prm = f.prm := setMapCode_prm ..
@[simp] theorem putEntry_store (i : Nat) (e : BitVec 128) (f : Fab) : (putEntry i e f).store = f.store := setMapCode_store ..
@[simp] theorem putEntry_ports (i : Nat) (e : BitVec 128) (f : Fab) : (putEntry i e f).ports = f.ports := setMapCode_ports ..
@[simp] theorem putEntry_queues (i : Nat) (e : BitVec 128) (f : Fab) : (putEntry i e f).queues = f.queues := setMapCode_queues ..
@[simp] theorem putEntry_fences (i : Nat) (e : BitVec 128) (f : Fab) : (putEntry i e f).fences = f.fences := setMapCode_fences ..
@[simp] theorem putEntry_stallBound (i : Nat) (e : BitVec 128) (f : Fab) : (putEntry i e f).stallBound = f.stallBound := setMapCode_stallBound ..
@[simp] theorem putEntry_fenceLimit (i : Nat) (e : BitVec 128) (f : Fab) : (putEntry i e f).fenceLimit = f.fenceLimit := setMapCode_fenceLimit ..
@[simp] theorem putEntry_epgroups (i : Nat) (e : BitVec 128) (f : Fab) : (putEntry i e f).epgroups = f.epgroups := setMapCode_epgroups ..
@[simp] theorem putEntry_clusters (i : Nat) (e : BitVec 128) (f : Fab) : (putEntry i e f).clusters = f.clusters := setMapCode_clusters ..
@[simp] theorem putEntry_shown (i : Nat) (e : BitVec 128) (f : Fab) : (putEntry i e f).shown = f.shown := setMapCode_shown ..
@[simp] theorem putEntry_links (i : Nat) (e : BitVec 128) (f : Fab) : (putEntry i e f).links = f.links := setMapCode_links ..
@[simp] theorem putEntry_lanes (i : Nat) (e : BitVec 128) (f : Fab) : (putEntry i e f).lanes = f.lanes := setMapCode_lanes ..
@[simp] theorem putEntry_swapRx (i : Nat) (e : BitVec 128) (f : Fab) : (putEntry i e f).swapRx = f.swapRx := setMapCode_swapRx ..
@[simp] theorem putEntry_swapTx (i : Nat) (e : BitVec 128) (f : Fab) : (putEntry i e f).swapTx = f.swapTx := setMapCode_swapTx ..
@[simp] theorem putEntry_ibex (i : Nat) (e : BitVec 128) (f : Fab) : (putEntry i e f).ibex = f.ibex := setMapCode_ibex ..
@[simp] theorem putEntry_cells (i : Nat) (e : BitVec 128) (f : Fab) : (putEntry i e f).cells = f.cells := setMapCode_cells ..
@[simp] theorem putEntry_pins (i : Nat) (e : BitVec 128) (f : Fab) : (putEntry i e f).pins = f.pins := setMapCode_pins ..
@[simp] theorem putEntry_isolated (i : Nat) (e : BitVec 128) (f : Fab) : (putEntry i e f).isolated = f.isolated := setMapCode_isolated ..
@[simp] theorem putEntry_eyeWarn (i : Nat) (e : BitVec 128) (f : Fab) : (putEntry i e f).eyeWarn = f.eyeWarn := setMapCode_eyeWarn ..
@[simp] theorem putEntry_eyeSwap (i : Nat) (e : BitVec 128) (f : Fab) : (putEntry i e f).eyeSwap = f.eyeSwap := setMapCode_eyeSwap ..
@[simp] theorem putEntry_trainTimeout (i : Nat) (e : BitVec 128) (f : Fab) : (putEntry i e f).trainTimeout = f.trainTimeout := setMapCode_trainTimeout ..
@[simp] theorem putEntry_dom (i : Nat) (e : BitVec 128) (f : Fab) : (putEntry i e f).dom = f.dom := setMapCode_dom ..
@[simp] theorem putEntry_kports (i : Nat) (e : BitVec 128) (f : Fab) : (putEntry i e f).kports = f.kports := setMapCode_kports ..
@[simp] theorem putEntry_integ (i : Nat) (e : BitVec 128) (f : Fab) : (putEntry i e f).integ = f.integ := setMapCode_integ ..
@[simp] theorem putEntry_ev (i : Nat) (e : BitVec 128) (f : Fab) : (putEntry i e f).ev = f.ev := setMapCode_ev ..
@[simp] theorem putEntry_cnt (i : Nat) (e : BitVec 128) (f : Fab) : (putEntry i e f).cnt = f.cnt := setMapCode_cnt ..
@[simp] theorem putEntry_lop (i : Nat) (e : BitVec 128) (f : Fab) : (putEntry i e f).lop = f.lop := setMapCode_lop ..
@[simp] theorem putEntry_bdp (i : Nat) (e : BitVec 128) (f : Fab) : (putEntry i e f).bdp = f.bdp := setMapCode_bdp ..
@[simp] theorem putEntry_pwr (i : Nat) (e : BitVec 128) (f : Fab) : (putEntry i e f).pwr = f.pwr := setMapCode_pwr ..
@[simp] theorem putEntry_start (i : Nat) (e : BitVec 128) (f : Fab) : (putEntry i e f).start = f.start := setMapCode_start ..
@[simp] theorem putEntry_th (i : Nat) (e : BitVec 128) (f : Fab) : (putEntry i e f).th = f.th := setMapCode_th ..
@[simp] theorem putEntry_sec (i : Nat) (e : BitVec 128) (f : Fab) : (putEntry i e f).sec = f.sec := setMapCode_sec ..
@[simp] theorem putEntry_img (i : Nat) (e : BitVec 128) (f : Fab) : (putEntry i e f).img = f.img := setMapCode_img ..
@[simp] theorem putEntry_wir (i : Nat) (e : BitVec 128) (f : Fab) : (putEntry i e f).wir = f.wir := setMapCode_wir ..
@[simp] theorem putEntry_out (i : Nat) (e : BitVec 128) (f : Fab) : (putEntry i e f).out = f.out := setMapCode_out ..
@[simp] theorem putEntry_free (i : Nat) (e : BitVec 128) (f : Fab) : (putEntry i e f).free = f.free := setMapCode_free ..
@[simp] theorem putEntry_stamps (i : Nat) (e : BitVec 128) (f : Fab) : (putEntry i e f).stamps = f.stamps := setMapCode_stamps ..
@[simp] theorem touchEntry_prm (i : Nat) (f : Fab) : (touchEntry i f).prm = f.prm := by
  unfold touchEntry
  simp only [countInst_prm, putEntry_prm]
@[simp] theorem touchEntry_store (i : Nat) (f : Fab) : (touchEntry i f).store = f.store := by
  unfold touchEntry
  simp only [countInst_store, putEntry_store]
@[simp] theorem touchEntry_ports (i : Nat) (f : Fab) : (touchEntry i f).ports = f.ports := by
  unfold touchEntry
  simp only [countInst_ports, putEntry_ports]
@[simp] theorem touchEntry_queues (i : Nat) (f : Fab) : (touchEntry i f).queues = f.queues := by
  unfold touchEntry
  simp only [countInst_queues, putEntry_queues]
@[simp] theorem touchEntry_fences (i : Nat) (f : Fab) : (touchEntry i f).fences = f.fences := by
  unfold touchEntry
  simp only [countInst_fences, putEntry_fences]
@[simp] theorem touchEntry_stallBound (i : Nat) (f : Fab) : (touchEntry i f).stallBound = f.stallBound := by
  unfold touchEntry
  simp only [countInst_stallBound, putEntry_stallBound]
@[simp] theorem touchEntry_fenceLimit (i : Nat) (f : Fab) : (touchEntry i f).fenceLimit = f.fenceLimit := by
  unfold touchEntry
  simp only [countInst_fenceLimit, putEntry_fenceLimit]
@[simp] theorem touchEntry_epgroups (i : Nat) (f : Fab) : (touchEntry i f).epgroups = f.epgroups := by
  unfold touchEntry
  simp only [countInst_epgroups, putEntry_epgroups]
@[simp] theorem touchEntry_clusters (i : Nat) (f : Fab) : (touchEntry i f).clusters = f.clusters := by
  unfold touchEntry
  simp only [countInst_clusters, putEntry_clusters]
@[simp] theorem touchEntry_shown (i : Nat) (f : Fab) : (touchEntry i f).shown = f.shown := by
  unfold touchEntry
  simp only [countInst_shown, putEntry_shown]
@[simp] theorem touchEntry_links (i : Nat) (f : Fab) : (touchEntry i f).links = f.links := by
  unfold touchEntry
  simp only [countInst_links, putEntry_links]
@[simp] theorem touchEntry_lanes (i : Nat) (f : Fab) : (touchEntry i f).lanes = f.lanes := by
  unfold touchEntry
  simp only [countInst_lanes, putEntry_lanes]
@[simp] theorem touchEntry_swapRx (i : Nat) (f : Fab) : (touchEntry i f).swapRx = f.swapRx := by
  unfold touchEntry
  simp only [countInst_swapRx, putEntry_swapRx]
@[simp] theorem touchEntry_swapTx (i : Nat) (f : Fab) : (touchEntry i f).swapTx = f.swapTx := by
  unfold touchEntry
  simp only [countInst_swapTx, putEntry_swapTx]
@[simp] theorem touchEntry_ibex (i : Nat) (f : Fab) : (touchEntry i f).ibex = f.ibex := by
  unfold touchEntry
  simp only [countInst_ibex, putEntry_ibex]
@[simp] theorem touchEntry_cells (i : Nat) (f : Fab) : (touchEntry i f).cells = f.cells := by
  unfold touchEntry
  simp only [countInst_cells, putEntry_cells]
@[simp] theorem touchEntry_pins (i : Nat) (f : Fab) : (touchEntry i f).pins = f.pins := by
  unfold touchEntry
  simp only [countInst_pins, putEntry_pins]
@[simp] theorem touchEntry_isolated (i : Nat) (f : Fab) : (touchEntry i f).isolated = f.isolated := by
  unfold touchEntry
  simp only [countInst_isolated, putEntry_isolated]
@[simp] theorem touchEntry_eyeWarn (i : Nat) (f : Fab) : (touchEntry i f).eyeWarn = f.eyeWarn := by
  unfold touchEntry
  simp only [countInst_eyeWarn, putEntry_eyeWarn]
@[simp] theorem touchEntry_eyeSwap (i : Nat) (f : Fab) : (touchEntry i f).eyeSwap = f.eyeSwap := by
  unfold touchEntry
  simp only [countInst_eyeSwap, putEntry_eyeSwap]
@[simp] theorem touchEntry_trainTimeout (i : Nat) (f : Fab) : (touchEntry i f).trainTimeout = f.trainTimeout := by
  unfold touchEntry
  simp only [countInst_trainTimeout, putEntry_trainTimeout]
@[simp] theorem touchEntry_dom (i : Nat) (f : Fab) : (touchEntry i f).dom = f.dom := by
  unfold touchEntry
  simp only [countInst_dom, putEntry_dom]
@[simp] theorem touchEntry_kports (i : Nat) (f : Fab) : (touchEntry i f).kports = f.kports := by
  unfold touchEntry
  simp only [countInst_kports, putEntry_kports]
@[simp] theorem touchEntry_integ (i : Nat) (f : Fab) : (touchEntry i f).integ = f.integ := by
  unfold touchEntry
  simp only [countInst_integ, putEntry_integ]
@[simp] theorem touchEntry_lop (i : Nat) (f : Fab) : (touchEntry i f).lop = f.lop := by
  unfold touchEntry
  simp only [countInst_lop, putEntry_lop]
@[simp] theorem touchEntry_bdp (i : Nat) (f : Fab) : (touchEntry i f).bdp = f.bdp := by
  unfold touchEntry
  simp only [countInst_bdp, putEntry_bdp]
@[simp] theorem touchEntry_pwr (i : Nat) (f : Fab) : (touchEntry i f).pwr = f.pwr := by
  unfold touchEntry
  simp only [countInst_pwr, putEntry_pwr]
@[simp] theorem touchEntry_start (i : Nat) (f : Fab) : (touchEntry i f).start = f.start := by
  unfold touchEntry
  simp only [countInst_start, putEntry_start]
@[simp] theorem touchEntry_th (i : Nat) (f : Fab) : (touchEntry i f).th = f.th := by
  unfold touchEntry
  simp only [countInst_th, putEntry_th]
@[simp] theorem touchEntry_sec (i : Nat) (f : Fab) : (touchEntry i f).sec = f.sec := by
  unfold touchEntry
  simp only [countInst_sec, putEntry_sec]
@[simp] theorem touchEntry_img (i : Nat) (f : Fab) : (touchEntry i f).img = f.img := by
  unfold touchEntry
  simp only [countInst_img, putEntry_img]
@[simp] theorem touchEntry_wir (i : Nat) (f : Fab) : (touchEntry i f).wir = f.wir := by
  unfold touchEntry
  simp only [countInst_wir, putEntry_wir]
@[simp] theorem touchEntry_free (i : Nat) (f : Fab) : (touchEntry i f).free = f.free := by
  unfold touchEntry
  simp only [countInst_free, putEntry_free]
@[simp] theorem touchBoth_prm (d : Desc) (f : Fab) : (touchBoth d f).prm = f.prm := by
  unfold touchBoth Machine.when
  split <;> split <;> simp only [touchEntry_prm]
@[simp] theorem touchBoth_store (d : Desc) (f : Fab) : (touchBoth d f).store = f.store := by
  unfold touchBoth Machine.when
  split <;> split <;> simp only [touchEntry_store]
@[simp] theorem touchBoth_ports (d : Desc) (f : Fab) : (touchBoth d f).ports = f.ports := by
  unfold touchBoth Machine.when
  split <;> split <;> simp only [touchEntry_ports]
@[simp] theorem touchBoth_queues (d : Desc) (f : Fab) : (touchBoth d f).queues = f.queues := by
  unfold touchBoth Machine.when
  split <;> split <;> simp only [touchEntry_queues]
@[simp] theorem touchBoth_fences (d : Desc) (f : Fab) : (touchBoth d f).fences = f.fences := by
  unfold touchBoth Machine.when
  split <;> split <;> simp only [touchEntry_fences]
@[simp] theorem touchBoth_stallBound (d : Desc) (f : Fab) : (touchBoth d f).stallBound = f.stallBound := by
  unfold touchBoth Machine.when
  split <;> split <;> simp only [touchEntry_stallBound]
@[simp] theorem touchBoth_fenceLimit (d : Desc) (f : Fab) : (touchBoth d f).fenceLimit = f.fenceLimit := by
  unfold touchBoth Machine.when
  split <;> split <;> simp only [touchEntry_fenceLimit]
@[simp] theorem touchBoth_epgroups (d : Desc) (f : Fab) : (touchBoth d f).epgroups = f.epgroups := by
  unfold touchBoth Machine.when
  split <;> split <;> simp only [touchEntry_epgroups]
@[simp] theorem touchBoth_clusters (d : Desc) (f : Fab) : (touchBoth d f).clusters = f.clusters := by
  unfold touchBoth Machine.when
  split <;> split <;> simp only [touchEntry_clusters]
@[simp] theorem touchBoth_shown (d : Desc) (f : Fab) : (touchBoth d f).shown = f.shown := by
  unfold touchBoth Machine.when
  split <;> split <;> simp only [touchEntry_shown]
@[simp] theorem touchBoth_links (d : Desc) (f : Fab) : (touchBoth d f).links = f.links := by
  unfold touchBoth Machine.when
  split <;> split <;> simp only [touchEntry_links]
@[simp] theorem touchBoth_lanes (d : Desc) (f : Fab) : (touchBoth d f).lanes = f.lanes := by
  unfold touchBoth Machine.when
  split <;> split <;> simp only [touchEntry_lanes]
@[simp] theorem touchBoth_swapRx (d : Desc) (f : Fab) : (touchBoth d f).swapRx = f.swapRx := by
  unfold touchBoth Machine.when
  split <;> split <;> simp only [touchEntry_swapRx]
@[simp] theorem touchBoth_swapTx (d : Desc) (f : Fab) : (touchBoth d f).swapTx = f.swapTx := by
  unfold touchBoth Machine.when
  split <;> split <;> simp only [touchEntry_swapTx]
@[simp] theorem touchBoth_ibex (d : Desc) (f : Fab) : (touchBoth d f).ibex = f.ibex := by
  unfold touchBoth Machine.when
  split <;> split <;> simp only [touchEntry_ibex]
@[simp] theorem touchBoth_cells (d : Desc) (f : Fab) : (touchBoth d f).cells = f.cells := by
  unfold touchBoth Machine.when
  split <;> split <;> simp only [touchEntry_cells]
@[simp] theorem touchBoth_pins (d : Desc) (f : Fab) : (touchBoth d f).pins = f.pins := by
  unfold touchBoth Machine.when
  split <;> split <;> simp only [touchEntry_pins]
@[simp] theorem touchBoth_isolated (d : Desc) (f : Fab) : (touchBoth d f).isolated = f.isolated := by
  unfold touchBoth Machine.when
  split <;> split <;> simp only [touchEntry_isolated]
@[simp] theorem touchBoth_eyeWarn (d : Desc) (f : Fab) : (touchBoth d f).eyeWarn = f.eyeWarn := by
  unfold touchBoth Machine.when
  split <;> split <;> simp only [touchEntry_eyeWarn]
@[simp] theorem touchBoth_eyeSwap (d : Desc) (f : Fab) : (touchBoth d f).eyeSwap = f.eyeSwap := by
  unfold touchBoth Machine.when
  split <;> split <;> simp only [touchEntry_eyeSwap]
@[simp] theorem touchBoth_trainTimeout (d : Desc) (f : Fab) : (touchBoth d f).trainTimeout = f.trainTimeout := by
  unfold touchBoth Machine.when
  split <;> split <;> simp only [touchEntry_trainTimeout]
@[simp] theorem touchBoth_dom (d : Desc) (f : Fab) : (touchBoth d f).dom = f.dom := by
  unfold touchBoth Machine.when
  split <;> split <;> simp only [touchEntry_dom]
@[simp] theorem touchBoth_kports (d : Desc) (f : Fab) : (touchBoth d f).kports = f.kports := by
  unfold touchBoth Machine.when
  split <;> split <;> simp only [touchEntry_kports]
@[simp] theorem touchBoth_integ (d : Desc) (f : Fab) : (touchBoth d f).integ = f.integ := by
  unfold touchBoth Machine.when
  split <;> split <;> simp only [touchEntry_integ]
@[simp] theorem touchBoth_lop (d : Desc) (f : Fab) : (touchBoth d f).lop = f.lop := by
  unfold touchBoth Machine.when
  split <;> split <;> simp only [touchEntry_lop]
@[simp] theorem touchBoth_bdp (d : Desc) (f : Fab) : (touchBoth d f).bdp = f.bdp := by
  unfold touchBoth Machine.when
  split <;> split <;> simp only [touchEntry_bdp]
@[simp] theorem touchBoth_pwr (d : Desc) (f : Fab) : (touchBoth d f).pwr = f.pwr := by
  unfold touchBoth Machine.when
  split <;> split <;> simp only [touchEntry_pwr]
@[simp] theorem touchBoth_start (d : Desc) (f : Fab) : (touchBoth d f).start = f.start := by
  unfold touchBoth Machine.when
  split <;> split <;> simp only [touchEntry_start]
@[simp] theorem touchBoth_th (d : Desc) (f : Fab) : (touchBoth d f).th = f.th := by
  unfold touchBoth Machine.when
  split <;> split <;> simp only [touchEntry_th]
@[simp] theorem touchBoth_sec (d : Desc) (f : Fab) : (touchBoth d f).sec = f.sec := by
  unfold touchBoth Machine.when
  split <;> split <;> simp only [touchEntry_sec]
@[simp] theorem touchBoth_img (d : Desc) (f : Fab) : (touchBoth d f).img = f.img := by
  unfold touchBoth Machine.when
  split <;> split <;> simp only [touchEntry_img]
@[simp] theorem touchBoth_wir (d : Desc) (f : Fab) : (touchBoth d f).wir = f.wir := by
  unfold touchBoth Machine.when
  split <;> split <;> simp only [touchEntry_wir]
@[simp] theorem touchBoth_free (d : Desc) (f : Fab) : (touchBoth d f).free = f.free := by
  unfold touchBoth Machine.when
  split <;> split <;> simp only [touchEntry_free]
@[simp] theorem injFired_prm  (f : Fab) : (injFired f).prm = f.prm := rfl
@[simp] theorem injFired_store  (f : Fab) : (injFired f).store = f.store := rfl
@[simp] theorem injFired_ports  (f : Fab) : (injFired f).ports = f.ports := rfl
@[simp] theorem injFired_queues  (f : Fab) : (injFired f).queues = f.queues := rfl
@[simp] theorem injFired_fences  (f : Fab) : (injFired f).fences = f.fences := rfl
@[simp] theorem injFired_stallBound  (f : Fab) : (injFired f).stallBound = f.stallBound := rfl
@[simp] theorem injFired_fenceLimit  (f : Fab) : (injFired f).fenceLimit = f.fenceLimit := rfl
@[simp] theorem injFired_epgroups  (f : Fab) : (injFired f).epgroups = f.epgroups := rfl
@[simp] theorem injFired_clusters  (f : Fab) : (injFired f).clusters = f.clusters := rfl
@[simp] theorem injFired_shown  (f : Fab) : (injFired f).shown = f.shown := rfl
@[simp] theorem injFired_links  (f : Fab) : (injFired f).links = f.links := rfl
@[simp] theorem injFired_lanes  (f : Fab) : (injFired f).lanes = f.lanes := rfl
@[simp] theorem injFired_swapRx  (f : Fab) : (injFired f).swapRx = f.swapRx := rfl
@[simp] theorem injFired_swapTx  (f : Fab) : (injFired f).swapTx = f.swapTx := rfl
@[simp] theorem injFired_ibex  (f : Fab) : (injFired f).ibex = f.ibex := rfl
@[simp] theorem injFired_cells  (f : Fab) : (injFired f).cells = f.cells := rfl
@[simp] theorem injFired_pins  (f : Fab) : (injFired f).pins = f.pins := rfl
@[simp] theorem injFired_isolated  (f : Fab) : (injFired f).isolated = f.isolated := rfl
@[simp] theorem injFired_eyeWarn  (f : Fab) : (injFired f).eyeWarn = f.eyeWarn := rfl
@[simp] theorem injFired_eyeSwap  (f : Fab) : (injFired f).eyeSwap = f.eyeSwap := rfl
@[simp] theorem injFired_trainTimeout  (f : Fab) : (injFired f).trainTimeout = f.trainTimeout := rfl
@[simp] theorem injFired_dom  (f : Fab) : (injFired f).dom = f.dom := rfl
@[simp] theorem injFired_kports  (f : Fab) : (injFired f).kports = f.kports := rfl
@[simp] theorem injFired_map  (f : Fab) : (injFired f).map = f.map := rfl
@[simp] theorem injFired_integ  (f : Fab) : (injFired f).integ = f.integ := rfl
@[simp] theorem injFired_ev  (f : Fab) : (injFired f).ev = f.ev := rfl
@[simp] theorem injFired_cnt  (f : Fab) : (injFired f).cnt = f.cnt := rfl
@[simp] theorem injFired_lop  (f : Fab) : (injFired f).lop = f.lop := rfl
@[simp] theorem injFired_bdp  (f : Fab) : (injFired f).bdp = f.bdp := rfl
@[simp] theorem injFired_pwr  (f : Fab) : (injFired f).pwr = f.pwr := rfl
@[simp] theorem injFired_start  (f : Fab) : (injFired f).start = f.start := rfl
@[simp] theorem injFired_th  (f : Fab) : (injFired f).th = f.th := rfl
@[simp] theorem injFired_img  (f : Fab) : (injFired f).img = f.img := rfl
@[simp] theorem injFired_wir  (f : Fab) : (injFired f).wir = f.wir := rfl
@[simp] theorem injFired_out  (f : Fab) : (injFired f).out = f.out := rfl
@[simp] theorem injFired_free  (f : Fab) : (injFired f).free = f.free := rfl
@[simp] theorem injFired_stamps  (f : Fab) : (injFired f).stamps = f.stamps := rfl
@[simp] theorem readEntry_prm (i : Nat) (f : Fab) : (readEntry i f).2.prm = f.prm := by
  unfold readEntry Machine.when
  dsimp only
  split <;> split <;> simp only [injFired_prm, putEntry_prm, countInst_prm, raiseWith_prm]
@[simp] theorem readEntry_store (i : Nat) (f : Fab) : (readEntry i f).2.store = f.store := by
  unfold readEntry Machine.when
  dsimp only
  split <;> split <;> simp only [injFired_store, putEntry_store, countInst_store, raiseWith_store]
@[simp] theorem readEntry_ports (i : Nat) (f : Fab) : (readEntry i f).2.ports = f.ports := by
  unfold readEntry Machine.when
  dsimp only
  split <;> split <;> simp only [injFired_ports, putEntry_ports, countInst_ports, raiseWith_ports]
@[simp] theorem readEntry_queues (i : Nat) (f : Fab) : (readEntry i f).2.queues = f.queues := by
  unfold readEntry Machine.when
  dsimp only
  split <;> split <;> simp only [injFired_queues, putEntry_queues, countInst_queues, raiseWith_queues]
@[simp] theorem readEntry_fences (i : Nat) (f : Fab) : (readEntry i f).2.fences = f.fences := by
  unfold readEntry Machine.when
  dsimp only
  split <;> split <;> simp only [injFired_fences, putEntry_fences, countInst_fences, raiseWith_fences]
@[simp] theorem readEntry_stallBound (i : Nat) (f : Fab) : (readEntry i f).2.stallBound = f.stallBound := by
  unfold readEntry Machine.when
  dsimp only
  split <;> split <;> simp only [injFired_stallBound, putEntry_stallBound, countInst_stallBound, raiseWith_stallBound]
@[simp] theorem readEntry_fenceLimit (i : Nat) (f : Fab) : (readEntry i f).2.fenceLimit = f.fenceLimit := by
  unfold readEntry Machine.when
  dsimp only
  split <;> split <;> simp only [injFired_fenceLimit, putEntry_fenceLimit, countInst_fenceLimit, raiseWith_fenceLimit]
@[simp] theorem readEntry_epgroups (i : Nat) (f : Fab) : (readEntry i f).2.epgroups = f.epgroups := by
  unfold readEntry Machine.when
  dsimp only
  split <;> split <;> simp only [injFired_epgroups, putEntry_epgroups, countInst_epgroups, raiseWith_epgroups]
@[simp] theorem readEntry_clusters (i : Nat) (f : Fab) : (readEntry i f).2.clusters = f.clusters := by
  unfold readEntry Machine.when
  dsimp only
  split <;> split <;> simp only [injFired_clusters, putEntry_clusters, countInst_clusters, raiseWith_clusters]
@[simp] theorem readEntry_shown (i : Nat) (f : Fab) : (readEntry i f).2.shown = f.shown := by
  unfold readEntry Machine.when
  dsimp only
  split <;> split <;> simp only [injFired_shown, putEntry_shown, countInst_shown, raiseWith_shown]
@[simp] theorem readEntry_links (i : Nat) (f : Fab) : (readEntry i f).2.links = f.links := by
  unfold readEntry Machine.when
  dsimp only
  split <;> split <;> simp only [injFired_links, putEntry_links, countInst_links, raiseWith_links]
@[simp] theorem readEntry_lanes (i : Nat) (f : Fab) : (readEntry i f).2.lanes = f.lanes := by
  unfold readEntry Machine.when
  dsimp only
  split <;> split <;> simp only [injFired_lanes, putEntry_lanes, countInst_lanes, raiseWith_lanes]
@[simp] theorem readEntry_swapRx (i : Nat) (f : Fab) : (readEntry i f).2.swapRx = f.swapRx := by
  unfold readEntry Machine.when
  dsimp only
  split <;> split <;> simp only [injFired_swapRx, putEntry_swapRx, countInst_swapRx, raiseWith_swapRx]
@[simp] theorem readEntry_swapTx (i : Nat) (f : Fab) : (readEntry i f).2.swapTx = f.swapTx := by
  unfold readEntry Machine.when
  dsimp only
  split <;> split <;> simp only [injFired_swapTx, putEntry_swapTx, countInst_swapTx, raiseWith_swapTx]
@[simp] theorem readEntry_ibex (i : Nat) (f : Fab) : (readEntry i f).2.ibex = f.ibex := by
  unfold readEntry Machine.when
  dsimp only
  split <;> split <;> simp only [injFired_ibex, putEntry_ibex, countInst_ibex, raiseWith_ibex]
@[simp] theorem readEntry_cells (i : Nat) (f : Fab) : (readEntry i f).2.cells = f.cells := by
  unfold readEntry Machine.when
  dsimp only
  split <;> split <;> simp only [injFired_cells, putEntry_cells, countInst_cells, raiseWith_cells]
@[simp] theorem readEntry_pins (i : Nat) (f : Fab) : (readEntry i f).2.pins = f.pins := by
  unfold readEntry Machine.when
  dsimp only
  split <;> split <;> simp only [injFired_pins, putEntry_pins, countInst_pins, raiseWith_pins]
@[simp] theorem readEntry_isolated (i : Nat) (f : Fab) : (readEntry i f).2.isolated = f.isolated := by
  unfold readEntry Machine.when
  dsimp only
  split <;> split <;> simp only [injFired_isolated, putEntry_isolated, countInst_isolated, raiseWith_isolated]
@[simp] theorem readEntry_eyeWarn (i : Nat) (f : Fab) : (readEntry i f).2.eyeWarn = f.eyeWarn := by
  unfold readEntry Machine.when
  dsimp only
  split <;> split <;> simp only [injFired_eyeWarn, putEntry_eyeWarn, countInst_eyeWarn, raiseWith_eyeWarn]
@[simp] theorem readEntry_eyeSwap (i : Nat) (f : Fab) : (readEntry i f).2.eyeSwap = f.eyeSwap := by
  unfold readEntry Machine.when
  dsimp only
  split <;> split <;> simp only [injFired_eyeSwap, putEntry_eyeSwap, countInst_eyeSwap, raiseWith_eyeSwap]
@[simp] theorem readEntry_trainTimeout (i : Nat) (f : Fab) : (readEntry i f).2.trainTimeout = f.trainTimeout := by
  unfold readEntry Machine.when
  dsimp only
  split <;> split <;> simp only [injFired_trainTimeout, putEntry_trainTimeout, countInst_trainTimeout, raiseWith_trainTimeout]
@[simp] theorem readEntry_dom (i : Nat) (f : Fab) : (readEntry i f).2.dom = f.dom := by
  unfold readEntry Machine.when
  dsimp only
  split <;> split <;> simp only [injFired_dom, putEntry_dom, countInst_dom, raiseWith_dom]
@[simp] theorem readEntry_kports (i : Nat) (f : Fab) : (readEntry i f).2.kports = f.kports := by
  unfold readEntry Machine.when
  dsimp only
  split <;> split <;> simp only [injFired_kports, putEntry_kports, countInst_kports, raiseWith_kports]
@[simp] theorem readEntry_integ (i : Nat) (f : Fab) : (readEntry i f).2.integ = f.integ := by
  unfold readEntry Machine.when
  dsimp only
  split <;> split <;> simp only [injFired_integ, putEntry_integ, countInst_integ, raiseWith_integ]
@[simp] theorem readEntry_lop (i : Nat) (f : Fab) : (readEntry i f).2.lop = f.lop := by
  unfold readEntry Machine.when
  dsimp only
  split <;> split <;> simp only [injFired_lop, putEntry_lop, countInst_lop, raiseWith_lop]
@[simp] theorem readEntry_bdp (i : Nat) (f : Fab) : (readEntry i f).2.bdp = f.bdp := by
  unfold readEntry Machine.when
  dsimp only
  split <;> split <;> simp only [injFired_bdp, putEntry_bdp, countInst_bdp, raiseWith_bdp]
@[simp] theorem readEntry_pwr (i : Nat) (f : Fab) : (readEntry i f).2.pwr = f.pwr := by
  unfold readEntry Machine.when
  dsimp only
  split <;> split <;> simp only [injFired_pwr, putEntry_pwr, countInst_pwr, raiseWith_pwr]
@[simp] theorem readEntry_start (i : Nat) (f : Fab) : (readEntry i f).2.start = f.start := by
  unfold readEntry Machine.when
  dsimp only
  split <;> split <;> simp only [injFired_start, putEntry_start, countInst_start, raiseWith_start]
@[simp] theorem readEntry_th (i : Nat) (f : Fab) : (readEntry i f).2.th = f.th := by
  unfold readEntry Machine.when
  dsimp only
  split <;> split <;> simp only [injFired_th, putEntry_th, countInst_th, raiseWith_th]
@[simp] theorem readEntry_img (i : Nat) (f : Fab) : (readEntry i f).2.img = f.img := by
  unfold readEntry Machine.when
  dsimp only
  split <;> split <;> simp only [injFired_img, putEntry_img, countInst_img, raiseWith_img]
@[simp] theorem readEntry_wir (i : Nat) (f : Fab) : (readEntry i f).2.wir = f.wir := by
  unfold readEntry Machine.when
  dsimp only
  split <;> split <;> simp only [injFired_wir, putEntry_wir, countInst_wir, raiseWith_wir]
@[simp] theorem readEntry_free (i : Nat) (f : Fab) : (readEntry i f).2.free = f.free := by
  unfold readEntry Machine.when
  dsimp only
  split <;> split <;> simp only [injFired_free, putEntry_free, countInst_free, raiseWith_free]
@[simp] theorem resolveOne_prm (b : Bool) (d : Desc) (o : BitVec 64) (f : Fab) : (resolveOne b d o f).2.prm = f.prm := by
  unfold resolveOne
  split <;> dsimp only
  split <;> simp only [readEntry_prm]
@[simp] theorem resolveOne_store (b : Bool) (d : Desc) (o : BitVec 64) (f : Fab) : (resolveOne b d o f).2.store = f.store := by
  unfold resolveOne
  split <;> dsimp only
  split <;> simp only [readEntry_store]
@[simp] theorem resolveOne_ports (b : Bool) (d : Desc) (o : BitVec 64) (f : Fab) : (resolveOne b d o f).2.ports = f.ports := by
  unfold resolveOne
  split <;> dsimp only
  split <;> simp only [readEntry_ports]
@[simp] theorem resolveOne_queues (b : Bool) (d : Desc) (o : BitVec 64) (f : Fab) : (resolveOne b d o f).2.queues = f.queues := by
  unfold resolveOne
  split <;> dsimp only
  split <;> simp only [readEntry_queues]
@[simp] theorem resolveOne_fences (b : Bool) (d : Desc) (o : BitVec 64) (f : Fab) : (resolveOne b d o f).2.fences = f.fences := by
  unfold resolveOne
  split <;> dsimp only
  split <;> simp only [readEntry_fences]
@[simp] theorem resolveOne_stallBound (b : Bool) (d : Desc) (o : BitVec 64) (f : Fab) : (resolveOne b d o f).2.stallBound = f.stallBound := by
  unfold resolveOne
  split <;> dsimp only
  split <;> simp only [readEntry_stallBound]
@[simp] theorem resolveOne_fenceLimit (b : Bool) (d : Desc) (o : BitVec 64) (f : Fab) : (resolveOne b d o f).2.fenceLimit = f.fenceLimit := by
  unfold resolveOne
  split <;> dsimp only
  split <;> simp only [readEntry_fenceLimit]
@[simp] theorem resolveOne_epgroups (b : Bool) (d : Desc) (o : BitVec 64) (f : Fab) : (resolveOne b d o f).2.epgroups = f.epgroups := by
  unfold resolveOne
  split <;> dsimp only
  split <;> simp only [readEntry_epgroups]
@[simp] theorem resolveOne_clusters (b : Bool) (d : Desc) (o : BitVec 64) (f : Fab) : (resolveOne b d o f).2.clusters = f.clusters := by
  unfold resolveOne
  split <;> dsimp only
  split <;> simp only [readEntry_clusters]
@[simp] theorem resolveOne_shown (b : Bool) (d : Desc) (o : BitVec 64) (f : Fab) : (resolveOne b d o f).2.shown = f.shown := by
  unfold resolveOne
  split <;> dsimp only
  split <;> simp only [readEntry_shown]
@[simp] theorem resolveOne_links (b : Bool) (d : Desc) (o : BitVec 64) (f : Fab) : (resolveOne b d o f).2.links = f.links := by
  unfold resolveOne
  split <;> dsimp only
  split <;> simp only [readEntry_links]
@[simp] theorem resolveOne_lanes (b : Bool) (d : Desc) (o : BitVec 64) (f : Fab) : (resolveOne b d o f).2.lanes = f.lanes := by
  unfold resolveOne
  split <;> dsimp only
  split <;> simp only [readEntry_lanes]
@[simp] theorem resolveOne_swapRx (b : Bool) (d : Desc) (o : BitVec 64) (f : Fab) : (resolveOne b d o f).2.swapRx = f.swapRx := by
  unfold resolveOne
  split <;> dsimp only
  split <;> simp only [readEntry_swapRx]
@[simp] theorem resolveOne_swapTx (b : Bool) (d : Desc) (o : BitVec 64) (f : Fab) : (resolveOne b d o f).2.swapTx = f.swapTx := by
  unfold resolveOne
  split <;> dsimp only
  split <;> simp only [readEntry_swapTx]
@[simp] theorem resolveOne_ibex (b : Bool) (d : Desc) (o : BitVec 64) (f : Fab) : (resolveOne b d o f).2.ibex = f.ibex := by
  unfold resolveOne
  split <;> dsimp only
  split <;> simp only [readEntry_ibex]
@[simp] theorem resolveOne_cells (b : Bool) (d : Desc) (o : BitVec 64) (f : Fab) : (resolveOne b d o f).2.cells = f.cells := by
  unfold resolveOne
  split <;> dsimp only
  split <;> simp only [readEntry_cells]
@[simp] theorem resolveOne_pins (b : Bool) (d : Desc) (o : BitVec 64) (f : Fab) : (resolveOne b d o f).2.pins = f.pins := by
  unfold resolveOne
  split <;> dsimp only
  split <;> simp only [readEntry_pins]
@[simp] theorem resolveOne_isolated (b : Bool) (d : Desc) (o : BitVec 64) (f : Fab) : (resolveOne b d o f).2.isolated = f.isolated := by
  unfold resolveOne
  split <;> dsimp only
  split <;> simp only [readEntry_isolated]
@[simp] theorem resolveOne_eyeWarn (b : Bool) (d : Desc) (o : BitVec 64) (f : Fab) : (resolveOne b d o f).2.eyeWarn = f.eyeWarn := by
  unfold resolveOne
  split <;> dsimp only
  split <;> simp only [readEntry_eyeWarn]
@[simp] theorem resolveOne_eyeSwap (b : Bool) (d : Desc) (o : BitVec 64) (f : Fab) : (resolveOne b d o f).2.eyeSwap = f.eyeSwap := by
  unfold resolveOne
  split <;> dsimp only
  split <;> simp only [readEntry_eyeSwap]
@[simp] theorem resolveOne_trainTimeout (b : Bool) (d : Desc) (o : BitVec 64) (f : Fab) : (resolveOne b d o f).2.trainTimeout = f.trainTimeout := by
  unfold resolveOne
  split <;> dsimp only
  split <;> simp only [readEntry_trainTimeout]
@[simp] theorem resolveOne_dom (b : Bool) (d : Desc) (o : BitVec 64) (f : Fab) : (resolveOne b d o f).2.dom = f.dom := by
  unfold resolveOne
  split <;> dsimp only
  split <;> simp only [readEntry_dom]
@[simp] theorem resolveOne_kports (b : Bool) (d : Desc) (o : BitVec 64) (f : Fab) : (resolveOne b d o f).2.kports = f.kports := by
  unfold resolveOne
  split <;> dsimp only
  split <;> simp only [readEntry_kports]
@[simp] theorem resolveOne_integ (b : Bool) (d : Desc) (o : BitVec 64) (f : Fab) : (resolveOne b d o f).2.integ = f.integ := by
  unfold resolveOne
  split <;> dsimp only
  split <;> simp only [readEntry_integ]
@[simp] theorem resolveOne_lop (b : Bool) (d : Desc) (o : BitVec 64) (f : Fab) : (resolveOne b d o f).2.lop = f.lop := by
  unfold resolveOne
  split <;> dsimp only
  split <;> simp only [readEntry_lop]
@[simp] theorem resolveOne_bdp (b : Bool) (d : Desc) (o : BitVec 64) (f : Fab) : (resolveOne b d o f).2.bdp = f.bdp := by
  unfold resolveOne
  split <;> dsimp only
  split <;> simp only [readEntry_bdp]
@[simp] theorem resolveOne_pwr (b : Bool) (d : Desc) (o : BitVec 64) (f : Fab) : (resolveOne b d o f).2.pwr = f.pwr := by
  unfold resolveOne
  split <;> dsimp only
  split <;> simp only [readEntry_pwr]
@[simp] theorem resolveOne_start (b : Bool) (d : Desc) (o : BitVec 64) (f : Fab) : (resolveOne b d o f).2.start = f.start := by
  unfold resolveOne
  split <;> dsimp only
  split <;> simp only [readEntry_start]
@[simp] theorem resolveOne_th (b : Bool) (d : Desc) (o : BitVec 64) (f : Fab) : (resolveOne b d o f).2.th = f.th := by
  unfold resolveOne
  split <;> dsimp only
  split <;> simp only [readEntry_th]
@[simp] theorem resolveOne_img (b : Bool) (d : Desc) (o : BitVec 64) (f : Fab) : (resolveOne b d o f).2.img = f.img := by
  unfold resolveOne
  split <;> dsimp only
  split <;> simp only [readEntry_img]
@[simp] theorem resolveOne_wir (b : Bool) (d : Desc) (o : BitVec 64) (f : Fab) : (resolveOne b d o f).2.wir = f.wir := by
  unfold resolveOne
  split <;> dsimp only
  split <;> simp only [readEntry_wir]
@[simp] theorem resolveOne_free (b : Bool) (d : Desc) (o : BitVec 64) (f : Fab) : (resolveOne b d o f).2.free = f.free := by
  unfold resolveOne
  split <;> dsimp only
  split <;> simp only [readEntry_free]
@[simp] theorem resolveBoth_prm (d : Desc) (f : Fab) : (resolveBoth d f).2.prm = f.prm := by
  unfold resolveBoth
  dsimp only
  split <;> simp only [countInst_prm, resolveOne_prm]
@[simp] theorem resolveBoth_store (d : Desc) (f : Fab) : (resolveBoth d f).2.store = f.store := by
  unfold resolveBoth
  dsimp only
  split <;> simp only [countInst_store, resolveOne_store]
@[simp] theorem resolveBoth_ports (d : Desc) (f : Fab) : (resolveBoth d f).2.ports = f.ports := by
  unfold resolveBoth
  dsimp only
  split <;> simp only [countInst_ports, resolveOne_ports]
@[simp] theorem resolveBoth_queues (d : Desc) (f : Fab) : (resolveBoth d f).2.queues = f.queues := by
  unfold resolveBoth
  dsimp only
  split <;> simp only [countInst_queues, resolveOne_queues]
@[simp] theorem resolveBoth_fences (d : Desc) (f : Fab) : (resolveBoth d f).2.fences = f.fences := by
  unfold resolveBoth
  dsimp only
  split <;> simp only [countInst_fences, resolveOne_fences]
@[simp] theorem resolveBoth_stallBound (d : Desc) (f : Fab) : (resolveBoth d f).2.stallBound = f.stallBound := by
  unfold resolveBoth
  dsimp only
  split <;> simp only [countInst_stallBound, resolveOne_stallBound]
@[simp] theorem resolveBoth_fenceLimit (d : Desc) (f : Fab) : (resolveBoth d f).2.fenceLimit = f.fenceLimit := by
  unfold resolveBoth
  dsimp only
  split <;> simp only [countInst_fenceLimit, resolveOne_fenceLimit]
@[simp] theorem resolveBoth_epgroups (d : Desc) (f : Fab) : (resolveBoth d f).2.epgroups = f.epgroups := by
  unfold resolveBoth
  dsimp only
  split <;> simp only [countInst_epgroups, resolveOne_epgroups]
@[simp] theorem resolveBoth_clusters (d : Desc) (f : Fab) : (resolveBoth d f).2.clusters = f.clusters := by
  unfold resolveBoth
  dsimp only
  split <;> simp only [countInst_clusters, resolveOne_clusters]
@[simp] theorem resolveBoth_shown (d : Desc) (f : Fab) : (resolveBoth d f).2.shown = f.shown := by
  unfold resolveBoth
  dsimp only
  split <;> simp only [countInst_shown, resolveOne_shown]
@[simp] theorem resolveBoth_links (d : Desc) (f : Fab) : (resolveBoth d f).2.links = f.links := by
  unfold resolveBoth
  dsimp only
  split <;> simp only [countInst_links, resolveOne_links]
@[simp] theorem resolveBoth_lanes (d : Desc) (f : Fab) : (resolveBoth d f).2.lanes = f.lanes := by
  unfold resolveBoth
  dsimp only
  split <;> simp only [countInst_lanes, resolveOne_lanes]
@[simp] theorem resolveBoth_swapRx (d : Desc) (f : Fab) : (resolveBoth d f).2.swapRx = f.swapRx := by
  unfold resolveBoth
  dsimp only
  split <;> simp only [countInst_swapRx, resolveOne_swapRx]
@[simp] theorem resolveBoth_swapTx (d : Desc) (f : Fab) : (resolveBoth d f).2.swapTx = f.swapTx := by
  unfold resolveBoth
  dsimp only
  split <;> simp only [countInst_swapTx, resolveOne_swapTx]
@[simp] theorem resolveBoth_ibex (d : Desc) (f : Fab) : (resolveBoth d f).2.ibex = f.ibex := by
  unfold resolveBoth
  dsimp only
  split <;> simp only [countInst_ibex, resolveOne_ibex]
@[simp] theorem resolveBoth_cells (d : Desc) (f : Fab) : (resolveBoth d f).2.cells = f.cells := by
  unfold resolveBoth
  dsimp only
  split <;> simp only [countInst_cells, resolveOne_cells]
@[simp] theorem resolveBoth_pins (d : Desc) (f : Fab) : (resolveBoth d f).2.pins = f.pins := by
  unfold resolveBoth
  dsimp only
  split <;> simp only [countInst_pins, resolveOne_pins]
@[simp] theorem resolveBoth_isolated (d : Desc) (f : Fab) : (resolveBoth d f).2.isolated = f.isolated := by
  unfold resolveBoth
  dsimp only
  split <;> simp only [countInst_isolated, resolveOne_isolated]
@[simp] theorem resolveBoth_eyeWarn (d : Desc) (f : Fab) : (resolveBoth d f).2.eyeWarn = f.eyeWarn := by
  unfold resolveBoth
  dsimp only
  split <;> simp only [countInst_eyeWarn, resolveOne_eyeWarn]
@[simp] theorem resolveBoth_eyeSwap (d : Desc) (f : Fab) : (resolveBoth d f).2.eyeSwap = f.eyeSwap := by
  unfold resolveBoth
  dsimp only
  split <;> simp only [countInst_eyeSwap, resolveOne_eyeSwap]
@[simp] theorem resolveBoth_trainTimeout (d : Desc) (f : Fab) : (resolveBoth d f).2.trainTimeout = f.trainTimeout := by
  unfold resolveBoth
  dsimp only
  split <;> simp only [countInst_trainTimeout, resolveOne_trainTimeout]
@[simp] theorem resolveBoth_dom (d : Desc) (f : Fab) : (resolveBoth d f).2.dom = f.dom := by
  unfold resolveBoth
  dsimp only
  split <;> simp only [countInst_dom, resolveOne_dom]
@[simp] theorem resolveBoth_kports (d : Desc) (f : Fab) : (resolveBoth d f).2.kports = f.kports := by
  unfold resolveBoth
  dsimp only
  split <;> simp only [countInst_kports, resolveOne_kports]
@[simp] theorem resolveBoth_integ (d : Desc) (f : Fab) : (resolveBoth d f).2.integ = f.integ := by
  unfold resolveBoth
  dsimp only
  split <;> simp only [countInst_integ, resolveOne_integ]
@[simp] theorem resolveBoth_lop (d : Desc) (f : Fab) : (resolveBoth d f).2.lop = f.lop := by
  unfold resolveBoth
  dsimp only
  split <;> simp only [countInst_lop, resolveOne_lop]
@[simp] theorem resolveBoth_bdp (d : Desc) (f : Fab) : (resolveBoth d f).2.bdp = f.bdp := by
  unfold resolveBoth
  dsimp only
  split <;> simp only [countInst_bdp, resolveOne_bdp]
@[simp] theorem resolveBoth_pwr (d : Desc) (f : Fab) : (resolveBoth d f).2.pwr = f.pwr := by
  unfold resolveBoth
  dsimp only
  split <;> simp only [countInst_pwr, resolveOne_pwr]
@[simp] theorem resolveBoth_start (d : Desc) (f : Fab) : (resolveBoth d f).2.start = f.start := by
  unfold resolveBoth
  dsimp only
  split <;> simp only [countInst_start, resolveOne_start]
@[simp] theorem resolveBoth_th (d : Desc) (f : Fab) : (resolveBoth d f).2.th = f.th := by
  unfold resolveBoth
  dsimp only
  split <;> simp only [countInst_th, resolveOne_th]
@[simp] theorem resolveBoth_img (d : Desc) (f : Fab) : (resolveBoth d f).2.img = f.img := by
  unfold resolveBoth
  dsimp only
  split <;> simp only [countInst_img, resolveOne_img]
@[simp] theorem resolveBoth_wir (d : Desc) (f : Fab) : (resolveBoth d f).2.wir = f.wir := by
  unfold resolveBoth
  dsimp only
  split <;> simp only [countInst_wir, resolveOne_wir]
@[simp] theorem resolveBoth_free (d : Desc) (f : Fab) : (resolveBoth d f).2.free = f.free := by
  unfold resolveBoth
  dsimp only
  split <;> simp only [countInst_free, resolveOne_free]
@[simp] theorem creditQueue_prm (q : Nat) (f : Fab) : (creditQueue q f).prm = f.prm := by
  unfold creditQueue
  dsimp only
  split <;> simp only [emit_prm, onQueue_prm]
@[simp] theorem creditQueue_store (q : Nat) (f : Fab) : (creditQueue q f).store = f.store := by
  unfold creditQueue
  dsimp only
  split <;> simp only [emit_store, onQueue_store]
@[simp] theorem creditQueue_ports (q : Nat) (f : Fab) : (creditQueue q f).ports = f.ports := by
  unfold creditQueue
  dsimp only
  split <;> simp only [emit_ports, onQueue_ports]
@[simp] theorem creditQueue_fences (q : Nat) (f : Fab) : (creditQueue q f).fences = f.fences := by
  unfold creditQueue
  dsimp only
  split <;> simp only [emit_fences, onQueue_fences]
@[simp] theorem creditQueue_stallBound (q : Nat) (f : Fab) : (creditQueue q f).stallBound = f.stallBound := by
  unfold creditQueue
  dsimp only
  split <;> simp only [emit_stallBound, onQueue_stallBound]
@[simp] theorem creditQueue_fenceLimit (q : Nat) (f : Fab) : (creditQueue q f).fenceLimit = f.fenceLimit := by
  unfold creditQueue
  dsimp only
  split <;> simp only [emit_fenceLimit, onQueue_fenceLimit]
@[simp] theorem creditQueue_epgroups (q : Nat) (f : Fab) : (creditQueue q f).epgroups = f.epgroups := by
  unfold creditQueue
  dsimp only
  split <;> simp only [emit_epgroups, onQueue_epgroups]
@[simp] theorem creditQueue_clusters (q : Nat) (f : Fab) : (creditQueue q f).clusters = f.clusters := by
  unfold creditQueue
  dsimp only
  split <;> simp only [emit_clusters, onQueue_clusters]
@[simp] theorem creditQueue_shown (q : Nat) (f : Fab) : (creditQueue q f).shown = f.shown := by
  unfold creditQueue
  dsimp only
  split <;> simp only [emit_shown, onQueue_shown]
@[simp] theorem creditQueue_links (q : Nat) (f : Fab) : (creditQueue q f).links = f.links := by
  unfold creditQueue
  dsimp only
  split <;> simp only [emit_links, onQueue_links]
@[simp] theorem creditQueue_lanes (q : Nat) (f : Fab) : (creditQueue q f).lanes = f.lanes := by
  unfold creditQueue
  dsimp only
  split <;> simp only [emit_lanes, onQueue_lanes]
@[simp] theorem creditQueue_swapRx (q : Nat) (f : Fab) : (creditQueue q f).swapRx = f.swapRx := by
  unfold creditQueue
  dsimp only
  split <;> simp only [emit_swapRx, onQueue_swapRx]
@[simp] theorem creditQueue_swapTx (q : Nat) (f : Fab) : (creditQueue q f).swapTx = f.swapTx := by
  unfold creditQueue
  dsimp only
  split <;> simp only [emit_swapTx, onQueue_swapTx]
@[simp] theorem creditQueue_ibex (q : Nat) (f : Fab) : (creditQueue q f).ibex = f.ibex := by
  unfold creditQueue
  dsimp only
  split <;> simp only [emit_ibex, onQueue_ibex]
@[simp] theorem creditQueue_cells (q : Nat) (f : Fab) : (creditQueue q f).cells = f.cells := by
  unfold creditQueue
  dsimp only
  split <;> simp only [emit_cells, onQueue_cells]
@[simp] theorem creditQueue_pins (q : Nat) (f : Fab) : (creditQueue q f).pins = f.pins := by
  unfold creditQueue
  dsimp only
  split <;> simp only [emit_pins, onQueue_pins]
@[simp] theorem creditQueue_isolated (q : Nat) (f : Fab) : (creditQueue q f).isolated = f.isolated := by
  unfold creditQueue
  dsimp only
  split <;> simp only [emit_isolated, onQueue_isolated]
@[simp] theorem creditQueue_eyeWarn (q : Nat) (f : Fab) : (creditQueue q f).eyeWarn = f.eyeWarn := by
  unfold creditQueue
  dsimp only
  split <;> simp only [emit_eyeWarn, onQueue_eyeWarn]
@[simp] theorem creditQueue_eyeSwap (q : Nat) (f : Fab) : (creditQueue q f).eyeSwap = f.eyeSwap := by
  unfold creditQueue
  dsimp only
  split <;> simp only [emit_eyeSwap, onQueue_eyeSwap]
@[simp] theorem creditQueue_trainTimeout (q : Nat) (f : Fab) : (creditQueue q f).trainTimeout = f.trainTimeout := by
  unfold creditQueue
  dsimp only
  split <;> simp only [emit_trainTimeout, onQueue_trainTimeout]
@[simp] theorem creditQueue_dom (q : Nat) (f : Fab) : (creditQueue q f).dom = f.dom := by
  unfold creditQueue
  dsimp only
  split <;> simp only [emit_dom, onQueue_dom]
@[simp] theorem creditQueue_kports (q : Nat) (f : Fab) : (creditQueue q f).kports = f.kports := by
  unfold creditQueue
  dsimp only
  split <;> simp only [emit_kports, onQueue_kports]
@[simp] theorem creditQueue_map (q : Nat) (f : Fab) : (creditQueue q f).map = f.map := by
  unfold creditQueue
  dsimp only
  split <;> simp only [emit_map, onQueue_map]
@[simp] theorem creditQueue_integ (q : Nat) (f : Fab) : (creditQueue q f).integ = f.integ := by
  unfold creditQueue
  dsimp only
  split <;> simp only [emit_integ, onQueue_integ]
@[simp] theorem creditQueue_ev (q : Nat) (f : Fab) : (creditQueue q f).ev = f.ev := by
  unfold creditQueue
  dsimp only
  split <;> simp only [emit_ev, onQueue_ev]
@[simp] theorem creditQueue_cnt (q : Nat) (f : Fab) : (creditQueue q f).cnt = f.cnt := by
  unfold creditQueue
  dsimp only
  split <;> simp only [emit_cnt, onQueue_cnt]
@[simp] theorem creditQueue_lop (q : Nat) (f : Fab) : (creditQueue q f).lop = f.lop := by
  unfold creditQueue
  dsimp only
  split <;> simp only [emit_lop, onQueue_lop]
@[simp] theorem creditQueue_bdp (q : Nat) (f : Fab) : (creditQueue q f).bdp = f.bdp := by
  unfold creditQueue
  dsimp only
  split <;> simp only [emit_bdp, onQueue_bdp]
@[simp] theorem creditQueue_pwr (q : Nat) (f : Fab) : (creditQueue q f).pwr = f.pwr := by
  unfold creditQueue
  dsimp only
  split <;> simp only [emit_pwr, onQueue_pwr]
@[simp] theorem creditQueue_start (q : Nat) (f : Fab) : (creditQueue q f).start = f.start := by
  unfold creditQueue
  dsimp only
  split <;> simp only [emit_start, onQueue_start]
@[simp] theorem creditQueue_th (q : Nat) (f : Fab) : (creditQueue q f).th = f.th := by
  unfold creditQueue
  dsimp only
  split <;> simp only [emit_th, onQueue_th]
@[simp] theorem creditQueue_sec (q : Nat) (f : Fab) : (creditQueue q f).sec = f.sec := by
  unfold creditQueue
  dsimp only
  split <;> simp only [emit_sec, onQueue_sec]
@[simp] theorem creditQueue_img (q : Nat) (f : Fab) : (creditQueue q f).img = f.img := by
  unfold creditQueue
  dsimp only
  split <;> simp only [emit_img, onQueue_img]
@[simp] theorem creditQueue_wir (q : Nat) (f : Fab) : (creditQueue q f).wir = f.wir := by
  unfold creditQueue
  dsimp only
  split <;> simp only [emit_wir, onQueue_wir]
@[simp] theorem creditQueue_free (q : Nat) (f : Fab) : (creditQueue q f).free = f.free := by
  unfold creditQueue
  dsimp only
  split <;> simp only [emit_free, onQueue_free]
@[simp] theorem creditQueue_stamps (q : Nat) (f : Fab) : (creditQueue q f).stamps = f.stamps := by
  unfold creditQueue
  dsimp only
  split <;> simp only [emit_stamps, onQueue_stamps]
@[simp] theorem takeHead_prm (q : Nat) (f : Fab) : (takeHead q f).prm = f.prm := by
  unfold takeHead
  split <;> simp only [creditQueue_prm, onQueue_prm]
@[simp] theorem takeHead_store (q : Nat) (f : Fab) : (takeHead q f).store = f.store := by
  unfold takeHead
  split <;> simp only [creditQueue_store, onQueue_store]
@[simp] theorem takeHead_ports (q : Nat) (f : Fab) : (takeHead q f).ports = f.ports := by
  unfold takeHead
  split <;> simp only [creditQueue_ports, onQueue_ports]
@[simp] theorem takeHead_fences (q : Nat) (f : Fab) : (takeHead q f).fences = f.fences := by
  unfold takeHead
  split <;> simp only [creditQueue_fences, onQueue_fences]
@[simp] theorem takeHead_stallBound (q : Nat) (f : Fab) : (takeHead q f).stallBound = f.stallBound := by
  unfold takeHead
  split <;> simp only [creditQueue_stallBound, onQueue_stallBound]
@[simp] theorem takeHead_fenceLimit (q : Nat) (f : Fab) : (takeHead q f).fenceLimit = f.fenceLimit := by
  unfold takeHead
  split <;> simp only [creditQueue_fenceLimit, onQueue_fenceLimit]
@[simp] theorem takeHead_epgroups (q : Nat) (f : Fab) : (takeHead q f).epgroups = f.epgroups := by
  unfold takeHead
  split <;> simp only [creditQueue_epgroups, onQueue_epgroups]
@[simp] theorem takeHead_clusters (q : Nat) (f : Fab) : (takeHead q f).clusters = f.clusters := by
  unfold takeHead
  split <;> simp only [creditQueue_clusters, onQueue_clusters]
@[simp] theorem takeHead_shown (q : Nat) (f : Fab) : (takeHead q f).shown = f.shown := by
  unfold takeHead
  split <;> simp only [creditQueue_shown, onQueue_shown]
@[simp] theorem takeHead_links (q : Nat) (f : Fab) : (takeHead q f).links = f.links := by
  unfold takeHead
  split <;> simp only [creditQueue_links, onQueue_links]
@[simp] theorem takeHead_lanes (q : Nat) (f : Fab) : (takeHead q f).lanes = f.lanes := by
  unfold takeHead
  split <;> simp only [creditQueue_lanes, onQueue_lanes]
@[simp] theorem takeHead_swapRx (q : Nat) (f : Fab) : (takeHead q f).swapRx = f.swapRx := by
  unfold takeHead
  split <;> simp only [creditQueue_swapRx, onQueue_swapRx]
@[simp] theorem takeHead_swapTx (q : Nat) (f : Fab) : (takeHead q f).swapTx = f.swapTx := by
  unfold takeHead
  split <;> simp only [creditQueue_swapTx, onQueue_swapTx]
@[simp] theorem takeHead_ibex (q : Nat) (f : Fab) : (takeHead q f).ibex = f.ibex := by
  unfold takeHead
  split <;> simp only [creditQueue_ibex, onQueue_ibex]
@[simp] theorem takeHead_cells (q : Nat) (f : Fab) : (takeHead q f).cells = f.cells := by
  unfold takeHead
  split <;> simp only [creditQueue_cells, onQueue_cells]
@[simp] theorem takeHead_pins (q : Nat) (f : Fab) : (takeHead q f).pins = f.pins := by
  unfold takeHead
  split <;> simp only [creditQueue_pins, onQueue_pins]
@[simp] theorem takeHead_isolated (q : Nat) (f : Fab) : (takeHead q f).isolated = f.isolated := by
  unfold takeHead
  split <;> simp only [creditQueue_isolated, onQueue_isolated]
@[simp] theorem takeHead_eyeWarn (q : Nat) (f : Fab) : (takeHead q f).eyeWarn = f.eyeWarn := by
  unfold takeHead
  split <;> simp only [creditQueue_eyeWarn, onQueue_eyeWarn]
@[simp] theorem takeHead_eyeSwap (q : Nat) (f : Fab) : (takeHead q f).eyeSwap = f.eyeSwap := by
  unfold takeHead
  split <;> simp only [creditQueue_eyeSwap, onQueue_eyeSwap]
@[simp] theorem takeHead_trainTimeout (q : Nat) (f : Fab) : (takeHead q f).trainTimeout = f.trainTimeout := by
  unfold takeHead
  split <;> simp only [creditQueue_trainTimeout, onQueue_trainTimeout]
@[simp] theorem takeHead_dom (q : Nat) (f : Fab) : (takeHead q f).dom = f.dom := by
  unfold takeHead
  split <;> simp only [creditQueue_dom, onQueue_dom]
@[simp] theorem takeHead_kports (q : Nat) (f : Fab) : (takeHead q f).kports = f.kports := by
  unfold takeHead
  split <;> simp only [creditQueue_kports, onQueue_kports]
@[simp] theorem takeHead_map (q : Nat) (f : Fab) : (takeHead q f).map = f.map := by
  unfold takeHead
  split <;> simp only [creditQueue_map, onQueue_map]
@[simp] theorem takeHead_integ (q : Nat) (f : Fab) : (takeHead q f).integ = f.integ := by
  unfold takeHead
  split <;> simp only [creditQueue_integ, onQueue_integ]
@[simp] theorem takeHead_ev (q : Nat) (f : Fab) : (takeHead q f).ev = f.ev := by
  unfold takeHead
  split <;> simp only [creditQueue_ev, onQueue_ev]
@[simp] theorem takeHead_cnt (q : Nat) (f : Fab) : (takeHead q f).cnt = f.cnt := by
  unfold takeHead
  split <;> simp only [creditQueue_cnt, onQueue_cnt]
@[simp] theorem takeHead_lop (q : Nat) (f : Fab) : (takeHead q f).lop = f.lop := by
  unfold takeHead
  split <;> simp only [creditQueue_lop, onQueue_lop]
@[simp] theorem takeHead_bdp (q : Nat) (f : Fab) : (takeHead q f).bdp = f.bdp := by
  unfold takeHead
  split <;> simp only [creditQueue_bdp, onQueue_bdp]
@[simp] theorem takeHead_pwr (q : Nat) (f : Fab) : (takeHead q f).pwr = f.pwr := by
  unfold takeHead
  split <;> simp only [creditQueue_pwr, onQueue_pwr]
@[simp] theorem takeHead_start (q : Nat) (f : Fab) : (takeHead q f).start = f.start := by
  unfold takeHead
  split <;> simp only [creditQueue_start, onQueue_start]
@[simp] theorem takeHead_th (q : Nat) (f : Fab) : (takeHead q f).th = f.th := by
  unfold takeHead
  split <;> simp only [creditQueue_th, onQueue_th]
@[simp] theorem takeHead_sec (q : Nat) (f : Fab) : (takeHead q f).sec = f.sec := by
  unfold takeHead
  split <;> simp only [creditQueue_sec, onQueue_sec]
@[simp] theorem takeHead_img (q : Nat) (f : Fab) : (takeHead q f).img = f.img := by
  unfold takeHead
  split <;> simp only [creditQueue_img, onQueue_img]
@[simp] theorem takeHead_wir (q : Nat) (f : Fab) : (takeHead q f).wir = f.wir := by
  unfold takeHead
  split <;> simp only [creditQueue_wir, onQueue_wir]
@[simp] theorem takeHead_free (q : Nat) (f : Fab) : (takeHead q f).free = f.free := by
  unfold takeHead
  split <;> simp only [creditQueue_free, onQueue_free]
@[simp] theorem takeHead_stamps (q : Nat) (f : Fab) : (takeHead q f).stamps = f.stamps := by
  unfold takeHead
  split <;> simp only [creditQueue_stamps, onQueue_stamps]
@[simp] theorem countIssue_prm (q : Nat) (f : Fab) : (countIssue q f).prm = f.prm := by
  unfold countIssue
  split <;> rfl
@[simp] theorem countIssue_store (q : Nat) (f : Fab) : (countIssue q f).store = f.store := by
  unfold countIssue
  split <;> rfl
@[simp] theorem countIssue_ports (q : Nat) (f : Fab) : (countIssue q f).ports = f.ports := by
  unfold countIssue
  split <;> rfl
@[simp] theorem countIssue_queues (q : Nat) (f : Fab) : (countIssue q f).queues = f.queues := by
  unfold countIssue
  split <;> rfl
@[simp] theorem countIssue_fences (q : Nat) (f : Fab) : (countIssue q f).fences = f.fences := by
  unfold countIssue
  split <;> rfl
@[simp] theorem countIssue_stallBound (q : Nat) (f : Fab) : (countIssue q f).stallBound = f.stallBound := by
  unfold countIssue
  split <;> rfl
@[simp] theorem countIssue_fenceLimit (q : Nat) (f : Fab) : (countIssue q f).fenceLimit = f.fenceLimit := by
  unfold countIssue
  split <;> rfl
@[simp] theorem countIssue_epgroups (q : Nat) (f : Fab) : (countIssue q f).epgroups = f.epgroups := by
  unfold countIssue
  split <;> rfl
@[simp] theorem countIssue_clusters (q : Nat) (f : Fab) : (countIssue q f).clusters = f.clusters := by
  unfold countIssue
  split <;> rfl
@[simp] theorem countIssue_shown (q : Nat) (f : Fab) : (countIssue q f).shown = f.shown := by
  unfold countIssue
  split <;> rfl
@[simp] theorem countIssue_links (q : Nat) (f : Fab) : (countIssue q f).links = f.links := by
  unfold countIssue
  split <;> rfl
@[simp] theorem countIssue_lanes (q : Nat) (f : Fab) : (countIssue q f).lanes = f.lanes := by
  unfold countIssue
  split <;> rfl
@[simp] theorem countIssue_swapRx (q : Nat) (f : Fab) : (countIssue q f).swapRx = f.swapRx := by
  unfold countIssue
  split <;> rfl
@[simp] theorem countIssue_swapTx (q : Nat) (f : Fab) : (countIssue q f).swapTx = f.swapTx := by
  unfold countIssue
  split <;> rfl
@[simp] theorem countIssue_ibex (q : Nat) (f : Fab) : (countIssue q f).ibex = f.ibex := by
  unfold countIssue
  split <;> rfl
@[simp] theorem countIssue_cells (q : Nat) (f : Fab) : (countIssue q f).cells = f.cells := by
  unfold countIssue
  split <;> rfl
@[simp] theorem countIssue_pins (q : Nat) (f : Fab) : (countIssue q f).pins = f.pins := by
  unfold countIssue
  split <;> rfl
@[simp] theorem countIssue_isolated (q : Nat) (f : Fab) : (countIssue q f).isolated = f.isolated := by
  unfold countIssue
  split <;> rfl
@[simp] theorem countIssue_eyeWarn (q : Nat) (f : Fab) : (countIssue q f).eyeWarn = f.eyeWarn := by
  unfold countIssue
  split <;> rfl
@[simp] theorem countIssue_eyeSwap (q : Nat) (f : Fab) : (countIssue q f).eyeSwap = f.eyeSwap := by
  unfold countIssue
  split <;> rfl
@[simp] theorem countIssue_trainTimeout (q : Nat) (f : Fab) : (countIssue q f).trainTimeout = f.trainTimeout := by
  unfold countIssue
  split <;> rfl
@[simp] theorem countIssue_kports (q : Nat) (f : Fab) : (countIssue q f).kports = f.kports := by
  unfold countIssue
  split <;> rfl
@[simp] theorem countIssue_map (q : Nat) (f : Fab) : (countIssue q f).map = f.map := by
  unfold countIssue
  split <;> rfl
@[simp] theorem countIssue_integ (q : Nat) (f : Fab) : (countIssue q f).integ = f.integ := by
  unfold countIssue
  split <;> rfl
@[simp] theorem countIssue_ev (q : Nat) (f : Fab) : (countIssue q f).ev = f.ev := by
  unfold countIssue
  split <;> rfl
@[simp] theorem countIssue_cnt (q : Nat) (f : Fab) : (countIssue q f).cnt = f.cnt := by
  unfold countIssue
  split <;> rfl
@[simp] theorem countIssue_lop (q : Nat) (f : Fab) : (countIssue q f).lop = f.lop := by
  unfold countIssue
  split <;> rfl
@[simp] theorem countIssue_bdp (q : Nat) (f : Fab) : (countIssue q f).bdp = f.bdp := by
  unfold countIssue
  split <;> rfl
@[simp] theorem countIssue_pwr (q : Nat) (f : Fab) : (countIssue q f).pwr = f.pwr := by
  unfold countIssue
  split <;> rfl
@[simp] theorem countIssue_start (q : Nat) (f : Fab) : (countIssue q f).start = f.start := by
  unfold countIssue
  split <;> rfl
@[simp] theorem countIssue_th (q : Nat) (f : Fab) : (countIssue q f).th = f.th := by
  unfold countIssue
  split <;> rfl
@[simp] theorem countIssue_sec (q : Nat) (f : Fab) : (countIssue q f).sec = f.sec := by
  unfold countIssue
  split <;> rfl
@[simp] theorem countIssue_img (q : Nat) (f : Fab) : (countIssue q f).img = f.img := by
  unfold countIssue
  split <;> rfl
@[simp] theorem countIssue_wir (q : Nat) (f : Fab) : (countIssue q f).wir = f.wir := by
  unfold countIssue
  split <;> rfl
@[simp] theorem countIssue_out (q : Nat) (f : Fab) : (countIssue q f).out = f.out := by
  unfold countIssue
  split <;> rfl
@[simp] theorem countIssue_free (q : Nat) (f : Fab) : (countIssue q f).free = f.free := by
  unfold countIssue
  split <;> rfl
@[simp] theorem countIssue_stamps (q : Nat) (f : Fab) : (countIssue q f).stamps = f.stamps := by
  unfold countIssue
  split <;> rfl
@[simp] theorem joinFlight_prm (q : Nat) (x : Flight) (f : Fab) : (joinFlight q x f).prm = f.prm := rfl
@[simp] theorem joinFlight_store (q : Nat) (x : Flight) (f : Fab) : (joinFlight q x f).store = f.store := rfl
@[simp] theorem joinFlight_ports (q : Nat) (x : Flight) (f : Fab) : (joinFlight q x f).ports = f.ports := rfl
@[simp] theorem joinFlight_fences (q : Nat) (x : Flight) (f : Fab) : (joinFlight q x f).fences = f.fences := rfl
@[simp] theorem joinFlight_stallBound (q : Nat) (x : Flight) (f : Fab) : (joinFlight q x f).stallBound = f.stallBound := rfl
@[simp] theorem joinFlight_fenceLimit (q : Nat) (x : Flight) (f : Fab) : (joinFlight q x f).fenceLimit = f.fenceLimit := rfl
@[simp] theorem joinFlight_epgroups (q : Nat) (x : Flight) (f : Fab) : (joinFlight q x f).epgroups = f.epgroups := rfl
@[simp] theorem joinFlight_clusters (q : Nat) (x : Flight) (f : Fab) : (joinFlight q x f).clusters = f.clusters := rfl
@[simp] theorem joinFlight_shown (q : Nat) (x : Flight) (f : Fab) : (joinFlight q x f).shown = f.shown := rfl
@[simp] theorem joinFlight_links (q : Nat) (x : Flight) (f : Fab) : (joinFlight q x f).links = f.links := rfl
@[simp] theorem joinFlight_lanes (q : Nat) (x : Flight) (f : Fab) : (joinFlight q x f).lanes = f.lanes := rfl
@[simp] theorem joinFlight_swapRx (q : Nat) (x : Flight) (f : Fab) : (joinFlight q x f).swapRx = f.swapRx := rfl
@[simp] theorem joinFlight_swapTx (q : Nat) (x : Flight) (f : Fab) : (joinFlight q x f).swapTx = f.swapTx := rfl
@[simp] theorem joinFlight_ibex (q : Nat) (x : Flight) (f : Fab) : (joinFlight q x f).ibex = f.ibex := rfl
@[simp] theorem joinFlight_cells (q : Nat) (x : Flight) (f : Fab) : (joinFlight q x f).cells = f.cells := rfl
@[simp] theorem joinFlight_pins (q : Nat) (x : Flight) (f : Fab) : (joinFlight q x f).pins = f.pins := rfl
@[simp] theorem joinFlight_isolated (q : Nat) (x : Flight) (f : Fab) : (joinFlight q x f).isolated = f.isolated := rfl
@[simp] theorem joinFlight_eyeWarn (q : Nat) (x : Flight) (f : Fab) : (joinFlight q x f).eyeWarn = f.eyeWarn := rfl
@[simp] theorem joinFlight_eyeSwap (q : Nat) (x : Flight) (f : Fab) : (joinFlight q x f).eyeSwap = f.eyeSwap := rfl
@[simp] theorem joinFlight_trainTimeout (q : Nat) (x : Flight) (f : Fab) : (joinFlight q x f).trainTimeout = f.trainTimeout := rfl
@[simp] theorem joinFlight_dom (q : Nat) (x : Flight) (f : Fab) : (joinFlight q x f).dom = f.dom := rfl
@[simp] theorem joinFlight_kports (q : Nat) (x : Flight) (f : Fab) : (joinFlight q x f).kports = f.kports := rfl
@[simp] theorem joinFlight_map (q : Nat) (x : Flight) (f : Fab) : (joinFlight q x f).map = f.map := rfl
@[simp] theorem joinFlight_integ (q : Nat) (x : Flight) (f : Fab) : (joinFlight q x f).integ = f.integ := rfl
@[simp] theorem joinFlight_ev (q : Nat) (x : Flight) (f : Fab) : (joinFlight q x f).ev = f.ev := rfl
@[simp] theorem joinFlight_cnt (q : Nat) (x : Flight) (f : Fab) : (joinFlight q x f).cnt = f.cnt := rfl
@[simp] theorem joinFlight_lop (q : Nat) (x : Flight) (f : Fab) : (joinFlight q x f).lop = f.lop := rfl
@[simp] theorem joinFlight_bdp (q : Nat) (x : Flight) (f : Fab) : (joinFlight q x f).bdp = f.bdp := rfl
@[simp] theorem joinFlight_pwr (q : Nat) (x : Flight) (f : Fab) : (joinFlight q x f).pwr = f.pwr := rfl
@[simp] theorem joinFlight_start (q : Nat) (x : Flight) (f : Fab) : (joinFlight q x f).start = f.start := rfl
@[simp] theorem joinFlight_th (q : Nat) (x : Flight) (f : Fab) : (joinFlight q x f).th = f.th := rfl
@[simp] theorem joinFlight_sec (q : Nat) (x : Flight) (f : Fab) : (joinFlight q x f).sec = f.sec := rfl
@[simp] theorem joinFlight_img (q : Nat) (x : Flight) (f : Fab) : (joinFlight q x f).img = f.img := rfl
@[simp] theorem joinFlight_wir (q : Nat) (x : Flight) (f : Fab) : (joinFlight q x f).wir = f.wir := rfl
@[simp] theorem joinFlight_out (q : Nat) (x : Flight) (f : Fab) : (joinFlight q x f).out = f.out := rfl
@[simp] theorem joinFlight_free (q : Nat) (x : Flight) (f : Fab) : (joinFlight q x f).free = f.free := rfl
@[simp] theorem joinFlight_stamps (q : Nat) (x : Flight) (f : Fab) : (joinFlight q x f).stamps = f.stamps := rfl
@[simp] theorem enlist_prm (q : Nat) (d : Desc) (a b : Loc) (f : Fab) : (enlist q d a b f).prm = f.prm := by
  unfold enlist
  simp only [traceAs_prm, countQueue_prm, touchBoth_prm, joinFlight_prm, takeHead_prm, countIssue_prm]
@[simp] theorem enlist_store (q : Nat) (d : Desc) (a b : Loc) (f : Fab) : (enlist q d a b f).store = f.store := by
  unfold enlist
  simp only [traceAs_store, countQueue_store, touchBoth_store, joinFlight_store, takeHead_store, countIssue_store]
@[simp] theorem enlist_ports (q : Nat) (d : Desc) (a b : Loc) (f : Fab) : (enlist q d a b f).ports = f.ports := by
  unfold enlist
  simp only [traceAs_ports, countQueue_ports, touchBoth_ports, joinFlight_ports, takeHead_ports, countIssue_ports]
@[simp] theorem enlist_fences (q : Nat) (d : Desc) (a b : Loc) (f : Fab) : (enlist q d a b f).fences = f.fences := by
  unfold enlist
  simp only [traceAs_fences, countQueue_fences, touchBoth_fences, joinFlight_fences, takeHead_fences, countIssue_fences]
@[simp] theorem enlist_stallBound (q : Nat) (d : Desc) (a b : Loc) (f : Fab) : (enlist q d a b f).stallBound = f.stallBound := by
  unfold enlist
  simp only [traceAs_stallBound, countQueue_stallBound, touchBoth_stallBound, joinFlight_stallBound, takeHead_stallBound, countIssue_stallBound]
@[simp] theorem enlist_fenceLimit (q : Nat) (d : Desc) (a b : Loc) (f : Fab) : (enlist q d a b f).fenceLimit = f.fenceLimit := by
  unfold enlist
  simp only [traceAs_fenceLimit, countQueue_fenceLimit, touchBoth_fenceLimit, joinFlight_fenceLimit, takeHead_fenceLimit, countIssue_fenceLimit]
@[simp] theorem enlist_epgroups (q : Nat) (d : Desc) (a b : Loc) (f : Fab) : (enlist q d a b f).epgroups = f.epgroups := by
  unfold enlist
  simp only [traceAs_epgroups, countQueue_epgroups, touchBoth_epgroups, joinFlight_epgroups, takeHead_epgroups, countIssue_epgroups]
@[simp] theorem enlist_clusters (q : Nat) (d : Desc) (a b : Loc) (f : Fab) : (enlist q d a b f).clusters = f.clusters := by
  unfold enlist
  simp only [traceAs_clusters, countQueue_clusters, touchBoth_clusters, joinFlight_clusters, takeHead_clusters, countIssue_clusters]
@[simp] theorem enlist_shown (q : Nat) (d : Desc) (a b : Loc) (f : Fab) : (enlist q d a b f).shown = f.shown := by
  unfold enlist
  simp only [traceAs_shown, countQueue_shown, touchBoth_shown, joinFlight_shown, takeHead_shown, countIssue_shown]
@[simp] theorem enlist_links (q : Nat) (d : Desc) (a b : Loc) (f : Fab) : (enlist q d a b f).links = f.links := by
  unfold enlist
  simp only [traceAs_links, countQueue_links, touchBoth_links, joinFlight_links, takeHead_links, countIssue_links]
@[simp] theorem enlist_lanes (q : Nat) (d : Desc) (a b : Loc) (f : Fab) : (enlist q d a b f).lanes = f.lanes := by
  unfold enlist
  simp only [traceAs_lanes, countQueue_lanes, touchBoth_lanes, joinFlight_lanes, takeHead_lanes, countIssue_lanes]
@[simp] theorem enlist_swapRx (q : Nat) (d : Desc) (a b : Loc) (f : Fab) : (enlist q d a b f).swapRx = f.swapRx := by
  unfold enlist
  simp only [traceAs_swapRx, countQueue_swapRx, touchBoth_swapRx, joinFlight_swapRx, takeHead_swapRx, countIssue_swapRx]
@[simp] theorem enlist_swapTx (q : Nat) (d : Desc) (a b : Loc) (f : Fab) : (enlist q d a b f).swapTx = f.swapTx := by
  unfold enlist
  simp only [traceAs_swapTx, countQueue_swapTx, touchBoth_swapTx, joinFlight_swapTx, takeHead_swapTx, countIssue_swapTx]
@[simp] theorem enlist_ibex (q : Nat) (d : Desc) (a b : Loc) (f : Fab) : (enlist q d a b f).ibex = f.ibex := by
  unfold enlist
  simp only [traceAs_ibex, countQueue_ibex, touchBoth_ibex, joinFlight_ibex, takeHead_ibex, countIssue_ibex]
@[simp] theorem enlist_cells (q : Nat) (d : Desc) (a b : Loc) (f : Fab) : (enlist q d a b f).cells = f.cells := by
  unfold enlist
  simp only [traceAs_cells, countQueue_cells, touchBoth_cells, joinFlight_cells, takeHead_cells, countIssue_cells]
@[simp] theorem enlist_pins (q : Nat) (d : Desc) (a b : Loc) (f : Fab) : (enlist q d a b f).pins = f.pins := by
  unfold enlist
  simp only [traceAs_pins, countQueue_pins, touchBoth_pins, joinFlight_pins, takeHead_pins, countIssue_pins]
@[simp] theorem enlist_isolated (q : Nat) (d : Desc) (a b : Loc) (f : Fab) : (enlist q d a b f).isolated = f.isolated := by
  unfold enlist
  simp only [traceAs_isolated, countQueue_isolated, touchBoth_isolated, joinFlight_isolated, takeHead_isolated, countIssue_isolated]
@[simp] theorem enlist_eyeWarn (q : Nat) (d : Desc) (a b : Loc) (f : Fab) : (enlist q d a b f).eyeWarn = f.eyeWarn := by
  unfold enlist
  simp only [traceAs_eyeWarn, countQueue_eyeWarn, touchBoth_eyeWarn, joinFlight_eyeWarn, takeHead_eyeWarn, countIssue_eyeWarn]
@[simp] theorem enlist_eyeSwap (q : Nat) (d : Desc) (a b : Loc) (f : Fab) : (enlist q d a b f).eyeSwap = f.eyeSwap := by
  unfold enlist
  simp only [traceAs_eyeSwap, countQueue_eyeSwap, touchBoth_eyeSwap, joinFlight_eyeSwap, takeHead_eyeSwap, countIssue_eyeSwap]
@[simp] theorem enlist_trainTimeout (q : Nat) (d : Desc) (a b : Loc) (f : Fab) : (enlist q d a b f).trainTimeout = f.trainTimeout := by
  unfold enlist
  simp only [traceAs_trainTimeout, countQueue_trainTimeout, touchBoth_trainTimeout, joinFlight_trainTimeout, takeHead_trainTimeout, countIssue_trainTimeout]
@[simp] theorem enlist_kports (q : Nat) (d : Desc) (a b : Loc) (f : Fab) : (enlist q d a b f).kports = f.kports := by
  unfold enlist
  simp only [traceAs_kports, countQueue_kports, touchBoth_kports, joinFlight_kports, takeHead_kports, countIssue_kports]
@[simp] theorem enlist_integ (q : Nat) (d : Desc) (a b : Loc) (f : Fab) : (enlist q d a b f).integ = f.integ := by
  unfold enlist
  simp only [traceAs_integ, countQueue_integ, touchBoth_integ, joinFlight_integ, takeHead_integ, countIssue_integ]
@[simp] theorem enlist_lop (q : Nat) (d : Desc) (a b : Loc) (f : Fab) : (enlist q d a b f).lop = f.lop := by
  unfold enlist
  simp only [traceAs_lop, countQueue_lop, touchBoth_lop, joinFlight_lop, takeHead_lop, countIssue_lop]
@[simp] theorem enlist_bdp (q : Nat) (d : Desc) (a b : Loc) (f : Fab) : (enlist q d a b f).bdp = f.bdp := by
  unfold enlist
  simp only [traceAs_bdp, countQueue_bdp, touchBoth_bdp, joinFlight_bdp, takeHead_bdp, countIssue_bdp]
@[simp] theorem enlist_pwr (q : Nat) (d : Desc) (a b : Loc) (f : Fab) : (enlist q d a b f).pwr = f.pwr := by
  unfold enlist
  simp only [traceAs_pwr, countQueue_pwr, touchBoth_pwr, joinFlight_pwr, takeHead_pwr, countIssue_pwr]
@[simp] theorem enlist_start (q : Nat) (d : Desc) (a b : Loc) (f : Fab) : (enlist q d a b f).start = f.start := by
  unfold enlist
  simp only [traceAs_start, countQueue_start, touchBoth_start, joinFlight_start, takeHead_start, countIssue_start]
@[simp] theorem enlist_th (q : Nat) (d : Desc) (a b : Loc) (f : Fab) : (enlist q d a b f).th = f.th := by
  unfold enlist
  simp only [traceAs_th, countQueue_th, touchBoth_th, joinFlight_th, takeHead_th, countIssue_th]
@[simp] theorem enlist_img (q : Nat) (d : Desc) (a b : Loc) (f : Fab) : (enlist q d a b f).img = f.img := by
  unfold enlist
  simp only [traceAs_img, countQueue_img, touchBoth_img, joinFlight_img, takeHead_img, countIssue_img]
@[simp] theorem enlist_wir (q : Nat) (d : Desc) (a b : Loc) (f : Fab) : (enlist q d a b f).wir = f.wir := by
  unfold enlist
  simp only [traceAs_wir, countQueue_wir, touchBoth_wir, joinFlight_wir, takeHead_wir, countIssue_wir]
@[simp] theorem enlist_free (q : Nat) (d : Desc) (a b : Loc) (f : Fab) : (enlist q d a b f).free = f.free := by
  unfold enlist
  simp only [traceAs_free, countQueue_free, touchBoth_free, joinFlight_free, takeHead_free, countIssue_free]

/-- A queue reads the same in fabrics that hold the same queues. -/
theorem queueOf_congr {f g : Fab} (h : g.queues = f.queues) (q : Nat) : queueOf g q = queueOf f q := by
  unfold queueOf
  rw [h]

/-- A credit returned changes a queue only in the credits it has returned (R379). -/
theorem creditQueue_queueOf (q : Nat) (f : Fab) :
    queueOf (creditQueue q f) q = { queueOf f q with credits := (queueOf (creditQueue q f) q).credits } := by
  unfold creditQueue
  dsimp only
  split <;> simp


/-- The map survives an issue that resolves no entry (R209). -/
theorem touchBoth_map (d : Desc) (f : Fab) (h3 : kindOf (dSrc d) ≠ 3) (hd : kindOf (dDst d) ≠ 3 ∨ isMapOp d = true) :
    (touchBoth d f).map = f.map := by
  have e2 : (kindOf (dSrc d) == 3) = false := by simpa using h3
  have e1 : (kindOf (dDst d) == 3 && !isMapOp d) = false := by rcases hd with h | h <;> simp [h]
  simp [touchBoth, e1, e2, Machine.when]

/-- A map change enlisted leaves the map as it was. -/
theorem enlist_map (q : Nat) (d : Desc) (a b : Loc) (f : Fab) (h3 : kindOf (dSrc d) ≠ 3)
    (hd : kindOf (dDst d) ≠ 3 ∨ isMapOp d = true) : (enlist q d a b f).map = f.map := by
  simp [enlist, touchBoth_map _ _ h3 hd]

/-- The order of issue of a descriptor that issues leaves the package's identity alone. -/
theorem countIssue_package (q : Nat) (f : Fab) : (countIssue q f).dom.package = f.dom.package := by
  unfold countIssue
  split <;> rfl

/-- A head that has just come off its intake. -/
theorem takeHead_fresh {q : Nat} {f : Fab} {w : Waiting} (h : headItem (queueOf f q) = .fresh w) :
    queueOf (takeHead q f) q =
      { queueOf f q with intake := (queueOf f q).intake.drop 1, head := ⟨false, false, false, false, 0, false⟩
                         credits := (queueOf (takeHead q f) q).credits } := by
  simp only [takeHead, h]
  rw [creditQueue_queueOf]
  simp

/-- The queue of a descriptor that has just issued. -/
theorem enlist_queue {q : Nat} {d : Desc} {a b : Loc} {f : Fab} {w : Waiting} (h : headItem (queueOf f q) = .fresh w) :
    queueOf (enlist q d a b f) q =
      { queueOf f q with
        intake := (queueOf f q).intake.drop 1, head := ⟨false, false, false, false, 0, false⟩
        credits := (queueOf (enlist q d a b f) q).credits, seq := (queueOf f q).seq + 1
        flights := ((queueOf f q).flights.filter fun z => decide (z.ord < f.dom.issued)) ++ [newFlight q d a b f]
          ++ (queueOf f q).flights.filter fun z => decide (f.dom.issued < z.ord) } := by
  have hq : queueOf (countIssue q f) q = queueOf f q := queueOf_congr (countIssue_queues ..) q
  have h' : headItem (queueOf (countIssue q f) q) = .fresh w := by rw [hq, h]
  have ho : (newFlight q d a b f).ord = f.dom.issued := by simp [newFlight, issueOrd, h]
  have e : queueOf (enlist q d a b f) q = queueOf (joinFlight q (newFlight q d a b f) (takeHead q (countIssue q f))) q := by
    unfold enlist
    rw [queueOf_congr (traceAs_queues ..), queueOf_congr (countQueue_queues ..), queueOf_congr (touchBoth_queues ..)]
  rw [e, joinFlight, onQueue_self, takeHead_fresh h', hq, ho]

end Sys2Proof.Machine
end

