-- ==== Sys2Proof/Laws/Heads.lean ====
section
/-!
SUPPORT. What an issue command does with a queue's head that is ready: checks 1 to 11 are noted, the fence is passed, the
operands decide.
-/

namespace Sys2Proof.Machine

@[simp] theorem headChecked_dom (q : Nat) (f : Fab) : (headChecked q f).dom = f.dom := by unfold headChecked; split <;> simp
@[simp] theorem headChecked_prm (q : Nat) (f : Fab) : (headChecked q f).prm = f.prm := by unfold headChecked; split <;> simp
@[simp] theorem headChecked_map (q : Nat) (f : Fab) : (headChecked q f).map = f.map := by unfold headChecked; split <;> simp
@[simp] theorem headChecked_store (q : Nat) (f : Fab) : (headChecked q f).store = f.store := by unfold headChecked; split <;> simp
@[simp] theorem headChecked_kports (q : Nat) (f : Fab) : (headChecked q f).kports = f.kports := by unfold headChecked; split <;> simp
@[simp] theorem headChecked_links (q : Nat) (f : Fab) : (headChecked q f).links = f.links := by unfold headChecked; split <;> simp
@[simp] theorem headChecked_fences (q : Nat) (f : Fab) : (headChecked q f).fences = f.fences := by unfold headChecked; split <;> simp
@[simp] theorem headChecked_cnt (q : Nat) (f : Fab) : (headChecked q f).cnt = f.cnt := by unfold headChecked; split <;> simp
/-- The head's own queue once checks 1 to 11 are noted. -/
theorem headChecked_queue (q : Nat) (f : Fab) : queueOf (headChecked q f) q = { queueOf f q with head := { (queueOf f q).head with checked := true } } := by
  unfold headChecked; split
  · rename_i h
    rcases hq : queueOf f q with ⟨⟩
    simp [hq] at h ⊢
    rename_i hd _
    rcases hd with ⟨⟩
    simp_all
  · simp

/-- An issue command whose head is ready goes on to the fence and the operands (R75). -/
theorem runHead_ready {op q : Nat} {d : Desc} {f : Fab} (h : HeadReady q d f) (ho : dOp d = op) :
    runHead op q f = advanceHead q d (headChecked q f) := by
  obtain ⟨h1, h2, h3, ⟨w, h4, h5⟩, h6⟩ := h
  subst h5 ho
  simp only [runHead, h1, h2, h4]
  simp only [checkHead, headChecked]
  rcases hc : (queueOf f q).head.checked with _ | _
  · simp [hc] at h6
    have hi : (injKind f == 3) = false := by simpa using h6.2
    simp [hi, h6.1, Machine.when]
  · simp

/-- With a place in flight and no fence due, the head goes on to its operands (R73, R74). -/
theorem advance_free {q : Nat} {d : Desc} {f : Fab} (h3 : (queueOf f q).flights.length < 4) (hf : NoFenceDue q d f) :
    advanceHead q d f = resolveHead q d f := by
  unfold advanceHead
  rw [if_neg (by omega)]
  rcases hf with h | h
  · simp [passFence, h]
  · rcases hs : soughtCount d <;> simp [passFence, hs, h]

theorem noFenceDue_headChecked {q : Nat} {d : Desc} {f : Fab} (hf : NoFenceDue q d f) : NoFenceDue q d (headChecked q f) := by
  rcases hf with h | h
  · exact .inl h
  · right; rw [headChecked_queue]; exact h

/-- Both in one: an issue command whose head waits on no fence is what its operands decide (R75, R76). -/
theorem runHead_resolve {op q : Nat} {d : Desc} {f : Fab} (h : HeadReady q d f) (ho : dOp d = op) (hf : NoFenceDue q d f) :
    runHead op q f = resolveHead q d (headChecked q f) := by
  rw [runHead_ready h ho, advance_free _ (noFenceDue_headChecked hf)]
  rw [headChecked_queue]; exact h.2.2.1

end Sys2Proof.Machine
end

