-- ==== Sys2Proof/Laws/Store.lean ====
section
/-!
SUPPORT. Laws of the banks: reset has their canonical form and every operation that writes them keeps it; what a row's state
reads after a write of it, and what a write of one row leaves of the others.
-/

namespace Sys2Proof.Machine

theorem storeWf_iff (s : Store) : storeWf s = true ↔
    tcanon zeroWords s.rows = true ∧ tcanon 0 s.rstate = true ∧ tcanon none s.pwb = true ∧ tcanon false s.told = true := by
  simp [storeWf, and_assoc]

/-- Reset has the canonical form. -/
theorem storeWf_reset : storeWf State.reset.fab.store = true := by decide

/-- Empty banks have the canonical form, as a ZEROIZE and a cold start leave them. -/
theorem storeWf_empty (s : Store) : storeWf { s with rows := [], rstate := [], pwb := [], told := [] } = true := rfl

theorem tfilter_canonFrom {α : Type} [DecidableEq α] (d : α) (k : Nat × α → Bool) (lo : Nat) (t : Tbl α)
    (h : tcanonFrom d lo t = true) : tcanonFrom d lo (t.filter k) = true := by
  induction t generalizing lo with
  | nil => rfl
  | cons e t ih =>
    simp only [tcanonFrom, Bool.and_eq_true, decide_eq_true_eq] at h
    rw [List.filter_cons]
    split
    · simp only [tcanonFrom, Bool.and_eq_true, decide_eq_true_eq]
      exact ⟨h.1, ih _ h.2⟩
    · exact tcanonFrom_mono d (by omega) _ (ih _ h.2)

/-- Leaving pairs out keeps the canonical form. -/
theorem tfilter_canon {α : Type} [DecidableEq α] (d : α) (k : Nat × α → Bool) (t : Tbl α) (h : tcanon d t = true) :
    tcanon d (t.filter k) = true := tfilter_canonFrom d k 0 t h

/-- The words of a row written. -/
theorem writeWords_wf (ra : Nat) (ws : List Code) (s : Store) (h : storeWf s = true) :
    storeWf { s with rows := tset zeroWords s.rows ra ws } = true := by
  rw [storeWf_iff] at *; exact ⟨tset_canon _ _ _ _ h.1, h.2⟩

/-- A word of the row state array written. -/
theorem writeStateWord_wf (k : Nat) (w : BitVec 17) (s : Store) (h : storeWf s = true) :
    storeWf { s with rstate := tset 0 s.rstate k w } = true := by
  rw [storeWf_iff] at *; exact ⟨h.1, tset_canon _ _ _ _ h.2.1, h.2.2⟩

theorem setState_wf (ra st : Nat) (s : Store) (h : storeWf s = true) : storeWf (setState ra st s) = true := by
  rw [storeWf_iff] at *
  refine ⟨h.1, ?_, h.2.2.1, ?_⟩
  · unfold setState; exact tset_canon _ _ _ _ h.2.1
  · unfold setState; dsimp only; exact tset_canon _ _ _ _ h.2.2.2

theorem retireBuffer_wf (b : Nat) (s : Store) (h : storeWf s = true) : storeWf (retireBuffer b s) = true := by
  unfold retireBuffer
  split
  · exact h
  · rw [storeWf_iff] at *
    dsimp only
    refine ⟨?_, h.2.1, ?_, h.2.2.2⟩
    · exact tset_canon _ _ _ _ h.1
    · exact tset_canon _ _ _ _ h.2.2.1

theorem fld_withParity (v k : Nat) (hv : v < 2 ^ 16) (hk : k < 8) :
    fld (withParity v) (2 * k) 2 = v / 2 ^ (2 * k) % 4 := by
  have h : (withParity v).toNat = v + (oddOnes 16 v).toNat * 2 ^ 16 := by
    have hb : (oddOnes 16 v).toNat ≤ 1 := by cases oddOnes 16 v <;> decide
    simp only [withParity, pack, fields, BitVec.toNat_ofNat]
    rw [Nat.mod_eq_of_lt hv]
    omega
  rw [fld, h, Nat.shiftRight_eq_div_pow]
  have : ∀ b : Nat, (v + b * 2 ^ 16) / 2 ^ (2 * k) % 4 = v / 2 ^ (2 * k) % 4 := by
    intro b
    have e : 2 ^ 16 = 2 ^ (14 - 2 * k) * 4 * 2 ^ (2 * k) := by
      rw [show (4 : Nat) = 2 ^ 2 by rfl, ← pow_add, ← pow_add]; congr 1; omega
    rw [e, show b * (2 ^ (14 - 2 * k) * 4 * 2 ^ (2 * k)) = (b * 2 ^ (14 - 2 * k) * 4) * 2 ^ (2 * k) by ring,
      Nat.add_mul_div_right _ _ (by positivity), Nat.add_mul_mod_self_right]
  exact this _

/-- The state of any row after a row's state is written: the state written for that row, the state before for every other. -/
theorem rawState_setState (s : Store) (ra st j : Nat) (h : st < 4) :
    rawState (setState ra st s) j = if j = ra then st else rawState s j := by
  by_cases hw : j / 8 = ra / 8
  · have e : stateWord (setState ra st s) j = withParity ((putf (stateWord s ra) (2 * (ra % 8)) 2 st).toNat % 2 ^ 16) := by
      simp only [stateWord, setState, hw, tget_tset_self]
    have hs : stateWord s j = stateWord s ra := by simp only [stateWord, hw]
    have hm : ∀ x k : Nat, k < 8 → x % 2 ^ 16 / 2 ^ (2 * k) % 4 = x / 2 ^ (2 * k) % 4 := by
      intro x k hk
      have e : 2 ^ 16 = 2 ^ (2 * k) * (2 ^ (14 - 2 * k) * 4) := by
        rw [show (4 : Nat) = 2 ^ 2 by rfl, ← pow_add, ← pow_add]; congr 1; omega
      rw [e, Nat.mod_mul_right_div_self, mul_comm (2 ^ (14 - 2 * k)), Nat.mod_mul_right_mod]
    unfold rawState
    rw [e, fld_withParity _ _ (Nat.mod_lt _ (by decide)) (Nat.mod_lt _ (by decide)), hm _ _ (Nat.mod_lt _ (by decide)), hs]
    have f : ∀ x : BitVec 17, ∀ k, x.toNat / 2 ^ (2 * k) % 4 = fld x (2 * k) 2 := by
      intro x k; rw [fld, Nat.shiftRight_eq_div_pow]; rfl
    rw [f]
    by_cases hj : j = ra
    · subst hj
      rw [if_pos rfl, fld_putf_self _ _ (by omega)]
      omega
    · rw [if_neg hj, fld_putf_ne _ _ (by omega) (by omega)]
  · have hj : j ≠ ra := by rintro rfl; exact hw rfl
    rw [if_neg hj]
    simp only [rawState, stateWord, setState, tget_tset_ne _ _ _ hw]

/-- The array's words of any row after a row's words are written. -/
theorem arrayWords_write (s : Store) (ra j : Nat) (ws : List Code) :
    arrayWords { s with rows := tset zeroWords s.rows ra ws } j = if j = ra then ws else arrayWords s j := tget_tset ..

/-! Operations on the whole fabric. -/

/-- The banks of the fabric are in canonical form. -/
abbrev StoreOk (f : Fab) : Prop := storeWf f.store = true

theorem StoreOk.congr {f g : Fab} (h : StoreOk f) (he : g.store = f.store) : StoreOk g := by unfold StoreOk at *; rw [he]; exact h
theorem StoreOk.on {f : Fab} {k : Store → Store} (h : StoreOk f) (hk : ∀ s, storeWf s = true → storeWf (k s) = true) :
    StoreOk (onStore f k) := hk _ h
theorem StoreOk.when {f : Fab} {b : Bool} {k : Fab → Fab} (h : StoreOk f) (hk : StoreOk (k f)) : StoreOk (when b k f) := by
  unfold Machine.when; split
  · exact hk
  · exact h
theorem StoreOk.each {α : Type} {l : List α} {k : Fab → α → Fab} {f : Fab} (h : StoreOk f)
    (hk : ∀ f a, StoreOk f → StoreOk (k f a)) : StoreOk (each l k f) := by
  unfold Machine.each
  induction l generalizing f with
  | nil => exact h
  | cons a t ih => exact ih (hk f a h)

theorem checkState_ok (ra : Nat) (f : Fab) (h : StoreOk f) : StoreOk (checkState ra f) := by
  unfold checkState
  dsimp only
  split
  · refine StoreOk.congr (f := onStore f fun s => { s with rstate := tset 0 s.rstate (ra / 8) (withParity 0xAAAA) }) ?_ (by simp)
    exact h.on fun s hs => writeStateWord_wf _ _ s hs
  · split
    · refine StoreOk.congr (f := onStore f fun s => { s with told := tset false s.told ra true }) ?_ (by simp)
      refine h.on fun s hs => ?_
      rw [storeWf_iff] at *
      refine ⟨hs.1, hs.2.1, hs.2.2.1, ?_⟩
      dsimp only
      exact tset_canon _ _ _ _ hs.2.2.2
    · exact h

@[simp] theorem logError_store (ra w sy k so p : Nat) (t : Bool) (f : Fab) : (logError ra w sy k so p t f).store = f.store := by
  unfold logError; dsimp only; split <;> simp
@[simp] theorem retireBank_store (b : Nat) (m k : Bool) (f : Fab) : (retireBank b m k f).store = f.store := by
  unfold retireBank; simp
@[simp] theorem freshError_store (b : Nat) (f : Fab) : (freshError b f).store = f.store := by
  unfold freshError; dsimp only; split <;> simp
@[simp] theorem queueRepair_store (ra : Nat) (f : Fab) : (queueRepair ra f).store = f.store := by
  unfold queueRepair; dsimp only; split
  · rfl
  · split <;> simp
@[simp] theorem dropRepair_store (ra : Nat) (f : Fab) : (dropRepair ra f).store = f.store := rfl

theorem when_store (b : Bool) (k : Fab → Fab) (f : Fab) (h : (k f).store = f.store) : (when b k f).store = f.store := by
  unfold Machine.when; split
  · exact h
  · rfl
theorem each_store {α : Type} (l : List α) (k : Fab → α → Fab) (f : Fab) (h : ∀ f a, (k f a).store = f.store) :
    (each l k f).store = f.store := by
  unfold Machine.each
  induction l generalizing f with
  | nil => rfl
  | cons a t ih => exact (ih (k f a)).trans (h f a)

@[simp] theorem reportWords_store (ra so p : Nat) (was : Bool) (ws : List (Nat × Code)) (f : Fab) :
    (reportWords ra so p was ws f).store = f.store := by
  unfold reportWords
  refine (when_store _ _ _ (by simp)).trans (each_store _ _ _ fun f e => ?_)
  split <;> simp
@[simp] theorem reportMerge_store (ra p : Nat) (was : Bool) (bm : Nat) (ws : List Code) (f : Fab) :
    (reportMerge ra p was bm ws f).store = f.store := by
  unfold reportMerge
  refine (when_store _ _ _ (by simp)).trans (each_store _ _ _ fun f e => ?_)
  split <;> simp
@[simp] theorem injectWords_store (ra : Nat) (m : BitVec 36) (ws : List Code) (f : Fab) :
    (injectWords ra m ws f).2.store = f.store := by
  unfold injectWords; dsimp only; split
  · rfl
  · rfl
@[simp] theorem checkTag_store (p req ra fmt st : Nat) (r : Row) (f : Fab) : (checkTag p req ra fmt st r f).store = f.store := by
  unfold checkTag; split <;> simp
@[simp] theorem takeFree_store (f : Fab) : (takeFree f).2.store = f.store := rfl

@[simp] theorem settleRepair_store (ra : Nat) (f : Fab) : (settleRepair ra f).store = f.store := by
  unfold settleRepair; split <;> simp
@[simp] theorem noteBleat_store (p req ra : Nat) (b : Bool) (f : Fab) : (noteBleat p req ra b f).store = f.store :=
  when_store _ _ _ (by simp)

/-- A read of a row keeps the canonical form. -/
theorem readRow_ok (p req ra : Nat) (f : Fab) (h : StoreOk f) : StoreOk (readRow p req ra f).2 := by
  have h0 := checkState_ok ra f h
  unfold readRow
  dsimp only
  split
  · exact h0.congr (by simp)
  · generalize hg : checkState ra f = g at *
    generalize hr : reportWords ra 0 p (rawState g.store ra != 1) (checkedWords (rmwWords g.store ra) (heldMask g.store ra p)) g = g1
    have h1 : StoreOk g1 := h0.congr (by rw [← hr]; simp)
    generalize hs : when (rawState g.store ra = 1 && _) (fun f => onStore f (setState ra 2)) g1 = g2
    have h2 : StoreOk g2 := by rw [← hs]; exact h1.when (h1.on fun s hs => setState_wf _ _ s hs)
    generalize hq : when _ (queueRepair ra) g2 = g3
    have h3 : StoreOk g3 := h2.congr (by rw [← hq]; exact when_store _ _ _ (by simp))
    split
    · exact h3.congr (by simp [*])
    · exact h3.congr (by simp [*])

/-- Accepting a write into a posted write buffer keeps the canonical form. -/
theorem postWords_ok (p ra : Nat) (ws : List Code) (m : BitVec 36) (st : Nat) (f : Fab) (h : StoreOk f) :
    StoreOk (postWords p ra ws m st f) := by
  unfold postWords
  refine StoreOk.on (h.congr (injectWords_store ..)) fun s hs => ?_
  have := setState_wf ra st s hs
  rw [storeWf_iff] at *
  refine ⟨this.1, this.2.1, ?_, this.2.2.2⟩
  dsimp only
  exact tset_canon _ _ _ _ this.2.2.1

/-- A row stored past the posted write buffer keeps the canonical form. -/
theorem storeRow_ok (ra : Nat) (ws : List Code) (f : Fab) (h : StoreOk f) : StoreOk (storeRow ra ws f) :=
  StoreOk.on (h.congr (injectWords_store ..)) fun s hs => writeWords_wf _ _ s hs

/-- A write of a row keeps the canonical form. -/
theorem writeRow_ok (p ra : Nat) (new fresh : Row) (bm : Nat) (poison : Bool) (f : Fab) (h : StoreOk f) :
    StoreOk (writeRow p ra new fresh bm poison f) := by
  have h0 := checkState_ok ra f h
  unfold writeRow
  dsimp only
  split
  · split <;> exact postWords_ok _ _ _ _ _ _ h0
  · split
    · refine StoreOk.congr ?_ (settleRepair_store ra _)
      split <;> exact postWords_ok _ _ _ _ _ _ h0
    · split
      · have h1 : StoreOk (countGroup (groupAt ra) 4 1 (reportMerge ra p (rawState (checkState ra f).store ra != 1) bm
            (rmwWords (checkState ra f).store ra) (checkState ra f))) := h0.congr (by simp)
        exact (postWords_ok _ _ _ _ _ _ h1).congr (settleRepair_store ra _)
      · exact (postWords_ok _ _ _ _ _ _ h0).congr (settleRepair_store ra _)

theorem writeTile_ok (p ra g rb : Nat) (r : Row) (poison : Bool) (f : Fab) (h : StoreOk f) :
    StoreOk (writeTile p ra g rb r poison f) := writeRow_ok _ _ _ _ _ _ _ h

/-- CLEAR of a row keeps the canonical form. -/
theorem clearRow_ok (ra : Nat) (f : Fab) (h : StoreOk f) : StoreOk (clearRow ra f) :=
  ((checkState_ok ra f h).on fun s hs => setState_wf ra 0 s hs).congr (by unfold clearRow; simp)

/-- A contribution keeps the canonical form. -/
theorem accumulate_ok (p req ra : Nat) (c : Contribution) (f : Fab) (h : StoreOk f) : StoreOk (accumulate p req ra c f).2 := by
  have h0 := checkState_ok ra f h
  unfold accumulate
  dsimp only
  generalize checkState ra f = g at *
  generalize hr : when (rawState g.store ra != 0) _ g = g1
  have h1 : StoreOk g1 := h0.congr (by rw [← hr]; exact when_store _ _ _ (by simp))
  generalize hs : when _ (fun f => onStore f (setState ra 2)) g1 = g2
  have h2 : StoreOk g2 := by rw [← hs]; exact h1.when (h1.on fun s hs => setState_wf _ _ s hs)
  generalize hq : when _ (queueRepair ra) g2 = g3
  have h3 : StoreOk g3 := h2.congr (by rw [← hq]; exact when_store _ _ _ (by simp))
  split
  · exact h3.congr (by simp)
  · generalize ht : when _ (countPort p 0x16 1) g3 = g4
    have h4 : StoreOk g4 := h3.congr (by rw [← ht]; exact when_store _ _ _ (by simp))
    generalize (if rawState g.store ra = 0 then blankRow else rowOfWords (List.map deliveredData (rmwWords g.store ra))) = old
    generalize (if (decide (rawState g.store ra = 0) || (decide (rawState g.store ra = 1) && epochOf old != c.epoch)) = true
      then 0 else contribOf old) = set
    split
    · exact h4.congr (by simp)
    · refine StoreOk.congr ?_ (settleRepair_store ra _)
      exact postWords_ok _ _ _ _ _ _ (h4.congr (by simp))

/-! The engines that write the banks. -/

@[simp] theorem onEngine_store (n : Nat) (k : Engine → Engine) (f : Fab) : (onEngine n k f).store = f.store := by
  rfl
@[simp] theorem onMarch_store (k : MarchRun → MarchRun) (f : Fab) : (onMarch k f).store = f.store := by
  rfl

/-- A posted write buffer that writes its row keeps the canonical form. -/
theorem retireAt_ok (b : Nat) (f : Fab) (h : StoreOk f) : StoreOk (onStore f (retireBuffer b)) :=
  h.on fun s hs => retireBuffer_wf b s hs

/-- A bank taken by a DESTRUCTIVE run keeps the canonical form. -/
theorem wipeStates_ok (b : Nat) (f : Fab) (h : StoreOk f) : StoreOk (wipeStates b f) := by
  refine h.on fun s hs => ?_
  rw [storeWf_iff] at *
  exact ⟨hs.1, tfilter_canon _ _ _ hs.2.1, hs.2.2.1, tfilter_canon _ _ _ hs.2.2.2⟩

/-- A bank yielded, its saved row written back, keeps the canonical form. -/
theorem yieldBank_ok (n : Nat) (f : Fab) (h : StoreOk f) : StoreOk (yieldBank n f) := by
  unfold yieldBank
  split
  · exact h
  · dsimp only
    unfold StoreOk
    rw [onEngine_store, onMarch_store]
    split
    · exact h.when (storeRow_ok _ _ _ h)
    · exact h

@[simp] theorem marchFail_store (ra : Nat) (b : Bool) (f : Fab) : (marchFail ra b f).store = f.store := by
  unfold marchFail; dsimp only; split <;> split <;> simp
@[simp] theorem finishBank_store (n : Nat) (f : Fab) : (finishBank n f).store = f.store := by
  unfold finishBank
  split
  · dsimp only
    rw [onEngine_store]
    exact (when_store _ _ _ (by simp)).trans (onMarch_store ..)
  · rfl

/-- A restore that did not read back equal keeps the canonical form. -/
theorem badRestore_ok (ra : Nat) (f : Fab) (h : StoreOk f) : StoreOk (badRestore ra f) :=
  StoreOk.on (h.congr rfl) fun s hs => writeWords_wf _ _ s hs

/-- A row rewritten by a SCRUB or a repair write keeps the canonical form. -/
theorem mendRow_ok (p ra st : Nat) (ws : List Code) (f : Fab) (h : StoreOk f) : StoreOk (mendRow p ra st ws f) :=
  (postWords_ok _ _ _ _ _ _ h).congr (settleRepair_store ra _)

/-- One operation of a march keeps the canonical form. -/
theorem marchBeat_ok (n : Nat) (bad : Bool) (f : Fab) (h : StoreOk f) : StoreOk (marchBeat n bad f) := by
  have write : ∀ ra ws (f : Fab), StoreOk f → StoreOk (storeRow ra ws f) := storeRow_ok
  unfold marchBeat
  split
  · rename_i m e _ _
    split
    · dsimp only
      generalize hg : (if e.op = 0 then _ else _ : Fab) = g
      have hg : StoreOk g := by
        rw [← hg]
        split
        · exact h.congr (by simp)
        · split
          · exact write _ _ _ h
          · split
            · refine h.when ?_
              split
              · exact (badRestore_ok _ _ h).congr (marchFail_store ..)
              · exact h.congr (marchFail_store ..)
            · exact write _ _ _ h
      split
      · exact hg.congr (by simp)
      · split
        · exact hg.congr (by simp)
        · exact hg.congr (by simp)
    · dsimp only
      generalize hg : (if (marchOp (mAlg m) e.op).2.2.1 = true then _ else _ : Fab) = g
      have hg : StoreOk g := by
        rw [← hg]
        split
        · exact write _ _ _ h
        · exact h.congr (when_store _ _ _ (by simp))
      split
      · exact hg.congr (by simp)
      · exact hg.congr (by simp)
  · exact h

@[simp] theorem completeWith_store (i : BitVec 16) (st r0 r1 r2 r3 : Nat) (b : Bool) (f : Fab) :
    (completeWith i st r0 r1 r2 r3 b f).store = f.store := by
  unfold completeWith
  split
  · rfl
  · simp [takeStamp]
@[simp] theorem completeOp_store (i : BitVec 16) (st r0 r1 r2 r3 : Nat) (f : Fab) :
    (completeOp i st r0 r1 r2 r3 f).store = f.store := completeWith_store ..

/-- A MARCH that ends, its saved rows written back, keeps the canonical form. -/
theorem endMarch_ok (st : Nat) (f : Fab) (h : StoreOk f) : StoreOk (endMarch st f) := by
  unfold endMarch
  split
  · exact h
  · dsimp only
    unfold StoreOk
    rw [completeOp_store, onInteg_store]
    refine h.each fun f n h => ?_
    split
    · split
      · split
        · exact storeRow_ok _ _ _ h
        · exact h
      · exact h
    · exact h

/-- The scope of a ZEROIZE cleared keeps the canonical form. -/
theorem clearScope_ok (scope : BitVec 4) (f : Fab) (h : StoreOk f) : StoreOk (clearScope scope f) := by
  unfold clearScope
  dsimp only
  generalize hg : (if bitAt scope 0 = true then _ else _ : Fab) = g
  have hg : StoreOk g := by
    rw [← hg]
    split
    · exact storeWf_empty f.store
    · exact h
  cases bitAt scope 1 <;> cases bitAt scope 2 <;> cases bitAt scope 3 <;> exact hg

end Sys2Proof.Machine
end

