-- ==== Sys2Proof/WellFormed.lean ====
section
/-!
DEFINITION. Commands that the surroundings can send: the operands' shapes that the types do not already fix.  The meanings are
total and do not rest on this.
-/

namespace Sys2Proof

/-- A message has a first word, and no more words than a 16-bit `LENGTH` can state (R266, R382). -/
def BdpMsg.wf (m : BdpMsg) : Bool := decide (1 ≤ m.words.length) && decide (m.words.length ≤ 2049)

/-- A window access is naturally aligned (R272). -/
def windowAligned (addr : BitVec 28) (wide : Bool) : Bool := addr.toNat % (if wide then 8 else 4) == 0

/-- The operands of a command have the shape that its row gives them. -/
def Instr.wf : Instr → Bool
  | .read m => m.wf
  | .write m => m.wf
  | .readBlock m => m.wf
  | .command m => m.wf
  | .poll m => m.wf
  | .subscribe m => m.wf
  | .mirrorRead addr wide => windowAligned addr wide
  | .mirrorWrite addr wide _ => windowAligned addr wide
  -- one choice for each of the 64 flit slots of a frame (R151)
  | .frame _ picks => picks.length == 64
  -- the margins of 16 groups (R335)
  | .stageCanaryCal meas => meas.length == 16
  -- the failing rows of the quick march, each named once (R252)
  | .stageQuickMarch failed => decide failed.Nodup
  -- cause 3 of a stack port's loss is reserved (R322)
  | .stackPortDown _ cause => cause != 3
  | _ => true

end Sys2Proof
end

