-- ==== Sys2Proof/Tests/Slice0.lean ====
section
/-!
SUPPORT. The package's own tests: worked examples of the spec, terms that the well-formedness check refuses, and, for each
statement with hypotheses, a concrete state and operands that meet them, with the outcome there.
-/

namespace Sys2Proof.Tests

set_option Elab.async false

open Sys2Proof Sys2Proof.Machine

/-! ### Builders -/

/-- The fabric that an outcome leaves; the default one where there is none. -/
def fabOf (o : Host.Outcome State Fault Refusal) : Fab :=
  match o with
  | .next t => t.fab
  | _ => {}

/-- The fabric after a command. -/
def after (c : Instr) (s : State) : Fab := fabOf (exec c s)

/-- The slot tables after a command. -/
def slotsAfter (c : Instr) (s : State) : Tbl (BitVec 16) :=
  match exec c s with
  | .next t => t.slots
  | _ => []

/-- The command leaves the fabric `f`, the slot tables and the waiting commands as they were. -/
def leaves (c : Instr) (s : State) (f : Fab) : Bool :=
  match exec c s with
  | .next t => decide (t = { s with fab := f })
  | _ => false

/-- The command changes nothing. -/
def still (c : Instr) (s : State) : Bool := leaves c s s.fab

/-- The machine in READY, in ON, with nothing under way. -/
def ready : State :=
  { State.reset with fab := { State.reset.fab with
      start := { State.reset.fab.start with stage := 7, running := false, done := true }
      pwr := { State.reset.fab.pwr with intakeOpen := true }
      img := { State.reset.fab.img with loaded := true } } }

/-- READY with its fabric put through `g`. -/
def having (g : Fab → Fab) : State := { ready with fab := g ready.fab }

/-- READY with one queue as given. -/
def withQueue (q : Nat) (x : Queue) : State := having fun f => { f with queues := [(q, x)] }

/-- A queue with one descriptor at intake. -/
def holding (d : Desc) : Queue := { intake := [⟨d, 0⟩] }

/-- Descriptor with the given fields and right parity (R60, R61). -/
def desc (l : List (Nat × Nat)) : Desc :=
  let d : Desc := BitVec.ofNat 256 (place l)
  [0, 1, 2, 3].foldl (fun d i => putBit d (252 + i) (oddOnes (if i = 3 then 60 else 64) (fld d (64 * i) 64))) d

/-- Fields of a local BANK operand at bit `base` (R64). -/
def bankAt (base bank row : Nat) : List (Nat × Nat) := [(base + 61, 1), (base + 33, 1), (base + 16, bank), (base + 25, row)]

/-- Fields of shape: rows, 512 bytes, I8 with groups of 64 on both sides, stripe 4 (R60). -/
def shape (rows : Nat) : List (Nat × Nat) := [(14, rows - 1), (22, 15), (26, 0x12), (34, 0x12)]

def dNop : Desc := desc []
def dDeliver : Desc := desc ([(0, 1), (192, 1)] ++ shape 4 ++ bankAt 64 0 0)
def dCollect : Desc := desc ([(0, 2), (192, 1)] ++ shape 4 ++ bankAt 128 0 0)
def dAcc : Desc := desc ([(0, 3), (14, 3), (22, 15), (26, 0x14), (34, 0x14), (192, 1)] ++ bankAt 128 0 0)
def dMove : Desc := desc ([(0, 4)] ++ shape 4 ++ bankAt 64 0 0 ++ bankAt 128 32 0)
def dSpan : Desc := desc ([(0, 5)] ++ shape 4 ++ bankAt 64 0 0 ++ [(189, 1), (128, 0), (144, 32)])
def dGet : Desc := desc ([(0, 6), (125, 4)] ++ shape 4 ++ bankAt 128 0 0)
def dPut : Desc := desc ([(0, 7), (189, 4)] ++ shape 4 ++ bankAt 64 0 0)
def dCall : Desc := desc ([(0, 8), (125, 4)] ++ shape 4 ++ bankAt 128 0 0)
def dFill : Desc := desc ([(0, 9), (125, 5), (64, 7)] ++ shape 4 ++ bankAt 128 0 0)
def dClear : Desc := desc ([(0, 10), (14, 3)] ++ bankAt 128 0 0)
def dSet : Desc := desc ([(0, 11), (189, 3), (128, 5), (192, 0x123)] ++ bankAt 64 0 0)
def dDrop : Desc := desc [(0, 12), (189, 3), (128, 131071)]
def dWait : Desc := desc [(0, 13), (6, 63), (125, 6), (64, 3)]
def dSignal : Desc := desc [(0, 14), (6, 63), (189, 6), (128, 0xFFFF)]

/-- `HeadReady` as a test. -/
def headReadyB (q : Nat) (d : Desc) (f : Fab) : Bool :=
  isReady f && (queueOf f q).qstate == 0 && decide ((queueOf f q).flights.length < 4)
    && (match headItem (queueOf f q) with
      | .fresh w => w.desc == d
      | _ => false)
    && ((queueOf f q).head.checked || ((checks f d false).isNone && injKind f != 3))

/-- The operands of a head resolve. -/
def resolves (q : Nat) (d : Desc) (f : Fab) : Bool :=
  match resolveBoth d (headChecked q f) with
  | (.inl _, _) => true
  | _ => false

/-- The head `d` of queue `q` issues under `c` as the statements say. -/
def issuesUnder (q : Nat) (c : Instr) (d : Desc) (s : State) : Bool :=
  match resolveBoth d (headChecked q s.fab) with
  | (.inl l, f) => leaves c s (issueHead q d l.1 l.2 f)
  | _ => false

/-- A head that is ready, waits on no fence and resolves, and the outcome of its row. -/
def headCase (q : Nat) (c : Instr) (d : Desc) (s : State) : Bool :=
  headReadyB q d s.fab && (soughtCount d).isNone && resolves q d s.fab && issuesUnder q c d s

theorem headReady_of (q : Nat) (d : Desc) (f : Fab) (h : headReadyB q d f = true) : HeadReady q d f := by
  simp only [headReadyB, Bool.and_eq_true, beq_iff_eq, decide_eq_true_eq, Bool.or_eq_true, bne_iff_ne, ne_eq] at h
  obtain ⟨⟨⟨⟨h1, h2⟩, h3⟩, h4⟩, h5⟩ := h
  refine ⟨h1, h2, h3, ?_, ?_⟩
  · cases e : headItem (queueOf f q) with
    | fresh w => rw [e] at h4; exact ⟨w, rfl, by simpa using h4⟩
    | again r => rw [e] at h4; simp at h4
    | none => rw [e] at h4; simp at h4
  · rcases h5 with h5 | ⟨h5, h6⟩
    · exact .inl h5
    · exact .inr ⟨by simpa using h5, h6⟩

/-- `Runs` as a test. -/
def runs (u : Supply) (s : State) : Bool := !s.fab.pwr.excursion && alive u s.fab

theorem runs_of (u : Supply) (s : State) (h : runs u s = true) : Runs u s := by
  simp only [runs, Bool.and_eq_true, Bool.not_eq_true'] at h
  exact h

theorem ready_runs : Runs .main ready ∧ Runs .ret ready := ⟨runs_of _ _ rfl, runs_of _ _ rfl⟩

/-- The command stops with the fault of log 2. -/
def stops (c : Instr) (s : State) : Bool :=
  match exec c s with
  | .fault .outsideLimits => true
  | _ => false

/-! ### Well-formedness -/

/-- A message with more words than `LENGTH` can state. -/
def longMessage : BdpMsg := ⟨List.replicate 2050 0, 0, 0, false, 0⟩

theorem test_wf_messages_refused :
    (Instr.read longMessage).wf = false ∧ (Instr.write longMessage).wf = false ∧ (Instr.readBlock longMessage).wf = false ∧
    (Instr.command longMessage).wf = false ∧ (Instr.poll longMessage).wf = false ∧ (Instr.subscribe longMessage).wf = false := by
  have n : longMessage.words.length = 2050 := List.length_replicate
  have h : longMessage.wf = false := by unfold BdpMsg.wf; rw [n]; rfl
  exact ⟨h, h, h, h, h, h⟩

theorem test_wf_operands_refused :
    (Instr.mirrorRead 2 false).wf = false ∧ (Instr.mirrorWrite 4 true 0).wf = false ∧ (Instr.frame 0 []).wf = false ∧
    (Instr.stageCanaryCal []).wf = false ∧ (Instr.stageQuickMarch [5, 5]).wf = false ∧ (Instr.stackPortDown 0 3).wf = false := by
  decide

theorem test_wf_operands_taken :
    (Instr.mirrorRead 4 false).wf = true ∧ (Instr.mirrorWrite 8 true 0).wf = true ∧ (Instr.frame 0 (List.replicate 64 0)).wf = true ∧
    (Instr.stageCanaryCal (List.replicate 16 0)).wf = true ∧ (Instr.stageQuickMarch [5, 6]).wf = true ∧
    (Instr.stackPortDown 0 2).wf = true ∧ Instr.ready.wf = true := by decide

theorem test_no_row_has_bits (nbits w : Nat) : decodeTableWord nbits w = none ∧ State.reset.withFetchWord nbits w = State.reset := ⟨rfl, rfl⟩

/-! ### The spec's worked examples -/

/-- R48's table: x / 2^s under NEAREST_EVEN and TOWARD_ZERO. -/
theorem test_rounding_table :
    ([(-11, 2), (-10, 2), (-14, 2), (13, 3)].map fun (e : Int × Nat) => ((roundShift 0 e.1 e.2 1).1, (roundShift 1 e.1 e.2 1).1))
      = [(-3, -2), (-2, -2), (-4, -3), (2, 1)] := by decide

/-- R48: under STOCHASTIC the low two bits r of the new state decide −11 / 4: −3 for r = 0, 1, 2 and −2 for r = 3. -/
theorem test_rounding_stochastic :
    ([0, 2, 3, 1, 0x80000003].map fun (l : BitVec 32) => ((lfsrStep l).toNat % 4, (roundShift 2 (-11) 2 l).1))
      = [(0, -3), (1, -3), (2, -3), (3, -2), (3, -2)] := by decide +kernel

/-- The example of chapter 5: a group of I32 requantized to I8 under NEAREST_EVEN with exponent −12: shift 9, exponent −3. -/
theorem test_requantize_example :
    (requantGroup 8 false 0 0xF4 [40000, -1000, 257, 256] 1).exp = 0xFD ∧
    (requantGroup 8 false 0 0xF4 [40000, -1000, 257, 256] 1).elems = [78, -2, 1, 0] := by decide +kernel

/-- The example of chapter 5: group 0 of a row accumulated under HEADROOM, and under SATURATE. -/
theorem test_accumulate_example :
    let old : List Int := [1000002, -7, 2000000000, 6]
    let new : List Int := [5, 1000, 1700000000, -3]
    ((accGroup 0xF6 old 0xF8 new 0 true 1).exp = 0xF9 ∧ (accGroup 0xF6 old 0xF8 new 0 true 1).elems = [125002, 499, 1100000000, 0]) ∧
    ((accGroup 0xF6 old 0xF8 new 0 false 1).exp = 0xF8 ∧ (accGroup 0xF6 old 0xF8 new 0 false 1).elems = [250005, 998, 2147483647, -1]) ∧
    (accGroup 0x80 [0] 0xFB [7] 0 true 1).exp = 0xFB ∧ (accGroup 0xF6 [7] 0x80 [9] 0 true 1).elems = [7] := by decide +kernel

/-- The example of chapter 2: element 200 of an I4 row with micro-offsets is −5 × 2^(−6 + 2). -/
theorem test_element_example :
    let r : Row := BitVec.ofNat 4608 (place [(800, 0xB), (4096 + 24, 0xFA), (4096 + 306, 2)])
    groupOf 0x31 = 64 ∧ widthOf 0x31 = 4 ∧ signed 4 (((takeApart 0x31 r).elems).getD 200 0) = -5 ∧ signed 8 (expOf r (200 / 64)) = -6 ∧
    microOf r (200 / 8) = 2 := by decide +kernel

/-- The example of chapter 3: the DELIVER of a weight tile, bit by bit, with its parity bits. -/
theorem test_descriptor_example :
    let d := desc [(0, 1), (4, 1), (6, 5), (13, 1), (14, 63), (22, 15), (26, 0x31), (34, 0x31), (45, 2), (80, 0x40), (89, 0x10), (97, 1),
      (125, 1), (192, 0xFFFF), (208, 7)]
    d = 0x800000000007FFFF00000000000000002000000220400000000040C4C7CFE151 ∧ checks ready.fab d false = none := by decide +kernel

/-- The example of chapter 3: packed stride 520, and the stack addresses of rows 1,984 and 2,111 from 0x8C00_0000. -/
theorem test_packed_example :
    strideOf true 0x12 512 = 520 ∧ 0x8C000000 + 1984 * strideOf true 0x12 512 = 0x8C0FBE00 ∧
    0x8C000000 + 2111 * strideOf true 0x12 512 = 0x8C10BFF8 ∧ (placeBank 128 0 (stripeOf 1) 127) = (135, 15) := by decide

/-- R234: the first columns of the code. -/
theorem test_columns :
    ((List.range 6).map columnOf) = [0x007, 0x00B, 0x00D, 0x00E, 0x013, 0x015] ∧ columnOf 84 = 0x01F ∧ columnOf 136 = 256 := by decide

/-- The example of chapter 9: a syndrome of 0x015 is data bit 5, one of 0x0C0 is uncorrectable. -/
theorem test_syndromes :
    classOf (flipBit (encodeWord 77) 5) = .correctable ∧ syndromeOf (flipBit (encodeWord 77) 5) = 0x015 ∧
    deliveredData (flipBit (encodeWord 77) 5) = 77 ∧ classOf (encodeWord 77 ^^^ (BitVec.ofNat 137 (0x0C0 * 2 ^ 128))) = .uncorrectable ∧
    classOf (poisonWord 77) = .poison := by decide +kernel

/-- R69: 10 rows over 4 dies: shares of 3, 3, 2 and 2. -/
theorem test_herd_shares : (List.range 4).map (shareRows 10 4) = [3, 3, 2, 2] := by decide

/-! ### Commands at the queue -/

theorem witness_StepRunsFront : ({ ready with pending := [.ready] } : State).pending = [.ready] ∧ ready.pending = [] := ⟨rfl, rfl⟩

theorem witness_HeadsIssue :
    headCase 0 (.nop 0) dNop (withQueue 0 (holding dNop)) = true ∧
    headCase 255 (.deliver 255) dDeliver (withQueue 255 (holding dDeliver)) = true ∧
    headCase 1 (.collect 1) dCollect (withQueue 1 (holding dCollect)) = true ∧
    headCase 1 (.collectAcc 1) dAcc (withQueue 1 (holding dAcc)) = true ∧
    headCase 1 (.move 1) dMove (withQueue 1 (holding dMove)) = true ∧
    headCase 1 (.spanMove 1) dSpan (withQueue 1 (holding dSpan)) = true ∧
    headCase 1 (.stackGet 1) dGet (withQueue 1 (holding dGet)) = true ∧
    headCase 1 (.stackPut 1) dPut (withQueue 1 (holding dPut)) = true ∧
    headCase 1 (.stackCall 1) dCall (withQueue 1 (holding dCall)) = true ∧
    headCase 1 (.fill 1) dFill (withQueue 1 (holding dFill)) = true ∧
    headCase 1 (.clear 1) dClear (withQueue 1 (holding dClear)) = true ∧
    headCase 1 (.fenceSignal 1) dSignal (withQueue 1 (holding dSignal)) = true := by decide +kernel

/-- No flight: where a descriptor does not resolve. -/
def noFlight : Flight := ⟨0, 0, 0, 0, 0, .none, .none, [], [], [], [], [], none, 0, [], none, none⟩

/-- A flight as its head would have issued it, with an order of issue. -/
def flightAt (ord : Nat) (q : Nat) (d : Desc) : Flight :=
  match resolveBoth d ready.fab with
  | (.inl l, f) => match (queueOf (issueHead q d l.1 l.2 { f with queues := [(q, holding d)] }) q).flights with
    | x :: _ => { x with ord := ord }
    | [] => noFlight
  | _ => noFlight

/-- A queue with one flight. -/
def flying (x : Flight) : Queue := { flights := [x] }

/-- Bits of a residency entry (R206): a valid bank entry of 4 rows at bank 0, row 0. -/
def entryBits : BitVec 128 := mapSetBits ready.fab dSet

/-- A map change that stands, made by descriptor `ord` of queue `q` on entry 5. -/
def changeOf (q ord : Nat) : MapChange := ⟨.descriptor q ord, [5], 0⟩

theorem witness_MapChangesApplyOrWait :
    let sets := withQueue 3 (holding dSet)
    let drops := withQueue 3 (holding dDrop)
    let waits := fun (w : Bool) => having fun f => { f with
      queues := [(3, { holding dSet with head := ⟨true, false, w, false, 0, false⟩ })]
      map := { f.map with changes := [changeOf 0 1] } }
    (headReadyB 3 dSet sets.fab ∧ kindOf (dSrc dSet) ≠ 3 ∧ changeWaits (headChecked 3 sets.fab) [5] = false ∧
      (after (.mapSet 3) sets).map.epoch = 1 ∧ (readEntry 5 (after (.mapSet 3) sets)).1 =
        putBit (putf (mapSetBits sets.fab dSet) 32 16 1) 63 false) ∧
    (headReadyB 3 dDrop drops.fab ∧ changeWaits (headChecked 3 drops.fab) [131071] = false ∧
      (after (.mapDrop 3) drops).map.epoch = 1 ∧ (after (.mapDrop 3) drops).map.changes.length = 1) ∧
    (headReadyB 3 dSet (waits false).fab ∧ changeWaits (headChecked 3 (waits false).fab) [5] = true ∧
      (after (.mapSet 3) (waits false)).map = (waits false).fab.map ∧ counterOf (after (.mapSet 3) (waits false)) 0x8400 0x11 = 1) ∧
    (changeWaits (headChecked 3 (waits true).fab) [5] = true ∧ counterOf (after (.mapSet 3) (waits true)) 0x8400 0x11 = 0) := by
  decide +kernel

theorem witness_FenceWaitAndNop :
    let at_ := fun (n : BitVec 16) => having fun f => { f with queues := [(0, holding dWait)], fences := [(63, n)] }
    let nop := withQueue 0 (holding dNop)
    (headReadyB 0 dWait (at_ 3).fab ∧ oCount (dSrc dWait) = 3 ∧ kindOf (dSrc dWait) = 6 ∧ kindOf (dDst dWait) = 0 ∧
      fenceOf (after (.fenceWait 0) (at_ 3)) 63 = 0 ∧ (queueOf (after (.fenceWait 0) (at_ 3)) 0).seq = 1) ∧
    (headReadyB 0 dWait (at_ 2).fab ∧ fenceOf (after (.fenceWait 0) (at_ 2)) 63 = 2 ∧
      (queueOf (after (.fenceWait 0) (at_ 2)) 0).head.onFence = true) ∧
    (headReadyB 0 dNop nop.fab ∧ kindOf (dSrc dNop) = 0 ∧ kindOf (dDst dNop) = 0 ∧ dFsignal dNop = false ∧
      (queueOf (after (.nop 0) nop) 0).flights = [] ∧ (queueOf (after (.nop 0) nop) 0).seq = 1) := by decide +kernel

theorem witness_IntakeTakesOrDiscards :
    let held := fun (n : Nat) => withQueue 255 { intake := List.replicate n ⟨dNop, 0⟩, credits := 8 - n }
    (queueOf (held 7).fab 255).intake.length = 7 ∧ (queueOf (after (.descriptorIntake 255 dMove) (held 7)) 255).intake.length = 8 ∧
    (queueOf (held 8).fab 255).intake.length = 8 ∧ thresholdOf (held 8).fab (0x8200 + 255) 2 = 0 ∧
      counterOf (after (.descriptorIntake 255 dMove) (held 8)) (0x8200 + 255) 2 = 1 ∧
      (after (.descriptorIntake 255 dMove) (held 8)).ev = (held 8).fab.ev ∧ (after (.descriptorIntake 255 dMove) (held 8)).out = [] := by
  decide +kernel

theorem witness_StopAndAbortEmptyQueue :
    let at_ := fun (n : BitVec 2) => withQueue 7 { qstate := n, flights := [flightAt 0 7 dWait] }
    (abortable (at_ 0).fab (flightAt 0 7 dWait) = false ∧ (flightAt 0 7 dWait).stopping = none) ∧
    ((queueOf (after (.stop 7) (at_ 0)) 7).qstate = 1 ∧ (queueOf (after (.stop 7) (withQueue 7 {})) 7).qstate = 3) ∧
    leaves (.stop 7) (at_ 1) (emit (at_ 1).fab (.status 0)) ∧
    (queueOf (after (.abort 7) (at_ 1)) 7).qstate = 3 ∧ (queueOf (after (.abortSwitch 7) (at_ 0)) 7).reason = 2 ∧
    leaves (.abort 7) (at_ 2) (emit (at_ 2).fab (.status 0)) ∧ leaves (.abortSwitch 7) (at_ 3) (emit (at_ 3).fab (.status 0)) := by
  decide +kernel

theorem witness_AbortsRun :
    let x := flightAt 0 2 dFill
    let s := withQueue 2 (flying x)
    let ends := withQueue 2 { qstate := 2, flights := [{ x with stopping := some ⟨1, 0, 0⟩ }] }
    (flightDone x = false ∧ x.stopping = none ∧ x.segs = [] ∧ dOp x.desc = 9 ∧ s.fab.ports = [] ∧
      (queueOf (after (.abort 2) s) 2).qstate = 2 ∧ (queueOf (after (.abortSwitch 2) s) 2).reason = 2) ∧
    (ownerBusy (.flight 2 0) ends.fab = false ∧ (queueOf (after (.abortComplete 2) ends) 2).qstate = 3 ∧
      (queueOf (after (.abortComplete 2) ends) 2).records.length = 1 ∧
      counterOf (after (.abortComplete 2) ends) (0x8200 + 2) 5 = 1) := by decide +kernel

theorem witness_AbortsRun_ports (p : Nat) (b : Burst) :
    ¬ (burstOf (portOf (withQueue 2 (flying (flightAt 0 2 dFill))).fab p) = some b ∨
      nextBurst (portOf (withQueue 2 (flying (flightAt 0 2 dFill))).fab p) = some b) := by
  have h : portOf (withQueue 2 (flying (flightAt 0 2 dFill))).fab p = {} := rfl
  rw [h]
  rintro (h | h) <;> cases h

theorem witness_AbortsRun_resume :
    let r : AbortRec := ⟨0, dMove, 1, 0, 2, 0, 0, 0⟩
    let o : AbortRec := ⟨1, dFill, 1, 0, 0, 0, 0, 0⟩
    let at_ := fun (n : BitVec 2) => withQueue 9 { qstate := n, reason := 1, records := [r], reissue := [o], intake := [⟨dNop, 0⟩] }
    (queueOf (after (.resumeReissue 9) (at_ 3)) 9).reissue = [r, o] ∧ (queueOf (after (.resumeReissue 9) (at_ 3)) 9).qstate = 0 ∧
    (queueOf (after (.resumeDiscard 9) (at_ 3)) 9).reissue = [] ∧ (queueOf (after (.resumeDiscard 9) (at_ 3)) 9).records = [] ∧
    leaves (.resumeReissue 9) (at_ 2) (emit (at_ 2).fab (.status 6)) ∧
    leaves (.resumeDiscard 9) (at_ 0) (emit (at_ 0).fab (.status 6)) := by decide +kernel

/-- A fill with its rows done, which signals fence 63. -/
def doneFill : Flight :=
  let x := flightAt 0 4 (desc ([(0, 9), (6, 63), (13, 1), (125, 5), (64, 7)] ++ shape 4 ++ bankAt 128 0 0))
  { x with done := 4, legs := x.legs.map fun l => { l with next := l.total } }

theorem witness_CompletionSignals :
    let at_ := fun (n : BitVec 16) => having fun f => { f with queues := [(4, flying doneFill)], fences := [(63, n)] }
    flightDone doneFill = true ∧ doneFill.stopping = none ∧ doneFill.seq = 0 ∧ dOp doneFill.desc < 13 ∧
    dFsignal doneFill.desc = true ∧ fenceOf (after (.descriptorComplete 4 0) (at_ 7)) 63 = 8 ∧
    fenceOf (after (.descriptorComplete 4 0) (at_ 0xFFFF)) 63 = 0xFFFF ∧
    (queueOf (after (.descriptorComplete 4 0) (at_ 7)) 4).flights = [] := by decide +kernel

theorem witness_CompletionSignals_plain :
    let plain := { flightAt 0 4 dFill with legs := doneFill.legs, done := 4 }
    flightDone plain = true ∧ plain.stopping = none ∧ plain.seq = 0 ∧ dOp plain.desc < 13 ∧ dFsignal plain.desc = false ∧
      (after (.descriptorComplete 4 0) (withQueue 4 (flying plain))).fences = [] := by decide +kernel

theorem witness_CompletionSignals_signal :
    let x := { flightAt 1 4 dSignal with legs := [] }
    let s := having fun f => { f with queues := [(4, flying x)], fences := [(63, 5)] }
    let waits := having fun f => { f with queues := [(4, { flights := [x], reissue := [⟨0, dNop, 1, 0, 0, 0, 0, 0⟩] })] }
    localSignal s.fab x.desc = true ∧ x.stopping = none ∧ x.seq = 0 ∧ oCount (dDst x.desc) = 0xFFFF ∧
    (earlierPending (queueOf s.fab 4) 1 = false ∧ fenceOf (after (.descriptorComplete 4 0) s) 63 = 0xFFFF ∧
      (queueOf (after (.descriptorComplete 4 0) s) 4).flights = []) ∧
    (earlierPending (queueOf waits.fab 4) 1 = true ∧ still (.descriptorComplete 4 0) waits = true) := by decide +kernel

theorem witness_MapChangesApplyOrWait_complete :
    let x := { noFlight with ord := 1, desc := desc [(0, 12), (6, 5), (13, 1), (189, 3), (128, 5)] }
    let s := having fun f => { f with queues := [(4, flying x)], map := { f.map with epoch := 1, changes := [changeOf 4 1] } }
    oldestChangeDone s.fab = some (changeOf 4 1) ∧ dOp x.desc = 12 ∧ dFsignal x.desc = true ∧
    (after .mapChangeComplete s).map.changes = [] ∧ fenceOf (after .mapChangeComplete s) 5 = 1 ∧
    (queueOf (after .mapChangeComplete s) 4).flights = [] := by decide +kernel

theorem witness_FenceWaitAndNop_long :
    let at_ := fun (n : Nat) (r : Bool) => withQueue 1 { holding dWait with head := ⟨true, false, false, true, n, r⟩ }
    headItem (queueOf (at_ 2 false).fab 1) = .fresh ⟨dWait, 0⟩ ∧ (at_ 2 false).fab.fenceLimit = 2 ∧
    counterOf (after (.fenceLongWait 1) (at_ 2 false)) (0x8200 + 1) 4 = 1 ∧ still (.fenceLongWait 1) (at_ 2 true) = true := by
  decide +kernel

/-! ### Rounds, beats and the operand network -/

/-- Slot entry with even parity (R90). -/
def slotEntry (kind queue burst : Nat) : BitVec 16 :=
  let e : BitVec 16 := BitVec.ofNat 16 (queue + 256 * kind + 1024 * burst)
  putBit e 15 (oddOnes 15 e.toNat)

/-- READY with a FILL of queue 5 in flight on XP0, round 0 of that port given by `e`, and the port as given. -/
def atRound (e : BitVec 16) (x : Port) : State :=
  { having (fun f => { f with queues := [(5, flying (flightAt 0 5 dFill))], ports := [(16, x)] }) with
    slots := tset slotDefault [] (slotKey 0 16 0) e }

/-- The round that a decision of XP0 begins. -/
def decided (s : State) : Round := (portOf (after (.roundDecision 16) s) 16).cur

/-- The requester of the burst that runs on port p, its length and its place. -/
def runningOn (p : Nat) (f : Fab) : Option (Nat × Nat × Nat) := (burstOf (portOf f p)).map fun b => (b.req, b.len, b.moved)

theorem witness_RoundDecisions :
    let owned := slotEntry 1 5 15
    let pre := fun (s : State) => portRuns s.fab 16 && (portOf s.fab 16).cur == .idle && s.fab.lop.zero.isNone
      && !bitAt s.fab.th.frozen 0 && !forcedIdle s.fab 16
    let g := fun (s : State) => refreshReqs 16 (tickGuards 16 s.fab)
    (pre (atRound owned { freeze := true }) ∧ stillPort (g (atRound owned { freeze := true })) 16 = true ∧
      decided (atRound owned { freeze := true }) = .empty) ∧
    (stillPort (g (atRound owned {})) 16 = false ∧ fallback (g (atRound owned {})) = false ∧ injKind (g (atRound owned {})) = 0) ∧
    (eOdd (putBit owned 15 false) = true ∧ decided (atRound (putBit owned 15 false) {}) = .empty ∧
      counterOf (after (.roundDecision 16) (atRound (putBit owned 15 false) {})) (0x8100 + 16) 0x0E = 1) ∧
    (eOdd (slotEntry 2 0 0) = false ∧ eKind (slotEntry 2 0 0) = 2 ∧ decided (atRound (slotEntry 2 0 0) {}) = .empty) ∧
    (eOdd owned = false ∧ ownerOf owned = some 5 ∧ (readyOn (g (atRound owned {})) 16).contains 5 = true ∧
      (wantsOf (ahead 16 (g (atRound owned {}))) 16 5).isSome = true ∧
      runningOn 16 (after (.roundDecision 16) (atRound owned {})) = some (5, 4, 0)) := by decide +kernel

theorem witness_RoundDecisions_guard :
    let s := atRound slotDefault { reqs := [(5, { since := some 0, guard := 4095 })] }
    let g := refreshReqs 16 (tickGuards 16 s.fab)
    eOdd slotDefault = false ∧ eKind slotDefault = 0 ∧ guardedOf g 16 (readyOn g 16) = some 5 ∧
    (wantsOf (ahead 16 g) 16 5).isSome = true ∧ counterOf (after (.roundDecision 16) s) (0x8100 + 16) 0x0F = 1 := by decide +kernel

theorem witness_RoundDecisions_dilution :
    let s := having fun f => { f with th := { f.th with level := 3 }, ports := [(0, { dilution := 1 })] }
    portRuns s.fab 0 = true ∧ (portOf s.fab 0).cur = .idle ∧ forcedIdle s.fab 0 = true ∧ dilutionOf s.fab = 2 ∧
    (portOf (after (.dilutionForcedIdle 0) s) 0).cur = .empty ∧ (portOf (after (.dilutionForcedIdle 0) s) 0).dilution = 0 := by
  decide +kernel

/-- A FILL of 4 rows of bank 1. -/
def dFillB : Desc := desc ([(0, 9), (125, 5), (64, 7)] ++ shape 4 ++ bankAt 128 1 0)

/-- READY with FILLs of queues 5 and 6 in flight on XP0, each queue in a level, and the port as given. -/
def twoFills (a b : Queue) (x : Port) : State :=
  having fun f => { f with queues := [(5, { a with flights := [flightAt 0 5 dFill] }), (6, { b with flights := [flightAt 1 6 dFillB] })]
                           ports := [(16, x)] }

/-- The fabric as a decision of XP0 ranks it. -/
def rankedAt (s : State) : Fab := refreshReqs 16 (tickGuards 16 s.fab)

/-- The first two parts of `RankingAndPreemption`: the higher level, the greater age, the rotation, the quota and the back-off. -/
theorem witness_RankingAndPreemption :
    let high : Queue := { level := 3 }
    let s := twoFills {} high {}
    let aged := twoFills {} {} { rounds := 9, reqs := [(6, { since := some 2 })] }
    let turn := fun l => twoFills {} {} { lastAt := l }
    let full := fun n => twoFills {} high { reqs := [(6, { used := n })] }
    let back := fun n => twoFills { level := 0 } { level := 0 } { reqs := [(5, { backUntil := n, losses := 2 }), (6, { backUntil := n })] }
    let won := fun s => runningOn 16 (after (.roundDecision 16) s)
    let req := fun s r => tget {} (portOf (after (.roundDecision 16) s) 16).reqs r
    (portRuns s.fab 16 = true ∧ forcedIdle s.fab 16 = false ∧ stillPort (rankedAt s) 16 = false ∧ fallback (rankedAt s) = false ∧
      injKind (rankedAt s) ≠ 4 ∧ activeSlot s.slots (rankedAt s) 16 0 = slotDefault ∧ readyOn (rankedAt s) 16 = [5, 6] ∧
      guardedOf (rankedAt s) 16 [5, 6] = none ∧ levelOf (rankedAt s) 6 = 4 ∧ won s = some (6, 4, 0) ∧
      tget none (portOf (after (.roundDecision 16) s) 16).lastAt 4 = some 6 ∧ (req s 6).used = 1 ∧ (req s 5).losses = 1 ∧
      (req s 5).backUntil = 2) ∧
    (ageOf 9 (tget {} (portOf (rankedAt aged) 16).reqs 6) = 7 ∧ ageOf 9 (tget {} (portOf (rankedAt aged) 16).reqs 5) = 0 ∧
      won aged = some (6, 4, 0)) ∧
    (won (turn []) = some (5, 4, 0) ∧ won (turn [(2, some 5)]) = some (6, 4, 0) ∧ won (turn [(2, some 6)]) = some (5, 4, 0)) ∧
    (won (full 15) = some (6, 4, 0) ∧ won (full 16) = some (5, 4, 0)) ∧
    (won (back 1) = none ∧ decided (back 1) = .empty ∧ won (back 0) = some (5, 4, 0) ∧ (req (back 0) 6).backUntil = 2) ∧
    (still (.roundDecision 16) (having fun f => { f with ports := [(16, { cur := .burst ⟨5, 0, 0, .owned, 4, 1, 0, 0, 0, false, false, false, false⟩ })] }) = true ∧
      still (.roundDecision 16) (having fun f => { f with ports := [(16, { cur := .burst ⟨5, 0, 0, .owned, 4, 3, 0, 0, 0, false, false, false, false⟩
                                                                           next := some .empty })] }) = true) := by decide +kernel

theorem witness_FirstAfter : FirstAfter none 5 [5, 6] ∧ FirstAfter (some 5) 6 [5, 6] ∧ FirstAfter (some 6) 5 [5, 6] ∧ ¬ FirstAfter (some 5) 5 [5, 6] := by
  unfold FirstAfter; decide

/-- A decision during the last beat of a burst, and in an empty round: the owner of the next round. -/
theorem witness_RankingAndPreemption_next :
    let b : Burst := ⟨5, 0, 0, .owned, 4, 3, 0, 0, 0, false, false, false, false⟩
    let at_ := fun (c : Round) (n : BitVec 8) =>
      { twoFills {} {} { cur := c, round := n } with slots := tset slotDefault [] (slotKey 0 16 (n.toNat + 1)) (slotEntry 1 6 15) }
    let s := at_ (.burst b) 254
    let a := after (.roundDecision 16) s
    let e := after (.roundDecision 16) (at_ .empty 0)
    (portRuns s.fab 16 = true ∧ (portOf s.fab 16).wrapped = false ∧ eOdd (activeSlot s.slots (rankedAt s) 16 255) = false ∧
      ownerOf (activeSlot s.slots (rankedAt s) 16 255) = some 6 ∧ (readyOn (rankedAt s) 16).contains 6 = true ∧
      (wantsOf (ahead 16 (rankedAt s)) 16 6).isSome = true) ∧
    ((portOf a 16).cur = .burst b ∧ ((nextBurst (portOf a 16)).map fun n => (n.req, n.moved)) = some (6, 0) ∧ (portOf a 16).round = 254 ∧
      counterOf a (0x8100 + 16) 2 = 1) ∧
    (runningOn 16 e = some (6, 4, 0) ∧ (portOf e 16).round = 1 ∧ (portOf e 16).next = none ∧ counterOf e (0x8100 + 16) 8 = 1) := by
  decide +kernel

/-- The check at the start of a beat: a burst that goes on, a guarded requester, and an URGENT queue, the older of two. -/
theorem witness_RankingAndPreemption_preempt :
    let b : Burst := ⟨5, 0, 0, .background, 4, 1, 0, 0, 0, false, false, false, false⟩
    let urgent : Queue := { level := 3, urgent := true }
    let at_ := fun (q : Queue) (r : List (Nat × Req)) (e : BitVec 16) =>
      { twoFills {} q { cur := .burst b, reqs := r } with slots := tset slotDefault [] (slotKey 0 16 1) e }
    let next := fun s => (nextBurst (portOf (checkPreempt s.slots 16 s.fab) 16)).map fun n => (n.req, n.moved)
    let stays := fun (s : State) => decide (checkPreempt s.slots 16 s.fab = refreshReqs 16 s.fab)
    let three := having fun f => { f with
      queues := [(5, { flights := [flightAt 0 5 dFill] }), (6, { urgent with flights := [flightAt 1 6 dFillB] }),
        (7, { urgent with flights := [flightAt 2 7 (desc ([(0, 9), (125, 5), (64, 7)] ++ shape 4 ++ bankAt 128 2 0))] })]
      ports := [(16, { cur := .burst b, rounds := 9, reqs := [(6, { since := some 3 }), (7, { since := some 2 })] })] }
    preemptible (at_ {} [] slotDefault).fab b = true ∧ b.moved + 1 ≠ b.len ∧
    (stays (at_ urgent [] (putBit slotDefault 0 true)) = true ∧ stays (at_ urgent [] (slotEntry 2 0 0)) = true ∧
      stays (at_ urgent [] (slotEntry 1 6 15)) = true ∧ stays (at_ urgent [] (slotEntry 1 5 15)) = true) ∧
    stays (at_ {} [] slotDefault) = true ∧
    (next (at_ urgent [] slotDefault) = some (6, 0) ∧
      counterOf (checkPreempt [] 16 (at_ urgent [] slotDefault).fab) (0x8100 + 16) 6 = 1 ∧
      next (at_ urgent [(6, { used := 16 })] slotDefault) = none ∧ next (at_ urgent [(6, { used := 15 })] slotDefault) = some (6, 0) ∧
      next (at_ urgent [(6, { backUntil := 2 })] slotDefault) = none ∧ next (at_ urgent [(6, { backUntil := 1 })] slotDefault) = some (6, 0)) ∧
    (next (at_ {} [(6, { since := some 0, guard := 4096 })] slotDefault) = some (6, 0) ∧
      next (at_ {} [(6, { since := some 0, guard := 4095 })] slotDefault) = none) ∧
    (next three = some (7, 0) ∧ burstOf (portOf (checkPreempt [] 16 three.fab) 16) = some { b with lastBeat := true }) := by decide +kernel

theorem witness_RankingAndPreemption_ends :
    let x := { flightAt 0 5 dClear with legs := (flightAt 0 5 dClear).legs.map fun l => { l with next := 2 } }
    let b : Burst := ⟨5, 0, 0, .background, 4, 2, 0, 6, 0, false, false, false, true⟩
    let s := having fun f => { f with queues := [(5, flying x)], ports := [(16, { cur := .burst { b with guard := 11 }, next := some .empty })] }
    let a := after (.beat 16 .prompt) s
    (x.legs.map fun l => (l.kind, gateOf s.fab 16 5 x 0 l l.next)) = [(.clear, .go)] ∧
    (portOf a 16).cur = .empty ∧ (portOf a 16).round = 1 ∧ ((flightOf a 5 0).map fun y => y.legs.map (·.next)) = some [0] ∧
    (tget {} (portOf a 16).reqs 5).since = some 6 ∧ (tget {} (portOf a 16).reqs 5).guard = 11 := by decide +kernel

theorem witness_WindowBoundaries :
    let s := having fun f => { f with
      ports := [(31, { cur := .empty, round := 255, commit := some 1, reqs := [(7, { used := 9 })] })]
      lop := { f.lop with ops := [⟨1, 3, none, false⟩], commits := [⟨1, 0x80000000, 0, [], 0, 0⟩] } }
    portRuns s.fab 31 = true ∧ (portOf s.fab 31).cur ≠ .idle ∧ (portOf s.fab 31).round = 255 ∧ (portOf s.fab 31).wrapped = false ∧
    (portOf (after (.windowBoundary 31) s) 31).windows = 1 ∧ (portOf (after (.windowBoundary 31) s) 31).active = true ∧
    (portOf (after (.windowBoundary 31) s) 31).commit = none ∧
    (tget {} (portOf (after (.windowBoundary 31) s) 31).reqs 7).used = 0 := by decide +kernel

/-- A burst of queue 5's flight on XP0. -/
def burst5 (moved : Nat) : Burst := ⟨5, 0, 0, .owned, 4, moved, 0, 0, 0, false, false, false, false⟩

/-- READY with one burst of queue 5 under way on XP0. -/
def inBurst (x : Flight) (moved : Nat) : State :=
  having fun f => { f with queues := [(5, flying x)], ports := [(16, { cur := .burst (burst5 moved) })] }

theorem witness_BeatsMoveRows :
    let x := { flightAt 0 5 dFill with legs := (flightAt 0 5 dFill).legs.map fun l => { l with next := 1 } }
    let s := inBurst x 1
    checkPreempt s.slots 16 s.fab = s.fab ∧ burstOf (portOf s.fab 16) = some (burst5 1) ∧ flightOf s.fab 5 0 = some x ∧
    (x.legs.map fun l => (l.kind, gateOf s.fab 16 5 x 0 l (legStart s.fab 5 x 0 l))) = [(.fill, .go)] ∧ regionWaits s.fab 16 = false ∧
    (after (.beat 16 .prompt) s).store = (writeTile 16 256 0x12 512 (fillRow 0x12 512 7 0) false s.fab).store ∧
    counterOf (after (.beat 16 .prompt) s) (0x8100 + 16) 1 = 1 ∧
    runningOn 16 (after (.beat 16 .prompt) s) = some (5, 4, 2) ∧ rawState (after (.beat 16 .prompt) s).store 256 = 1 ∧
    ((flightOf (after (.beat 16 .prompt) s) 5 0).map (·.stopping)) = some none := by decide +kernel

theorem witness_BeatsMoveRows_clear :
    let x := flightAt 0 5 dClear
    let s0 := inBurst x 0
    let s : State := { s0 with fab := { s0.fab with store := { s0.fab.store with rstate := [(0, 0x10001)] } } }
    (x.legs.map fun l => (l.kind, gateOf s.fab 16 5 x 0 l l.next, writeAddr x l l.next)) = [(.clear, .go, 0)] ∧
    (queueOf s.fab 5).flights = [x] ∧ x.ord = 0 ∧ s.fab.integ.march = none ∧ rawState s.fab.store 0 = 1 ∧
    rawState (after (.beat 16 .prompt) s).store 0 = 0 ∧ runningOn 16 (after (.beat 16 .prompt) s) = some (5, 4, 1) := by
  decide +kernel

/-- READY with row 0 in a state, its words given, and a port's posted write of it if any. -/
def withRow (st : Nat) (ws : List Code) (b : Option Pwb) : State :=
  having fun f => { f with store := { f.store with rstate := [(0, withParity st)], rows := [(0, ws)], pwb := [(0, b)] } }

/-- 36 words of which word 35 is `c` and every other one holds 5. -/
def lastWord (c : Code) : List Code := List.replicate 35 (encodeWord 5) ++ [c]

/-- `RowSound` as a test. -/
def soundB (f : Fab) (ra : Nat) : Bool :=
  !oddOnes 17 (stateWord f.store ra).toNat && (rmwWords f.store ra).length == 36 && injKind f != 1 && injKind f != 2

/-- The row whose words all hold 5. -/
def good : Row := rowOfWords (List.replicate 36 5)

/-- A read of row 0 by XP0: the state and the repair queue after it, and what it hands on. -/
def readCase (s : State) : Nat × List Nat × Row × Bool × Bool :=
  let r := readRow 16 5 0 s.fab
  (rawState r.2.store 0, tget [] r.2.integ.repairs 0, r.1.row, r.1.poison, r.1.bleat)

set_option maxRecDepth 20000 in
theorem witness_RowsReadAndStored_read :
    let clean := withRow 1 (lastWord (encodeWord 5)) none
    let one := withRow 1 (lastWord (flipBit (encodeWord 5) 136)) none
    let two := withRow 1 (lastWord (flipBit (flipBit (encodeWord 5) 0) 1)) none
    let blank := withRow 0 (lastWord (encodeWord 5)) none
    (soundB clean.fab 0 && soundB blank.fab 0) = true ∧
    readCase blank = (0, [], blankRow, false, false) ∧ counterOf (readRow 16 5 0 blank.fab).2 (0x8100 + 16) 0x0D = 1 ∧
    readCase clean = (1, [], good, false, false) ∧ readCase one = (1, [0], good, false, false) ∧
    (readCase two).1 = 2 ∧ (readCase two).2.2.2.1 = true := by decide +kernel

set_option maxRecDepth 20000 in
theorem witness_RowsReadAndStored_poison :
    let held := fun (p : Nat) => withRow 1 (lastWord (encodeWord 5)) (some ⟨0, 0, lastWord (encodeWord 5), 1, p⟩)
    soundB (held 17).fab 0 = true ∧ readCase (withRow 1 (lastWord (poisonWord 5)) none) = (1, [], good, true, false) ∧
    (readCase (withRow 2 (lastWord (encodeWord 5)) none)) = (2, [], good, true, false) ∧
    (readCase (withRow 3 (lastWord (encodeWord 5)) none)) = (3, [], good, true, false) ∧
    heldMask (held 17).fab.store 0 16 = 1 ∧ (readCase (held 17)).2.2.2.2 = true ∧ readCase (held 16) = (1, [], good, false, false) := by
  decide +kernel

/-- A write of row 0 by XP0: the state and the words after it. -/
def writeCase (bm : Nat) (poison : Bool) (s : State) : Nat × List Code :=
  let f := writeRow 16 0 7 9 bm poison s.fab
  (rawState f.store 0, rmwWords f.store 0)

set_option maxRecDepth 20000 in
theorem witness_RowsReadAndStored_write :
    let at_ := fun (st : Nat) => withRow st (List.replicate 36 (encodeWord 5)) none
    let all := 2 ^ 576 - 1
    let rest := List.replicate 35 (encodeWord 5)
    let bad := withRow 1 (poisonWord 5 :: rest) none
    bufferTakes (at_ 1).fab.store 0 false = true ∧ soundB (at_ 2).fab 0 ∧
    writeCase 1 false (at_ 0) = (1, encodeRow 9) ∧ writeCase all true (at_ 0) = (2, poisonRow 9) ∧
    writeCase all false (at_ 2) = (1, encodeRow 7) ∧ writeCase all true (at_ 1) = (2, poisonRow 7) ∧
    (mergesAt (at_ 1).fab.store 0 0xFFFF false = false ∧ writeCase 0xFFFF false (at_ 1) = (1, encodeWord 7 :: rest)) ∧
    (mergesAt (at_ 1).fab.store 0 1 false = true ∧ writeCase 1 false (at_ 1) = (1, encodeWord 7 :: rest)) ∧
    (mergesAt bad.fab.store 0 1 false = true ∧ writeCase 1 false bad = (2, poisonWord 7 :: rest) ∧
      writeCase 0xFFFF false (at_ 2) = (1, encodeWord 7 :: rest)) ∧
    (writeCase 0xFFFF true (at_ 1) = (2, (encodeWord 7 :: rest).map fun c => poisonWord (dataOf c))) := by decide +kernel

/-- The store after a leg row moves through XP0 for queue 5, and the flights' held rows. -/
def moved (x : Flight) (f : Fab) : Option (Store × List (Nat × Nat)) :=
  match x.legs with
  | l :: _ => let t := moveRow 16 5 x 0 l 0 f
    some (t.store, ((queueOf t 5).flights.map fun y => y.held.map fun h => (h.leg, h.idx)).flatten)
  | [] => none

/-- The kinds of a flight's first two legs. -/
def kindsOf (x : Flight) : List LegKind := (x.legs.take 2).map (·.kind)

set_option maxRecDepth 20000 in
theorem witness_RowsReadAndStored_moves :
    let m := flightAt 0 5 dMove
    let w := { m with legs := m.legs.drop 1, held := [⟨0, 0, 7, true, false⟩] }
    let g := flightAt 0 5 dGet
    let c := flightAt 0 5 dCollect
    let s := having fun f => { f with queues := [(5, flying m)] }
    let rx := having fun f => { f with kports := [(1, { rx := [⟨.flight 5 0, 0, 9, false, 0, 9⟩] })] }
    let ret := having fun f => { f with clusters := [(0, { ret := [⟨0, 0, some 9, none, none, none⟩] })] }
    (kindsOf m = [.moveRead, .moveWrite] ∧ ((moved m s.fab).map (·.2)) = some [(1, 0)]) ∧
    (kindsOf w = [.moveWrite] ∧ ((moved w s.fab).map (·.1)) =
      some (writeTile 16 8192 0x12 512 (copyRow 0x12 512 7 0 0) true s.fab).store) ∧
    (kindsOf g = [.stackWrite] ∧ ((moved g rx.fab).map (·.1)) =
      some (writeTile 16 0 0x12 512 (copyRow 0x12 512 9 0 0) false rx.fab).store) ∧
    (kindsOf c = [.collect] ∧ ((moved c ret.fab).map fun t => rawState t.1 0) = some 1) := by decide +kernel

set_option maxRecDepth 20000 in
theorem witness_RowsReadAndStored_deliver :
    let d := flightAt 0 5 dDeliver
    let s := (withRow 1 (encodeRow 3) none).fab
    kindsOf d = [.deliver] ∧ dRotate d.desc = 0 ∧
    (d.legs.map fun l => (portOf (moveRow 0 5 d 0 l 0 s) 0).pipe.map fun z => (fld z.row 0 4096, z.mcast)) = [[(3, 1)]] := by decide +kernel

/-- What a contribution of ones with tag 15 in epoch 1 does to row 0 of type I32. -/
def addCase (s : State) : AccEnd × Fab :=
  accumulate 16 5 0 ⟨⟨List.replicate 128 1, List.replicate 2 0xF6, []⟩, 15, 1, 0x14, 0, true, 512⟩ s.fab

set_option maxRecDepth 20000 in
theorem witness_RowsAccumulate :
    let row := fun (contrib epoch : Nat) => encodeRow (putTogether 0x14 ⟨List.replicate 128 2, List.replicate 2 0xF6, []⟩ contrib epoch)
    let sum := fun (contrib epoch n : Nat) => encodeRow (putTogether 0x14 ⟨List.replicate 128 n, List.replicate 2 0xF6, []⟩ contrib epoch)
    let at_ := fun (st : Nat) (ws : List Code) => withRow st ws none
    let count := fun (s : State) n => counterOf (addCase s).2 (0x8100 + 16) n
    bufferTakes (at_ 1 []).fab.store 0 true = true ∧
    ((addCase (at_ 2 (row 0 1))).1 = .poisoned ∧ rmwWords (addCase (at_ 2 (row 0 1))).2.store 0 = row 0 1 ∧
      count (at_ 2 (row 0 1)) 0x1A = 1 ∧ (addCase (at_ 1 (lastWord (poisonWord 5)))).1 = .poisoned) ∧
    ((addCase (at_ 1 (row (2 ^ 15) 1))).1 = .repeated ∧ count (at_ 1 (row (2 ^ 15) 1)) 0x15 = 1) ∧
    ((addCase (at_ 1 (row (2 ^ 14) 1))).1 = .added ∧ rmwWords (addCase (at_ 1 (row (2 ^ 14) 1))).2.store 0 = sum (2 ^ 15 + 2 ^ 14) 1 3 ∧
      count (at_ 1 (row (2 ^ 14) 1)) 0x14 = 1 ∧ count (at_ 1 (row (2 ^ 14) 1)) 0x16 = 0) ∧
    ((addCase (at_ 1 (row (2 ^ 15) 2))).1 = .added ∧ count (at_ 1 (row (2 ^ 15) 2)) 0x16 = 1) ∧
    ((addCase (at_ 0 (row 0 1))).1 = .added ∧ rmwWords (addCase (at_ 0 (row 0 1))).2.store 0 = sum (2 ^ 15) 1 1) := by decide +kernel

theorem witness_RowsAccumulate_groups :
    let top : List Int := [2 ^ 31 - 1, -(2 ^ 31)]
    (∀ x ∈ top ++ [1, -1], fits 32 x = true) ∧
    accGroup 5 top voidExp [1, -1] 0 true 1 = ⟨5, top, false, 0, false, 1⟩ ∧ accGroup voidExp [1, -1] 5 top 0 true 1 = ⟨5, top, false, 0, false, 1⟩ ∧
    ((accGroup 5 top 5 [0, 0] 0 true 1).elems = top ∧ (accGroup 5 top 5 [0, 0] 0 true 1).headroom = false) ∧
    ((accGroup 5 top 5 [1, -1] 0 false 1).elems = top ∧ (accGroup 5 top 5 [1, -1] 0 false 1).saturated = 2) ∧
    ((accGroup 127 top 127 [1, -1] 0 true 1).elems = top ∧ (accGroup 127 top 127 [1, -1] 0 true 1).expSat = true) ∧
    ((accGroup 126 top 126 [1, -1] 0 true 1).exp = 127 ∧ (accGroup 126 top 126 [1, -1] 0 true 1).headroom = true ∧
      (accGroup 126 top 126 [1, -1] 0 true 1).elems = [2 ^ 30, -(2 ^ 30)]) := by decide +kernel

theorem witness_PostedWritesAndGuardEnds :
    let w : Pwb := ⟨0, 255, List.replicate 36 (encodeWord 5), 1, 16⟩
    let s := having fun f => { f with store := { f.store with pwb := [(511, some w)] } }
    let g := fun (e : Bool) => having fun f => { f with ports := [(16, { cur := .burst { burst5 1 with ended := e } })] }
    (tget none s.fab.store.pwb 511 = some w ∧ s.fab.lop.zero = none ∧
      (arrayWords (after (.postedWriteRetire 511) s).store (256 * 511 + 255)).head? = some (encodeWord 5) ∧
      (after (.postedWriteRetire 511) s).store.pwb = []) ∧
    (preemptible (g false).fab (burst5 1) = false ∧ counterOf (after (.guardEnd 16 .bankCycle) (g false)) (0x8100 + 16) 0x10 = 1 ∧
      still (.guardEnd 16 .crossbar) (g true) = true) := by decide +kernel

/-- A pipeline row for clusters `m`. -/
def pipeRow (m : BitVec 16) : PipeRow := ⟨0, 7, m, [], 0, none, false⟩

theorem witness_CrossbarMovesAndLatches :
    let r := { pipeRow 3 with groups := [(0, 5), (1, 5)], shown := some 0 }
    let s := having fun f => { f with ports := [(2, { pipe := [r] })], clusters := [(1, { bus := some ⟨r, 1, 0⟩ })] }
    let full := having fun f => { f with ports := [(2, { pipe := [r] })], clusters := [(1, { bus := some ⟨r, 1, 0⟩, dbuf := List.replicate 8 r })] }
    canCross s.fab 2 = true ∧ waitMask s.fab 0 r ≠ 0 ∧ (clusterOf (after (.crossbarMove 2) s) 0).bus.isSome = true ∧
    (clusterOf (after (.crossbarMove 2) s) 1).dbuf = [r] ∧ (portOf (after (.crossbarMove 2) s) 2).pipe = [] ∧
    canCross full.fab 2 = false ∧ still (.crossbarMove 2) full = true := by decide +kernel

theorem witness_CrossbarMovesAndLatches_latch :
    let r := { pipeRow 1 with groups := [(0, 5)] }
    let at_ := fun (w : BitVec 256) (l : List PipeRow) => having fun f => { f with clusters := [(0, { bus := some ⟨r, w, 0⟩, dbuf := l })] }
    still (.endpointDeliveryAck 0 255) (at_ 5 []) = true ∧
    (putBit (5 : BitVec 256) 2 false ≠ 0 ∧ ((clusterOf (after (.endpointDeliveryAck 0 2) (at_ 5 [])) 0).bus.map (·.wait)) = some 1) ∧
    (putBit (4 : BitVec 256) 2 false = 0 ∧ (clusterOf (after (.endpointDeliveryAck 0 2) (at_ 4 [])) 0).bus = none) ∧
    (waitMask (at_ 4 [r]).fab 0 r ≠ 0 ∧ (clusterOf (after (.endpointDeliveryAck 0 2) (at_ 4 [r])) 0).dbuf = [] ∧
      (after (.endpointDeliveryAck 0 2) (at_ 4 [r])).out = [busOutput (at_ 4 [r]).fab 0 r (waitMask (at_ 4 [r]).fab 0 r)]) := by
  decide +kernel

/-- A running collect of queue 6: `n` quarters, next row `i`, rows held so far. -/
def openCollect (n i : Nat) (got : List (Nat × Nat × BitVec 1152)) : OpenCollect :=
  ⟨6, 0, n, 4, [some 0, some 5, some 2, some 255], [i, i, i, i], got, i, [0, 0, 0, 0]⟩

/-- READY with a COLLECT of queue 6 in flight and cluster 0 as given. -/
def collecting (y : Cluster) : State :=
  having fun f => { f with queues := [(6, flying (flightAt 0 6 dCollect))], clusters := [(0, y)] }

theorem witness_CollectsRunInOrder :
    let starts := collecting { collects := [(6, 0)] }
    let four := collecting { running := some (openCollect 4 3 []) }
    let one := collecting { running := some (openCollect 1 0 []) }
    let two := collecting { running := some { openCollect 2 0 [] with sup := [some 0, some 5] } }
    let full := collecting { running := some { openCollect 4 0 [] with expect := [33, 0, 0, 0], rows := 256 } }
    (starts.fab.clusters.length = 1 ∧ (flightOf starts.fab 6 0).isSome = true ∧
      ((clusterOf (after (.collectStart 0) starts) 0).running.map fun o => (o.q, o.ord, o.rows, o.need)) = some (6, 0, 4, 4)) ∧
    (responsive four.fab 0 0 = true ∧ roomFor four.fab 0 (openCollect 4 3 []) 3 = true ∧ gotAt (openCollect 4 3 []) 1 3 = none ∧
      gapAt four.fab 0 (openCollect 4 3 []) 1 = false ∧
      ((clusterOf (after (.returnQuarterRow 0 0 3 9) four) 0).running.map (·.got)) = some [(0, 3, 9)]) ∧
    (returnHeld one.fab 0 = 0 ∧ ((clusterOf (after (.returnQuarterRow 0 0 0 9) one) 0).running.map (·.next)) = some 1 ∧
      (clusterOf (after (.returnQuarterRow 0 0 0 9) one) 0).ret = [⟨0, 0, some 9, none, none, none⟩]) ∧
    (counterOf (after (.returnQuarterRow 0 3 4 9) four) 0x8140 3 = 1) ∧
    (counterOf (after (.returnQuarterRow 0 3 255 9) starts) 0x8140 3 = 1 ∧ counterOf (after (.returnQuarterRow 0 2 0 9) two) 0x8140 3 = 1 ∧
      (after (.returnQuarterRow 0 2 0 9) two).clusters = two.fab.clusters) ∧
    (roomFor full.fab 0 { openCollect 4 0 [] with expect := [33, 0, 0, 0], rows := 256 } 33 = false ∧
      still (.returnQuarterRow 0 0 33 9) full = true) := by decide +kernel

theorem witness_UnresponsiveMarks :
    let bus := collecting { bus := some ⟨pipeRow 1, 6, 2⟩ }
    let quarter := collecting { running := some { openCollect 4 0 [] with rounds := [0, 2, 0, 0] } }
    let marked := collecting { unresp := 2 ^ 128 + 2 ^ 127 + 1 }
    (responsive bus.fab 0 1 = true ∧ putBit (6 : BitVec 256) 1 false ≠ 0 ∧
      bitAt (clusterOf (after (.endpointUnresponsive 0 1) bus) 0).unresp 1 = true ∧
      ((clusterOf (after (.endpointUnresponsive 0 1) bus) 0).bus.map (·.wait)) = some 4) ∧
    ((lateQuarter quarter.fab 0 5).isSome = true ∧ bitAt (clusterOf (after (.endpointUnresponsive 0 5) quarter) 0).unresp 5 = true ∧
      counterOf (after (.endpointUnresponsive 0 5) quarter) 0x8140 4 = 1 ∧ responsive (after (.endpointUnresponsive 0 5) quarter) 0 2 = true) ∧
    (lateQuarter quarter.fab 0 255 = none ∧ still (.endpointUnresponsive 0 255) quarter = true) ∧
    (responsive marked.fab 0 128 = false ∧ still (.endpointUnresponsive 0 128) marked = true) ∧
    ((clusterOf (after (.unresponsiveClear 0 1 (2 ^ 63)) marked) 0).unresp = 2 ^ 128 + 1) := by decide +kernel

/-! ### Links -/

/-- READY with every link UP, that of port k as given. -/
def linked (k : Nat) (l : Link) (g : Fab → Fab) : State :=
  having fun f => g { f with links := (List.range 5).map fun j => (j, if j = k then { l with st := .up } else { st := .up }) }

/-- A flit of type ROW or MESSAGE on the wire (R152, R154). -/
def wireFlit (b : BitVec 4672) : BitVec 4704 := sealFlit b false

/-- A message flit for an instance, sequence number 1. -/
def msgFlit (dest : Nat) (m : BitVec 512) (hops lseq : Nat) : BitVec 4672 :=
  putf (putf (flitOf 3 (msgVc (fld m 0 8)) 0 dest 1 0 false false false (BitVec.ofNat 4608 m.toNat)) 6 4 hops) 46 10 lseq

set_option maxRecDepth 20000 in
theorem witness_FlitsInSequence :
    let s := linked 3 {} id
    let m := msgOf ready.fab 2 [(32, 7)]
    let b := msgFlit 0 m 0 1
    let got := fun b => after (.flitReceive 3 ⟨wireFlit b, false⟩) s
    still (.flitReceive 3 ⟨wireFlit b, false⟩) ready = true ∧
    counterOf (after (.flitReceive 3 ⟨wireFlit b ^^^ 1, false⟩) s) 0x8303 3 = 1 ∧
    (headOk (putf b 4 2 3) = false ∧ counterOf (got (putf b 4 2 3)) 0x8303 4 = 1) ∧
    still (.flitReceive 3 ⟨wireFlit 0, false⟩) s = true ∧
    (headOk b = true ∧ (linkOf (got (msgFlit 0 m 0 2)) 3).nak = true ∧ (linkOf (got (msgFlit 0 m 0 2)) 3).expect = 1) ∧
    (fDest b = 0 ∧ fCount b = 1 ∧ msgOk m (fVc b) = true ∧ (linkOf (got b) 3).expect = 2 ∧ (got b).dom.inbox = [⟨m, 3⟩]) ∧
    (fHops (msgFlit 1 m 15 1) = 15 ∧ counterOf (got (msgFlit 1 m 15 1)) 0x8400 1 = 1) ∧
    ((routeTo s.fab 1).1 = some 0 ∧ (tget [] (linkOf (got (msgFlit 1 m 0 1)) 0).txq 1).length = 1) ∧
    ((routeTo s.fab 8).1 = none ∧ counterOf (got (msgFlit 8 m 0 1)) 0x8400 2 = 1) := by decide +kernel

set_option maxRecDepth 20000 in
theorem witness_FlitsInSequence_row :
    let c : Ctx := ⟨1, 0, 1, 0, 0, false, [], 0⟩
    let s := linked 0 {} fun f => { f with dom := { f.dom with ctxs := [(4095, some c)] } }
    let b := putf (flitOf 1 0 0 0 4095 0 true false false 5) 46 10 1
    fType b = 1 ∧ ctxOf s.fab (fCtx b) = some c ∧ cMode c.req = 0 ∧
    (after (.flitReceive 0 ⟨wireFlit b, false⟩) s).dom.inbound = [⟨b, 0, false, false⟩] := by decide +kernel

/-- A sound control block of a span link with the given fields (R156). -/
def spanBlock (l : List (Nat × Nat)) : BitVec 2976 :=
  let b : BitVec 2976 := BitVec.ofNat 2976 (place ((0, 0xC35AA53C) :: l))
  putf b 736 32 (crc32c (bytesOf 92 b.toNat)).toNat

/-- A sound control block of IL0. -/
def ibexBlock (l : List (Nat × Nat)) : BitVec 2976 :=
  let b : BitVec 2976 := BitVec.ofNat 2976 (place ((0, 0xC35AA53C) :: l))
  putf b 2944 32 (crc32c (bytesOf 368 b.toNat)).toNat

/-- Two flits sent and not acknowledged. -/
def twoSent : Link := { retry := [⟨flitOf 3 1 0 1 1 0 false false false 3, true, 1, 1⟩, ⟨0, true, 2, 1⟩], nextSeq := 3, taken := [(0, 2)] }

set_option maxRecDepth 20000 in
theorem witness_ControlBlocksTaken :
    let s := linked 0 twoSent id
    let a := after (.controlBlockReceive 0 ⟨spanBlock [(40, 1), (80, 1)], []⟩) s
    let n := after (.controlBlockReceive 0 ⟨spanBlock [(40, 1), (50, 1)], []⟩) s
    still (.controlBlockReceive 0 ⟨spanBlock [(40, 1)] ^^^ 1, []⟩) s = true ∧
    ((linkOf a 0).retry.length = 1 ∧ tget 0 (linkOf a 0).taken 0 = 1 ∧ tget 0 (linkOf a 0).seen 0 = 1) ∧
    ((linkOf n 0).replay = 1 ∧ counterOf n 0x8300 5 = 1) := by decide +kernel

set_option maxRecDepth 20000 in
theorem witness_ControlBlocksTaken_ibex :
    let s := linked 4 twoSent id
    let a := after (.controlBlockReceive 4 ⟨ibexBlock [(40, 2), (1312, 3)], []⟩) s
    let c := after (.controlBlockReceive 4 ⟨ibexBlock [(40, 2)], [some 15, none, some 1]⟩) s
    let bad := after (.controlBlockReceive 4 ⟨ibexBlock [(40, 2)] ^^^ 1, [some 15, none]⟩) s
    (linkOf a 4).retry = [] ∧ (linkOf a 4).heard = 3 ∧ (linkOf c 4).heard = 0 ∧ (counterOf c 0x8304 7 = 16 ∧ counterOf c 0x8304 8 = 1) ∧
    (bad.links = s.fab.links ∧ counterOf bad 0x8304 7 = 15 ∧ counterOf bad 0x8304 8 = 1) := by decide +kernel

/-- The flits of the frame put out last. -/
def lastFrame (f : Fab) : List (BitVec 4704) :=
  match f.out with
  | .frame _ l _ :: _ => l
  | _ => []

set_option maxRecDepth 20000 in
theorem witness_FramesLeave :
    let quiet := linked 2 { frameNo := 255, nak := true } id
    let replays := linked 2 { twoSent with replay := 2 } id
    let picks : List (BitVec 2) := List.replicate 64 0
    still (.frame 2 picks) ready = true ∧
    (lastFrame (after (.frame 2 picks) quiet) = List.replicate 64 (sealFlit 0 false) ∧
      (linkOf (after (.frame 2 picks) quiet) 2).frameNo = 0 ∧ (linkOf (after (.frame 2 picks) quiet) 2).nak = false) ∧
    ((lastFrame (after (.frame 2 picks) replays)).length = 64 ∧
      (lastFrame (after (.frame 2 picks) replays))[0]? = (twoSent.retry[0]?).map fun x => sealFlit x.bits false) := by decide +kernel

set_option maxRecDepth 20000 in
theorem witness_FramesLeave_flit :
    let t : TxFlit := ⟨msgFlit 8 7 0 0, none⟩
    let b := msgFlit 8 7 0 1023
    let s := fun (l : Tbl Nat) => linked 2 { txq := [(1, [t])], nextSeq := 1023, taken := l } id
    let picks : List (BitVec 2) := List.replicate 64 0
    let a := fun l => after (.frame 2 picks) (s l)
    fHops t.bits = 0 ∧ creditKey (linkOf (s [(49, 111)]).fab 2) 1 0 = some 49 ∧ creditKey (linkOf (s [(49, 112)]).fab 2) 1 0 = some 16 ∧
    (lastFrame (a [(49, 111)]) = sealFlit b false :: List.replicate 63 (sealFlit 0 false) ∧ (linkOf (a [(49, 111)]) 2).txq = [] ∧
      (linkOf (a [(49, 111)]) 2).nextSeq = 0 ∧ (linkOf (a [(49, 111)]) 2).retry = [⟨b, true, 1023, 1⟩] ∧
      (linkOf (a [(49, 111)]) 2).taken = [(49, 112)]) ∧
    (tget 0 (linkOf (a [(49, 112)]) 2).taken 16 = 1) ∧
    (creditKey (linkOf (s [(16, 1), (49, 112)]).fab 2) 1 0 = none ∧
      lastFrame (a [(16, 1), (49, 112)]) = List.replicate 64 (sealFlit 0 false) ∧
      (linkOf (a [(16, 1), (49, 112)]) 2).txq = [(1, [t])]) := by decide +kernel

set_option maxRecDepth 20000 in
theorem witness_FramesLeave_ibex :
    let a := after (.frame 4 (List.replicate 64 0)) (linked 4 {} id)
    (a.out.map fun o => match o with | .codewords _ => 1 | .frame _ _ _ => 2 | _ => 0) = [1, 2] := by decide +kernel

theorem witness_LinkChanges_spread :
    let bits : Nat → BitVec 512 := fun t => BitVec.ofNat 512 (place [(0, t), (32, 7), (40, 3)])
    let s := fun t l => linked 9 {} fun f => { f with dom := { f.dom with inbox := [⟨bits t, 3⟩], spread := l } }
    let sent := fun (f : Fab) => (List.range 4).map fun j => (tget [] (linkOf f j).txq 2).map fun t => (fld t.bits 64 512, fDest t.bits)
    let gone := [((bits 0x10).toNat, 0)]
    farEnds (s 0x10 []).fab = [] ∧ (s 0x10 []).fab.prm.die.toNat ≠ 7 ∧
    (sent (after .linkDown (s 0x10 [])) = [gone, gone, gone, []] ∧ tget 0 (after .linkDown (s 0x10 [])).dom.spread 59 = bits 0x10 ∧
      (after .linkDown (s 0x10 [])).dom.knownDown = [59]) ∧
    (sent (after .linkDown (s 0x10 [(59, bits 0x11)])) = [gone, gone, gone, []]) ∧
    leaves .linkDown (s 0x10 [(59, bits 0x10)]) (messageTaken (s 0x10 [(59, bits 0x10)]).fab) = true ∧
    (sent (after .linkUp (s 0x11 [(59, bits 0x10)])) = [[((bits 0x11).toNat, 0)], [((bits 0x11).toNat, 0)], [((bits 0x11).toNat, 0)], []]) := by
  decide +kernel

theorem witness_LinkChanges :
    let s := linked 4 twoSent id
    let r := having fun f => { f with links := [(4, { twoSent with st := .retraining })] }
    let held := having fun f => { f with dom := { f.dom with pathHolds := [⟨8, [1]⟩, ⟨9, [2]⟩] } }
    let told := fun (t : Nat) (l : List Nat) => having fun f => { f with dom := { f.dom with
      inbox := [⟨BitVec.ofNat 512 (place [(0, t), (32, 7), (40, 3)]), 0⟩], knownDown := l } }
    ((linkOf (after (.linkRetrain 4) s) 4).st = .retraining ∧ still (.linkRetrain 4) ready = true) ∧
    ((linkOf (after (.retrainComplete 4) r) 4).replay = 2 ∧ farEnds r.fab = [] ∧
      (linkOf (after (.retrainFailed 4) r) 4).st = .failed ∧ still (.retrainFailed 4) s = true) ∧
    ((after (.pathHoldRelease 8) held).dom.pathHolds = [⟨9, [2]⟩]) ∧
    ((after .linkDown (told 0x10 [])).dom.knownDown = [59] ∧ (after .linkUp (told 0x11 [59])).dom.knownDown = [] ∧
      still .linkUp (told 0x10 []) = true) := by decide +kernel

theorem witness_LanesSwap :
    let s := linked 4 {} id
    let none' := linked 4 {} fun f => { f with lanes := [(35, { rx := .active, rxLog := 3 })] }
    let w : Swap := ⟨3, 3, 32, 0, false, 8⟩
    let heard := fun (v : BitVec 32) (rx tx : Option Swap) => linked 4 { heard := v, frameNo := 8 } fun f => { f with swapRx := rx, swapTx := tx }
    still (.laneFault 35 0) ready = true ∧
    ((laneAt s.fab 3).rx = .active ∧ (List.range 36).find? (fun j => (laneAt s.fab j).rx = .spare) = some 32 ∧
      (after (.laneFault 3 1) s).swapRx = some ⟨3, 3, 32, 1, false, 0⟩) ∧
    ((List.range 36).find? (fun j => (laneAt none'.fab j).rx = .spare) = none ∧ still (.laneFault 35 2) none' = true ∧
      (linkOf (after (.laneFault 35 0) none') 4).st = .failed) ∧
    (heardCmd (heard 0x00200301 none none).fab = 1 ∧ ((after .swapReq (heard 0x00200301 none none)).swapTx.map (·.frame)) = some 16) ∧
    (heardCmd (heard 0x10200302 (some w) none).fab = 2 ∧
      (after .swapAck (heard 0x10200302 (some w) none)).swapRx = some { w with step := true, frame := 16 }) ∧
    ((laneAt (after .laneRemap (heard 0 none (some w))) 32).tx = .active) ∧
    ((laneAt (after .swapLaneLocked (heard 0 (some { w with step := true }) none)) 3).rx = .retraining) ∧
    (heardCmd (heard 3 none (some w)).fab = 3 ∧ (after .swapDone (heard 3 none (some w))).swapTx = none) := by decide +kernel

theorem witness_LanesSwap_wait :
    let w : Swap := ⟨3, 3, 32, 0, false, 8⟩
    let s := fun (sp : Tbl Lane) (st : Bool) (l : List (Nat × BitVec 2)) => linked 4 {} fun f => { f with
      swapRx := some { w with step := st }, lanes := sp, ibex := { f.ibex with swapWait := l } }
    let spares := fun n => (List.range (4 - n)).foldl (fun l i => tset {} l (32 + n + i) { rx := .failed }) ready.fab.lanes
    sparesLeft (s (spares 2) false []).fab = 2 ∧ sparesLeft (s (spares 1) false []).fab = 1 ∧
    (laneAt (s (spares 2) false []).fab 31).rx = .active ∧ (swappingOut (s (spares 2) false []).fab).contains 31 = false ∧
    ((after (.laneFault 31 1) (s (spares 2) false [])).ibex.swapWait = [(31, 1)]) ∧
    (still (.laneFault 31 2) (s (spares 1) false []) = true ∧ (linkOf (after (.laneFault 31 0) (s (spares 1) false [])) 4).st = .failed ∧
      (after (.laneFault 31 0) (s (spares 1) false [])).swapRx = none) ∧
    ((after .swapLaneLocked (s (spares 4) true [(31, 1)])).swapRx = some ⟨31, 31, 33, 1, false, 0⟩ ∧
      (after .swapLaneLocked (s (spares 4) true [(31, 1)])).ibex.swapWait = [] ∧
      counterOf (after .swapLaneLocked (s (spares 4) true [(31, 1)])) 0x8304 9 = 1) := by decide +kernel

theorem witness_LanesSwap_timeout :
    let at_ := fun (n : Nat) => having fun f => { f with lanes := [(35, { rx := .retraining, rounds := n })] }
    (laneAt (after (.laneRetrainTimeout 35) (at_ 10)) 35).rx = .failed ∧ still (.laneRetrainTimeout 35) (at_ 9) = true := by
  decide +kernel

/-- READY with port 0 training under LINK_TRAIN `w`, the other ports in a state, and a time out seen at port 0. -/
def training0 (w : BitVec 32) (others : LinkState) (late : Bool) : State :=
  having fun f => { f with links := (0, { st := .training, train := some (1, false), timedOut := late }) :: (List.range 4).map fun j => (j + 1, { st := others })
                           lop := { f.lop with ops := [⟨1, 6, none, false⟩], trains := [(1, w)] } }

theorem witness_TrainingEnds :
    let one := training0 1 .down false
    let r : TrainResult := ⟨0, BitVec.ofNat 80 (spanDie one.fab 0 0), BitVec.ofNat 40 (spanPort one.fab 0 0), 0, 0⟩
    let bad := { r with fails := 2 }
    let ends := fun (r : TrainResult) (s : State) => let f := after (.linkTrainComplete r) s; ((linkOf f 0).st, f.lop.ops.length, f.lop.trains.length)
    failingStage r one.fab 0 = 0 ∧ failingStage bad one.fab 0 = 2 ∧ trainMask 3 = [0, 1] ∧
    ends r one = (.up, 0, 0) ∧ ends r (training0 3 .down false) = (.up, 0, 0) ∧ ends bad (training0 3 .up false) = (.down, 0, 0) ∧
    ends bad (training0 1 .down true) = (.down, 0, 0) ∧
    ((linkOf (after (.trainTimeout 0) one) 0).timedOut = true ∧ still (.trainTimeout 4) one = true ∧
      still (.linkTrainComplete r) ready = true ∧
      still (.linkTrainComplete r) { one with fab := { one.fab with pwr := { one.fab.pwr with st := 1 } } } = true) := by decide +kernel

/-! ### The domain -/

/-- A message that waits, with its type, its source instance and fields (R160). -/
def inboxOf (t src : Nat) (l : List (Nat × Nat)) (f : Fab) : Fab :=
  { f with dom := { f.dom with inbox := [⟨BitVec.ofNat 512 (place ([(0, t), (16, src)] ++ l)), 0⟩] } }

/-- The bits of the oldest waiting message. -/
def headBits (f : Fab) : BitVec 512 := (f.dom.inbox.map (·.bits)).headD 0

/-- Every link UP and a message at hand. -/
def told (t src : Nat) (l : List (Nat × Nat)) (g : Fab → Fab) : State := linked 9 {} fun f => inboxOf t src l (g f)

theorem told_head (t src : Nat) (l : List (Nat × Nat)) (g : Fab → Fab) :
    ∃ m, (told t src l g).fab.dom.inbox = [m] := ⟨_, rfl⟩

/-- A CREDIT_REQ for 4 rows at bank 0 (R161). -/
def creditReq4 (l : List (Nat × Nat)) (g : Fab → Fab) : State := told 1 1 ([(32, 77), (56, 3)] ++ l) g

theorem witness_CreditAnswered :
    let v := fun (s : State) => (messageTaken s.fab, headBits s.fab)
    let placed := creditReq4 [(80, 1)] id
    let state := creditReq4 [] fun f => { f with start := { f.start with fawn := true } }
    let rows := creditReq4 [] fun f => { f with dom := { f.dom with sourceCap := 3 } }
    let good := creditReq4 [] fun f => { f with dom := { f.dom with sourceCap := 4, refusals := [(1, 5)] } }
    (fld (headBits good.fab) 0 8 = 1 ∧ reqMisplaced (v placed).1 (v placed).2 = true ∧ counterOf (after .creditReq placed) 0x8400 7 = 1) ∧
    (reqMisplaced (v state).1 (v state).2 = false ∧ reqState (v state).1 (v state).2 = true ∧
      counterOf (after .creditReq state) 0x8400 6 = 1) ∧
    (reqState (v rows).1 (v rows).2 = false ∧ ctxFree (v rows).1 1 = true ∧ reqRows (v rows).1 1 4 = 3 ∧
      counterOf (after .creditReq rows) 0x8400 4 = 1) ∧
    (reqRows (v good).1 1 4 = 4 ∧ tcanon none good.fab.dom.ctxs = true ∧ holdOf (v good).1 1 = none ∧
      ((ctxOf (after .creditReq good) 0).map (·.granted)) = some 4 ∧ tget 0 (after .creditReq good).dom.refusals 1 = 0) := by
  decide +kernel

/-- Holds that leave another source no context: four of them, with every context but four taken (R225). -/
theorem witness_CreditAnswered_context :
    let s := creditReq4 [] fun f => { f with dom := { f.dom with
      ctxs := (List.range 4096).map fun i => (i, some ⟨2, 0, 0, 0, 0, false, [], 0⟩) } }
    reqMisplaced (messageTaken s.fab) (headBits s.fab) = false ∧ reqState (messageTaken s.fab) (headBits s.fab) = false ∧
    ctxFree (messageTaken s.fab) 1 = false ∧ counterOf (after .creditReq s) 0x8400 5 = 1 := by decide +kernel

/-- Queue 8's SPAN_MOVE in flight with one segment of two rows, source tag 9. -/
def sending (ph : SegPhase) (sent rounds : Nat) : Flight :=
  { flightAt 0 8 dSpan with segs := [⟨9, 1, 0, 0, 2, ph, 2, sent, 5, 0, rounds⟩] }

/-- READY with that flight. -/
def sourceOf (x : Flight) (f : Fab) : Fab := { f with queues := [(8, flying x)] }

/-- The phase of the flight's first segment after a command. -/
def phaseAfter (c : Instr) (s : State) : Option SegPhase := (flightOf (after c s) 8 0).bind fun x => x.segs.head?.map (·.phase)

/-- Why the flight stops after a command. -/
def stopAfter (c : Instr) (s : State) : Option (BitVec 4) :=
  (flightOf (after c s) 8 0).bind fun x => x.stopping.map (·.reason)

theorem witness_CreditAtSource :
    let grant := told 2 1 [(32, 9), (48, 4095), (64, 1)] (sourceOf (sending .asked 0 0))
    let stray := told 2 1 [(32, 8), (48, 4095), (64, 1)] (sourceOf (sending .asked 0 0))
    let refuse := fun n => told 3 1 [(32, 9), (48, n)] (sourceOf (sending .asked 0 0))
    let ack := told 4 1 [(32, 9), (48, 5)] (sourceOf (sending .granted 2 0))
    let fault := told 6 1 [(32, 9)] (sourceOf (sending .asked 0 0))
    let late := fun n => linked 9 {} (sourceOf (sending .asked 0 n))
    let back := fun n => linked 9 {} (sourceOf (sending (.backoff n) 0 0))
    (fld (headBits grant.fab) 0 8 = 2 ∧ (segFor grant.fab 9 (· == .asked)).isSome = true ∧ phaseAfter .creditGrant grant = some .granted) ∧
    (segFor stray.fab 8 (· == .asked) = none ∧ migSegFor stray.fab 8 (· == .asked) = none ∧
      (tget [] (linkOf (after .creditGrant stray) 0).txq 0).length = 1) ∧
    (phaseAfter .creditRefuse (refuse 1) = some (.backoff 1) ∧ phaseAfter .creditRefuse (refuse 3) = some (.backoff 1) ∧
      abortable (refuse 4).fab (sending .asked 0 0) = true ∧ stopAfter .creditRefuse (refuse 4) = some 4) ∧
    ((segFor ack.fab 9 (· == .granted)).isSome = true ∧ ((flightOf (after .rowAck ack) 8 0).map (·.done)) = some 2) ∧
    ((segFor fault.fab 9 segOpen).isSome = true ∧ stopAfter .xferFault fault = some 4) ∧
    (stopAfter (.transferTimeout 9) (late 2) = some 4 ∧ still (.transferTimeout 9) (late 1) = true) ∧
    (still (.creditReqResend 9) (back 1) = true ∧ phaseAfter (.creditReqResend 9) (back 0) = some .asked ∧
      counterOf (after (.creditReqResend 9) (back 0)) 0x8400 0x15 = 1) := by decide +kernel

theorem witness_ContextsAndHolds :
    let c : Ctx := ⟨1, 0, 4, 0, 0, false, [], 2⟩
    let at_ := fun (src : Nat) (c : Ctx) => told 5 src [(48, 4095)] fun f => { f with dom := { f.dom with ctxs := [(4095, some c)] } }
    let starved := fun (n : Nat) (l : List Hold) => having fun f => { f with dom := { f.dom with refusals := [(3, n)], holds := l } }
    let hold := fun (n : Nat) => ({ src := 3, rows := 0, ctx := false, rounds := n } : Hold)
    (ctxOf (at_ 1 c).fab 4095 = some c ∧ ctxOf (after .cancel (at_ 1 c)) 4095 = none ∧
      (after .cancel (at_ 2 c)).dom.ctxs = [(4095, some c)]) ∧
    (ctxOf (after (.contextExpired 4095) (at_ 1 c)) 4095 = none ∧ still (.contextExpired 4095) (at_ 1 { c with rounds := 1 }) = true) ∧
    (still (.starvationHold 3) (starved 7 []) = true ∧ (after (.starvationHold 3) (starved 8 [])).dom.holds = [⟨3, 0, false, 0⟩] ∧
      (after (.starvationHold 3) (starved 8 (List.replicate 4 ⟨4, 0, false, 0⟩))).dom.holdWait = [3]) ∧
    (still (.holdExpired 3) (starved 8 [hold 1]) = true ∧ (after (.holdExpired 3) (starved 8 [hold 2])).dom.holds = []) := by
  decide +kernel

/-- READY with a context's INBOUND burst under way on XP0 and one flit of it. -/
def arriving (i : Nat) (c : Ctx) (x : InFlit) (g : Fab → Fab) : State :=
  having fun f => g { f with
    dom := { f.dom with ctxs := [(i, some c)], inbound := [x] }
    ports := [(16, { cur := .burst ⟨rInbound, 0, i, .owned, 1, 0, 0, 0, 0, false, false, false, true⟩ })] }

set_option maxRecDepth 20000 in
theorem witness_InboundMovesRows :
    let req : BitVec 512 := BitVec.ofNat 512 (place [(0, 1), (56, 1), (104, 15), (96, 0x12)])
    let c := fun n => (⟨1, req, n, 1, 0, false, [], 0⟩ : Ctx)
    let x := fun p t => (⟨flitOf 1 0 0 0 3 0 false p false 5, 0, false, t⟩ : InFlit)
    let s := fun n p t => arriving 3 (c n) (x p t) id
    let go := fun n p t => after (.rowFlit 0 .prompt) (s n p t)
    let row := copyRow 0x12 512 5 0 0
    (checkPreempt (s 2 false false).slots 16 (s 2 false false).fab = (s 2 false false).fab ∧ nextFlit (s 2 false false).fab 3 = some (x false false) ∧
      cMode (c 2).req = 0 ∧ trowOk (c 2) (x false false) = true ∧ flitGate (s 2 false false).fab (c 2) (x false false) = .go ∧
      regionWaits (s 2 false false).fab 16 = false ∧ grantRow req 0 = 0 ∧ soundB (s 2 false false).fab 0 = true) ∧
    (((ctxOf (go 2 false false) 3).map (·.accepted)) = some 1 ∧ ctxOf (go 1 false false) 3 = none ∧
      ((ctxOf (go 2 false true) 3).map (·.accepted)) = some 0) ∧
    (rawState (go 2 false false).store 0 = 1 ∧ rmwWords (go 2 false false).store 0 = encodeRow row ∧
      (go 2 false false).store = (writeTile 16 0 0x12 512 row false (s 2 false false).fab).store) ∧
    (fPoison (x true false).bits = true ∧ rawState (go 2 true false).store 0 = 2 ∧ rmwWords (go 2 true false).store 0 = poisonRow row) ∧
    (still (.streamFlit 0) (s 2 false false) = true ∧ still (.rowFlit 15 .both) ready = true ∧ still (.streamFlit 15) ready = true) := by
  decide +kernel

set_option maxRecDepth 20000 in
theorem witness_InboundMovesRows_stream :
    let req : BitVec 512 := BitVec.ofNat 512 (place [(0, 1), (48, 2), (56, 1)])
    let c : Ctx := ⟨1, req, 2, 1, 0, false, [], 0⟩
    let x : InFlit := ⟨flitOf 2 0 0 0 0 0 false false false 5, 0, false, false⟩
    let s := arriving 0 c x fun f => { f with kports := [(0, { st := .up, slots := 1, units := 9 })] }
    checkPreempt s.slots 16 s.fab = s.fab ∧ nextFlit s.fab 0 = some x ∧ cMode c.req = 2 ∧ servingPort s.fab (streamStack req) = some 0 ∧
    (kportOf (after (.streamFlit 0) s) 0).slots = 0 ∧
    ((kportOf (after (.streamFlit 0) s) 0).tags.map fun t => (t.job.op, t.index)) = [(2, 1)] ∧
    still (.rowFlit 0 .prompt) s = true := by decide +kernel

theorem witness_RemoteSignals :
    let sig := fun (n : BitVec 16) => told 7 1 [(48, 63), (64, 0xFFFF)] fun f => { f with fences := [(63, n)] }
    let cold := told 7 1 [(48, 63), (64, 1)] fun f => { f with start := { f.start with stage := 6 } }
    let x := fun r => { flightAt 0 8 (desc [(0, 14), (6, 63), (189, 6), (128, 1), (144, 1), (160, 1)]) with
      fsig := some ⟨9, 0, r, 0⟩, legs := [] }
    let ack := fun n => told 8 1 [(32, 9), (48, n)] (sourceOf (x none))
    let back := fun n => linked 9 {} (sourceOf (x (some n)))
    (isReady (sig 5).fab = true ∧ fenceOf (after .fenceSignalMessage (sig 5)) 63 = 0xFFFF ∧
      fenceOf (after .fenceSignalMessage (sig 0)) 63 = 0xFFFF) ∧
    (isReady cold.fab = false ∧ (after .fenceSignalMessage cold).fences = []) ∧
    ((signalFor (ack 0).fab 9).isSome = true ∧ (queueOf (after .fenceAck (ack 0)) 8).flights = [] ∧
      ((flightOf (after .fenceAck (ack 1)) 8 0).bind (·.fsig)) = some ⟨9, 1, some 1, 0⟩) ∧
    (still (.fenceSignalResend 9) (back 1) = true ∧
      ((flightOf (after (.fenceSignalResend 9) (back 0)) 8 0).bind (·.fsig)) = some ⟨9, 0, none, 0⟩) := by decide +kernel

theorem witness_InstallsAndNotes :
    let inst := fun (n : Nat) (l : List MapChange) => told 9 1 [(32, 7), (48, 131071)] fun f => { f with
      map := { f.map with changes := l, installs := List.replicate n ⟨1, 0, true⟩ } }
    let e : MigEntry := ⟨0, 0, 0, false, 0, 0, 576, 0, 1, 9, 0, 0, 0⟩
    let mg := fun (e : MigEntry) => (⟨1, 0, 0x10000, 0, 0, 1, 0, [e], [⟨3, 1, 0, 0, 1, .asked, 0, 0, 0, 0, 0⟩], 0, 0, 0, 0, 0, false⟩ : Migrate)
    let withMig := fun (e : MigEntry) (f : Fab) => ({ f with lop := { f.lop with migs := [mg e] } } : Fab)
    let ack := fun n => told 0x0A 1 [(32, 9), (48, n), (56, 77)] (withMig e)
    let back := fun n => linked 9 {} (withMig { e with inst := 3, resumeAt := n })
    let c : Ctx := ⟨1, 0, 4, 0, 0, false, [], 0⟩
    let note := told 0x0B 1 [(48, 0), (64, 255), (72, 5)] fun f => { f with dom := { f.dom with ctxs := [(0, some c)] } }
    ((after .mapInstall (inst 64 [])).map.installs.length = 64) ∧
    (changeWaits (inst 0 [⟨.descriptor 0 1, [131071], 0⟩]).fab [131071] = true ∧
      (after .mapInstall (inst 0 [⟨.descriptor 0 1, [131071], 0⟩])).map.installs.length = 1) ∧
    (changeWaits (inst 0 []).fab [131071] = false ∧ (after .mapInstall (inst 0 [])).map.epoch = 1) ∧
    ((installFor (ack 0).fab 9).isSome = true ∧ (mg e).segs.any (fun g => g.phase != .acked) = true ∧
      ((after .mapAck (ack 0)).lop.migs.map (·.destMe)) = [77] ∧
      ((after .mapAck (ack 1)).lop.migs.map fun m => m.entries.map fun e => (e.inst, e.resumeAt)) = [[(3, 1)]]) ∧
    (still (.mapInstallResend 9) (back 1) = true ∧ (routeTo (back 0).fab (mgDest (mg e))).1.isSome = true ∧
      ((after (.mapInstallResend 9) (back 0)).lop.migs.map fun m => m.entries.map fun e => e.inst) = [[1]]) ∧
    (((ctxOf (after .streamPoison note) 0).map fun c => tget 0 c.masks 255) = some 5) := by decide +kernel

/-! ### The stack ports -/

/-- READY with queue 8's STACK_GET in flight and stack port 1 as given. -/
def stacked (y : KPort) : State :=
  having fun f => { f with queues := [(8, flying { flightAt 0 8 dGet with stopping := none })], kports := [(1, { y with st := .up })] }

/-- A request of that flight: operation and rows. -/
def jobOf (op : BitVec 8) (rows : Nat) : Job := ⟨.flight 8 0, op, BitVec.ofNat 256 (place [(0, op.toNat), (120, 72)]), 0, rows, false⟩

/-- A tag that runs, number 5. -/
def tagOf5 (op : BitVec 8) (rows index : Nat) (ph : TagPhase) : SopTag := ⟨5, jobOf op rows, index, false, ph, false⟩

set_option maxRecDepth 20000 in
theorem witness_StackRequestsGoOut :
    let s := fun (j : Job) (n : Nat) (t : List SopTag) => stacked { jobs := [j], slots := n, units := 64, tags := t }
    let a := after (.stackRequestSend 1) (s (jobOf 1 256) 1 [tagOf5 1 300 0 .running])
    (rxFree (s (jobOf 1 256) 1 [tagOf5 1 300 0 .running]).fab 1 = 212 ∧ ((kportOf a 1).tags.map (·.job.rows)) = [300, 212] ∧
      ((kportOf a 1).jobs.map fun j => (j.rows, j.base)) = [(44, 212)]) ∧
    (still (.stackRequestSend 1) (s (jobOf 1 4) 0 []) = true ∧ still (.stackRequestSend 1) (s (jobOf 4 256) 1 [tagOf5 1 300 0 .running]) = true) ∧
    ((kportOf (after (.stackRequestSend 1) (s (jobOf 1 256) 1 [])) 1).jobs = [] ∧
      (kportOf (after (.stackRequestSend 1) (s (jobOf 1 256) 1 [])) 1).slots = 0) := by decide +kernel

/-- A response header with its CRC over it and the data row, if any (R192). -/
def response (l : List (Nat × Nat)) (d : Option Row) : BitVec 256 :=
  let h : BitVec 256 := BitVec.ofNat 256 (place l)
  putf h 224 32 (sopCrc h d).toNat

set_option maxRecDepth 20000 in
theorem witness_StackResponses :
    let s := fun op n i ph => stacked { tags := [tagOf5 op n i ph] }
    let data := fun (t i last : Nat) => response [(0, t), (16, 5), (87, last), (96, i), (120, 72)] (some 9)
    let plain := fun (t : Nat) => response [(0, t), (16, 5)] none
    (respOk (data 0x81 3 0) = true ∧ sIndex (data 0x81 3 0) = 3 ∧
      ((kportOf (after (.readData 1 (data 0x81 3 0) 9) (s 1 5 3 .running)) 1).tags.map (·.index)) = [4] ∧
      ((kportOf (after (.readData 1 (data 0x81 3 1) 9) (s 1 4 3 .running)) 1).tags) = [] ∧
      ((kportOf (after (.callData 1 (data 0x83 0 1) 9) (s 4 1 0 .running)) 1).rx.map (·.idx)) = [0]) ∧
    (respOk (plain 0x82) = true ∧ ((flightOf (after (.writeAck 1 (plain 0x82)) (s 2 4 4 .running)) 8 0).map (·.done)) = some 4) ∧
    (still (.progress 1 (plain 0x84)) (s 1 4 0 .running) = true ∧
      (kportOf (after (.cancelAck 1 (plain 0x86)) (s 1 4 0 (.cancelling false))) 1).tags = []) ∧
    (leaves (.writeAck 1 (plain 0x82)) (stacked {}) (countStack 1 7 1 (stacked {}).fab) = true ∧
      counterOf (after (.writeAck 1 (plain 0x82 ^^^ 1#256 <<< 40)) (s 2 4 4 .running)) 0x8311 6 = 1) := by decide +kernel

set_option maxRecDepth 20000 in
theorem witness_StackFaults :
    let tag := fun ph again => { tagOf5 1 4 2 ph with job := { jobOf 1 4 with again := again } }
    let s := fun ph again => stacked { tags := [tag ph again] }
    let h := fun (n : Nat) => response [(0, 0x85), (8, n), (16, 5), (40, 2 ^ 37)] none
    let go := fun (n : Nat) => after (.fault 1 (h n)) (s .running false)
    let counts := fun (f : Fab) => [7, 8, 9, 12, 13].map fun n => (counterOf f 0x8311 n).toNat
    let tags := fun (f : Fab) => (kportOf f 1).tags.map fun t => (t.tag, t.phase)
    (respOk (h 1) = true ∧ sType (h 1) = 0x85 ∧ sTag (h 1) = 5 ∧ sStatus (h 5) = 5 ∧
      ((flightOf (s .running false).fab 8 0).map (abortable (s .running false).fab)) = some true) ∧
    (((flightOf (go 1) 8 0).bind fun y => y.stopping.map fun a => (a.reason.toNat, a.addr.toNat)) = some (3, sAddr (h 1)) ∧ tags (go 1) = [] ∧
      counts (go 1) = [0, 0, 1, 0, 0]) ∧
    ([0, 4, 6].map (fun n => (stopAfter (.fault 1 (h n)) (s .running false), counts (go n))) =
      [(some 4, [1, 0, 0, 1, 0]), (some 4, [0, 0, 0, 1, 0]), (some 4, [1, 0, 0, 1, 0])]) ∧
    (tags (go 5) = [(5, .cancelling true)] ∧ ((kportOf (go 5) 1).jobs.map fun j => (j.rows, j.base, j.again)) = [(2, 2, true)] ∧
      counts (go 5) = [0, 1, 0, 0, 1] ∧ (go 5).queues = (s .running false).fab.queues) ∧
    (stopAfter (.fault 1 (h 5)) (s .running true) = some 4 ∧ tags (after (.fault 1 (h 5)) (s .running true)) = [(5, .cancelling false)]) ∧
    ((after (.fault 1 (h 1)) (s (.cancelling true) false)).kports = (s (.cancelling true) false).fab.kports) := by decide +kernel

set_option maxRecDepth 20000 in
theorem witness_StackFaults_timeouts :
    let s := fun ph n => stacked { tags := [tagOf5 1 4 0 ph], timeouts := n }
    let a := fun n => after (.sopTimeout 1 5) (s .running n)
    (stopAfter (.sopTimeout 1 5) (s .running 1) = some 4 ∧ counterOf (a 1) 0x8311 0x0E = 1 ∧ (kportOf (a 1) 1).timeouts = 2 ∧
      ((kportOf (a 1) 1).tags.map fun t => (t.phase, t.late)) = [(.cancelling false, true)] ∧ (kportOf (a 1) 1).st = .up) ∧
    ((kportOf (a 2) 1).st = .failed ∧ (kportOf (a 2) 1).tags = [] ∧ counterOf (a 2) 0x8311 0x0E = 1 ∧ counterOf (a 2) 0x8311 0x0F = 1) ∧
    (still (.sopTimeout 1 5) (s (.cancelling true) 0) = true ∧ (kportOf (after (.cancelAckTimeout 1 5) (s (.cancelling false) 0)) 1).st = .failed ∧
      still (.cancelAckTimeout 1 5) (s .running 0) = true) := by decide +kernel

theorem witness_StackPortStates_sweep :
    let word := fun (l : List (Nat × Nat)) => encodeWord (BitVec.ofNat 128 (place l)).toNat
    let s := having fun f => { f with kports := [(0, { st := .failed, sweep := true })]
                                      map := { f.map with entries := [(0, word [(0, 1), (1, 1)]), (1, word [(0, 1)]), (131071, word [(1, 1)])] } }
    let a := (after (.lostSweep 0) s).map.entries
    eValid (BitVec.ofNat 128 3) = true ∧ eIsStack (BitVec.ofNat 128 3) = true ∧ servingPort s.fab 0 = some 0 ∧
    tget 0 a 0 = encodeWord (putBit (putf (BitVec.ofNat 128 3) 2 2 1) 63 false).toNat ∧ tget 0 a 1 = word [(0, 1)] ∧
    tget 0 a 131071 = word [(1, 1)] ∧ tget 0 a 7 = 0 ∧ (kportOf (after (.lostSweep 0) s) 0).sweep = false := by decide +kernel

set_option maxRecDepth 20000 in
theorem witness_StackPortStates :
    let h := response [(0, 0x87), (32, 3), (48, 65)] none
    let down := having fun f => { f with kports := [(0, { st := .down, ready := true })] }
    let up := having fun f => { f with kports := [(0, { st := .up, slotsSeen := 1, slots := 1, unitsSeen := 64, units := 0 })] }
    let busy := stacked { tags := [tagOf5 1 4 0 .running], enable := true }
    let lost := having fun f => { f with kports := [(1, { st := .failed, sweep := true })] }
    (respOk h = true ∧ sType h = 0x87 ∧ (down.fab.start.fawn || down.fab.pwr.parked || inPhase down.fab 2 || inPhase down.fab 5) = false ∧
      (kportOf (after (.credit 0 h) down) 0).st = .up ∧ (kportOf (after (.credit 0 h) down) 0).units = 65) ∧
    ((kportOf (after (.credit 0 h) up) 0).slots = 3 ∧ (kportOf (after (.credit 0 h) up) 0).units = 1) ∧
    ((kportOf (after (.kpReadyChange 1 false) busy) 1).st = .failed ∧ (kportOf (after (.stackPortDown 1 0) busy) 1).st = .failed ∧
      stopAfter (.stackPortDown 1 2) busy = some 4) ∧
    ((kportOf (after (.kpReadyChange 1 true) busy) 1).ready = true ∧ still (.stackPortDown 0 0) down = true ∧
      still (.lostSweep 1) busy = true ∧ (kportOf (after (.lostSweep 1) lost) 1).sweep = false) ∧
    (leaves (.kpEnable 1 false) busy (emit busy.fab (.status 6)) = true ∧ (kportOf (after (.kpEnable 0 true) down) 0).enable = true ∧
      (kportOf (after (.kpEnable 0 false) up) 0).st = .down ∧ leaves (.kpEnable 0 true) busy (emit busy.fab (.status 0)) = true) := by
  decide +kernel

/-! ### Maintenance and long operations -/

/-- A march engine of group 3 at bank 100. -/
def engine100 (op from_ : Nat) (has claim : Bool) : Engine := ⟨100, has, 7, op, none, claim, false, false, [], from_, false⟩

/-- A MARCH over bank 100, PRESERVING where `mode` is 1, with its engine. -/
def marching (mode : Nat) (e : Engine) (g : Fab → Fab) : State :=
  having fun f => g { f with
    integ := { f.integ with march := some { newMarch 1 (BitVec.ofNat 32 (100 + 512 * 100 + mode * 2 ^ 18)) 0xFF00 with
      engines := [(3, some e)] } }
    lop := { f.lop with last := 1, ops := [⟨1, 1, none, false⟩] } }

/-- Bank 100's first eight rows VALID, its row 7 with words. -/
def inBank100 (f : Fab) : Fab :=
  { f with store := { f.store with rstate := [(3200, withParity 0x5555), (3232, withParity 0x5555)]
                                   rows := [(25607, List.replicate 36 (encodeWord 5))] } }

theorem witness_BanksBorrowedAndYielded :
    let first := marching 0 (engine100 0 0 false false) inBank100
    let again := fun n => marching 1 (engine100 0 1 false false) fun f => { f with ports := [(19, { rounds := n })] }
    let full := marching 0 (engine100 0 0 false false) fun f => { f with store := { f.store with pwb := [(100, some ⟨0, 0, [], 1, 19⟩)] } }
    let midway := marching 1 { engine100 5 0 true true with urgent := true, saved := some (List.replicate 36 (encodeWord 9)) } inBank100
    let between := marching 1 (engine100 0 0 true true) inBank100
    let yielded := fun (f : Fab) => (engineOf f 3).map fun e => (e.borrowed, e.quietFrom)
    (first.fab.integ.march.isSome = true ∧ canBorrow first.fab 3 = true ∧ yielded (after (.marchBorrow 3) first) = some (true, 0) ∧
      rawState first.fab.store 25607 = 1 ∧ rawState (after (.marchBorrow 3) first).store 25607 = 0 ∧
      rawState (after (.marchBorrow 3) first).store 25856 = 1) ∧
    (canBorrow (again 256).fab 3 = true ∧ yielded (after (.marchReborrow 3) (again 256)) = some (true, 1) ∧
      yielded (after (.marchReborrow 3) (again 255)) = some (false, 1)) ∧
    (canBorrow full.fab 3 = false ∧ still (.marchBorrow 3) full = true ∧ still (.marchReborrow 3) full = true) ∧
    (yielded (after (.marchYield 3) between) = some (false, 1) ∧ (after (.marchYield 3) between).store = between.fab.store) ∧
    (yielded (after (.marchYield 3) midway) = some (false, 1) ∧
      arrayWords (after (.rowTestTimeout 3) midway).store 25607 = List.replicate 36 (encodeWord 9)) ∧
    (injKind midway.fab ≠ 1 ∧ injKind midway.fab ≠ 2 ∧ (after (.rowTestTimeout 3) midway).store.rows = [(25607, List.replicate 36 (encodeWord 9))]) ∧
    still (.marchYield 3) (marching 0 (engine100 5 0 true true) id) = true := by decide +kernel

/-- READY in a power state with `n` operations outstanding. -/
def busyWith (st : BitVec 2) (n : Nat) : State :=
  having fun f => { f with pwr := { f.pwr with st := st }
                           lop := { f.lop with ops := (List.range n).map fun i => ⟨BitVec.ofNat 16 (i + 1), 4, none, false⟩ } }

theorem witness_LongOperationsNeedAHandle :
    longOpcode .save = some 7 ∧ runs .ret (busyWith 2 0) = true ∧ leaves .save (busyWith 2 0) (emit (busyWith 2 0).fab (.status 6)) = true ∧
    longOpcode (.zeroize 1) = some 8 ∧ leaves (.zeroize 1) (busyWith 0 64) (emit (busyWith 0 64).fab (.status 0x11)) = true ∧
    longOpcode .powerSetOn = some 5 ∧ leaves .powerSetOn (busyWith 2 64) (emit (busyWith 2 64).fab (.status 0x11)) = true := by
  decide +kernel

/-- The operation that a command would be given has ended with its record: its status holds beside a free time stamp, so that
nothing evaluates it (log 7). -/
def endsAtOnce (c : Instr) (s : State) : Bool :=
  let f := after c s
  decide (f.lop.ops = s.fab.lop.ops.filter fun o => o.handle != newHandle s.fab) && f.lop.last == newHandle s.fab
    && f.lop.head == s.fab.lop.head + 1

/-- The refusals of `PortOperationsStart`, each at the least and the greatest argument that is refused. -/
theorem witness_PortOperationsStart_refused :
    let s := busyWith 0 63
    let fawn := having fun f => { f with start := { f.start with fawn := true } }
    let due := having fun f => { f with ports := [(31, { commit := some 5 })] }
    let drains := having fun f => { f with lop := { f.lop with drains := [(31, some ⟨5, 0, 0⟩)] } }
    let zero := having fun f => { f with lop := { f.lop with zero := some ⟨9, 14, 0, 0, true, []⟩ } }
    let cal := having fun f => { f with lop := { f.lop with cal := some ⟨9, 1, 1, 0, 0, 63, 0, 0, 0, 0⟩ } }
    let hot := having fun f => { f with th := { f.th with valid := true, inUse := 95 * 16 } }
    (endsAtOnce (.slotCommit 0) s && endsAtOnce (.slotCommit 1) fawn && endsAtOnce (.slotCommit 0x80000000) due) = true ∧
    (endsAtOnce (.drain 32) s && endsAtOnce (.drain 0xFFFFFFFF) s && endsAtOnce (.drain 31) drains) = true ∧
    (endsAtOnce (.zeroize 0) s && endsAtOnce (.zeroize 16) s && endsAtOnce (.zeroize 1) zero) = true ∧
    (endsAtOnce (.canaryCal 0) s && endsAtOnce (.canaryCal 65536) s && endsAtOnce (.canaryCal 1) cal) = true ∧
    (endsAtOnce (.canaryCal 65535) s && endsAtOnce (.canaryCal 1) hot) = true ∧
    ((after (.slotCommit 0x80000000) due).ports = due.fab.ports ∧ (after (.drain 31) drains).lop.drains = drains.fab.lop.drains) := by
  decide +kernel

theorem witness_PortOperationsStart :
    let s := busyWith 0 63
    let hot := having fun f => { f with th := { f.th with valid := true, inUse := 95 * 16 - 1 } }
    let commit := after (.slotCommit 0x80000001) s
    let drain := after (.drain 31) s
    let zero := after (.zeroize 15) ready
    let cal := after (.canaryCal 0x8000) hot
    (runs .ret s = true ∧ (portOf commit 31).commit = some (newHandle s.fab) ∧ (portOf commit 30).commit = none ∧
      commit.lop.ops.length = 64) ∧
    ((portOf drain 31).freeze = true ∧ (portOf drain 30).freeze = false ∧ (tget none drain.lop.drains 31).isSome = true) ∧
    ((zero.lop.zero.map fun z => (z.scope, z.trigger)) = some (15, 0) ∧ (portOf zero 0).freeze = true ∧ (portOf zero 31).freeze = true) ∧
    (signed 16 hot.fab.th.inUse.toNat < 95 * 16 ∧ (cal.lop.cal.map (·.todo)) = some 0x8000 ∧ (portOf cal 15).freeze = true ∧
      (portOf cal 31).freeze = true ∧ (portOf cal 0).freeze = false) := by decide +kernel

theorem witness_StorageOperationsStart :
    let s := busyWith 0 63
    let m0 : BitVec 32 := BitVec.ofNat 32 (511 * 512)
    let sc : BitVec 32 := BitVec.ofNat 32 (15 + 16 * 31 + 2 ^ 9 * 31 + 2 ^ 14 * 255 + 2 ^ 22 * 255)
    let clearing := fun (n : Nat) => Instr.mapLoad (BitVec.ofNat 32 (2 + 4 * (n - 1))) 0 0 131071
    let down := having fun f => { f with links := [(4, { st := .down })] }
    (marchRefused m0 0xFF00 s.fab = false ∧ (after (.march m0 0xFF00) s).integ.march = some (newMarch (newHandle s.fab) m0 0xFF00)) ∧
    (scFirstRow sc ≤ scLastRow sc ∧ ((tget none (after (.scrub sc) s).integ.scrubs 15).map (·.visited)) = some 0) ∧
    (linkPresent down.fab 4 = true ∧ farEnds down.fab = [] ∧ (linkOf (after (.linkTrain 16) down) 4).train = some (1, false) ∧
      (after (.linkTrain 16) down).lop.trains = [(1, 16)]) ∧
    (((after (clearing 1) s).map.load.map (·.checked)) = some true ∧ (after (clearing 2) s).map.load = none) := by decide +kernel

/-- A valid residency entry for 4 rows of stack 0, on entry 7. -/
def stackEntry : BitVec 128 := BitVec.ofNat 128 (place [(0, 1), (1, 1)])

theorem witness_StorageOperationsStart_loads :
    let s := having fun f => { f with kports := [(0, { st := .up })] }
    let w0 : BitVec 32 := BitVec.ofNat 32 (4 * 31)
    let w1 : BitVec 32 := BitVec.ofNat 32 (2 * 508 + 2 ^ 10 * 255)
    let st := after (.mapLoad w0 1 0 0) s
    (placeOk (fld w1 1 9) (fld w1 10 8) (stripeOf (fld w1 18 2)) (fld w0 2 13 / 32) = true ∧ fld w1 18 2 ≠ 3 ∧
      (after (.mapLoad w0 w1 0 0) s).lop.last = 1) ∧
    (stackUp s.fab 0 = true ∧ (st.map.load.map (·.awaited)).isSome = true ∧ (kportOf st 0).jobs.length = 1) := by decide +kernel

theorem witness_StorageOperationsStart_migrate :
    let s := linked 9 {} fun f => { (putEntry 7 stackEntry f) with kports := [(0, { st := .up })] }
    let w0 : BitVec 32 := BitVec.ofNat 32 (7 + 2 ^ 28)
    let a := after (.migrate w0 5 0 0 4) s
    (sourceEntries 4 1 7 0 (handleTaken 0x0A s.fab)).1.isSome = true ∧ fld (5 : BitVec 32) 0 16 ≠ (instanceId s.fab).toNat ∧
    (a.lop.migs.map fun m => (m.handle, m.entries.length)) = [(1, 1)] := by decide +kernel

theorem witness_StorageOperationsStart_save :
    let s := having fun f => { f with sec := { f.sec with st := 1 } }
    (s.fab.img.waiting.isNone = true ∧ ((after .save s).img.waiting.map fun r => (r.handles, r.self)) = some ([1], false)) := by
  decide +kernel

/-- READY with operation 9 outstanding. -/
def underWay (opcode : BitVec 8) (g : Fab → Fab) : State :=
  having fun f => g { f with lop := { f.lop with last := 9, ops := [⟨9, opcode, none, false⟩] } }

/-- No operation is outstanding, and one record stands in the ring (R311). -/
def ended (f : Fab) : Bool := f.lop.ops.isEmpty && f.lop.head == 1

theorem witness_OperationsEnd :
    let march := fun (fin : Bool) (low : Option Nat) => underWay 1 fun f => { f with integ := { f.integ with
      march := some { newMarch 9 0 0 with engines := [(0, some { engine100 0 0 false false with finished := fin })], lowest := low } } }
    let scrub := fun (n : Nat) => underWay 2 fun f => { f with integ := { f.integ with
      scrubs := [(15, some ⟨9, 0xF, n, 0, 0, 0, none, none, 0, 0⟩)] } }
    let drain := fun (c : Round) => underWay 4 fun f => { f with ports := [(31, { freeze := true, cur := c })]
                                                                 lop := { f.lop with drains := [(31, some ⟨9, 0, 0⟩)] } }
    (outstanding (march true none).fab 9 = true ∧ ended (after .marchComplete (march true none)) = true ∧
      ended (after .marchComplete (march true (some 5))) = true ∧ still .marchComplete (march false none) = true) ∧
    (scrubTotal 0xF = 1 ∧ ended (after (.scrubComplete 15) (scrub 1)) = true ∧ still (.scrubComplete 15) (scrub 0) = true) ∧
    (portEmpty (drain .empty).fab 31 = true ∧ ended (after (.drainComplete 31) (drain .empty)) = true ∧
      portEmpty (drain (.burst (burst5 1))).fab 31 = false ∧ still (.drainComplete 31) (drain (.burst (burst5 1))) = true) := by
  decide +kernel

/-- A clearing MAP_LOAD of entry 5 whose records are checked. -/
def clearing5 (l : List MapChange) : State :=
  underWay 9 fun f => { f with map := { f.map with load := some ⟨9, 2, 0, 0, 5, [], 0, none, true, false, none⟩, changes := l } }

theorem witness_OperationsEnd_load :
    let s := clearing5 []
    let l : MapLoadRun := ⟨9, 2, 0, 0, 5, [], 0, none, true, false, none⟩
    lMode l ≠ 1 ∧ changeWaits s.fab ((loadWrites s.fab l).2.map (·.1)).dedup = false ∧
    (after .mapLoadTakeEffect s).map.epoch = 1 ∧ ((after .mapLoadTakeEffect s).map.load.map (·.effect)) = some (some (5, 1, 1)) ∧
    changeWaits (clearing5 [changeOf 0 1]).fab ((loadWrites (clearing5 [changeOf 0 1]).fab l).2.map (·.1)).dedup = true ∧
    ((after .mapLoadTakeEffect (clearing5 [changeOf 0 1])).map.load.map (·.waited)) = some true := by decide +kernel

/-- Margins of 6 bits at 0 to 63 taps that are equal to the taps. -/
def rising : BitVec 384 := BitVec.ofNat 384 (place ((List.range 64).map fun t => (6 * t, t)))

theorem witness_OperationsEnd_calibration :
    let c : CalRun := ⟨9, 0x8000, 0x8000, 0, 0, 63, 0, 0, 0, 0⟩
    let s := underWay 0xC fun f => { f with lop := { f.lop with cal := some c }, th := { f.th with frozen := 0x8000 } }
    let a := after (.calibrationComplete 15 rising) s
    portEmpty s.fab 15 = true ∧ portEmpty s.fab 31 = true ∧ calReached s.fab rising = true ∧ chosenTaps s.fab rising = 16 ∧
    tget 0 a.th.taps 15 = 16 ∧ a.th.frozen = 0 ∧ a.lop.cal = none ∧ ended a = true := by decide +kernel

/-! ### Power and starts -/

/-- READY in a power state, its fabric put through `g`. -/
def inPower (st : BitVec 2) (g : Fab → Fab) : State := having fun f => g { f with pwr := { f.pwr with st := st } }

/-- A transition in a phase, with handle 9. -/
def transit (target : BitVec 2) (phase : Nat) (g : Fab → Fab) : Fab → Fab := fun f =>
  g { f with pwr := { f.pwr with trans := some ⟨9, target, f.pwr.st, phase, 0, false, 0⟩ }
             lop := { f.lop with last := 9, ops := [⟨9, 5, none, false⟩] } }

theorem witness_PowerSetTransitions :
    let busy := inPower 0 (transit 1 0 id)
    let full := inPower 0 (transit 1 0 fun f => { f with pwr := { f.pwr with queued := some (8, 0) } })
    let closed := inPower 0 fun f => { f with pwr := { f.pwr with intakeOpen := false }, queues := [(0, holding dNop)] }
    let sec := fun l u => inPower 0 fun f => { f with sec := { f.sec with level := l, unlock := u } }
    let parked := inPower 0 fun f => { f with pwr := { f.pwr with parked := true } }
    let phase := fun (c : Instr) (s : State) => (after c s).pwr.trans.map (·.phase)
    (endsAtOnce .powerSetOn full = true ∧ (after .powerSetOn full).pwr = full.fab.pwr) ∧
    (moving busy.fab = true ∧ (after .powerSetOn busy).pwr.queued = some (10, 0) ∧ (after .powerSetOn busy).lop.ops.length = 2) ∧
    (moving ready.fab = false ∧ outstanding ready.fab (newHandle ready.fab) = false ∧ endsAtOnce .powerSetOn ready = true ∧
      endsAtOnce .powerSetRetain (inPower 2 id) = true) ∧
    ((endsAtOnce .powerSetIdle (sec 2 0) && endsAtOnce .powerSetRetain (sec 0 1) && endsAtOnce .powerSetRetain (sec 0 2)) = true ∧
      debugHolds (sec 1 3).fab = false ∧ endsAtOnce .powerSetOn (sec 2 0) = true) ∧
    (queuesBusy ready.fab = false ∧ phase .powerSetIdle ready = some 0 ∧ (after .powerSetIdle ready).pwr.intakeOpen = false) ∧
    (queuesBusy closed.fab = true ∧ endsAtOnce .powerSetRetain closed = true ∧ endsAtOnce .powerSetIdle closed = true ∧
      (after .powerSetRetain closed).pwr = closed.fab.pwr) ∧
    ((phase .powerSetRetain ready).isSome = true ∧ (phase .powerSetOff (inPower 1 id)).isSome = true) ∧
    (endsAtOnce .powerSetOn (inPower 1 id) = true ∧ (after .powerSetOn (inPower 1 id)).pwr.st = 0 ∧
      (after .powerSetOn (inPower 1 id)).pwr.intakeOpen = true) ∧
    (phase .powerSetOn (inPower 2 id) = some 3 ∧ phase .powerSetOff (inPower 2 id) = some 5 ∧ endsAtOnce .powerSetOff (inPower 2 id) = true ∧
      (after .powerSetOff (inPower 2 id)).pwr.offReq = true) ∧
    (phase .powerSetOn parked = some 4 ∧ (after .powerSetOn parked).start.stage = 5 ∧ (after .powerSetOn parked).pwr.parked = false) := by
  decide +kernel

theorem witness_PowerAnswers :
    let at_ := fun (st target : BitVec 2) (ph : Nat) => inPower st (transit target ph id)
    (∀ o ∈ (at_ 0 2 2).fab.lop.ops, o.opcode = 5) ∧
    ((after .pwrRetAck (at_ 0 2 2)).pwr.st = 2 ∧ (after .retainAckTimeout (at_ 0 2 2)).start.stage = 5) ∧
    ((after .retainExit (at_ 2 0 3)).start.stage = 1 ∧ (after .retainExitTimeout (at_ 2 0 3)).pwr.st = 2 ∧
      ended (after .retainExitTimeout (at_ 2 0 3)) = true) ∧
    ((after .pwrOffAck (at_ 2 3 5)).pwr.st = 3 ∧ (after .offAckTimeout (at_ 2 3 5)).pwr.trans = none) ∧
    (still .pwrRetAck (at_ 2 0 3) = true ∧ still .retainExit (at_ 0 2 2) = true ∧ still .pwrOffAck (at_ 0 2 2) = true ∧
      still .offAckTimeout (at_ 0 2 2) = true) := by decide +kernel

theorem witness_RailsAndPowerGood :
    let v : SecValues := ⟨2, 77, 0, false, 0⟩
    let lost := having fun f => { f with pwr := { f.pwr with excursion := true } }
    ((after (.railLoss 6) ready).pwr.excursion = true ∧ railsMayFall (inPower 2 id).fab = true ∧
      (after (.railLoss 4) (inPower 2 id)).pwr.excursion = false ∧ (after (.railLoss 3) (inPower 2 id)).pwr.excursion = true ∧
      (after (.railLoss 0) (inPower 3 id)).pwr.excursion = false) ∧
    ((after (.powerGood (some v)) lost).start.stage = 2 ∧ (after (.powerGood (some v)) lost).sec.epoch = 77 ∧
      (after (.powerGood (some v)) (inPower 3 id)).pwr.st = 0) ∧
    (atStage State.reset.fab 1 = true ∧ (after (.powerGood (some v)) State.reset).start.stage = 2) ∧
    (atStage ready.fab 1 = false ∧ (after (.powerGood (some v)) ready).start = ready.fab.start ∧
      (after (.powerGood none) State.reset).start = State.reset.fab.start) ∧
    ((after (.powerGood none) lost).start.stage = 1 ∧ (after (.powerGood none) (inPower 3 id)).start.running = true) := by decide +kernel

/-- A descriptor whose `REQ` stayed high in RETAIN, and stage 1 of a cold start out of OFF that runs out of its time. -/
theorem witness_RailsAndPowerGood_late :
    let v : SecValues := ⟨2, 77, 0, false, 0⟩
    let kept := inPower 2 fun f => { f with start := { f.start with stage := 1, running := true, warm := true, done := false }, isolated := [.descriptorIntake 255 dMove] }
    let off := inPower 3 id
    let late := fun sub => fabOf (exec (.stageTimeout sub) off)
    (atStage kept.fab 1 = true ∧ kept.fab.start.handle = none ∧ (after (.powerGood (some v)) kept).isolated = [] ∧
      ((queueOf (after (.powerGood (some v)) kept) 255).intake.map (·.desc)) = [dMove] ∧ (after (.powerGood (some v)) kept).pwr.st = 0) ∧
    ([1, 4].map (fun sub => ((late sub).start.stage, (late sub).start.running, fld (tget 0 (late sub).start.history 0) 8 8)) =
      [(1, false, 1), (1, false, 4)]) ∧
    (still (.stageTimeout 0) off = true ∧ still (.stageTimeout 5) off = true) := by decide +kernel

/-- A start at stage n. -/
def starting (n : BitVec 8) (warm : Bool) (g : Fab → Fab) : State :=
  { State.reset with fab := g { State.reset.fab with start := { State.reset.fab.start with stage := n, warm := warm } } }

theorem witness_StagesPass :
    let valid := starting 3 false fun f => { f with th := { f.th with valid := true } }
    let four := starting 4 true fun f => { f with sec := { f.sec with st := 1 } }
    let done := starting 6 false fun f => { f with start := { f.start with done := true } }
    (atStage (starting 2 false id).fab 2 = true ∧ (after (.stageQuickMarch []) (starting 2 false id)).start.stage = 3 ∧
      (after (.stageQuickMarch []) (starting 2 true id)).start.stage = 3) ∧
    ((after (.stageCanaryCal (List.replicate 16 rising)) valid).start.stage = 4 ∧
      tget 0 (after (.stageCanaryCal (List.replicate 16 rising)) valid).th.taps 15 = 16) ∧
    ((after .stageDictionary (starting 4 true id)).start.stage = 5 ∧ (after .stageDictionary four).start.saving = true ∧
      (after .stageDictionary (starting 4 false id)).start.count = 1) ∧
    ((after (.stageMapRoute true) (starting 6 false id)).start.done = true ∧ (after .ready done).start.stage = 7 ∧
      (after .ready done).pwr.intakeOpen = true) ∧
    (still (.stageQuickMarch []) ready = true ∧ still .stageDictionary ready = true ∧ still .ready ready = true) := by decide +kernel

/-- Stage 3 waits for the ports; stages 4, 5 and READY of a Fawn start. -/
theorem witness_StagesPass_fawn :
    let held := starting 3 false fun f => { f with th := { f.th with valid := true }, ports := [(16, { cur := .burst (burst5 1) })] }
    let left := starting 4 true fun f => { f with start := { f.start with fawn := true, handle := some 9, failed := 0 } }
    let fawn := starting 5 false fun f => { f with start := { f.start with fawnStart := true } }
    let done := starting 6 false fun f => { f with start := { f.start with fawnStart := true, done := true, failed := 3 } }
    (allEmpty held.fab = false ∧ still (.stageCanaryCal []) held = true) ∧
    ((after .stageDictionary left).start.fawn = false ∧ (after .stageDictionary left).start.failed = 1) ∧
    leaves (.stageLinks ⟨0, 0, 0, 0, 0⟩) fawn (fawnLinks fawn.fab) = true ∧
    ((after .ready done).start.stage = 8 ∧ (after .ready done).start.failed = 3) := by decide +kernel

theorem witness_StagesPass_links :
    let s := starting 5 false id
    let r : TrainResult := ⟨0, BitVec.ofNat 80 (place ((64, 8) :: (List.range 4).map fun k => (16 * k, spanDie s.fab 0 k))),
      BitVec.ofNat 40 (place ((List.range 4).map fun k => (8 * k, spanPort s.fab 0 k))), BitVec.allOnes 216, 0⟩
    atStage s.fab 5 = true ∧ linkFailure (trainAll false r s.fab).1 = none ∧ (after (.stageLinks r) s).start.stage = 6 := by
  decide +kernel

theorem witness_StartsFailAndRestart :
    let at_ := fun (n : BitVec 8) (k : BitVec 8) => starting n false fun f => { f with start := { f.start with failed := k } }
    (runs .ret (at_ 1 0) = true ∧ lateSubcode 1 1 = true ∧ (after (.stageTimeout 1) (at_ 1 0)).start.running = false ∧
      fld (tget 0 (after (.stageTimeout 1) (at_ 1 0)).start.history 0) 0 4 = 1) ∧
    (lateSubcode 4 0xFF = false ∧ still (.stageTimeout 0xFF) (at_ 4 0) = true ∧ lateSubcode 4 8 = false ∧ lateSubcode 1 0 = false) ∧
    (zeroFirst ready.fab = false ∧ (after (.restart 1) ready).start.stage = 1 ∧ (after (.restart 1) ready).start.warm = false ∧
      (after (.restart 0) ready).start.warm = true) ∧
    (endsAtOnce (.restart 1) (withQueue 2 (flying (flightAt 0 2 dFill))) = true ∧
      (after (.restart 1) (withQueue 2 (flying (flightAt 0 2 dFill)))).start = ready.fab.start) ∧
    (endsAtOnce (.restart 2) ready = true ∧ endsAtOnce (.restart 0) (inPower 0 (transit 1 0 id)) = true ∧
      endsAtOnce (.restart 0) (inPower 0 fun f => { f with pwr := { f.pwr with queued := some (8, 0) } }) = true ∧
      endsAtOnce (.restart 0) (having fun f => { f with lop := { f.lop with zero := some ⟨9, 14, 0, 0, true, []⟩ } }) = true) := by
  decide +kernel

/-- Stage 5 that runs out of its time: the port that fails it, and none where every present port can be left down. -/
theorem witness_StartsFailAndRestart_links :
    let s := starting 5 false id
    let alone := starting 5 false fun f => { f with prm := { f.prm with lanes := 0, spans := 8 } }
    let t := trainAll true ⟨0, 0, 0, 0, 0⟩ s.fab
    let a := after (.stageTimeout 0) s
    (atStage s.fab 5 = true ∧ (linkFailure t.1).map (fun e => (e.2 + 16 * e.1) % 256) = some (fld (tget 0 a.start.history 0) 8 8) ∧
      fld (tget 0 a.start.history 0) 0 4 = 5 ∧ a.start.running = false) ∧
    ((linkFailure (trainAll true ⟨0, 0, 0, 0, 0⟩ alone.fab).1) = none ∧ (after (.stageTimeout 0) alone).start.stage = 6) := by decide +kernel

/-- A SAVE with a handle. -/
def saveOf (l : List Byte) : SaveRun := ⟨[9], false, 0, false, l, false, false⟩

theorem witness_SavesAndZeroizesEnd :
    let waits := fun (t : BitVec 16) => underWay 7 fun f => { f with
      th := { f.th with valid := true, inUse := t }, sec := { f.sec with st := 1 }, img := { f.img with waiting := some (saveOf []) } }
    let blank := underWay 7 fun f => { f with img := { f.img with waiting := some (saveOf []) } }
    let writes := underWay 7 fun f => { f with img := { f.img with writing := some (saveOf [1, 2, 3]), a := [9, 9, 9, 9] } }
    let z : ZeroRun := ⟨9, 14, 0, 0x80000001, true, []⟩
    let zero := underWay 8 fun f => { f with lop := { f.lop with zero := some z } }
    let half := underWay 8 fun f => { f with lop := { f.lop with zero := some { z with scope := 15 } } }
    let idle := inPower 0 (transit 1 0 id)
    (saveWindow (waits 1600).fab = true ∧ ((after .saveStart (waits 1600)).img.writing.map (·.toB)) = some false ∧
      saveWindow (waits 1601).fab = false ∧ ((after .saveStart (waits 1601)).img.waiting.map (·.reported)) = some true) ∧
    (still .saveStart ready = true ∧ ended (after (.saveComplete true) writes) = true ∧
      (after (.saveComplete true) writes).img.a = [1, 2, 3, 9] ∧ ended (after (.saveComplete false) writes) = true ∧
      ended (after .saveTimeout writes) = true) ∧
    (zeroWritten z = true ∧ (after .zeroizeDone zero).lop.zero = none ∧ (portOf (after .zeroizeDone zero) 31).freeze = true ∧
      ended (after .zeroizeDone zero) = true ∧ zeroWritten { z with scope := 15 } = false ∧ still .zeroizeDone half = true) ∧
    (ended (after .saveStart blank) = true ∧ (after .saveStart blank).img.waiting = none) ∧
    (allEmpty idle.fab = true ∧ (after .idleReached idle).pwr.st = 1 ∧ still .idleReached ready = true) := by decide +kernel

/-- A housekeeping sample of a diode reading. -/
def sampleAt (t : BitVec 16) : HkSample := ⟨1000000, t, 750, 700, 800, BitVec.allOnes 96, BitVec.allOnes 216, BitVec.allOnes 36⟩

set_option maxRecDepth 20000 in
theorem witness_HousekeepingRounds :
    let s := inPower 0 fun f => { f with start := { f.start with failed := 0 } }
    let a := fun t => after (.housekeepingRound (sampleAt t)) s
    let late := inPower 0 fun f => { f with th := { f.th with hkLost := true, tbLost := true } }
    let kept := inPower 2 id
    let cold := inPower 2 fun f => { f with th := { f.th with hkLost := true, level := 1 } }
    ((after (.backstopRound (sampleAt 0)) State.reset).th.rounds = 1) ∧
    ((a 400).th.rounds = 1 ∧ (a 400).pwr.hostNs = 1000000 ∧ (a 400).th.diode = 400 ∧ (a 400).pwr.vret = 800) ∧
    ((a (16 * 110)).th.level = 3 ∧ (a (16 * 110)).th.shutdown = true ∧ (a 400).th.shutdown = false) ∧
    ((after (.backstopRound (sampleAt 400)) late).th.diode = 0x8000 ∧ (after (.backstopRound (sampleAt 400)) late).pwr.hostNs = 0) ∧
    (runs .ret kept = true ∧ (after (.backstopRound (sampleAt 400)) kept).pwr.vtrf = 0 ∧
      (after (.backstopRound (sampleAt 400)) kept).pwr.vret = 800 ∧ (after (.backstopRound (sampleAt 400)) kept).th.held = false) ∧
    ((after (.backstopRound (sampleAt 400)) cold).th.valid = false ∧ (after (.backstopRound (sampleAt 400)) cold).th.held = true) ∧
    ((after .hkTimeout ready).th.hkLost = true ∧ (after .tbTimeout ready).th.tbLost = true) := by decide +kernel

theorem witness_HousekeepingRounds_frozen :
    let s := having fun f => { f with th := { f.th with collapsed := 0x8000 } }
    bitAt s.fab.th.collapsed 15 = true ∧ (after (.groupFrozen 15) s).th.frozen = 0x8000 ∧ (after (.groupFrozen 15) s).th.recal = 0x8000 ∧
    bitAt s.fab.th.collapsed 0 = false ∧ still (.groupFrozen 0) s = true := by decide +kernel

/-! ### Security and debug -/

/-- READY with a security state, a level and an unlock status. -/
def secured (st level : BitVec 2) (unlock : BitVec 8) (g : Fab → Fab) : State :=
  having fun f => g { f with sec := { f.sec with st := st, epoch := 7, level := level, unlock := unlock } }

theorem witness_SecurityChangesZeroize :
    let s := secured 2 1 1 id
    let v := fun (n : BitVec 32) => (⟨2, n, 5, true, 0⟩ : SecValues)
    let acked := secured 2 0 0 fun f => { f with sec := { f.sec with chgAck := true, changed := true } }
    let debt := fun (st : BitVec 2) l => secured 2 0 0 fun f => { f with pwr := { f.pwr with st := st }, sec := { f.sec with chgAck := true, changed := true, owed := l } }
    let owed := secured 2 0 0 fun f => { f with sec := { f.sec with owed := [1] } }
    let both := secured 2 0 0 fun f => { f with sec := { f.sec with owed := [2, 1] } }
    let waits := secured 2 0 0 fun f => { f with sec := { f.sec with owed := [1] }, lop := { f.lop with zero := some ⟨9, 14, 0, 0, true, []⟩ } }
    let granted := secured 2 0 2 id
    ((after (.securityChange (v 8)) s).sec.level = 0 ∧ (after (.securityChange (v 8)) s).sec.unlock = 3 ∧
      (after (.securityChange (v 7)) s).sec.level = 1 ∧ (after (.securityChange (v 7)) s).sec.changed = false ∧
      still (.securityChange (v 8)) acked = true) ∧
    (still .secChgRelease s = true ∧ (after .secChgRelease acked).sec.owed = [1] ∧ (after .secChgRelease (debt 0 [1])).sec.owed = [1] ∧
      (after .secChgRelease (debt 0 [2])).sec.owed = [2, 1] ∧ (after .secChgRelease (debt 2 [])).sec.owed = [3]) ∧
    (still .securityZeroize s = true ∧ moving owed.fab = false ∧ ((after .securityZeroize owed).lop.zero.map (·.scope)) = some 15 ∧
      (after .securityZeroize owed).pwr.intakeOpen = false ∧ (portOf (after .securityZeroize owed) 31).freeze = true) ∧
    (((after .securityZeroize both).lop.zero.map fun z => (z.scope, z.trigger)) = some (7, 2) ∧ (after .securityZeroize both).sec.owed = [1]) ∧
    ((after .securityZeroize waits).sec.owed = [1] ∧ (after .securityZeroize waits).sec.zeroing = true ∧
      (after .securityZeroize waits).lop.zero = waits.fab.lop.zero) ∧
    ((after (.securityChange (v 8)) granted).sec.unlock = 3 ∧ (after (.securityChange (v 8)) granted).sec.unlockReq = false) := by decide +kernel

theorem witness_InjectionsNeedIntrusive :
    let s := secured 1 2 0 id
    let kept := having fun f => { f with pwr := { f.pwr with st := 2 } }
    injection (.injectEccDouble 131071 35 136) = some (2, 131071, 35, 136) ∧
    leaves (.injectEccDouble 131071 35 136) kept (emit kept.fab (.status 6)) = true ∧
    leaves (.injectEccDouble 131071 35 136) ready (emit ready.fab (.status 8)) = true ∧
    leaves (.injectEccDouble 131071 36 136) s (emit s.fab (.status 0x0C)) = true ∧
    leaves (.injectEccSingle 0 0 137) s (emit s.fab (.status 0x0C)) = true ∧
    fld (after (.injectEccDouble 131071 35 136) s).sec.inject 0 35 = 2 + 16 * 131071 + 2 ^ 21 * 35 + 2 ^ 27 * 136 ∧
    fld (after (.injectFlitCrc 4) s).sec.inject 0 21 = 5 + 16 * 4 ∧ fld (after (.injectSopCrc 1) s).sec.inject 0 21 = 6 + 16 := by
  decide +kernel

theorem witness_DebugLevelsAndHalts :
    let kept := inPower 2 id
    let open' := secured 1 0 0 id
    let high := secured 1 2 0 id
    let secure := secured 2 0 0 id
    let waits := fun (n : Nat) => secured 2 0 1 fun f => { f with sec := { f.sec with unlockRounds := n, unlockReq := true } }
    let owes := fun (t : Nat) => secured 2 0 1 fun f => { f with sec := { f.sec with owed := [t] } }
    leaves .debugObserve kept (emit kept.fab (.status 6)) = true ∧ (after .debugObserve open').sec.level = 1 ∧
    leaves (.debugLower 3) open' (emit open'.fab (.status 0x0B)) = true ∧ (after (.debugLower 0) high).sec.level = 0 ∧
    (intrusiveOk open'.fab = true ∧ (after .debugIntrusive open').sec.level = 2 ∧ (after .debugIntrusive secure).sec.unlock = 1 ∧
      intrusiveOk State.reset.fab = false) ∧
    ((after (.unlock true 7) (waits 0)).sec.unlock = 2 ∧ (after (.unlock true 7) (waits 0)).sec.owed = [2] ∧
      (after (.unlock true 7) (owes 1)).sec.owed = [1, 2] ∧
      (after (.unlock true 8) (waits 0)).sec.unlock = 3 ∧ still (.unlock true 7) secure = true) ∧
    (still .unlockTimeout (waits 1249) = true ∧ (after .unlockTimeout (waits 1250)).sec.unlock = 3) ∧
    (leaves (.portHalt 1) open' (emit open'.fab (.status 8)) = true ∧ (after (.portHalt 0x80000001) high).sec.portHalt = 0x80000001) ∧
    ((after (.fallbackTest 1) high).integ.fallTest = true ∧ leaves (.fallbackTest 2) high (emit high.fab (.status 0x0B)) = true ∧
      leaves (.fallbackTest 1) open' (emit open'.fab (.status 8)) = true ∧ allEmpty high.fab = true ∧
      (after .fallbackEngage (having fun f => { f with integ := { f.integ with fallTest := true } })).integ.fallOn = true) := by
  decide +kernel

/-! ### The dictionary -/

/-- A request from endpoint 9 under message tag 3 (R265, R266). -/
def request (op index sub cnt handle : Nat) (payload : List Byte) : BdpMsg :=
  ⟨mgtWords (bdpHeader op 0 77 index sub 0 payload.length cnt handle) payload, 9, 3, false, 0⟩

/-- The answer put out last has this status, count, handle and payload. -/
def answers (f : Fab) (status cnt handle : Nat) (payload : List Byte) : Bool :=
  match f.out with
  | .message _ _ l :: _ =>
    hStatus (wordsHdr l) == status && hCount (wordsHdr l) == cnt && hHandle (wordsHdr l) == handle && wordsPayload l == payload
  | _ => false

theorem witness_MessagesAnswered :
    let s := ready
    let rd := request 1 0x4010 1 0 0 []
    let wr := fun (v : Byte) => request 2 0x4010 1 0 0 [0, v]
    (discards rd s.fab = false ∧ formatBad rd = false ∧ readCheck 0x4010 1 s.fab = 0 ∧ readsPlain 0x4010 1 s.fab = true ∧
      answers (after (.read rd) s) 0 0 0 [0, 16] = true) ∧
    (answers (after (.read (request 1 0x4010 9 0 0 [])) s) (readCheck 0x4010 9 s.fab) 0 0 [] = true ∧ readCheck 0x4010 9 s.fab ≠ 0) ∧
    (answers (after (.write (wr 1)) s) 0 0 0 [] = true ∧ (after (.write (wr 1)) s).stallBound = 256 ∧
      answers (after (.write (wr 0)) s) 0x0B 0 0 [] = true) ∧
    (firstStatus (some 9) s.slots 0x4020 63 (engineTook false s.fab) = 0 ∧
      answers (after (.readBlock (request 3 0x4020 63 256 0 [])) s) 0 1 0 [0, 0] = true) := by decide +kernel

theorem witness_MessagesAnswered_commands :
    let s := ready
    let cm := request 4 0xF004 0 1 0 [31, 0, 0, 0]
    let full := busyWith 0 64
    let sb := fun (n : Nat) => request 6 0 0 n 0 (List.replicate 32 0xFF)
    (commandCheck 0xF004 0 1 4 s.fab = 0 ∧ answers (after (.command cm) s) 0 0 1 [] = true ∧
      answers (after (.command cm) full) 0x11 0 0 [] = true ∧
      answers (after (.command cm) { s with fab := after (.command cm) s }) 0 0 1 [] = true) ∧
    (answers (after (.poll (request 5 0 0 0 5 [])) full) 0 0 0 (2 :: List.replicate 35 0) = true) ∧
    (slotFor s.fab 9 = some 0 ∧ answers (after (.subscribe (sb 0)) s) 0 0 0 (List.replicate 32 0xFF) = true ∧
      (tget {} (after (.subscribe (sb 2)) s).ev.subs 0).eid = 0) := by decide +kernel

theorem witness_MessagesTakenOrDiscarded :
    let rd := request 1 0x4010 1 0 0 []
    let bad : BdpMsg := { rd with words := rd.words ++ [0] }
    let busy := having fun f => { f with bdp := { f.bdp with accesses := [⟨none, 0, 0, none⟩] } }
    messageCommand 1 rd = some (.read rd) ∧ (discards { rd with ic := true } ready.fab = true ∧
      counterOf (after (.read { rd with ic := true }) ready) 0x8400 0x1B = 1) ∧
    (formatBad bad = true ∧ answers (after (.read bad) ready) 2 0 0 [] = true) ∧
    ((after (.read rd) busy).bdp.waiting = [.message rd] ∧ hOp (msgHdr rd) = 1 ∧ still (.write rd) ready = true) := by decide +kernel

/-- The value put out last at the window. -/
def seen (f : Fab) : Option (BitVec 64) :=
  match f.out with
  | .window d :: _ => some d
  | _ => none

/-- Window address of an entry (R271). -/
def addrOf (x y : Nat) : BitVec 28 := BitVec.ofNat 28 (x * 0x800 + 8 * y)

theorem witness_WindowAccessesAndEvents :
    let s := having fun f => { f with cnt := { f.cnt with val := [(0x8400 * 256 + 1, 0x500000007)] } }
    let high := { s with fab := after (.mirrorRead (addrOf 0x8400 1) false) s }
    let no := addrOf 0x4010 9
    (still (.mirrorRead 6 false) s = true ∧ still (.mirrorRead 4 true) s = true ∧ still (.mirrorWrite 2 false 0) s = true) ∧
    (readCheck 0x8400 1 s.fab = 0 ∧ readsPlain 0x8400 1 s.fab = true ∧ sizeAt 0x8400 1 = 8 ∧
      seen (after (.mirrorRead (addrOf 0x8400 1) true) s) = some 0x500000007 ∧ seen high.fab = some 7 ∧
      tget none high.fab.bdp.latched 0x840001 = some 5 ∧ seen (after (.mirrorRead (addrOf 0x8400 1 + 4) false) high) = some 5) ∧
    (readCheck 0x4010 9 s.fab ≠ 0 ∧ seen (after (.mirrorRead no false) s) = some 0xFFFFFFFF ∧
      fld (after (.mirrorRead no false) s).bdp.winError 0 32 = readCheck 0x4010 9 s.fab + 256 * 0x4010 + 2 ^ 24 * 9) ∧
    (sizeAt 0x4010 1 = 2 ∧ (after (.mirrorWrite (addrOf 0x4010 1) false 256) s).stallBound = 256 ∧
      fld (after (.mirrorWrite (addrOf 0x4010 1) false 255) s).bdp.winError 0 8 = 0x0B) := by decide +kernel

theorem witness_WindowAccessesAndEvents_rows :
    let b : Burst := ⟨rHost, 0, 0, .background, 1, 0, 0, 0, 0, false, false, false, false⟩
    let at_ := fun (d : Option (List Byte)) => having fun f => { f with ports := [(31, { cur := .burst b })]
                                                                        bdp := { f.bdp with accesses := [⟨none, 131071, 3, d⟩] } }
    let late := having fun f => { f with bdp := { f.bdp with accesses := [⟨none, 131071, 3, none⟩] } }
    let put := fun (l : List Byte) => (writeRow 31 131071 (hostBytes ⟨none, 131071, 3, some l⟩ l 0) (hostBytes ⟨none, 131071, 3, some l⟩ l blankRow)
      (hostMask ⟨none, 131071, 3, some l⟩ l) false (at_ (some l)).fab).store
    (burstOf (portOf ready.fab 31) = none ∧ still (.rowDataRead 15 .prompt) ready = true) ∧
    (hostGate (at_ none).fab ⟨none, 131071, 3, none⟩ = .go ∧ hostGate (at_ (some [7])).fab ⟨none, 131071, 3, some [7]⟩ = .go ∧
      regionWaits (at_ none).fab 31 = false ∧ (after (.rowDataRead 15 .prompt) (at_ none)).bdp.xbData = blankRow ∧
      (after (.rowDataWrite 15 .prompt) (at_ (some [7]))).store = put [7]) ∧
    ( (after (.rowDataRead 15 .prompt) (at_ none)).bdp.xbStatus = blockStatus 0 0 ∧
      (after (.rowDataRead 15 .prompt) (at_ none)).bdp.accesses = []) ∧
    (rawState (after (.rowDataWrite 15 .prompt) (at_ (some [7]))).store 131071 = 1 ∧ still (.rowDataRead 15 .prompt) (at_ (some [7])) = true) ∧
    ((after .windowAccessTimeout late).bdp.xbStatus = blockStatus 0x11 0 ∧ accessGranted (at_ none).fab ⟨none, 131071, 3, none⟩ = true ∧
      still .windowAccessTimeout (at_ none) = true) := by decide +kernel

theorem witness_WindowAccessesAndEvents_events :
    let s := having fun f => { f with ev := { f.ev with subs := [(7, { eid := 9, mask := 1, seq := 5, lost := true, out := List.replicate 17 0 })] } }
    eventTurn ready.fab = none ∧ still .event ready = true ∧ eventTurn s.fab = some 7 ∧
    (tget {} (after .event s).ev.subs 7).out.length = 1 ∧ (tget {} (after .event s).ev.subs 7).seq = 21 ∧
    (after .event s).out.length = 1 ∧ (tget {} (after .event s).ev.subs 7).lost = false ∧
    hidden s.fab = false ∧ (after (.mapEntryTouch 0) s).out.length = 1 := by decide +kernel

theorem witness_EntryWritesTakeEffect :
    let s := ready
    let l3 := having fun f => { f with queues := [(255, { level := 3 })], ports := [(31, { reqs := [(255, { used := 9 })] })] }
    let closed := { s with fab := State.reset.fab }
    let ue := having fun f => { f with integ := { f.integ with ueCount := [(511, 2)], retired := 1 } }
    (leaves (.lfsrSeed 31 0) s (emit s.fab (.status 0x0B)) = true ∧ (portOf (after (.lfsrSeed 31 9) s) 31).lfsr = 9) ∧
    (leaves (.arbLevelWrite 255 4) s (emit s.fab (.status 0x0B)) = true ∧ (queueOf (after (.arbLevelWrite 255 2) l3) 255).level = 2 ∧
      (tget {} (portOf (after (.arbLevelWrite 255 2) l3) 31).reqs 255).used = 0) ∧
    (leaves (.stallBoundWrite 255) s (emit s.fab (.status 0x0B)) = true ∧ (after (.stallBoundWrite 256) s).stallBound = 256) ∧
    ((after (.allocWrite 511 1) s).integ.alloc = [(511, 1)] ∧ leaves (.allocWrite 511 2) s (emit s.fab (.status 0x0B)) = true) ∧
    (epgroupOf (after (.epgroupWrite 15 255 (2 ^ 256 + 1)) s) 15 255 = 2 ^ 256 + 1) ∧
    (slotLegal 31 (slotEntry 1 255 15) = true ∧
      slotOf (slotsAfter (.slotEntryWrite 1 31 255 (slotEntry 1 255 15)) s) 1 31 255 = slotEntry 1 255 15) ∧
    (isCounter 0x8400 0x1B = true ∧ thresholdOf (after (.thresholdWrite 0x8400 0x1B 1) s) 0x8400 0x1B = 1 ∧
      (after (.counterClear 0x8400 0x1B) s).cnt.val = [] ∧ isCounter 0x8400 0 = false ∧
      leaves (.counterClear 0x8400 0) s (emit s.fab (.status 4)) = true ∧ (after .counterClearAll s).cnt.val = []) ∧
    (rwpClosed closed.fab = true ∧ leaves .failedStartsClear closed (emit closed.fab (.status 6)) = true ∧ rwpClosed s.fab = false ∧
      (after .failedStartsClear s).start.failed = 0 ∧ (after (.fawnThresholdWrite 7) s).start.fawnAt = 7 ∧
      tget 0 (after (.retireThresholdWrite 2) ue).integ.alloc 511 = 2 ∧ (after (.retiredMaskWrite (2 ^ 511)) ue).integ.retired = 2 ^ 511 ∧
      tget 0 (after (.retiredMaskWrite (2 ^ 511)) ue).integ.alloc 511 = 2 ∧ tget 0 (after (.retiredMaskWrite (2 ^ 511)) ue).integ.alloc 0 = 0) ∧
    (routeOk s.fab s.fab.dom.package.toNat 8191 (1 + 2 * 7 + 16 * 8191) = true ∧
      tget 0 (after (.routeWrite 8191 (1 + 2 * 7 + 16 * 8191)) s).dom.route 8191 = 1 + 2 * 7 + 16 * 8191) := by decide +kernel

theorem witness_TableWritesRefused :
    let empties := having fun f => { f with prm := { f.prm with empty := [(0, 1)], fullWide := [(0, 2 ^ 63)] } }
    let due := having fun f => { f with ports := [(31, { commit := some 5 })] }
    (portOf ready.fab 31).active.toNat = 0 ∧ slotLegal 15 (slotEntry 3 0 0) = false ∧
    leaves (.slotEntryWrite 0 31 0 0) ready (emit ready.fab (.status 0x0E)) = true ∧
    leaves (.slotEntryWrite 1 15 0 (slotEntry 3 0 0)) ready (emit ready.fab (.status 0x0C)) = true ∧
    (writeEntryAt (some 9) 0x4200 0 2 0 [] ready.fab).1 = 0x0E ∧ (writeEntryAt none 0x440F 255 36 (3 * 2 ^ 256) [] ready.fab).1 = 0x0C ∧
    (leaves (.epgroupWrite 15 255 (3#288 <<< 256)) ready (emit ready.fab (.status 0x0C)) &&
      leaves (.epgroupWrite 0 0 (1#288 <<< 258)) ready (emit ready.fab (.status 0x0C)) &&
      leaves (.epgroupWrite 0 0 (1#288 <<< 287)) ready (emit ready.fab (.status 0x0C))) = true ∧
    (leaves (.epgroupWrite 0 0 (1#288 <<< 255)) empties (emit empties.fab (.status 0x0B)) &&
      leaves (.epgroupWrite 0 0 1) empties (emit empties.fab (.status 0x0B))) = true ∧
    leaves (.slotEntryWrite 1 31 0 0) due (emit due.fab (.status 0x0F)) = true := by
  decide +kernel

theorem witness_WrapperInstructions :
    let scan := having fun f => { f with wir := .extest }
    let off := inPower 3 id
    let secure := secured 2 0 0 id
    let eyes := having fun f => { f with th := { f.th with margin := [(15, 61)] }, lanes := [(35, { eye := 9 })] }
    let drive := Instr.extest
    let pinned := fun (p : WrapperPins) (f : Fab) => having fun _ => { f with pins := p }
    let cell := pinned { drive := [true], inputs := [false] } ready.fab
    let bits := pinned { scan := [true, true] }
    let jtag := fun (a : JtagAccess) => pinned { access := a }
    wrapperOf .identity = some .identity ∧ (after .identity ready).out.length = 1 ∧
    leaves drive cell { cell.fab with wir := .extest, cells := [true], out := [.boundary [true] [false]] } = true ∧
    still drive secure = true ∧ still .identity off = true ∧ (after .bypass scan).start.stage = 1 ∧ (after .bypass scan).wir = .bypass ∧
    (after drive scan).start = scan.fab.start ∧ (after .intestScan (bits scan.fab)).start.stage = 1 ∧
    ((after .intestScan (bits ready.fab)).free = 1 ∧ (after .intestScan (bits ready.fab)).out.length = 1) ∧
    leaves .ijtag ready { ready.fab with wir := .ijtag } = true ∧
    leaves .ijtag (jtag (.canary 15) eyes.fab) { (jtag (.canary 15) eyes.fab).fab with wir := .ijtag, out := [.jtag 61] } = true ∧
    leaves .ijtag (jtag (.eye 35) eyes.fab) { (jtag (.eye 35) eyes.fab).fab with wir := .ijtag, out := [.jtag 9] } = true ∧
    (after .ijtag (jtag (.param 4095) ready.fab)).out.length = 1 ∧
    (marchRefused 0 0xFF00 ready.fab = false ∧ (after .ijtag (jtag (.march 0 0xFF00) ready.fab)).integ.march = some (newMarch 1 0 0xFF00)) := by
  decide +kernel

theorem witness_EveryCommandKeeps :
    let out := having fun f => { f with pwr := { f.pwr with excursion := true } }
    let held := fun l => inPower 2 fun f => { f with isolated := l }
    stops .save out = true ∧ alive .ret (inPower 3 id).fab = false ∧ still .save (inPower 3 id) = true ∧
    (mayWriteSlots .save = false ∧ stops .save ready = false) ∧
    (channelOf (.descriptorIntake 3 dNop) = some 0 ∧ channelOf (.mirrorRead 0 false) = some 67 ∧
      leaves (.descriptorIntake 3 dNop) (held []) { (held []).fab with isolated := [.descriptorIntake 3 dNop] } = true ∧
      still (.descriptorIntake 3 dNop) (held [.descriptorIntake 3 dMove]) = true ∧
      (after (.descriptorIntake 3 dNop) (held [.mirrorRead 0 false])).isolated.length = 2) := by decide +kernel

theorem witness_SlotsStayLegal : tcanon slotDefault ready.slots = true ∧ step ready = .next ready := ⟨rfl, rfl⟩

theorem witness_RowsConditioned :
    let q : List Int := [127 * 2 ^ 24, -128 * 2 ^ 24, 5]
    (∀ x ∈ q, minOf 8 * 2 ^ 24 ≤ x ∧ x ≤ maxOf 8 * 2 ^ 24) ∧ (∃ x ∈ q, x < minOf 8 * 2 ^ 23 ∨ maxOf 8 * 2 ^ 23 < x) ∧
    ((requantGroup 8 false 0 103 q 1).exp = 127 ∧ (requantGroup 8 false 0 103 q 1).elems = [127, -128, 0] ∧
      (requantGroup 8 false 0 103 q 1).sat = false) ∧
    ((requantGroup 8 false 0 104 q 1).exp = 127 ∧ (requantGroup 8 false 0 104 q 1).elems = [127, -128, 0] ∧
      (requantGroup 8 false 0 104 q 1).sat = true) ∧
    ((requantGroup 8 false 0 voidExp q 1).exp = voidExp ∧ (requantGroup 8 false 0 voidExp q 1).elems = [0, 0, 0]) ∧
    (requantGroup 2 false 1 9 [0, 0] 1).elems = [0, 0] := by decide +kernel

/-- MICRO: sub-blocks of shifts 1 and 5 take the group to 2 and the offsets 0 and 3; a rotate, a transpose and a widening. -/
theorem witness_RowsConditioned_micro :
    let q : List Int := [14, 0, 0, 0, 0, 0, 0, 0, 7 * 32, 0, 0, 0, 0, 0, 0, 0]
    let a : Parts := ⟨List.range 64, [1, 2], List.replicate 16 0⟩
    let b : Parts := ⟨List.replicate 64 99, [3, 4], List.replicate 16 1⟩
    ((requantGroup 4 true 0 0 q 1).exp = 2 ∧ (requantGroup 4 true 0 0 q 1).micros = [0, 3] ∧
      (requantGroup 4 true 0 0 q 1).elems = [4, 0, 0, 0, 0, 0, 0, 0, 7, 0, 0, 0, 0, 0, 0, 0]) ∧
    ((requantGroup 4 true 0 126 q 1).exp = 127 ∧ (requantGroup 4 true 0 126 q 1).sat = true ∧
      (requantGroup 4 true 0 126 q 1).micros = [0, 3]) ∧
    ((rotateParts 0x12 1 a b).elems[63]? = some 99 ∧ (rotateParts 0x12 1 a b).elems[0]? = some 1) ∧
    ((transposeParts a).elems[8]? = some 1 ∧ (transposeParts a).elems[63]? = some 63) ∧
    ((widenParts 0x11 0x12 ⟨[15, 7], [0], []⟩).elems = [255, 7]) := by decide +kernel

end Sys2Proof.Tests
end

section
/-!
SUPPORT. What stage 1 of a start, its failures and the noting of the rails do and leave alone (R338, R339, R346, R387); then
obligation O42.
-/

namespace Sys2Proof.Machine

/-- What a fall of the debug level and the end of stage 1's bleating and reporting leave alone (R362, R383). -/
def powerView (f : Fab) : Store × Power × Start × Tbl Queue × List Instr × Wrapper :=
  (f.store, f.pwr, f.start, f.queues, f.isolated, f.wir)

@[simp] theorem powerView_raise (c p : Nat) (f : Fab) : powerView (raise c p f) = powerView f := by
  simp [powerView]

@[simp] theorem powerView_onSec (f : Fab) (g : Sec → Sec) : powerView (onSec f g) = powerView f := rfl

@[simp] theorem powerView_onInteg (f : Fab) (g : Integ → Integ) : powerView (onInteg f g) = powerView f := rfl

theorem powerView_endAccess (a : RowAccess) (st : Nat) (row : Option Row) (f : Fab) :
    powerView (endAccess a st row f) = powerView f := by
  unfold endAccess
  split <;> rfl

@[simp] theorem powerView_dropAccesses (st : Nat) (f : Fab) : powerView (dropAccesses st f) = powerView f := by
  unfold dropAccesses
  exact each_proj powerView _ _ (fun f a _ => powerView_endAccess a st none f) f

@[simp] theorem powerView_lowerLevel (v : Nat) (f : Fab) : powerView (lowerLevel v f) = powerView f := by
  simp [lowerLevel, debugChange, leaveIntrusive, apply_ite powerView]

@[simp] theorem powerView_fallToNone (f : Fab) : powerView (fallToNone f) = powerView f := by
  unfold fallToNone
  split
  · rfl
  · simp

@[simp] theorem powerView_stateChanged (old new : Nat) (h : BitVec 16) (f : Fab) :
    powerView (stateChanged old new h f) = powerView f := by
  unfold stateChanged
  split
  · rfl
  · simp

@[simp] theorem stateChanged_sec (old new : Nat) (h : BitVec 16) (f : Fab) : (stateChanged old new h f).sec = f.sec := by
  unfold stateChanged
  split
  · rfl
  · simp

@[simp] theorem powerView_releaseBleats (f : Fab) : powerView (releaseBleats f) = powerView f := by
  unfold releaseBleats
  refine each_proj powerView _ _ (fun f p _ => ?_) f
  rfl

@[simp] theorem releaseBleats_sec (f : Fab) : (releaseBleats f).sec = f.sec := by
  unfold releaseBleats
  refine each_proj Fab.sec _ _ (fun f p _ => ?_) f
  rfl

@[simp] theorem latchSecurity_st (v : SecValues) (f : Fab) : (latchSecurity v f).sec.st = v.state := rfl
@[simp] theorem latchSecurity_epoch (v : SecValues) (f : Fab) : (latchSecurity v f).sec.epoch = v.epoch := rfl

/-- Of the rest seen here, stage 1 writes only whether stage 2 is to zeroize as it latches the security values (R354, R356). -/
theorem powerView_latchSecurity (v : SecValues) (f : Fab) :
    ∃ z, powerView (latchSecurity v f) = powerView (onStart f fun s => { s with zeroAtTwo := z }) := by
  have h := powerView_fallToNone f
  simp only [powerView, Prod.mk.injEq] at h
  obtain ⟨hstore, hpwr, hstart, hqueues, hiso, hwir⟩ := h
  refine ⟨(latchSecurity v f).start.zeroAtTwo, ?_⟩
  simp [latchSecurity, powerView, hstore, hpwr, hstart, hqueues, hiso, hwir, onStart, onSec]

/-- What stage 1 has done before its own stage ends: the values latched, the rails noted, the bleats released and the state told. -/
def stageOneDone (v : SecValues) (f : Fab) : Fab :=
  let g := onPwr (latchSecurity v f) fun p => { p with st := 0, goods := 7 }
  let g := when (f.pwr.st.toNat == 2) releaseBleats g
  if f.pwr.st.toNat = 1 then stateChanged 1 0 (g.start.handle.getD 0) g else g

@[simp] theorem stageOneDone_sec (v : SecValues) (f : Fab) : (stageOneDone v f).sec = (latchSecurity v f).sec := by
  simp [stageOneDone, Machine.when, apply_ite Fab.sec]

theorem powerView_stageOneDone (v : SecValues) (f : Fab) :
    powerView (stageOneDone v f) = powerView (onPwr (latchSecurity v f) fun p => { p with st := 0, goods := 7 }) := by
  simp [stageOneDone, Machine.when, apply_ite powerView]

theorem passStageOne_eq (v : SecValues) (slots : Tbl (BitVec 16)) (f : Fab) (hh : (stageOneDone v f).start.handle = none) :
    passStageOne v slots f = (slots, onStart (stageOneDone v f) fun s => { s with stage := 2, recompute := true }) := by
  have h : passStageOne v slots f =
    let g := onStart (stageOneDone v f) fun s => { s with stage := 2, recompute := true }
    if g.start.handle.isSome && g.start.marchBit then ([], coldRestart g) else (slots, g) := rfl
  simp [h, onStart, hh]

/-- Stage 1 of a start without a RESTART passes to stage 2 in ON with both rails good and the security values latched, and leaves
the slot tables, the store, the queues and the held inputs (R338, R346). -/
theorem passStageOne_passes (v : SecValues) (slots : Tbl (BitVec 16)) (f : Fab) (hh : f.start.handle = none) :
    ∃ g z, passStageOne v slots f = (slots, g) ∧ g.sec.st = v.state ∧ g.sec.epoch = v.epoch ∧
      powerView g = powerView { f with
        pwr := { f.pwr with st := 0, goods := 7 }
        start := { f.start with zeroAtTwo := z, stage := 2, recompute := true } } := by
  obtain ⟨z, hz⟩ := powerView_latchSecurity v f
  have hd := powerView_stageOneDone v f
  simp only [powerView, Prod.mk.injEq, onPwr_store, onPwr_start, onPwr_queues, onPwr_isolated, onPwr_wir,
    onStart_store, onStart_pwr, onStart_queues, onStart_isolated, onStart_wir] at hz hd
  obtain ⟨zstore, zpwr, zstart, zqueues, ziso, zwir⟩ := hz
  obtain ⟨hstore, hpwr, hstart, hqueues, hiso, hwir⟩ := hd
  refine ⟨_, z, passStageOne_eq v slots f (by simp [hstart, zstart, onStart, hh]), by simp, by simp, ?_⟩
  simp [powerView, hstore, hpwr, hstart, hqueues, hiso, hwir, zstore, zpwr, zstart, zqueues, ziso, zwir, onStart, onPwr]


@[simp] theorem powerView_onLop (f : Fab) (g : LongOps → LongOps) : powerView (onLop f g) = powerView f := rfl
@[simp] theorem powerView_onImg (f : Fab) (g : Image → Image) : powerView (onImg f g) = powerView f := rfl

theorem powerView_takeHandle (op : Nat) (self : Bool) (f : Fab) : powerView (takeHandle op self f).2 = powerView f := by
  unfold takeHandle
  split <;> rfl

theorem powerView_completeOp (h : BitVec 16) (st r0 r1 r2 r3 : Nat) (f : Fab) :
    powerView (completeOp h st r0 r1 r2 r3 f) = powerView f := by
  unfold completeOp completeWith
  split
  · rfl
  · simp [takeStamp, powerView]

theorem powerView_joinSave (h : Option (BitVec 16)) (self forStart : Bool) (f : Fab) :
    powerView (joinSave h self forStart f) = powerView f := by
  unfold joinSave
  cases h <;> rfl

/-- A SAVE by the fabric itself only takes a handle and waits, or is refused (R278, R358). -/
@[simp] theorem powerView_selfSave (forStart : Bool) (f : Fab) : powerView (selfSave forStart f) = powerView f := by
  unfold selfSave
  dsimp only
  split
  · split
    · rw [powerView_completeOp, powerView_takeHandle]
    · rw [powerView_takeHandle]
  · rw [powerView_joinSave, powerView_takeHandle]

/-- What the counts and records of starts leave alone (R302, R341). -/
def countView (f : Fab) : Store × Power × Tbl Queue × BitVec 8 × Option (BitVec 16) :=
  (f.store, f.pwr, f.queues, f.start.stage, f.start.handle)

theorem countView_of_powerView {f g : Fab} (h : powerView g = powerView f) : countView g = countView f := by
  simp only [powerView, countView, Prod.mk.injEq] at *
  obtain ⟨hstore, hpwr, hstart, hqueues, -, -⟩ := h
  simp [hstore, hpwr, hstart, hqueues]

theorem countView_rwpSet (x y v : Nat) (f : Fab) : countView (rwpSet x y v f) = countView f := by
  unfold rwpSet
  split
  case h_13 => split <;> rfl
  all_goals rfl

theorem countView_applyRecord (e : RwpKey × Nat) (f : Fab) : countView (applyRecord e f).2 = countView f := by
  unfold applyRecord
  split
  · split
    · dsimp only
      split
      · rfl
      · exact countView_rwpSet ..
    · rfl
  · rfl

theorem countView_applyRecords (l : List (RwpKey × Nat)) (f : Fab) : countView (applyRecords l f).2 = countView f := by
  induction l generalizing f with
  | nil => rfl
  | cons e t ih => exact (ih _).trans (countView_applyRecord e f)

theorem countView_loadCounts (f : Fab) : countView (loadCounts f) = countView f := by
  unfold loadCounts
  dsimp only
  split
  · exact countView_applyRecords ..
  · rfl

theorem countView_countStart (f : Fab) : countView (countStart f) = countView f := by
  unfold countStart
  dsimp only
  split
  · rfl
  · split <;> rfl


/-- The fabric as a failure of stage 1 leaves it for its stop: counted, recorded, saved unless its time base failed, reported
(R339, R341). -/
def stageOneFailed (sub : Nat) (f : Fab) : Fab :=
  let g := countStart (if f.start.counted || (f.start.warm && f.img.loaded) then f else loadCounts f)
  let r := failRecord g sub
  let g := if sub = 3 then pushRecord r g else selfSave false (pushRecord r g)
  let fawn := decide (g.start.fawnAt.toNat ≤ g.start.failed.toNat)
  when fawn enterFawn (raise (if fawn then 0x28 else 0x27) r.toNat g)

theorem failStage_one (sub : Nat) (f : Fab) (h : f.start.stage = 1) : failStage sub f = stopStart sub (stageOneFailed sub f) := by
  simp [failStage, stageOneFailed, h]

theorem pushRecord_front (r : BitVec 64) (f : Fab) : tget 0 (pushRecord r f).start.history 0 = r := by
  simp [pushRecord, onStart, List.range_succ, tget_tset]

/-- A failure of stage 1 keeps what counts and records leave alone, and its record stands first (R302). -/
theorem stageOneFailed_records (sub : Nat) (f : Fab) :
    countView (stageOneFailed sub f) = countView f ∧
      ∃ g, countView g = countView f ∧ tget 0 (stageOneFailed sub f).start.history 0 = failRecord g sub := by
  unfold stageOneFailed
  dsimp only
  generalize hg : countStart (if f.start.counted || (f.start.warm && f.img.loaded) then f else loadCounts f) = g
  have hcount : countView g = countView f := by
    rw [← hg, countView_countStart]
    split
    · rfl
    · exact countView_loadCounts f
  generalize hw : (if sub = 3 then pushRecord (failRecord g sub) g else selfSave false (pushRecord (failRecord g sub) g)) = w
  have hpower : powerView w = powerView (pushRecord (failRecord g sub) g) := by
    rw [← hw]
    split <;> simp
  have hstart : w.start = (pushRecord (failRecord g sub) g).start := by
    simp only [powerView, Prod.mk.injEq] at hpower
    exact hpower.2.2.1
  have hkept : countView w = countView f := (countView_of_powerView hpower).trans hcount
  generalize hr : raise (if decide (w.start.fawnAt.toNat ≤ w.start.failed.toNat) then 0x28 else 0x27) (failRecord g sub).toNat w = r
  have hraise : countView r = countView f := by
    rw [← hr, countView_of_powerView (powerView_raise ..), hkept]
  have hhist : r.start.history = w.start.history := by rw [← hr, raise_start]
  refine ⟨?_, g, hcount, ?_⟩
  · unfold Machine.when
    split
    · exact hraise
    · exact hraise
  · rw [← pushRecord_front (failRecord g sub) g, ← hstart, ← hhist]
    unfold Machine.when
    split <;> rfl

/-- With no RESTART, transition or waiting POWER_SET a start in ON only stops (R338). -/
theorem stopStart_only (sub : Nat) (f : Fab) (hst : f.pwr.st = 0) (ht : f.pwr.trans = none) (hq : f.pwr.queued = none)
    (hh : f.start.handle = none) :
    stopStart sub f = onStart f fun s => { s with running := false, saving := false, fromFive := false } := by
  simp [stopStart, endRestart, settleNext, settle, startQueued, onStart, hst, ht, hq, hh]

/-- The record of a failure names its stage and its subcode (R302). -/
theorem failRecord_fields (f : Fab) (sub : Nat) (hs : f.start.stage.toNat < 16) (hb : sub < 256) :
    fld (failRecord f sub) 0 4 = f.start.stage.toNat ∧ fld (failRecord f sub) 8 8 = sub := by
  simp only [failRecord, pack, fields, fld, BitVec.toNat_ofNat, Nat.shiftRight_eq_div_pow]
  omega


/-- A failure of stage 1 in ON, with nothing else under way, stops the start there with its record (R302, R338, R339). -/
theorem failStage_one_stops (sub : Nat) (f : Fab) (hs : f.start.stage = 1) (hst : f.pwr.st = 0) (ht : f.pwr.trans = none)
    (hq : f.pwr.queued = none) (hh : f.start.handle = none) (hb : sub < 256) :
    (failStage sub f).start.stage = 1 ∧ (failStage sub f).start.running = false ∧
      fld (tget 0 (failStage sub f).start.history 0) 0 4 = 1 ∧ fld (tget 0 (failStage sub f).start.history 0) 8 8 = sub ∧
      (failStage sub f).store = f.store ∧ (failStage sub f).queues = f.queues := by
  obtain ⟨hkept, g, hgk, hrec⟩ := stageOneFailed_records sub f
  simp only [countView, Prod.mk.injEq] at hkept hgk
  obtain ⟨hstore, hpwr, hqueues, hstage, hhandle⟩ := hkept
  have hg : g.start.stage.toNat = 1 := by simp [hgk, hs]
  obtain ⟨hf1, hf2⟩ := failRecord_fields g sub (by omega) hb
  rw [failStage_one sub f hs, stopStart_only sub _ (by rw [hpwr, hst]) (by rw [hpwr, ht]) (by rw [hpwr, hq]) (by rw [hhandle, hh])]
  refine ⟨hstage.trans hs, rfl, ?_, ?_, hstore, hqueues⟩
  · exact (congrArg (fld · 0 4) hrec).trans (hf1.trans hg)
  · exact (congrArg (fld · 8 8) hrec).trans hf2

theorem serveInputs_none (w : Whole) (h : w.2.isolated = []) : serveInputs w = w := by
  obtain ⟨slots, f⟩ := w
  simp only [serveInputs] at *
  rw [h, List.foldl_nil, ← h]

theorem exec_powerGood (sec : Option SecValues) (s : State) :
    exec (.powerGood sec) s = onPower s fun slots f =>
      if alive .main (powerGood sec slots f).2 then serveInputs (powerGood sec slots f) else powerGood sec slots f := rfl

/-- POWER_GOOD that leaves no input held answers the end of stage 1, or the rails noted, alone (R385, R387). -/
theorem exec_powerGood_unheld (sec : Option SecValues) (s : State) (h : (powerGood sec s.slots s.fab).2.isolated = []) :
    exec (.powerGood sec) s = .next { s with slots := (powerGood sec s.slots s.fab).1, fab := (powerGood sec s.slots s.fab).2 } := by
  simp only [exec_powerGood, onPower, serveInputs_none _ h, ite_self]

/-- POWER_GOOD out of OFF, or after an excursion, is the first stage of a cold start with the slot tables at their defaults. -/
theorem powerGood_cold (sec : Option SecValues) (slots : Tbl (BitVec 16)) (f : Fab) (h : f.pwr.excursion = true ∨ f.pwr.st = 3) :
    powerGood sec slots f = tryStageOne sec [] (coldFab f) := by
  rcases h with h | h <;> simp [powerGood, h]

theorem powerGood_warm (sec : Option SecValues) (slots : Tbl (BitVec 16)) (f : Fab) (hx : f.pwr.excursion = false) (hst : f.pwr.st ≠ 3) :
    powerGood sec slots f =
      if f.wir == .extest || f.wir == .intestScan then (slots, onPwr f fun p => { p with goods := 7 })
      else if atStage f 1 then tryStageOne sec slots f
      else (slots, onPwr f fun p => { p with goods := 7 }) := by
  unfold powerGood
  rw [if_neg (by simpa [hx] using hst)]

/-- Else, where no start waits in stage 1 for what the security core presents, or the wrapper scans, it notes the rails. -/
theorem powerGood_notes (sec : Option SecValues) (slots : Tbl (BitVec 16)) (f : Fab) (hx : f.pwr.excursion = false) (hst : f.pwr.st ≠ 3)
    (h : sec = none ∨ atStage f 1 = false ∨ f.wir = .extest ∨ f.wir = .intestScan) :
    powerGood sec slots f = (slots, onPwr f fun p => { p with goods := 7 }) := by
  rw [powerGood_warm sec slots f hx hst]
  rcases h with rfl | h | h | h
  · simp [tryStageOne]
  all_goals simp [h]

theorem powerGood_stageOne (v : SecValues) (slots : Tbl (BitVec 16)) (f : Fab) (hx : f.pwr.excursion = false) (hst : f.pwr.st ≠ 3)
    (he : f.wir ≠ .extest) (hi : f.wir ≠ .intestScan) (h1 : atStage f 1 = true) :
    powerGood (some v) slots f = passStageOne v slots f := by
  rw [powerGood_warm _ slots f hx hst]
  simp [tryStageOne, he, hi, h1]

theorem lateSubcode_one (sub : Nat) : lateSubcode 1 sub = true ↔ 1 ≤ sub ∧ sub ≤ 4 := by
  simp [lateSubcode]


/-- RAIL_LOSS notes the rails, and whether one is now outside its limits (R9, R387). -/
theorem exec_railLoss (goods : BitVec 3) (s : State) : Gives (.railLoss goods) s (railLoss goods s.fab) := rfl

theorem railsMayFall_eq_false (f : Fab) :
    railsMayFall f = false ↔ f.pwr.st.toNat < 2 ∧ ∀ t, f.pwr.trans = some t → t.phase ≠ 2 ∧ t.phase ≠ 3 ∧ t.phase ≠ 5 := by
  unfold railsMayFall inPhase
  cases ht : f.pwr.trans <;> simp [and_assoc]

theorem railLoss_excursion (goods : BitVec 3) (f : Fab) :
    (railLoss goods f).pwr.excursion = true ↔ (f.pwr.excursion = true ∨
      ((bitAt goods 0 = false ∨ bitAt goods 1 = false) ∧ railsMayFall f = false) ∨ (bitAt goods 2 = false ∧ f.pwr.st ≠ 3)) := by
  simp [railLoss, onPwr]

/-- STAGE_TIMEOUT in OFF, the wrapper not scanning: the first stage of the cold start that waits runs out of its time where the
subcode is one of stage 1's (R338, R339). -/
theorem stageLate_off (sub : Nat) (slots : Tbl (BitVec 16)) (f : Fab) (hst : f.pwr.st = 3) (he : f.wir ≠ .extest) (hi : f.wir ≠ .intestScan) :
    stageLate sub slots f =
      if lateSubcode 1 sub then ([], lateStage sub (onPwr (coldFab f) fun p => { p with goods := goodsFor sub })) else (slots, f) := by
  simp [stageLate, hst, he, hi]

theorem lateStage_cold (sub : Nat) (f : Fab) (goods : BitVec 3) (h : lateSubcode 1 sub = true) :
    lateStage sub (onPwr (coldFab f) fun p => { p with goods := goods }) = failStage sub (onPwr (coldFab f) fun p => { p with goods := goods }) := by
  generalize hg : onPwr (coldFab f) (fun p => { p with goods := goods }) = g
  have hs : g.start = {} := by rw [← hg]; rfl
  simp [lateStage, atStage, hs, h]

theorem exec_stageTimeout (sub : BitVec 8) (s : State) (hx : s.fab.pwr.excursion = false) :
    exec (.stageTimeout sub) s =
      .next { s with slots := (stageLate sub.toNat s.slots s.fab).1, fab := (stageLate sub.toNat s.slots s.fab).2 } :=
  onAll_runs (u := .off) ⟨hx, rfl⟩ _

/-- Stage 1's end and the return of the interfaces leave the queue with the held descriptor taken (R379, R385). -/
theorem serveInputs_descriptor (q : Fin 256) (d : Desc) (slots : Tbl (BitVec 16)) (f : Fab) (h : f.isolated = [.descriptorIntake q d]) :
    serveInputs (slots, f) = (slots, intake q d { f with isolated := [] }) := by
  simp [serveInputs, h, serveInput]

theorem intake_accepts (q : Nat) (d : Desc) (f : Fab) (h : (queueOf f q).intake.length < 8) :
    intake q d f = onQueue f q fun x => { x with intake := x.intake ++ [⟨d, xp0Time f⟩], credits := x.credits - 1 } := by
  simp [intake, h]

/-- A cold start keeps the copies of the saved image through stage 1 (R264). -/
theorem passStageOne_cold_img (v : SecValues) (f : Fab) : (passStageOne v [] (coldFab f)).2.img.a = f.img.a := rfl

theorem exec_powerGood_cold_some (v : SecValues) (s : State) (h : s.fab.pwr.excursion = true ∨ s.fab.pwr.st = 3) :
    ∃ f, exec (.powerGood (some v)) s = .next { s with slots := [], fab := f } ∧
      f.start.stage = 2 ∧ f.start.warm = false ∧ f.start.running = true ∧ f.pwr.excursion = false ∧ f.pwr.st = 0 ∧
      f.sec.st = v.state ∧ f.sec.epoch = v.epoch ∧ f.store = {} ∧ f.queues = [] ∧ f.img.a = s.fab.img.a := by
  obtain ⟨g, z, hg, hst, hep, hview⟩ := passStageOne_passes v [] (coldFab s.fab) rfl
  simp only [powerView, Prod.mk.injEq] at hview
  obtain ⟨hstore, hpwr, hstart, hqueues, hiso, -⟩ := hview
  have hp : powerGood (some v) s.slots s.fab = ([], g) := (powerGood_cold _ _ _ h).trans hg
  have himg : g.img.a = s.fab.img.a := by rw [← passStageOne_cold_img v s.fab, hg]
  refine ⟨g, by rw [exec_powerGood_unheld _ _ (by rw [hp]; exact hiso), hp], ?_⟩
  rw [hstart, hpwr]
  exact ⟨rfl, rfl, rfl, rfl, rfl, hst, hep, hstore, hqueues, himg⟩

theorem exec_powerGood_cold_none (s : State) (h : s.fab.pwr.excursion = true ∨ s.fab.pwr.st = 3) :
    exec (.powerGood none) s = .next { s with slots := [], fab := onPwr (coldFab s.fab) fun p => { p with goods := 7 } } := by
  have hp : powerGood none s.slots s.fab = ([], onPwr (coldFab s.fab) fun p => { p with goods := 7 }) := powerGood_cold _ _ _ h
  rw [exec_powerGood_unheld _ _ (by rw [hp]; rfl), hp]

/-- Within limits and with no input held, POWER_GOOD that passes no stage notes the rails and nothing else (R387). -/
theorem gives_powerGood_noted (sec : Option SecValues) (s : State) (hx : s.fab.pwr.excursion = false) (hst : s.fab.pwr.st ≠ 3)
    (hiso : s.fab.isolated = []) (h : sec = none ∨ atStage s.fab 1 = false ∨ s.fab.wir = .extest ∨ s.fab.wir = .intestScan) :
    Gives (.powerGood sec) s (onPwr s.fab fun p => { p with goods := 7 }) := by
  have hp := powerGood_notes sec s.slots s.fab hx hst h
  unfold Gives
  rw [exec_powerGood_unheld _ _ (by rw [hp]; exact hiso), hp]

theorem gives_powerGood_stageOne (v : SecValues) (s : State) (hx : s.fab.pwr.excursion = false) (hst : s.fab.pwr.st ≠ 3)
    (he : s.fab.wir ≠ .extest) (hi : s.fab.wir ≠ .intestScan) (h1 : atStage s.fab 1 = true) (hh : s.fab.start.handle = none)
    (hiso : s.fab.isolated = []) :
    ∃ f, Gives (.powerGood (some v)) s f ∧ f.start.stage = 2 ∧ f.pwr.st = 0 ∧ f.pwr.goods = 7 ∧
      f.sec.st = v.state ∧ f.sec.epoch = v.epoch ∧ f.store = s.fab.store := by
  obtain ⟨g, z, hg, hs, hep, hview⟩ := passStageOne_passes v s.slots s.fab hh
  simp only [powerView, Prod.mk.injEq] at hview
  obtain ⟨hstore, hpwr, hstart, -, hisog, -⟩ := hview
  have hp : powerGood (some v) s.slots s.fab = (s.slots, g) := (powerGood_stageOne v _ _ hx hst he hi h1).trans hg
  refine ⟨g, ?_, by simp [hstart], by simp [hpwr], by simp [hpwr], hs, hep, hstore⟩
  unfold Gives
  rw [exec_powerGood_unheld _ _ (by rw [hp]; exact hisog.trans hiso), hp]

/-- A descriptor whose `REQ` was high as RETAIN ended is taken into its queue once stage 1 has passed (R379, R385). -/
theorem gives_powerGood_held (q : Fin 256) (d : Desc) (v : SecValues) (s : State) (hx : s.fab.pwr.excursion = false) (hst : s.fab.pwr.st = 2)
    (he : s.fab.wir ≠ .extest) (hi : s.fab.wir ≠ .intestScan) (h1 : atStage s.fab 1 = true) (hh : s.fab.start.handle = none)
    (hiso : s.fab.isolated = [.descriptorIntake q d]) (hroom : (queueOf s.fab q).intake.length < 8) :
    ∃ f w, Gives (.powerGood (some v)) s f ∧ f.pwr.st = 0 ∧ f.isolated = [] ∧
      (queueOf f q).intake = (queueOf s.fab q).intake ++ [w] ∧ w.desc = d := by
  obtain ⟨g, z, hg, -, -, hview⟩ := passStageOne_passes v s.slots s.fab hh
  simp only [powerView, Prod.mk.injEq] at hview
  obtain ⟨-, hpwr, -, hqueues, hisog, hwir⟩ := hview
  have hp : powerGood (some v) s.slots s.fab = (s.slots, g) :=
    (powerGood_stageOne v _ _ hx (by rw [hst]; decide) he hi h1).trans hg
  have halive : alive .main g = true := by simp [alive, hpwr, hwir, he, hi, bitAt]
  have hq : queueOf { g with isolated := [] } q = queueOf s.fab q := by simp [queueOf, hqueues]
  refine ⟨intake q d { g with isolated := [] }, ⟨d, xp0Time { g with isolated := [] }⟩, ?_, ?_, ?_, ?_, rfl⟩
  · simp only [Gives, exec_powerGood, onPower, hp, halive, if_true, serveInputs_descriptor q d s.slots g (hisog.trans hiso)]
  all_goals rw [intake_accepts q d _ (by rw [hq]; exact hroom)]
  · simp [hpwr]
  · simp
  · simp [hq]

theorem exec_stageTimeout_off (sub : BitVec 8) (s : State) (hx : s.fab.pwr.excursion = false) (hst : s.fab.pwr.st = 3)
    (he : s.fab.wir ≠ .extest) (hi : s.fab.wir ≠ .intestScan) :
    (1 ≤ sub.toNat → sub.toNat ≤ 4 → ∃ f, exec (.stageTimeout sub) s = .next { s with slots := [], fab := f } ∧
      f.start.stage = 1 ∧ f.start.running = false ∧ fld (tget 0 f.start.history 0) 0 4 = 1 ∧
      fld (tget 0 f.start.history 0) 8 8 = sub.toNat ∧ f.store = {} ∧ f.queues = []) ∧
    ((sub = 0 ∨ 4 < sub.toNat) → exec (.stageTimeout sub) s = .next s) := by
  rw [exec_stageTimeout sub s hx, stageLate_off _ _ _ hst he hi]
  constructor
  · intro h1 h4
    have hl := (lateSubcode_one sub.toNat).mpr ⟨h1, h4⟩
    simp only [hl, if_true, lateStage_cold _ _ _ hl]
    exact ⟨_, rfl, failStage_one_stops sub.toNat _ rfl rfl rfl rfl rfl sub.isLt⟩
  · intro h
    have hl : lateSubcode 1 sub.toNat = false := by
      rw [Bool.eq_false_iff, Ne, lateSubcode_one]
      rcases h with rfl | h
      · simp
      · omega
    simp [hl]

/-- Settles O42, clause by clause: what the rails' commands answer cold, where they only note the rails, and where stage 1 passes. -/
theorem railsAndPowerGood : Obligations.RailsAndPowerGood := by
  unfold Obligations.RailsAndPowerGood
  intro s
  refine ⟨fun goods => ?_, fun hcold => ⟨fun v => exec_powerGood_cold_some v s hcold, ?_⟩,
    fun hx hst hiso => ⟨?_, fun h v => ?_, fun he hi h1 hh v => ?_⟩,
    fun q d v hx hst he hi h1 hh hiso hroom => gives_powerGood_held q d v s hx hst he hi h1 hh hiso hroom,
    fun sub hx hst he hi => exec_stageTimeout_off sub s hx hst he hi⟩
  · refine ⟨_, exec_railLoss goods s, rfl, rfl, rfl, ?_⟩
    rw [railLoss_excursion, railsMayFall_eq_false]
  · exact ⟨_, exec_powerGood_cold_none s hcold, rfl, rfl, rfl, rfl, rfl, rfl, rfl, rfl⟩
  · exact ⟨_, gives_powerGood_noted none s hx hst hiso (.inl rfl), rfl, rfl, rfl⟩
  · exact ⟨_, gives_powerGood_noted (some v) s hx hst hiso (.inr h), rfl, rfl, rfl⟩
  · exact gives_powerGood_stageOne v s hx hst he hi h1 hh hiso

end Sys2Proof.Machine
end

section
/-!
SUPPORT. What no command changes of the fabric, function by function in the order of the model's files: each leaves the parameters
that the integration fixes and the pins of the wrapper (R346, R390).
-/

namespace Sys2Proof.Machine

/-- What no command changes: what the integration fixes, and what stands at the wrapper's pins (R390). -/
def fixedPart (f : Fab) : Params × WrapperPins := (f.prm, f.pins)

/-- A fabric written field by field keeps the two as they are written. -/
@[simp] theorem fixedPart_mk (prm store ports queues fences stallBound fenceLimit epgroups clusters shown links lanes swapRx swapTx ibex
    eyeWarn eyeSwap trainTimeout dom kports map integ ev cnt lop bdp pwr start th sec img wir cells pins isolated out free stamps) :
    fixedPart ⟨prm, store, ports, queues, fences, stallBound, fenceLimit, epgroups, clusters, shown, links, lanes, swapRx, swapTx, ibex,
      eyeWarn, eyeSwap, trainTimeout, dom, kports, map, integ, ev, cnt, lop, bdp, pwr, start, th, sec, img, wir, cells, pins, isolated,
      out, free, stamps⟩ = (prm, pins) := Prod.ext rfl rfl

@[simp] theorem fixedPart_eta (f : Fab) : (f.prm, f.pins) = fixedPart f := rfl

@[simp] theorem fixedPart_ite (c : Prop) [Decidable c] (f g : Fab) :
    fixedPart (if c then f else g) = if c then fixedPart f else fixedPart g := apply_ite ..

@[simp] theorem snd_ite {α β : Type} (c : Prop) [Decidable c] (p q : α × β) :
    (if c then p else q).2 = if c then p.2 else q.2 := apply_ite ..

@[simp] theorem each_fixed {α : Type} (l : List α) (g : Fab → α → Fab) (f : Fab) (h : ∀ f a, fixedPart (g f a) = fixedPart f) :
    fixedPart (each l g f) = fixedPart f := each_proj fixedPart l g (fun f a _ => h f a) f

@[simp] theorem when_fixed (b : Bool) (g : Fab → Fab) (f : Fab) (h : ∀ f, fixedPart (g f) = fixedPart f) :
    fixedPart (when b g f) = fixedPart f := by
  unfold Machine.when
  split
  · exact h f
  · rfl

/-! ### Ops -/

@[simp] theorem onPort_fixed (f p g) : fixedPart (onPort f p g) = fixedPart f := by
  simp [onPort]
@[simp] theorem onQueue_fixed (f q g) : fixedPart (onQueue f q g) = fixedPart f := by
  simp [onQueue]
@[simp] theorem onCluster_fixed (f c g) : fixedPart (onCluster f c g) = fixedPart f := by
  simp [onCluster]
@[simp] theorem onLink_fixed (f k g) : fixedPart (onLink f k g) = fixedPart f := by
  simp [onLink]
@[simp] theorem onLane_fixed (f l g) : fixedPart (onLane f l g) = fixedPart f := by
  simp [onLane]
@[simp] theorem onKport_fixed (f k g) : fixedPart (onKport f k g) = fixedPart f := by
  simp [onKport]
@[simp] theorem setFence_fixed (f i v) : fixedPart (setFence f i v) = fixedPart f := by
  simp [setFence]
@[simp] theorem emit_fixed (f o) : fixedPart (emit f o) = fixedPart f := by
  simp [emit]
@[simp] theorem takeStamp_fixed (f) : fixedPart (takeStamp f).2 = fixedPart f := by
  simp [takeStamp]
@[simp] theorem takeFree_fixed (f) : fixedPart (takeFree f).2 = fixedPart f := by
  simp [takeFree]
@[simp] theorem takeFreeWords_fixed (f) : fixedPart (takeFreeWords f).2 = fixedPart f := by
  simp [takeFreeWords]
@[simp] theorem holdInput_fixed (c f) : fixedPart (holdInput c f) = fixedPart f := by
  simp [holdInput]

/-! ### Flags -/

@[simp] theorem setCounter_fixed (f x y v) : fixedPart (setCounter f x y v).1 = fixedPart f := by
  simp [setCounter]
@[simp] theorem ringRecord_fixed (f code r) : fixedPart (ringRecord f code r) = fixedPart f := by
  simp [ringRecord]
@[simp] theorem raiseWith_fixed (n m i j f) : fixedPart (raiseWith n m i j f) = fixedPart f :=
  congrArg₂ Prod.mk (raiseWith_prm ..) (raiseWith_pins ..)
@[simp] theorem raise_fixed (code payload f) : fixedPart (raise code payload f) = fixedPart f := by
  simp [raise]
@[simp] theorem count_fixed (x y n f) : fixedPart (count x y n f) = fixedPart f := by
  simp [count]
@[simp] theorem countMax_fixed (x y n f) : fixedPart (countMax x y n f) = fixedPart f := by
  simp [countMax]
@[simp] theorem countPort_fixed (p sub n f) : fixedPart (countPort p sub n f) = fixedPart f := by
  simp [countPort]
@[simp] theorem countCluster_fixed (c sub n f) : fixedPart (countCluster c sub n f) = fixedPart f := by
  simp [countCluster]
@[simp] theorem countQueue_fixed (q sub n f) : fixedPart (countQueue q sub n f) = fixedPart f := by
  simp [countQueue]
@[simp] theorem countLink_fixed (k sub n f) : fixedPart (countLink k sub n f) = fixedPart f := by
  simp [countLink]
@[simp] theorem countStack_fixed (k sub n f) : fixedPart (countStack k sub n f) = fixedPart f := by
  simp [countStack]
@[simp] theorem countGroup_fixed (g sub n f) : fixedPart (countGroup g sub n f) = fixedPart f := by
  simp [countGroup]
@[simp] theorem countInst_fixed (sub n f) : fixedPart (countInst sub n f) = fixedPart f := by
  simp [countInst]
@[simp] theorem clearCounter_fixed (x y f) : fixedPart (clearCounter x y f) = fixedPart f := by
  simp [clearCounter]
@[simp] theorem writeThreshold_fixed (x y v f) : fixedPart (writeThreshold x y v f) = fixedPart f := by
  simp [writeThreshold]
@[simp] theorem addFence_fixed (i n requester m f) : fixedPart (addFence i n requester m f) = fixedPart f := by
  simp [addFence]
@[simp] theorem traceAs_fixed (kind q seq me d f) : fixedPart (traceAs kind q seq me d f) = fixedPart f :=
  congrArg₂ Prod.mk (traceAs_prm ..) (traceAs_pins ..)
@[simp] theorem injFired_fixed (f) : fixedPart (injFired f) = fixedPart f := by
  simp [injFired]
@[simp] theorem debugChange_fixed (old new f) : fixedPart (debugChange old new f) = fixedPart f := by
  simp [debugChange]

/-! ### Banks -/

@[simp] theorem onStore_fixed (f g) : fixedPart (onStore f g) = fixedPart f := by
  simp [onStore]
@[simp] theorem checkState_fixed (ra f) : fixedPart (checkState ra f) = fixedPart f := by
  simp [checkState]
@[simp] theorem retireBank_fixed (b byMarch byMask f) : fixedPart (retireBank b byMarch byMask f) = fixedPart f := by
  simp [retireBank]
@[simp] theorem freshError_fixed (b f) : fixedPart (freshError b f) = fixedPart f := by
  simp [freshError]
@[simp] theorem logError_fixed (ra word syn kind source port told f) :
    fixedPart (logError ra word syn kind source port told f) = fixedPart f := by
  simp [logError]
@[simp] theorem queueRepair_fixed (ra f) : fixedPart (queueRepair ra f) = fixedPart f := by
  simp [queueRepair]
@[simp] theorem dropRepair_fixed (ra f) : fixedPart (dropRepair ra f) = fixedPart f := by
  simp [dropRepair]
@[simp] theorem reportWords_fixed (ra source port was ws f) : fixedPart (reportWords ra source port was ws f) = fixedPart f := by
  unfold reportWords
  dsimp only
  refine (when_fixed _ _ _ fun f => ?_).trans ?_
  · simp
  · refine (each_fixed _ _ _ fun f a => ?_).trans ?_
    · split <;> simp
    · simp
@[simp] theorem readRow_fixed (p req ra f) : fixedPart (readRow p req ra f).2 = fixedPart f := by
  unfold readRow
  dsimp only
  split
  · simp only [raise_fixed, countPort_fixed, checkState_fixed]
  · simp only [snd_ite, fixedPart_ite, takeFree_fixed, ite_self, when_fixed, onStore_fixed, queueRepair_fixed, reportWords_fixed,
      checkState_fixed, implies_true]
@[simp] theorem noteBleat_fixed (p req ra bleat f) : fixedPart (noteBleat p req ra bleat f) = fixedPart f := by
  simp [noteBleat]
@[simp] theorem checkTag_fixed (p req ra fmt state r f) : fixedPart (checkTag p req ra fmt state r f) = fixedPart f := by
  simp [checkTag]
@[simp] theorem injectWords_fixed (ra mask ws f) : fixedPart (injectWords ra mask ws f).2 = fixedPart f := by
  simp [injectWords]
@[simp] theorem storeRow_fixed (ra ws f) : fixedPart (storeRow ra ws f) = fixedPart f := by
  simp [storeRow]
@[simp] theorem postWords_fixed (p ra ws mask state f) : fixedPart (postWords p ra ws mask state f) = fixedPart f := by
  simp [postWords]
@[simp] theorem reportMerge_fixed (ra port was bm ws f) : fixedPart (reportMerge ra port was bm ws f) = fixedPart f := by
  unfold reportMerge
  dsimp only
  refine (when_fixed _ _ _ fun f => ?_).trans ?_
  · simp
  · refine (each_fixed _ _ _ fun f a => ?_).trans ?_
    · split <;> simp
    · simp
@[simp] theorem settleRepair_fixed (ra f) : fixedPart (settleRepair ra f) = fixedPart f := by
  simp [settleRepair]
@[simp] theorem writeRow_fixed (p ra new fresh bm poison f) : fixedPart (writeRow p ra new fresh bm poison f) = fixedPart f := by
  unfold writeRow
  dsimp only
  split
  · simp only [fixedPart_ite, postWords_fixed, checkState_fixed, ite_self]
  · split
    · simp only [settleRepair_fixed, fixedPart_ite, postWords_fixed, checkState_fixed, ite_self]
    · split
      · simp only [settleRepair_fixed, postWords_fixed, countGroup_fixed, reportMerge_fixed, checkState_fixed]
      · simp only [settleRepair_fixed, postWords_fixed, checkState_fixed]
@[simp] theorem writeTile_fixed (p ra g rb r poison f) : fixedPart (writeTile p ra g rb r poison f) = fixedPart f := by
  simp [writeTile]
@[simp] theorem clearRow_fixed (ra f) : fixedPart (clearRow ra f) = fixedPart f := by
  simp [clearRow]
@[simp] theorem accumulate_fixed (p req ra c f) : fixedPart (accumulate p req ra c f).2 = fixedPart f := by
  simp [accumulate]

/-! ### Groups -/

@[simp] theorem notify_fixed (c slots data qmask f) : fixedPart (notify c slots data qmask f) = fixedPart f := by
  simp [notify]
@[simp] theorem presentHead_fixed (p f) : fixedPart (presentHead p f) = fixedPart f := by
  unfold presentHead
  split <;> simp

/-! ### Resmap -/

@[simp] theorem setMapCode_fixed (i c f) : fixedPart (setMapCode i c f) = fixedPart f := by
  simp [setMapCode]
@[simp] theorem putEntry_fixed (i e f) : fixedPart (putEntry i e f) = fixedPart f := by
  simp [putEntry]
@[simp] theorem readEntry_fixed (i f) : fixedPart (readEntry i f).2 = fixedPart f :=
  congrArg₂ Prod.mk (readEntry_prm ..) (readEntry_pins ..)
@[simp] theorem mapLow_fixed (before f) : fixedPart (mapLow before f) = fixedPart f := by
  simp [mapLow]
@[simp] theorem takeEffect_fixed (who writes f) : fixedPart (takeEffect who writes f) = fixedPart f := by
  simp [takeEffect]
@[simp] theorem resolveOne_fixed (isDst d o f) : fixedPart (resolveOne isDst d o f).2 = fixedPart f :=
  congrArg₂ Prod.mk (resolveOne_prm ..) (resolveOne_pins ..)
@[simp] theorem touchEntry_fixed (i f) : fixedPart (touchEntry i f) = fixedPart f := by
  simp [touchEntry]
@[simp] theorem resolveBoth_fixed (d f) : fixedPart (resolveBoth d f).2 = fixedPart f :=
  congrArg₂ Prod.mk (resolveBoth_prm ..) (resolveBoth_pins ..)
@[simp] theorem touchBoth_fixed (d f) : fixedPart (touchBoth d f) = fixedPart f := by
  simp [touchBoth]

/-! ### Records -/

@[simp] theorem onLop_fixed (f g) : fixedPart (onLop f g) = fixedPart f := by
  simp [onLop]
@[simp] theorem takeHandle_fixed (opcode self f) : fixedPart (takeHandle opcode self f).2 = fixedPart f := by
  simp [takeHandle]
@[simp] theorem setPending_fixed (h st f) : fixedPart (setPending h st f) = fixedPart f := by
  simp [setPending]
@[simp] theorem completeWith_fixed (h status r0 r1 r2 r3 followed f) :
    fixedPart (completeWith h status r0 r1 r2 r3 followed f) = fixedPart f := by
  unfold completeWith
  split <;> simp
@[simp] theorem completeOp_fixed (h status r0 r1 r2 r3 f) : fixedPart (completeOp h status r0 r1 r2 r3 f) = fixedPart f := by
  simp [completeOp]

/-! ### Rounds -/

@[simp] theorem onFlight_fixed (q ord g f) : fixedPart (onFlight q ord g f) = fixedPart f := by
  simp [onFlight]
@[simp] theorem onReq_fixed (p r g f) : fixedPart (onReq p r g f) = fixedPart f := by
  simp [onReq]
@[simp] theorem endCommits_fixed (f) : fixedPart (endCommits f) = fixedPart f := by
  simp [endCommits]
@[simp] theorem boundary_fixed (p n f) : fixedPart (boundary p n f) = fixedPart f := by
  unfold boundary
  dsimp only
  split <;> simp
@[simp] theorem finishRound_fixed (p f) : fixedPart (finishRound p f) = fixedPart f := by
  simp [finishRound]
@[simp] theorem finishEmpty_fixed (p f) : fixedPart (finishEmpty p f) = fixedPart f := by
  simp [finishEmpty]
@[simp] theorem takeBack_fixed (b f) : fixedPart (takeBack b f) = fixedPart f := by
  simp [takeBack]
@[simp] theorem discardBurst_fixed (p guard b f) : fixedPart (discardBurst p guard b f) = fixedPart f := by
  simp [discardBurst]
@[simp] theorem withdrawQueue_fixed (q f) : fixedPart (withdrawQueue q f) = fixedPart f := by
  simp [withdrawQueue]
@[simp] theorem endBurstsOf_fixed (q ord f) : fixedPart (endBurstsOf q ord f) = fixedPart f := by
  simp [endBurstsOf]

/-! ### Routes -/

@[simp] theorem findRoute_fixed (n f) : fixedPart (findRoute n f).2 = fixedPart f := by
  simp [findRoute]

/-! ### Wire -/

@[simp] theorem queueFlit_fixed (k t f) : fixedPart (queueFlit k t f) = fixedPart f := by
  simp [queueFlit]
@[simp] theorem sendMsg_fixed (dest m f) : fixedPart (sendMsg dest m f).2 = fixedPart f := by
  unfold sendMsg
  dsimp only
  split <;> simp
@[simp] theorem answer_fixed (dest m f) : fixedPart (answer dest m f) = fixedPart f := by
  simp [answer]
@[simp] theorem takeStag_fixed (f) : fixedPart (takeStag f).2 = fixedPart f := by
  simp [takeStag]

/-! ### Transfers -/

@[simp] theorem rowDone_fixed (q ord i idx f) : fixedPart (rowDone q ord i idx f) = fixedPart f := by
  simp [rowDone]
@[simp] theorem rowsAcked_fixed (q ord n f) : fixedPart (rowsAcked q ord n f) = fixedPart f := by
  simp [rowsAcked]
@[simp] theorem countRows_fixed (x f) : fixedPart (countRows x f) = fixedPart f := by
  simp [countRows]
@[simp] theorem settleStop_fixed (q f) : fixedPart (settleStop q f) = fixedPart f := by
  simp [settleStop]
@[simp] theorem sendSop_fixed (k h d f) : fixedPart (sendSop k h d f) = fixedPart f := by
  simp [sendSop]
@[simp] theorem onTag_fixed (k tag g f) : fixedPart (onTag k tag g f) = fixedPart f := by
  simp [onTag]
@[simp] theorem cancelTag_fixed (k t retry f) : fixedPart (cancelTag k t retry f) = fixedPart f := by
  unfold cancelTag
  split <;> simp
@[simp] theorem dropOwner_fixed (o f) : fixedPart (dropOwner o f) = fixedPart f := by
  simp [dropOwner]
@[simp] theorem abortClusters_fixed (q x f) : fixedPart (abortClusters q x f) = fixedPart f := by
  simp [abortClusters]
@[simp] theorem cancelGrants_fixed (segs f) : fixedPart (cancelGrants segs f) = fixedPart f := by
  simp [cancelGrants]
@[simp] theorem abortFlight_fixed (q ord reason addr stack f) : fixedPart (abortFlight q ord reason addr stack f) = fixedPart f := by
  unfold abortFlight
  split <;> simp
@[simp] theorem abortWhere_fixed (p reason f) : fixedPart (abortWhere p reason f) = fixedPart f := by
  simp [abortWhere]
@[simp] theorem sendSignals_fixed (q f) : fixedPart (sendSignals q f) = fixedPart f := by
  simp [sendSignals]
@[simp] theorem completeFlight_fixed (q ord f) : fixedPart (completeFlight q ord f) = fixedPart f := by
  unfold completeFlight
  split <;> simp
@[simp] theorem askLeg_fixed (q ord i f) : fixedPart (askLeg q ord i f) = fixedPart f := by
  unfold askLeg
  split
  · simp
  · split
    · simp
    · split <;> simp
@[simp] theorem askMore_fixed (q ord f) : fixedPart (askMore q ord f) = fixedPart f := by
  unfold askMore
  split <;> simp

/-! ### Moves -/

@[simp] theorem onMig_fixed (h g f) : fixedPart (onMig h g f) = fixedPart f := by
  simp [onMig]
@[simp] theorem dropMigrate_fixed (h f) : fixedPart (dropMigrate h f) = fixedPart f := by
  simp [dropMigrate]
@[simp] theorem applyInstall_fixed (i f) : fixedPart (applyInstall i f) = fixedPart f := by
  simp [applyInstall]
@[simp] theorem applyInstalls_fixed (f) : fixedPart (applyInstalls f) = fixedPart f := by
  simp [applyInstalls]
@[simp] theorem endMigrate_fixed (h status srcMe f) : fixedPart (endMigrate h status srcMe f) = fixedPart f := by
  unfold endMigrate
  split <;> simp
@[simp] theorem dropEntries_fixed (h n f) : fixedPart (dropEntries h n f) = fixedPart f := by
  induction n generalizing f with
  | zero => rfl
  | succ n ih =>
    unfold dropEntries
    split
    · rfl
    · split
      · simp
      · simp [ih]
@[simp] theorem finishMigrate_fixed (h f) : fixedPart (finishMigrate h f) = fixedPart f := by
  unfold finishMigrate
  split <;> simp
@[simp] theorem onMigSeg_fixed (h stag g f) : fixedPart (onMigSeg h stag g f) = fixedPart f := by
  simp [onMigSeg]
@[simp] theorem askStream_fixed (h n f) : fixedPart (askStream h n f) = fixedPart f := by
  induction n generalizing f with
  | zero => rfl
  | succ n ih =>
    unfold askStream
    split
    · rfl
    · simp [ih]
@[simp] theorem queueRead_fixed (h stack addr unit rows stride f) :
    fixedPart (queueRead h stack addr unit rows stride f) = fixedPart f := by
  unfold queueRead
  split <;> simp
@[simp] theorem readSegment_fixed (h m first n f) : fixedPart (readSegment h m first n f) = fixedPart f := by
  simp [readSegment]
@[simp] theorem dropSent_fixed (h g sent f) : fixedPart (dropSent h g sent f) = fixedPart f := by
  simp [dropSent]
@[simp] theorem pumpStream_fixed (h n f) : fixedPart (pumpStream h n f) = fixedPart f := by
  induction n generalizing f with
  | zero => rfl
  | succ n ih =>
    unfold pumpStream
    split
    · rfl
    · split
      · rfl
      · dsimp only
        split <;> simp [ih]
@[simp] theorem driveMigrate_fixed (h f) : fixedPart (driveMigrate h f) = fixedPart f := by
  simp [driveMigrate]
@[simp] theorem grantStream_fixed (h stag rctx n f) : fixedPart (grantStream h stag rctx n f) = fixedPart f := by
  unfold grantStream
  split <;> simp
@[simp] theorem sendInstall_fixed (h k stag f) : fixedPart (sendInstall h k stag f) = fixedPart f := by
  unfold sendInstall
  split
  · simp
  · split <;> simp
@[simp] theorem sendInstalls_fixed (h f) : fixedPart (sendInstalls h f) = fixedPart f := by
  unfold sendInstalls
  split <;> simp
@[simp] theorem ackStream_fixed (h stag f) : fixedPart (ackStream h stag f) = fixedPart f := by
  simp [ackStream]

/-! ### Queues -/

@[simp] theorem creditQueue_fixed (q f) : fixedPart (creditQueue q f) = fixedPart f := by
  simp [creditQueue]
@[simp] theorem creditAll_fixed (f) : fixedPart (creditAll f) = fixedPart f := by
  simp [creditAll]
@[simp] theorem takeHead_fixed (q f) : fixedPart (takeHead q f) = fixedPart f := congrArg₂ Prod.mk (takeHead_prm ..) (takeHead_pins ..)
@[simp] theorem refuseHead_fixed (q d sub bit f) : fixedPart (refuseHead q d sub bit f) = fixedPart f := by
  simp [refuseHead]
@[simp] theorem consumeFence_fixed (q d n f) : fixedPart (consumeFence q d n f) = fixedPart f := by
  simp [consumeFence]
@[simp] theorem launch_fixed (q ord d src dst f) : fixedPart (launch q ord d src dst f) = fixedPart f := by
  unfold launch
  split
  · simp
  · simp
  · simp
  · simp
  · simp
  · simp
  · dsimp only
    split
    · split
      · simp
      · split
        · split <;> simp
        · simp
    · split
      · simp
      · split
        · split <;> simp
        · simp
@[simp] theorem countIssue_fixed (q f) : fixedPart (countIssue q f) = fixedPart f := by
  simp [countIssue]
@[simp] theorem joinFlight_fixed (q x f) : fixedPart (joinFlight q x f) = fixedPart f := by
  simp [joinFlight]
@[simp] theorem enlist_fixed (q d src dst f) : fixedPart (enlist q d src dst f) = fixedPart f := by
  simp [enlist]
@[simp] theorem issueHead_fixed (q d src dst f) : fixedPart (issueHead q d src dst f) = fixedPart f := by
  simp [issueHead]
@[simp] theorem passFence_fixed (q d f) : fixedPart (passFence q d f).2 = fixedPart f := by
  unfold passFence
  split <;> simp
@[simp] theorem resolveHead_fixed (q d f) : fixedPart (resolveHead q d f) = fixedPart f := by
  unfold resolveHead
  split
  · simp
  · dsimp only
    split <;> simp
@[simp] theorem advanceHead_fixed (q d f) : fixedPart (advanceHead q d f) = fixedPart f := by
  simp [advanceHead]
@[simp] theorem checkHead_fixed (q d f) : fixedPart (checkHead q d f) = fixedPart f := by
  unfold checkHead
  split
  · simp
  · dsimp only
    split <;> simp
@[simp] theorem runHead_fixed (op q f) : fixedPart (runHead op q f) = fixedPart f := by
  unfold runHead
  dsimp only
  split
  · simp
  · split <;> simp
@[simp] theorem intake_fixed (q d f) : fixedPart (intake q d f) = fixedPart f := by
  simp [intake]
@[simp] theorem completeSeq_fixed (q sq f) : fixedPart (completeSeq q sq f) = fixedPart f := by
  unfold completeSeq
  dsimp only
  split <;> simp
@[simp] theorem completeChange_fixed (f) : fixedPart (completeChange f) = fixedPart f := by
  unfold completeChange
  split
  · simp
  · dsimp only
    split
    · simp
    · split <;> simp
    · simp
    · simp
@[simp] theorem changeDone_fixed (f) : fixedPart (changeDone f) = fixedPart f := by
  simp [changeDone]
@[simp] theorem recordAbort_fixed (q x f) : fixedPart (recordAbort q x f) = fixedPart f := by
  unfold recordAbort
  split <;> simp
@[simp] theorem completeAbort_fixed (q f) : fixedPart (completeAbort q f) = fixedPart f := by
  simp [completeAbort]
@[simp] theorem stopQueue_fixed (q f) : fixedPart (stopQueue q f) = fixedPart f := by
  simp [stopQueue]
@[simp] theorem abortQueue_fixed (q reason f) : fixedPart (abortQueue q reason f) = fixedPart f := by
  simp [abortQueue]
@[simp] theorem resumeQueue_fixed (q again f) : fixedPart (resumeQueue q again f) = fixedPart f := by
  simp [resumeQueue]
@[simp] theorem writeControl_fixed (q v f) : fixedPart (writeControl q v f).2 = fixedPart f := by
  unfold writeControl
  dsimp only
  split <;> simp
@[simp] theorem byWrite_fixed (g f) (h : ∀ f, fixedPart (g f).2 = fixedPart f) : fixedPart (byWrite g f) = fixedPart f := by
  simp [byWrite, h]
@[simp] theorem longWait_fixed (q f) : fixedPart (longWait q f) = fixedPart f := by
  unfold longWait
  dsimp only
  split <;> simp

/-! ### Integrity -/

@[simp] theorem onInteg_fixed (f g) : fixedPart (onInteg f g) = fixedPart f := by
  simp [onInteg]
@[simp] theorem onEngine_fixed (n g f) : fixedPart (onEngine n g f) = fixedPart f := by
  simp [onEngine]
@[simp] theorem onMarch_fixed (g f) : fixedPart (onMarch g f) = fixedPart f := by
  simp [onMarch]
@[simp] theorem reportBorrowed_fixed (b requester f) : fixedPart (reportBorrowed b requester f) = fixedPart f := by
  simp [reportBorrowed]
@[simp] theorem claimBank_fixed (b urgent f) : fixedPart (claimBank b urgent f) = fixedPart f := by
  simp [claimBank]
@[simp] theorem marchFail_fixed (ra preserving f) : fixedPart (marchFail ra preserving f) = fixedPart f := by
  simp [marchFail]
@[simp] theorem finishBank_fixed (n f) : fixedPart (finishBank n f) = fixedPart f := by
  unfold finishBank
  split <;> simp
@[simp] theorem badRestore_fixed (ra f) : fixedPart (badRestore ra f) = fixedPart f := by
  simp [badRestore]
@[simp] theorem marchBeat_fixed (n bad f) : fixedPart (marchBeat n bad f) = fixedPart f := by
  unfold marchBeat
  split <;> simp
@[simp] theorem wipeStates_fixed (b f) : fixedPart (wipeStates b f) = fixedPart f := by
  simp [wipeStates]
@[simp] theorem yieldBank_fixed (n f) : fixedPart (yieldBank n f) = fixedPart f := by
  unfold yieldBank
  split
  · simp
  · dsimp only
    rw [onEngine_fixed, onMarch_fixed]
    split <;> simp
@[simp] theorem disturb_fixed (l f) : fixedPart (disturb l f) = fixedPart f := by
  unfold disturb
  refine (each_fixed _ _ _ fun f a => ?_).trans ?_
  · split <;> simp
  · simp
@[simp] theorem borrowBank_fixed (n f) : fixedPart (borrowBank n f) = fixedPart f := by
  unfold borrowBank
  split <;> simp
@[simp] theorem onScrub_fixed (n g f) : fixedPart (onScrub n g f) = fixedPart f := by
  simp [onScrub]
@[simp] theorem mendRow_fixed (p ra st ws f) : fixedPart (mendRow p ra st ws f) = fixedPart f := by
  simp [mendRow]
@[simp] theorem markPoisoned_fixed (ra st ws f) : fixedPart (markPoisoned ra st ws f) = fixedPart f := by
  simp [markPoisoned]
@[simp] theorem repairBeat_fixed (n f) : fixedPart (repairBeat n f) = fixedPart f := by
  unfold repairBeat
  split <;> simp
@[simp] theorem visitBeat_fixed (n f) : fixedPart (visitBeat n f) = fixedPart f := by
  unfold visitBeat
  split <;> simp
@[simp] theorem scrubBeat_fixed (n f) : fixedPart (scrubBeat n f) = fixedPart f := by
  simp [scrubBeat]
@[simp] theorem endScrub_fixed (n status f) : fixedPart (endScrub n status f) = fixedPart f := by
  unfold endScrub
  split <;> simp
@[simp] theorem endMarch_fixed (status f) : fixedPart (endMarch status f) = fixedPart f := by
  unfold endMarch
  split
  · simp
  · dsimp only
    rw [completeOp_fixed, onInteg_fixed]
    refine (each_fixed _ _ _ fun f a => ?_).trans ?_
    · split
      · split <;> simp
      · simp
    · simp

/-! ### Ports -/

@[simp] theorem passRows_fixed (q ord i n f) : fixedPart (passRows q ord i n f) = fixedPart f := by
  unfold passRows
  split
  · simp
  · split
    · simp
    · dsimp only
      split <;> simp
@[simp] theorem ahead_fixed (p f) : fixedPart (ahead p f) = fixedPart f := by
  unfold ahead
  split <;> simp
@[simp] theorem refreshReqs_fixed (p f) : fixedPart (refreshReqs p f) = fixedPart f := by
  simp [refreshReqs]
@[simp] theorem tickGuards_fixed (p f) : fixedPart (tickGuards p f) = fixedPart f := by
  simp [tickGuards]
@[simp] theorem grantTo_fixed (p r how bm1 f) : fixedPart (grantTo p r how bm1 f).2 = fixedPart f := by
  unfold grantTo
  split
  · simp
  · dsimp only
    split <;> simp
@[simp] theorem loseRound_fixed (p m f r) : fixedPart (loseRound p m f r) = fixedPart f := by
  simp [loseRound]
@[simp] theorem rankRound_fixed (p m bm1 ready f) : fixedPart (rankRound p m bm1 ready f).2 = fixedPart f := by
  unfold rankRound
  dsimp only
  split <;> simp
@[simp] theorem plainRound_fixed (p ready f) : fixedPart (plainRound p ready f).2 = fixedPart f := by
  unfold plainRound
  dsimp only
  split <;> simp
@[simp] theorem beginZero_fixed (f) : fixedPart (beginZero f) = fixedPart f := by
  unfold beginZero
  split <;> simp
@[simp] theorem chooseRound_fixed (slots p k m f) : fixedPart (chooseRound slots p k m f).2 = fixedPart f := by
  unfold chooseRound
  dsimp only
  have hg : fixedPart (refreshReqs p (beginZero f)) = fixedPart f := by simp
  generalize refreshReqs p (beginZero f) = g at hg ⊢
  have hw : fixedPart (when (injKind g == 4 && injTarget g == p) injFired g) = fixedPart g := by simp
  generalize when (injKind g == 4 && injTarget g == p) injFired g = w at hw ⊢
  repeat' split
  all_goals simp [hw, hg]
@[simp] theorem crossWindow_fixed (p f) : fixedPart (crossWindow p f) = fixedPart f := by
  simp [crossWindow]
@[simp] theorem closeRound_fixed (p f) : fixedPart (closeRound p f) = fixedPart f := by
  simp [closeRound]
@[simp] theorem idleBurst_fixed (slots p f) : fixedPart (idleBurst slots p f) = fixedPart f := by
  unfold idleBurst
  dsimp only
  split <;> simp
@[simp] theorem decideNext_fixed (slots p f) : fixedPart (decideNext slots p f) = fixedPart f := by
  unfold decideNext
  split
  · simp
  · split
    · simp
    · dsimp only
      split <;> simp
@[simp] theorem checkPreempt_fixed (slots p f) : fixedPart (checkPreempt slots p f) = fixedPart f := by
  unfold checkPreempt
  split
  · split
    · simp
    · dsimp only
      split <;> simp
  · simp

/-! ### Loads -/

@[simp] theorem endLoad_fixed (status bad f) : fixedPart (endLoad status bad f) = fixedPart f := by
  unfold endLoad
  split <;> simp
@[simp] theorem onLoad_fixed (g f) : fixedPart (onLoad g f) = fixedPart f := by
  simp [onLoad]
@[simp] theorem checkLoad_fixed (f) : fixedPart (checkLoad f) = fixedPart f := by
  unfold checkLoad
  split <;> simp
@[simp] theorem readRecords_fixed (p f) : fixedPart (readRecords p f) = fixedPart f := by
  unfold readRecords
  split <;> simp

/-! ### Beat -/

@[simp] theorem fetchRow_fixed (p q ra fmt f) : fixedPart (fetchRow p q ra fmt f).2 = fixedPart f := by
  simp [fetchRow]
@[simp] theorem fetchBeat_fixed (p q ra fmt f) : fixedPart (fetchBeat p q ra fmt f).2 = fixedPart f := by
  simp [fetchBeat]
@[simp] theorem countPoison_fixed (p poison f) : fixedPart (countPoison p poison f) = fixedPart f := by
  simp [countPoison]
@[simp] theorem deliverRow_fixed (p q x l k f) : fixedPart (deliverRow p q x l k f) = fixedPart f := by
  unfold deliverRow
  dsimp only
  rw [presentHead_fixed, onFlight_fixed, onPort_fixed, countPoison_fixed, countPort_fixed, noteBleat_fixed]
  split
  · split <;> simp
  · rw [fetchRow_fixed]
    split <;> simp
@[simp] theorem formReturn_fixed (p d a f) : fixedPart (formReturn p d a f).2 = fixedPart f := by
  simp [formReturn]
@[simp] theorem collectRow_fixed (p q x l k f) : fixedPart (collectRow p q x l k f) = fixedPart f := by
  unfold collectRow
  split <;> simp
@[simp] theorem holdRow_fixed (q x i k row poison bleat f) : fixedPart (holdRow q x i k row poison bleat f) = fixedPart f := by
  simp [holdRow]
@[simp] theorem sendRow_fixed (q x i k g row poison bleat f) : fixedPart (sendRow q x i k g row poison bleat f) = fixedPart f := by
  unfold sendRow
  dsimp only
  split <;> simp
@[simp] theorem sendData_fixed (k t row poison pmask f) : fixedPart (sendData k t row poison pmask f) = fixedPart f := by
  simp [sendData]
@[simp] theorem moveRow_fixed (p q x i l k f) : fixedPart (moveRow p q x i l k f) = fixedPart f := by
  unfold moveRow
  dsimp only
  split
  · simp
  · simp
  · split <;> simp
  · split <;> simp
  · simp
  · split <;> simp
  · split <;> simp
  · split <;> simp
  · split <;> simp
  · simp
  · simp
@[simp] theorem onBurst_fixed (p g f) : fixedPart (onBurst p g f) = fixedPart f := by
  simp [onBurst]
@[simp] theorem waitBeat_fixed (p sub f) : fixedPart (waitBeat p sub f) = fixedPart f := by
  unfold waitBeat
  split <;> simp
@[simp] theorem loseTie_fixed (p f) : fixedPart (loseTie p f) = fixedPart f := by
  unfold loseTie
  split <;> simp
@[simp] theorem cycleWait_fixed (p w access f) : fixedPart (cycleWait p w access f) = fixedPart f := by
  unfold cycleWait
  split <;> simp
@[simp] theorem regionWait_fixed (p f) : fixedPart (regionWait p f) = fixedPart f := by
  simp [regionWait]
@[simp] theorem beginBeat_fixed (p l f) : fixedPart (beginBeat p l f) = fixedPart f := by
  simp [beginBeat]
@[simp] theorem settleBurst_fixed (b f) : fixedPart (settleBurst b f) = fixedPart f := by
  unfold settleBurst
  split
  · simp
  · split
    · simp
    · split
      · simp
      · split
        · simp
        · split <;> simp
@[simp] theorem afterBeat_fixed (p f) : fixedPart (afterBeat p f) = fixedPart f := by
  unfold afterBeat
  split
  · simp
  · dsimp only
    split <;> simp
@[simp] theorem cutBurst_fixed (p f) : fixedPart (cutBurst p f) = fixedPart f := by
  simp [cutBurst]
@[simp] theorem queueBeat_fixed (p b w f) : fixedPart (queueBeat p b w f) = fixedPart f := by
  unfold queueBeat
  split
  · simp
  · split
    · simp
    · dsimp only
      split <;> simp
@[simp] theorem scrubBurst_fixed (p w f) : fixedPart (scrubBurst p w f) = fixedPart f := by
  unfold scrubBurst
  dsimp only
  split
  · simp
  · split <;> simp
@[simp] theorem marchBurst_fixed (p w f) : fixedPart (marchBurst p w f) = fixedPart f := by
  simp [marchBurst]
@[simp] theorem loadBurst_fixed (p w f) : fixedPart (loadBurst p w f) = fixedPart f := by
  unfold loadBurst
  split
  · simp
  · dsimp only
    split <;> simp
@[simp] theorem zeroBurst_fixed (p f) : fixedPart (zeroBurst p f) = fixedPart f := by
  unfold zeroBurst
  split <;> simp
@[simp] theorem runBeat_fixed (slots p w f) : fixedPart (runBeat slots p w f) = fixedPart f := by
  unfold runBeat
  dsimp only
  split <;> simp
@[simp] theorem retireAt_fixed (b f) : fixedPart (retireAt b f) = fixedPart f := by
  simp [retireAt]
@[simp] theorem guardEnd_fixed (p w f) : fixedPart (guardEnd p w f) = fixedPart f := by
  unfold guardEnd
  split <;> simp

/-! ### Network -/

@[simp] theorem fillBus_fixed (c n f) : fixedPart (fillBus c n f) = fixedPart f := by
  induction n generalizing f with
  | zero => rfl
  | succ n ih =>
    unfold fillBus
    dsimp only
    split
    · simp [ih]
    · rfl
@[simp] theorem crossMove_fixed (n f) : fixedPart (crossMove n f) = fixedPart f := by
  unfold crossMove
  split
  · simp
  · split <;> simp
@[simp] theorem latchOff_fixed (c e f) : fixedPart (latchOff c e f) = fixedPart f := by
  unfold latchOff
  split <;> simp
@[simp] theorem ackDelivery_fixed (c e f) : fixedPart (ackDelivery c e f) = fixedPart f := by
  unfold ackDelivery
  split <;> simp
@[simp] theorem assembleRows_fixed (c n f) : fixedPart (assembleRows c n f) = fixedPart f := by
  induction n generalizing f with
  | zero => rfl
  | succ n ih =>
    unfold assembleRows
    split
    · rfl
    · simp [ih]
@[simp] theorem advanceCollect_fixed (c f) : fixedPart (advanceCollect c f) = fixedPart f := by
  unfold advanceCollect
  dsimp only
  split <;> simp
@[simp] theorem startCollect_fixed (c f) : fixedPart (startCollect c f) = fixedPart f := by
  unfold startCollect
  dsimp only
  split
  · split <;> simp
  · simp
@[simp] theorem wrongReturn_fixed (c slot expect trow f) : fixedPart (wrongReturn c slot expect trow f) = fixedPart f := by
  simp [wrongReturn]
@[simp] theorem strayReturn_fixed (c trow f) : fixedPart (strayReturn c trow f) = fixedPart f := by
  simp [strayReturn]
@[simp] theorem returnQuarter_fixed (c k trow d f) : fixedPart (returnQuarter c k trow d f) = fixedPart f := by
  unfold returnQuarter
  split
  · simp
  · split <;> simp
@[simp] theorem markEndpoint_fixed (c e q seq kind f) : fixedPart (markEndpoint c e q seq kind f) = fixedPart f := by
  simp [markEndpoint]
@[simp] theorem unresponsive_fixed (c e f) : fixedPart (unresponsive c e f) = fixedPart f := by
  unfold unresponsive
  split
  · simp
  · dsimp only
    split <;> simp
@[simp] theorem clearMarks_fixed (c k v f) : fixedPart (clearMarks c k v f) = fixedPart f := by
  simp [clearMarks]

/-! ### Links -/

@[simp] theorem dropFarEnd_fixed (dest f) : fixedPart (dropFarEnd dest f) = fixedPart f := by
  simp [dropFarEnd]
@[simp] theorem settlePath_fixed (old f) : fixedPart (settlePath old f) = fixedPart f := by
  simp [settlePath]
@[simp] theorem withPaths_fixed (g f) (h : ∀ f, fixedPart (g f) = fixedPart f) : fixedPart (withPaths g f) = fixedPart f := by
  simp [withPaths, h]
@[simp] theorem releaseHold_fixed (dest f) : fixedPart (releaseHold dest f) = fixedPart f := by
  simp [releaseHold]
@[simp] theorem spreadMsg_fixed (m k f) : fixedPart (spreadMsg m k f) = fixedPart f := by
  simp [spreadMsg]
@[simp] theorem tellPartners_fixed (mtype k f) : fixedPart (tellPartners mtype k f) = fixedPart f := by
  simp [tellPartners]
@[simp] theorem freeOrigin_fixed (o f) : fixedPart (freeOrigin o f) = fixedPart f := by
  unfold freeOrigin
  split <;> simp
@[simp] theorem forgetOrigins_fixed (k f) : fixedPart (forgetOrigins k f) = fixedPart f := by
  simp [forgetOrigins]
@[simp] theorem missRoute_fixed (dest k f) : fixedPart (missRoute dest k f) = fixedPart f := by
  simp [missRoute]
@[simp] theorem reinject_fixed (k f) : fixedPart (reinject k f) = fixedPart f := by
  unfold reinject
  dsimp only
  refine (each_fixed _ _ _ fun f a => ?_).trans ?_
  · split <;> simp
  · simp
@[simp] theorem clearSwaps_fixed (k f) : fixedPart (clearSwaps k f) = fixedPart f := by
  simp [clearSwaps]
@[simp] theorem dropLink_fixed (k st f) : fixedPart (dropLink k st f) = fixedPart f := by
  simp [dropLink]
@[simp] theorem failLink_fixed (k f) : fixedPart (failLink k f) = fixedPart f := by
  simp [failLink]
@[simp] theorem retrainLink_fixed (k f) : fixedPart (retrainLink k f) = fixedPart f := by
  simp [retrainLink]
@[simp] theorem retrained_fixed (k f) : fixedPart (retrained k f) = fixedPart f := by
  simp [retrained]
@[simp] theorem putWire_fixed (k b f) : fixedPart (putWire k b f).2 = fixedPart f := by
  simp [putWire]
@[simp] theorem fillSlot_fixed (k pick f) : fixedPart (fillSlot k pick f).2 = fixedPart f := by
  unfold fillSlot
  dsimp only
  split
  · simp
  · split
    · split <;> simp
    · split
      · simp
      · split
        · simp
        · split
          · simp
          · split <;> simp
@[simp] theorem fillSlots_fixed (k l f) : fixedPart (fillSlots k l f).2 = fixedPart f := by
  induction l generalizing f with
  | nil => rfl
  | cons v t ih => simp [fillSlots, ih]
@[simp] theorem sendLanes_fixed (flits cb f) : fixedPart (sendLanes flits cb f) = fixedPart f := by
  simp [sendLanes]
@[simp] theorem sendFrame_fixed (k picks f) : fixedPart (sendFrame k picks f) = fixedPart f := by
  simp [sendFrame]
@[simp] theorem sinkMessages_fixed (k b f) : fixedPart (sinkMessages k b f) = fixedPart f := by
  simp [sinkMessages]
@[simp] theorem sinkRow_fixed (k b f) : fixedPart (sinkRow k b f) = fixedPart f := by
  unfold sinkRow
  split <;> simp
@[simp] theorem takeFlit_fixed (k b pool f) : fixedPart (takeFlit k b pool f) = fixedPart f := by
  unfold takeFlit
  dsimp only
  split
  · simp
  · split
    · simp
    · split <;> simp
@[simp] theorem receiveFlit_fixed (k w pool f) : fixedPart (receiveFlit k w pool f) = fixedPart f := by
  unfold receiveFlit
  dsimp only
  split
  · rfl
  · simp only [fixedPart_ite, onLink_fixed, countLink_fixed, takeFlit_fixed, ite_self]
@[simp] theorem countFec_fixed (k fec f) : fixedPart (countFec k fec f) = fixedPart f := by
  simp [countFec]
@[simp] theorem receiveBlock_fixed (k cb f) : fixedPart (receiveBlock k cb f) = fixedPart f := by
  simp [receiveBlock]
@[simp] theorem tellSwap_fixed (cmd log phys frame f) : fixedPart (tellSwap cmd log phys frame f) = fixedPart f := by
  simp [tellSwap]
@[simp] theorem startSwap_fixed (lane cause s f) : fixedPart (startSwap lane cause s f) = fixedPart f := by
  simp [startSwap]
@[simp] theorem requestSwap_fixed (lane cause f) : fixedPart (requestSwap lane cause f) = fixedPart f := by
  unfold requestSwap
  split
  · simp
  · split <;> simp
@[simp] theorem nextSwap_fixed (f) : fixedPart (nextSwap f) = fixedPart f := by
  unfold nextSwap
  split
  · dsimp only
    split <;> simp
  · simp
@[simp] theorem answerSwap_fixed (f) : fixedPart (answerSwap f) = fixedPart f := by
  simp [answerSwap]
@[simp] theorem prepareSwap_fixed (f) : fixedPart (prepareSwap f) = fixedPart f := by
  unfold prepareSwap
  split <;> simp
@[simp] theorem remapLane_fixed (f) : fixedPart (remapLane f) = fixedPart f := by
  unfold remapLane
  split <;> simp
@[simp] theorem lockLane_fixed (f) : fixedPart (lockLane f) = fixedPart f := by
  unfold lockLane
  split <;> simp
@[simp] theorem endSwap_fixed (f) : fixedPart (endSwap f) = fixedPart f := by
  simp [endSwap]
theorem headMsg_fixed {t f m g} (h : headMsg t f = some (m, g)) : fixedPart g = fixedPart f := by
  unfold headMsg at h
  split at h
  · split at h
    · cases h
      simp
    · cases h
  · cases h
@[simp] theorem spreadLink_fixed (up f) : fixedPart (spreadLink up f) = fixedPart f := by
  unfold spreadLink
  split
  · rfl
  · next hm =>
    dsimp only
    split
    · rw [headMsg_fixed hm]
    · simp [headMsg_fixed hm]
@[simp] theorem openTraining_fixed (k h full f) : fixedPart (openTraining k h full f) = fixedPart f := by
  simp [openTraining]
@[simp] theorem beginTrain_fixed (h w f) : fixedPart (beginTrain h w f) = fixedPart f := by
  simp [beginTrain]
@[simp] theorem startTrain_fixed (h w f) : fixedPart (startTrain h w f) = fixedPart f := by
  simp [startTrain]
@[simp] theorem resumeTrains_fixed (f) : fixedPart (resumeTrains f) = fixedPart f := by
  simp [resumeTrains]
@[simp] theorem trainTimeout_fixed (k f) : fixedPart (trainTimeout k f) = fixedPart f := by
  simp [trainTimeout]
@[simp] theorem trainLanes_fixed (r full f) : fixedPart (trainLanes r full f) = fixedPart f := by
  simp [trainLanes]
@[simp] theorem endTrainPort_fixed (r e f) : fixedPart (endTrainPort r e f) = fixedPart f := by
  simp [endTrainPort]
@[simp] theorem endTrainFor_fixed (h r f) : fixedPart (endTrainFor h r f).2 = fixedPart f := by
  simp [endTrainFor]
@[simp] theorem completeTrain_fixed (r f) : fixedPart (completeTrain r f) = fixedPart f := by
  unfold completeTrain
  dsimp only
  split <;> simp

/-! ### Domain -/

@[simp] theorem onDom_fixed (f g) : fixedPart (onDom f g) = fixedPart f := by
  simp [onDom]
@[simp] theorem freeRows_fixed (n f) : fixedPart (freeRows n f) = fixedPart f := by
  simp [freeRows]
@[simp] theorem freeCtx_fixed (i f) : fixedPart (freeCtx i f) = fixedPart f := by
  unfold freeCtx
  split <;> simp
@[simp] theorem setHold_fixed (src f) : fixedPart (setHold src f) = fixedPart f := by
  simp [setHold]
@[simp] theorem endHold_fixed (src f) : fixedPart (endHold src f) = fixedPart f := by
  unfold endHold
  dsimp only
  split
  · split <;> simp
  · simp
@[simp] theorem starve_fixed (src f) : fixedPart (starve src f) = fixedPart f := by
  simp [starve]
@[simp] theorem expireHold_fixed (src f) : fixedPart (expireHold src f) = fixedPart f := by
  unfold expireHold
  split <;> simp
@[simp] theorem answerCredit_fixed (m f) : fixedPart (answerCredit m f) = fixedPart f := by
  unfold answerCredit
  dsimp only
  split
  · simp
  · rw [answer_fixed, countInst_fixed]
    split <;> simp
@[simp] theorem onFlightSeg_fixed (q ord stag g f) : fixedPart (onFlightSeg q ord stag g f) = fixedPart f := by
  simp [onFlightSeg]
@[simp] theorem takeGrant_fixed (m f) : fixedPart (takeGrant m f) = fixedPart f := by
  unfold takeGrant
  dsimp only
  split <;> simp
@[simp] theorem takeRefusal_fixed (m f) : fixedPart (takeRefusal m f) = fixedPart f := by
  unfold takeRefusal
  dsimp only
  split
  · simp
  · split <;> simp
@[simp] theorem resendCredit_fixed (stag f) : fixedPart (resendCredit stag f) = fixedPart f := by
  unfold resendCredit
  dsimp only
  split
  · split
    · simp
    · split <;> simp
  · simp
  · simp
@[simp] theorem takeRowAck_fixed (m f) : fixedPart (takeRowAck m f) = fixedPart f := by
  unfold takeRowAck
  dsimp only
  split <;> simp
@[simp] theorem takeFault_fixed (m f) : fixedPart (takeFault m f) = fixedPart f := by
  unfold takeFault
  dsimp only
  split <;> simp
@[simp] theorem timeoutStag_fixed (stag f) : fixedPart (timeoutStag stag f) = fixedPart f := by
  unfold timeoutStag
  split
  · simp
  · split
    · simp
    · split
      · simp
      · split <;> simp
@[simp] theorem takeCancel_fixed (m f) : fixedPart (takeCancel m f) = fixedPart f := by
  unfold takeCancel
  dsimp only
  split <;> simp
@[simp] theorem expireCtx_fixed (i f) : fixedPart (expireCtx i f) = fixedPart f := by
  unfold expireCtx
  split <;> simp
@[simp] theorem faultCtx_fixed (i cause f) : fixedPart (faultCtx i cause f) = fixedPart f := by
  unfold faultCtx
  split <;> simp
@[simp] theorem ackCtx_fixed (i f) : fixedPart (ackCtx i f) = fixedPart f := by
  unfold ackCtx
  split <;> simp
@[simp] theorem onCtx_fixed (i g f) : fixedPart (onCtx i g f) = fixedPart f := by
  simp [onCtx]
@[simp] theorem acceptRow_fixed (i f) : fixedPart (acceptRow i f) = fixedPart f := by
  unfold acceptRow
  dsimp only
  split <;> simp
@[simp] theorem markFlit_fixed (i f) : fixedPart (markFlit i f) = fixedPart f := by
  simp [markFlit]
@[simp] theorem writeGrant_fixed (p i m x ra f) : fixedPart (writeGrant p i m x ra f) = fixedPart f := by
  unfold writeGrant
  dsimp only
  split
  · simp
  · split
    · simp
    · split <;> simp
@[simp] theorem rowBeat_fixed (p b w f) : fixedPart (rowBeat p b w f) = fixedPart f := by
  unfold rowBeat
  split
  · split
    · simp
    · split
      · simp
      · dsimp only
        split <;> simp
  · simp
@[simp] theorem inboundBeat_fixed (slots p w f) : fixedPart (inboundBeat slots p w f) = fixedPart f := by
  unfold inboundBeat
  dsimp only
  split <;> simp
@[simp] theorem sendRequest_fixed (k j f) : fixedPart (sendRequest k j f).2 = fixedPart f := by
  simp [sendRequest]
@[simp] theorem writeChunk_fixed (k i c x f) : fixedPart (writeChunk k i c x f) = fixedPart f := by
  simp [writeChunk]
@[simp] theorem streamBeat_fixed (p b f) : fixedPart (streamBeat p b f) = fixedPart f := by
  unfold streamBeat
  split
  · split
    · simp
    · split <;> simp
  · simp
@[simp] theorem inboundChunk_fixed (slots p f) : fixedPart (inboundChunk slots p f) = fixedPart f := by
  unfold inboundChunk
  dsimp only
  split <;> simp
@[simp] theorem takeSignal_fixed (m f) : fixedPart (takeSignal m f) = fixedPart f := by
  simp [takeSignal]
@[simp] theorem takeFenceAck_fixed (m f) : fixedPart (takeFenceAck m f) = fixedPart f := by
  unfold takeFenceAck
  split <;> simp
@[simp] theorem resendSignal_fixed (stag f) : fixedPart (resendSignal stag f) = fixedPart f := by
  unfold resendSignal
  split
  · simp
  · split <;> simp
@[simp] theorem takeInstall_fixed (m f) : fixedPart (takeInstall m f) = fixedPart f := by
  simp [takeInstall]
@[simp] theorem onMigEntry_fixed (h k g f) : fixedPart (onMigEntry h k g f) = fixedPart f := by
  simp [onMigEntry]
@[simp] theorem takeMapAck_fixed (m f) : fixedPart (takeMapAck m f) = fixedPart f := by
  unfold takeMapAck
  split <;> simp
@[simp] theorem resendInstall_fixed (stag f) : fixedPart (resendInstall stag f) = fixedPart f := by
  unfold resendInstall
  split <;> simp
@[simp] theorem takeNote_fixed (m f) : fixedPart (takeNote m f) = fixedPart f := by
  simp [takeNote]
@[simp] theorem withMsg_fixed (t g f) (h : ∀ m f, fixedPart (g m f) = fixedPart f) : fixedPart (withMsg t g f) = fixedPart f := by
  unfold withMsg
  split
  · next hm => rw [h, headMsg_fixed hm]
  · rfl

/-! ### Maps -/

@[simp] theorem askRecords_fixed (l f) : fixedPart (askRecords l f) = fixedPart f := by
  unfold askRecords
  dsimp only
  split <;> simp
@[simp] theorem takeRecords_fixed (f) : fixedPart (takeRecords f) = fixedPart f := by
  unfold takeRecords
  split <;> simp
@[simp] theorem startLoad_fixed (h w0 w1 w2 w3 f) : fixedPart (startLoad h w0 w1 w2 w3 f) = fixedPart f := by
  simp [startLoad]
@[simp] theorem loadEffect_fixed (f) : fixedPart (loadEffect f) = fixedPart f := by
  unfold loadEffect
  split <;> simp
@[simp] theorem sourceEntry_fixed (rows i start f) : fixedPart (sourceEntry rows i start f).2 = fixedPart f := by
  simp [sourceEntry]
@[simp] theorem sourceEntries_fixed (rows n i start f) : fixedPart (sourceEntries rows n i start f).2 = fixedPart f := by
  induction n generalizing i start f with
  | zero => rfl
  | succ n ih =>
    unfold sourceEntries
    dsimp only
    split <;> simp [ih]
@[simp] theorem startMigrate_fixed (h w0 w1 w2 w3 w4 f) : fixedPart (startMigrate h w0 w1 w2 w3 w4 f) = fixedPart f := by
  unfold startMigrate
  dsimp only
  split
  · simp
  · split <;> simp

/-! ### Stack -/

@[simp] theorem sendNext_fixed (k f) : fixedPart (sendNext k f) = fixedPart f := by
  unfold sendNext
  dsimp only
  split <;> simp
@[simp] theorem failOwner_fixed (o reason addr stack f) : fixedPart (failOwner o reason addr stack f) = fixedPart f := by
  unfold failOwner
  split <;> simp
@[simp] theorem endTag_fixed (k tag f) : fixedPart (endTag k tag f) = fixedPart f := by
  simp [endTag]
@[simp] theorem tagServed_fixed (k tag f) : fixedPart (tagServed k tag f) = fixedPart f := by
  simp [tagServed]
@[simp] theorem retryTag_fixed (k t f) : fixedPart (retryTag k t f) = fixedPart f := by
  unfold retryTag
  split
  · simp
  · dsimp only
    split <;> simp
@[simp] theorem withResponse_fixed (k type h d g f) (hg : ∀ t f, fixedPart (g t f) = fixedPart f) :
    fixedPart (withResponse k type h d g f) = fixedPart f := by
  unfold withResponse
  split
  · simp
  · split
    · simp
    · split
      · simp
      · split
        · simp
        · split <;> simp [hg]
@[simp] theorem notePoison_fixed (k t f) : fixedPart (notePoison k t f) = fixedPart f := by
  simp [notePoison]
@[simp] theorem takeData_fixed (k op sub h d t f) : fixedPart (takeData k op sub h d t f) = fixedPart f := by
  unfold takeData
  split
  · simp
  · split
    · simp
    · split
      · simp
      · dsimp only
        split <;> simp
@[simp] theorem takeWriteAck_fixed (k t f) : fixedPart (takeWriteAck k t f) = fixedPart f := by
  unfold takeWriteAck
  split
  · simp
  · split
    · simp
    · dsimp only
      split <;> simp
@[simp] theorem takeStackFault_fixed (k h t f) : fixedPart (takeStackFault k h t f) = fixedPart f := by
  simp [takeStackFault]
@[simp] theorem takeCancelAck_fixed (k t f) : fixedPart (takeCancelAck k t f) = fixedPart f := by
  simp [takeCancelAck]
@[simp] theorem takeStackCredit_fixed (k h f) : fixedPart (takeStackCredit k h f) = fixedPart f := by
  simp [takeStackCredit]
@[simp] theorem losePort_fixed (k cause f) : fixedPart (losePort k cause f) = fixedPart f := by
  simp [losePort]
@[simp] theorem timeoutTag_fixed (k tag f) : fixedPart (timeoutTag k tag f) = fixedPart f := by
  unfold timeoutTag
  split <;> simp
@[simp] theorem timeoutCancel_fixed (k tag f) : fixedPart (timeoutCancel k tag f) = fixedPart f := by
  unfold timeoutCancel
  split <;> simp
@[simp] theorem readyChange_fixed (k v f) : fixedPart (readyChange k v f) = fixedPart f := by
  simp [readyChange]
@[simp] theorem sweepPort_fixed (k f) : fixedPart (sweepPort k f) = fixedPart f := by
  simp [sweepPort]
@[simp] theorem writeEnable_fixed (k v f) : fixedPart (writeEnable k v f).2 = fixedPart f := by
  simp [writeEnable]
@[simp] theorem respondStack_fixed (c f) : fixedPart (respondStack c f) = fixedPart f := by
  unfold respondStack
  split <;> simp

/-! ### Maintenance -/

@[simp] theorem startMarch_fixed (h w0 w1 f) : fixedPart (startMarch h w0 w1 f) = fixedPart f := by
  simp [startMarch]
@[simp] theorem firstBorrow_fixed (n f) : fixedPart (firstBorrow n f) = fixedPart f := by
  unfold firstBorrow
  split <;> simp
@[simp] theorem laterBorrow_fixed (n f) : fixedPart (laterBorrow n f) = fixedPart f := by
  unfold laterBorrow
  split <;> simp
@[simp] theorem answerClaim_fixed (n f) : fixedPart (answerClaim n f) = fixedPart f := by
  unfold answerClaim
  split <;> simp
@[simp] theorem lateTest_fixed (n f) : fixedPart (lateTest n f) = fixedPart f := by
  unfold lateTest
  split <;> simp
@[simp] theorem marchDone_fixed (f) : fixedPart (marchDone f) = fixedPart f := by
  unfold marchDone
  split <;> simp
@[simp] theorem startScrub_fixed (h w f) : fixedPart (startScrub h w f) = fixedPart f := by
  simp [startScrub]
@[simp] theorem scrubDone_fixed (n f) : fixedPart (scrubDone n f) = fixedPart f := by
  unfold scrubDone
  split <;> simp

/-! ### Image -/

@[simp] theorem onImg_fixed (f g) : fixedPart (onImg f g) = fixedPart f := by
  simp [onImg]
@[simp] theorem onStart_fixed (f g) : fixedPart (onStart f g) = fixedPart f := by
  simp [onStart]
@[simp] theorem onTherm_fixed (f g) : fixedPart (onTherm f g) = fixedPart f := by
  simp [onTherm]
@[simp] theorem rwpSet_fixed (x y v f) : fixedPart (rwpSet x y v f) = fixedPart f := by
  unfold rwpSet
  split <;> simp
@[simp] theorem rwpDefaults_fixed (f) : fixedPart (rwpDefaults f) = fixedPart f := by
  simp [rwpDefaults]
@[simp] theorem applyRecord_fixed (e f) : fixedPart (applyRecord e f).2 = fixedPart f := by
  unfold applyRecord
  split <;> simp
@[simp] theorem applyRecords_fixed (l f) : fixedPart (applyRecords l f).2 = fixedPart f := by
  induction l generalizing f with
  | nil => rfl
  | cons e t ih => simp [applyRecords, ih]
@[simp] theorem applyDilution_fixed (l f) : fixedPart (applyDilution l f).2 = fixedPart f := by
  simp [applyDilution]
@[simp] theorem readCopies_fixed (f) : fixedPart (readCopies f) = fixedPart f := by
  simp [readCopies]
@[simp] theorem loadImage_fixed (f) : fixedPart (loadImage f).2 = fixedPart f := by
  unfold loadImage
  dsimp only
  split <;> simp
@[simp] theorem loadCounts_fixed (f) : fixedPart (loadCounts f) = fixedPart f := by
  unfold loadCounts
  dsimp only
  split <;> simp
@[simp] theorem onWaiting_fixed (g f) : fixedPart (onWaiting g f) = fixedPart f := by
  simp [onWaiting]
@[simp] theorem joinSave_fixed (h self forStart f) : fixedPart (joinSave h self forStart f) = fixedPart f := by
  unfold joinSave
  dsimp only
  split <;> simp
@[simp] theorem startSave_fixed (h f) : fixedPart (startSave h f) = fixedPart f := by
  simp [startSave]
@[simp] theorem selfSave_fixed (forStart f) : fixedPart (selfSave forStart f) = fixedPart f := by
  unfold selfSave
  dsimp only
  split
  · split <;> simp
  · simp
@[simp] theorem completeSave_fixed (r status f) : fixedPart (completeSave r status f) = fixedPart f := by
  simp [completeSave]
@[simp] theorem deferSave_fixed (f) : fixedPart (deferSave f) = fixedPart f := by
  unfold deferSave
  split <;> simp
@[simp] theorem putCopy_fixed (b r f) : fixedPart (putCopy b r f) = fixedPart f := by
  simp [putCopy]
@[simp] theorem writeBody_fixed (b old new f) : fixedPart (writeBody b old new f) = fixedPart f := by
  simp [writeBody]
@[simp] theorem writeMagic_fixed (b new f) : fixedPart (writeMagic b new f) = fixedPart f := by
  simp [writeMagic]
@[simp] theorem refuseSave_fixed (r f) : fixedPart (refuseSave r f) = fixedPart f := by
  simp [refuseSave]
@[simp] theorem beginSave_fixed (f) : fixedPart (beginSave f) = fixedPart f := by
  unfold beginSave
  split <;> simp
@[simp] theorem endSave_fixed (status f) : fixedPart (endSave status f) = fixedPart f := by
  unfold endSave
  split <;> simp
@[simp] theorem landSave_fixed (f) : fixedPart (landSave f) = fixedPart f := by
  unfold landSave
  split <;> simp

/-! ### LongOps -/

@[simp] theorem byCommand_fixed (opcode start f) (h : ∀ x f, fixedPart (start x f) = fixedPart f) :
    fixedPart (byCommand opcode start f) = fixedPart f := by
  unfold byCommand
  split
  · simp
  · dsimp only
    split <;> simp [h]
@[simp] theorem holdIdle_fixed (h f) : fixedPart (holdIdle h f) = fixedPart f := by
  simp [holdIdle]
@[simp] theorem holdFreeze_fixed (p f) : fixedPart (holdFreeze p f) = fixedPart f := by
  simp [holdFreeze]
@[simp] theorem restoreFreeze_fixed (p b f) : fixedPart (restoreFreeze p b f) = fixedPart f := by
  unfold restoreFreeze
  split <;> simp
@[simp] theorem startCommit_fixed (h w f) : fixedPart (startCommit h w f) = fixedPart f := by
  simp [startCommit]
@[simp] theorem abortCommit_fixed (h f) : fixedPart (abortCommit h f) = fixedPart f := by
  unfold abortCommit
  split <;> simp
@[simp] theorem startDrain_fixed (h w f) : fixedPart (startDrain h w f) = fixedPart f := by
  simp [startDrain]
@[simp] theorem endDrain_fixed (p status f) : fixedPart (endDrain p status f) = fixedPart f := by
  unfold endDrain
  split <;> simp
@[simp] theorem finishDrain_fixed (p f) : fixedPart (finishDrain p f) = fixedPart f := by
  simp [finishDrain]
@[simp] theorem abortScrub_fixed (h f) : fixedPart (abortScrub h f) = fixedPart f := by
  unfold abortScrub
  refine (each_fixed _ _ _ fun f a => ?_).trans ?_
  · split <;> simp
  · simp
@[simp] theorem abortSweep_fixed (h f) : fixedPart (abortSweep h f) = fixedPart f := by
  unfold abortSweep
  split <;> simp
@[simp] theorem abortSweeps_fixed (f) : fixedPart (abortSweeps f) = fixedPart f := by
  simp [abortSweeps]
@[simp] theorem beginRun_fixed (h scope trigger f) : fixedPart (beginRun h scope trigger f) = fixedPart f := by
  simp [beginRun]
@[simp] theorem startZeroize_fixed (h w f) : fixedPart (startZeroize h w f) = fixedPart f := by
  simp [startZeroize]
@[simp] theorem clearScope_fixed (scope f) : fixedPart (clearScope scope f) = fixedPart f := by
  simp [clearScope]
@[simp] theorem endZero_fixed (z f) : fixedPart (endZero z f) = fixedPart f := by
  simp [endZero]
@[simp] theorem startCal_fixed (h w f) : fixedPart (startCal h w f) = fixedPart f := by
  simp [startCal]
@[simp] theorem endCal_fixed (status f) : fixedPart (endCal status f) = fixedPart f := by
  unfold endCal
  split <;> simp
@[simp] theorem calibrate_fixed (n anchor meas f) : fixedPart (calibrate n anchor meas f) = fixedPart f := by
  simp [calibrate]
@[simp] theorem calGroup_fixed (n meas c f) : fixedPart (calGroup n meas c f) = fixedPart f := by
  simp [calGroup]
@[simp] theorem groupCalibrated_fixed (n meas f) : fixedPart (groupCalibrated n meas f) = fixedPart f := by
  unfold groupCalibrated
  dsimp only
  split
  · split
    · simp
    · split <;> simp
  · split
    · simp
    · split <;> simp
@[simp] theorem abortTrain_fixed (h f) : fixedPart (abortTrain h f) = fixedPart f := by
  simp [abortTrain]
@[simp] theorem abortSave_fixed (h f) : fixedPart (abortSave h f) = fixedPart f := by
  unfold abortSave
  split <;> simp
@[simp] theorem abortOne_fixed (o f) : fixedPart (abortOne o f) = fixedPart f := by
  unfold abortOne
  split
  · simp
  · simp
  · simp
  · refine (each_fixed _ _ _ fun f a => ?_).trans ?_
    · split <;> simp
    · simp
  · simp
  · simp
  · simp
  · simp
  · simp
  · simp
@[simp] theorem abortOps_fixed (f) : fixedPart (abortOps f) = fixedPart f := by
  unfold abortOps
  dsimp only
  rw [onImg_fixed]
  refine (each_fixed _ _ _ fun f a => ?_).trans ?_
  · split <;> simp
  · simp
@[simp] theorem acceptLoad_fixed (h w0 w1 w2 w3 f) : fixedPart (acceptLoad h w0 w1 w2 w3 f) = fixedPart f := by
  unfold acceptLoad
  dsimp only
  split <;> simp

/-! ### Reply -/

@[simp] theorem onBdp_fixed (f g) : fixedPart (onBdp f g) = fixedPart f := by
  simp [onBdp]
@[simp] theorem reply_fixed (eid tag h status cnt handle payload f) :
    fixedPart (reply eid tag h status cnt handle payload f) = fixedPart f := by
  simp [reply]
@[simp] theorem accessReply_fixed (a eid h tag status row f) : fixedPart (accessReply a eid h tag status row f) = fixedPart f := by
  simp [accessReply]
@[simp] theorem endAccess_fixed (a status row f) : fixedPart (endAccess a status row f) = fixedPart f := by
  unfold endAccess
  dsimp only
  split <;> simp
@[simp] theorem dropAccesses_fixed (status f) : fixedPart (dropAccesses status f) = fixedPart f := by
  simp [dropAccesses]

/-! ### Security -/

@[simp] theorem onSec_fixed (f g) : fixedPart (onSec f g) = fixedPart f := by
  simp [onSec]
@[simp] theorem leaveIntrusive_fixed (f) : fixedPart (leaveIntrusive f) = fixedPart f := by
  simp [leaveIntrusive]
@[simp] theorem lowerLevel_fixed (v f) : fixedPart (lowerLevel v f) = fixedPart f := by
  simp [lowerLevel]
@[simp] theorem fallToNone_fixed (f) : fixedPart (fallToNone f) = fixedPart f := by
  simp [fallToNone]
@[simp] theorem denyUnlock_fixed (f) : fixedPart (denyUnlock f) = fixedPart f := by
  simp [denyUnlock]
@[simp] theorem enterIntrusive_fixed (f) : fixedPart (enterIntrusive f) = fixedPart f := by
  simp [enterIntrusive]
@[simp] theorem withdrawUnlock_fixed (f) : fixedPart (withdrawUnlock f) = fixedPart f := by
  simp [withdrawUnlock]
@[simp] theorem writeDebug_fixed (v f) : fixedPart (writeDebug v f).2 = fixedPart f := by
  simp [writeDebug]
@[simp] theorem securityChange_fixed (v f) : fixedPart (securityChange v f) = fixedPart f := by
  simp [securityChange]
@[simp] theorem releaseChange_fixed (f) : fixedPart (releaseChange f) = fixedPart f := by
  simp [releaseChange]
@[simp] theorem launchOwed_fixed (f) : fixedPart (launchOwed f) = fixedPart f := by
  unfold launchOwed
  split <;> simp
@[simp] theorem selfZeroize_fixed (f) : fixedPart (selfZeroize f) = fixedPart f := by
  simp [selfZeroize]
@[simp] theorem answerUnlock_fixed (granted echo f) : fixedPart (answerUnlock granted echo f) = fixedPart f := by
  simp [answerUnlock]
@[simp] theorem underIntrusive_fixed (g f) (h : ∀ f, fixedPart (g f).2 = fixedPart f) :
    fixedPart (underIntrusive g f).2 = fixedPart f := by
  simp [underIntrusive, h]
@[simp] theorem writeInject_fixed (v f) : fixedPart (writeInject v f).2 = fixedPart f := by
  simp [writeInject]
@[simp] theorem haltPort_fixed (p f) : fixedPart (haltPort p f) = fixedPart f := by
  unfold haltPort
  dsimp only
  split
  · split
    · split
      · split <;> simp
      · rw [discardBurst_fixed]
        split <;> simp
    · split
      · split <;> simp
      · rw [discardBurst_fixed]
        split <;> simp
  · split <;> simp
@[simp] theorem writeHalt_fixed (v f) : fixedPart (writeHalt v f).2 = fixedPart f := by
  simp [writeHalt]
@[simp] theorem writeFallback_fixed (v f) : fixedPart (writeFallback v f).2 = fixedPart f := by
  simp [writeFallback]
@[simp] theorem engageFallback_fixed (f) : fixedPart (engageFallback f) = fixedPart f := by
  simp [engageFallback]

/-! ### Power -/

@[simp] theorem onPwr_fixed (f g) : fixedPart (onPwr f g) = fixedPart f := by
  simp [onPwr]
@[simp] theorem coldFab_fixed (f) : fixedPart (coldFab f) = fixedPart f := by
  simp [coldFab]
@[simp] theorem openIntake_fixed (f) : fixedPart (openIntake f) = fixedPart f := by
  simp [openIntake]
@[simp] theorem stateChanged_fixed (old new h f) : fixedPart (stateChanged old new h f) = fixedPart f := by
  simp [stateChanged]
@[simp] theorem recordSet_fixed (t status reached follow f) : fixedPart (recordSet t status reached follow f) = fixedPart f := by
  simp [recordSet]
@[simp] theorem settle_fixed (status f) : fixedPart (settle status f) = fixedPart f := by
  unfold settle
  split <;> simp
@[simp] theorem holdOps_fixed (f) : fixedPart (holdOps f) = fixedPart f := by
  simp [holdOps]
@[simp] theorem freeOps_fixed (f) : fixedPart (freeOps f) = fixedPart f := by
  simp [freeOps]
@[simp] theorem resume_fixed (f) : fixedPart (resume f) = fixedPart f := by
  simp [resume]
@[simp] theorem takeDown_fixed (f) : fixedPart (takeDown f) = fixedPart f := by
  simp [takeDown]
@[simp] theorem offEntry_fixed (t f) : fixedPart (offEntry t f) = fixedPart f := by
  unfold offEntry
  dsimp only
  rw [onPwr_fixed]
  split <;> simp
@[simp] theorem advanceEntry_fixed (f) : fixedPart (advanceEntry f) = fixedPart f := by
  unfold advanceEntry
  split <;> simp
@[simp] theorem newTrans_fixed (h target phase f) : fixedPart (newTrans h target phase f).2 = fixedPart f := by
  simp [newTrans]
@[simp] theorem startFromFive_fixed (f) : fixedPart (startFromFive f) = fixedPart f := by
  simp [startFromFive]
@[simp] theorem startPower_fixed (h target f) : fixedPart (startPower h target f) = fixedPart f := by
  simp [startPower]
@[simp] theorem startQueued_fixed (f) : fixedPart (startQueued f) = fixedPart f := by
  unfold startQueued
  split <;> simp
@[simp] theorem powerSet_fixed (target h f) : fixedPart (powerSet target h f) = fixedPart f := by
  simp [powerSet]
@[simp] theorem settleNext_fixed (status f) : fixedPart (settleNext status f) = fixedPart f := by
  simp [settleNext]
@[simp] theorem reachIdle_fixed (f) : fixedPart (reachIdle f) = fixedPart f := by
  unfold reachIdle
  split <;> simp
@[simp] theorem retainLoss_fixed (f) : fixedPart (retainLoss f) = fixedPart f := by
  simp [retainLoss]
@[simp] theorem reachRetain_fixed (f) : fixedPart (reachRetain f) = fixedPart f := by
  unfold reachRetain
  split <;> simp
@[simp] theorem withdrawRetain_fixed (f) : fixedPart (withdrawRetain f) = fixedPart f := by
  unfold withdrawRetain
  split <;> simp
@[simp] theorem leaveRetain_fixed (f) : fixedPart (leaveRetain f) = fixedPart f := by
  unfold leaveRetain
  split
  · split
    · rfl
    · simp
  · rfl
@[simp] theorem stayRetain_fixed (f) : fixedPart (stayRetain f) = fixedPart f := by
  simp [stayRetain]
@[simp] theorem refuseOff_fixed (f) : fixedPart (refuseOff f) = fixedPart f := by
  simp [refuseOff]

/-! ### Startup -/

@[simp] theorem toStage_fixed (n f) : fixedPart (toStage n f) = fixedPart f := by
  simp [toStage]
@[simp] theorem fawnLinks_fixed (f) : fixedPart (fawnLinks f) = fixedPart f := by
  simp [fawnLinks]
@[simp] theorem enterFawn_fixed (f) : fixedPart (enterFawn f) = fixedPart f := by
  simp [enterFawn]
@[simp] theorem leaveFawn_fixed (f) : fixedPart (leaveFawn f) = fixedPart f := by
  simp [leaveFawn]
@[simp] theorem countStart_fixed (f) : fixedPart (countStart f) = fixedPart f := by
  unfold countStart
  split
  · simp
  · dsimp only
    split <;> simp
@[simp] theorem endRestart_fixed (status sub f) : fixedPart (endRestart status sub f) = fixedPart f := by
  unfold endRestart
  split <;> simp
@[simp] theorem stopStart_fixed (sub f) : fixedPart (stopStart sub f) = fixedPart f := by
  unfold stopStart
  dsimp only
  rw [settleNext_fixed, endRestart_fixed]
  split <;> simp
@[simp] theorem pushRecord_fixed (r f) : fixedPart (pushRecord r f) = fixedPart f := by
  simp [pushRecord]
@[simp] theorem applyMask_fixed (f) : fixedPart (applyMask f) = fixedPart f := by
  simp [applyMask]
@[simp] theorem onDefaults_fixed (f) : fixedPart (onDefaults f) = fixedPart f := by
  simp [onDefaults]
@[simp] theorem failStage_fixed (sub f) : fixedPart (failStage sub f) = fixedPart f := by
  simp [failStage]
@[simp] theorem andOn_fixed (g f) (h : ∀ f, fixedPart (g f) = fixedPart f) : fixedPart (andOn g f) = fixedPart f := by
  simp [andOn, h]
@[simp] theorem failDictionary_fixed (sub f) : fixedPart (failDictionary sub f) = fixedPart f := by
  simp [failDictionary]
@[simp] theorem afterFour_fixed (f) : fixedPart (afterFour f) = fixedPart f := by
  simp [afterFour]
@[simp] theorem stageSaved_fixed (r ok f) : fixedPart (stageSaved r ok f) = fixedPart f := by
  simp [stageSaved]
@[simp] theorem advanceRestart_fixed (f) : fixedPart (advanceRestart f) = fixedPart f := by
  simp [advanceRestart]
@[simp] theorem portsEmptied_fixed (f) : fixedPart (portsEmptied f) = fixedPart f := by
  simp [portsEmptied]
@[simp] theorem startRestart_fixed (h w f) : fixedPart (startRestart h w f) = fixedPart f := by
  unfold startRestart
  dsimp only
  split <;> simp
@[simp] theorem coldRestart_fixed (f) : fixedPart (coldRestart f) = fixedPart f := by
  simp [coldRestart]
@[simp] theorem latchSecurity_fixed (v f) : fixedPart (latchSecurity v f) = fixedPart f := by
  simp [latchSecurity]
@[simp] theorem releaseBleats_fixed (f) : fixedPart (releaseBleats f) = fixedPart f := by
  simp [releaseBleats]
@[simp] theorem passStageOne_fixed (v slots f) : fixedPart (passStageOne v slots f).2 = fixedPart f := by
  simp [passStageOne]
@[simp] theorem tryStageOne_fixed (v slots f) : fixedPart (tryStageOne v slots f).2 = fixedPart f := by
  unfold tryStageOne
  split <;> simp
@[simp] theorem powerGood_fixed (v slots f) : fixedPart (powerGood v slots f).2 = fixedPart f := by
  simp [powerGood]
@[simp] theorem railLoss_fixed (goods f) : fixedPart (railLoss goods f) = fixedPart f := by
  simp [railLoss]
@[simp] theorem paritySweep_fixed (f) : fixedPart (paritySweep f) = fixedPart f := by
  simp [paritySweep]
@[simp] theorem zeroAtStart_fixed (f) : fixedPart (zeroAtStart f) = fixedPart f := by
  simp [zeroAtStart]
@[simp] theorem quickMarch_fixed (failed f) : fixedPart (quickMarch failed f) = fixedPart f := by
  unfold quickMarch
  dsimp only
  split <;> simp
@[simp] theorem stageTwo_fixed (failed f) : fixedPart (stageTwo failed f) = fixedPart f := by
  simp [stageTwo]
@[simp] theorem freezeGroup_fixed (n margin f) : fixedPart (freezeGroup n margin f) = fixedPart f := by
  simp [freezeGroup]
@[simp] theorem calibrateAll_fixed (meas f) : fixedPart (calibrateAll meas f).2 = fixedPart f := by
  simp [calibrateAll]
@[simp] theorem freezeLow_fixed (low meas f) : fixedPart (freezeLow low meas f) = fixedPart f := by
  simp [freezeLow]
@[simp] theorem stageThree_fixed (meas f) : fixedPart (stageThree meas f) = fixedPart f := by
  simp [stageThree]
@[simp] theorem loadRunning_fixed (f) : fixedPart (loadRunning f).2 = fixedPart f := by
  simp [loadRunning]
@[simp] theorem stageFour_fixed (f) : fixedPart (stageFour f) = fixedPart f := by
  simp [stageFour]
@[simp] theorem trainAll_fixed (late r f) : fixedPart (trainAll late r f).2 = fixedPart f := by
  simp [trainAll]
@[simp] theorem stageFive_fixed (late r f) : fixedPart (stageFive late r f) = fixedPart f := by
  unfold stageFive
  split
  · simp
  · split
    · simp
    · dsimp only
      split <;> simp
@[simp] theorem endStageSix_fixed (f) : fixedPart (endStageSix f) = fixedPart f := by
  unfold endStageSix
  dsimp only
  split <;> simp
@[simp] theorem stageSix_fixed (cleared f) : fixedPart (stageSix cleared f) = fixedPart f := by
  simp [stageSix]
@[simp] theorem reachReady_fixed (f) : fixedPart (reachReady f) = fixedPart f := by
  unfold reachReady
  split
  · simp
  · dsimp only
    split <;> simp
@[simp] theorem lateStage_fixed (sub f) : fixedPart (lateStage sub f) = fixedPart f := by
  unfold lateStage
  dsimp only
  split
  · simp
  · split <;> simp
@[simp] theorem stageLate_fixed (sub slots f) : fixedPart (stageLate sub slots f).2 = fixedPart f := by
  simp [stageLate]
@[simp] theorem saveNext_fixed (f) : fixedPart (saveNext f) = fixedPart f := by
  unfold saveNext
  split <;> simp
@[simp] theorem finishSave_fixed (status f) : fixedPart (finishSave status f) = fixedPart f := by
  unfold finishSave
  split <;> simp
@[simp] theorem endOwn_fixed (z f) : fixedPart (endOwn z f) = fixedPart f := by
  simp [endOwn]
@[simp] theorem finishZero_fixed (f) : fixedPart (finishZero f) = fixedPart f := by
  unfold finishZero
  dsimp only
  split <;> simp

/-! ### Thermal -/

@[simp] theorem stepTime_fixed (i f) : fixedPart (stepTime i f) = fixedPart f := by
  simp [stepTime]
@[simp] theorem stepRails_fixed (h f) : fixedPart (stepRails h f) = fixedPart f := by
  simp [stepRails]
@[simp] theorem rateCheck_fixed (f n) : fixedPart (rateCheck f n) = fixedPart f := by
  simp [rateCheck]
@[simp] theorem stepRate_fixed (i f) : fixedPart (stepRate i f) = fixedPart f := by
  simp [stepRate]
@[simp] theorem stepDiode_fixed (h f) : fixedPart (stepDiode h f) = fixedPart f := by
  simp [stepDiode]
@[simp] theorem readMargin_fixed (h f n) : fixedPart (readMargin h f n) = fixedPart f := by
  simp [readMargin]
@[simp] theorem watchGroup_fixed (f n) : fixedPart (watchGroup f n) = fixedPart f := by
  simp [watchGroup]
@[simp] theorem stepCanaries_fixed (h f) : fixedPart (stepCanaries h f) = fixedPart f := by
  simp [stepCanaries]
@[simp] theorem anchorGroup_fixed (i f n) : fixedPart (anchorGroup i f n) = fixedPart f := by
  unfold anchorGroup
  split <;> simp
@[simp] theorem stepProxy_fixed (i f) : fixedPart (stepProxy i f) = fixedPart f := by
  simp [stepProxy]
@[simp] theorem setLevel_fixed (l f) : fixedPart (setLevel l f) = fixedPart f := by
  simp [setLevel]
@[simp] theorem setShutdown_fixed (t valid f) : fixedPart (setShutdown t valid f) = fixedPart f := by
  unfold setShutdown
  split <;> simp
@[simp] theorem stepThrottle_fixed (f) : fixedPart (stepThrottle f) = fixedPart f := by
  simp [stepThrottle]
@[simp] theorem stepSaves_fixed (f) : fixedPart (stepSaves f) = fixedPart f := by
  unfold stepSaves
  split <;> simp
@[simp] theorem watchLane_fixed (h f i) : fixedPart (watchLane h f i) = fixedPart f := by
  unfold watchLane
  dsimp only
  split
  · simp
  · split <;> simp
@[simp] theorem stepEyes_fixed (h f) : fixedPart (stepEyes h f) = fixedPart f := by
  simp [stepEyes]
@[simp] theorem stepEdges_fixed (i f) : fixedPart (stepEdges i f) = fixedPart f := by
  simp [stepEdges]
@[simp] theorem stepTimers_fixed (f) : fixedPart (stepTimers f) = fixedPart f := by
  simp [stepTimers]
@[simp] theorem endRound_fixed (f) : fixedPart (endRound f) = fixedPart f := by
  simp [endRound]
@[simp] theorem retainRound_fixed (i h f) : fixedPart (retainRound i h f) = fixedPart f := by
  simp [retainRound]
@[simp] theorem wholeRound_fixed (i h f) : fixedPart (wholeRound i h f) = fixedPart f := by
  simp [wholeRound]
@[simp] theorem runRound_fixed (backstop h f) : fixedPart (runRound backstop h f) = fixedPart f := by
  simp [runRound]
@[simp] theorem collapseGroup_fixed (n f) : fixedPart (collapseGroup n f) = fixedPart f := by
  simp [collapseGroup]

/-! ### Entries -/

@[simp] theorem setSelectors_fixed (p v f) : fixedPart (setSelectors p v f) = fixedPart f := by
  unfold setSelectors
  split <;> simp
@[simp] theorem useSelectors_fixed (p f) : fixedPart (useSelectors p f) = fixedPart f := by
  simp [useSelectors]
@[simp] theorem readResidency_fixed (p touch f) : fixedPart (readResidency p touch f).2.2 = fixedPart f := by
  unfold readResidency
  dsimp only
  split <;> simp
@[simp] theorem readStates_fixed (b y f) : fixedPart (readStates b y f).2 = fixedPart f := by
  simp [readStates]
@[simp] theorem readValue_fixed (p slots x y f) : fixedPart (readValue p slots x y f).2.2 = fixedPart f := by
  unfold readValue
  split
  · simp
  · split
    · simp
    · split <;> simp
@[simp] theorem readEntryAt_fixed (p slots x y f) : fixedPart (readEntryAt p slots x y f).2.2 = fixedPart f := by
  unfold readEntryAt
  dsimp only
  split
  · simp
  · split <;> simp

/-! ### Writes -/

@[simp] theorem inRange_fixed (ok g f) (h : ∀ f, fixedPart (g f) = fixedPart f) : fixedPart (inRange ok g f).2 = fixedPart f := by
  simp [inRange, h]
@[simp] theorem writeAlloc_fixed (b v f) : fixedPart (writeAlloc b v f).2 = fixedPart f := by
  simp [writeAlloc]
@[simp] theorem freeBank_fixed (b f) : fixedPart (freeBank b f) = fixedPart f := by
  simp [freeBank]
@[simp] theorem writeMask_fixed (v f) : fixedPart (writeMask v f) = fixedPart f := by
  simp [writeMask]
@[simp] theorem writeRetireAt_fixed (v f) : fixedPart (writeRetireAt v f) = fixedPart f := by
  simp [writeRetireAt]
@[simp] theorem writeBank_fixed (x y v f) : fixedPart (writeBank x y v f).2 = fixedPart f := by
  simp [writeBank]
@[simp] theorem writeFreeze_fixed (p v f) : fixedPart (writeFreeze p v f) = fixedPart f := by
  unfold writeFreeze
  split <;> simp
@[simp] theorem writeSeed_fixed (p v f) : fixedPart (writeSeed p v f) = fixedPart f := by
  simp [writeSeed]
@[simp] theorem writePort_fixed (p y v f) : fixedPart (writePort p y v f).2 = fixedPart f := by
  unfold writePort
  split <;> simp
@[simp] theorem writeLevel_fixed (q v f) : fixedPart (writeLevel q v f) = fixedPart f := by
  simp [writeLevel]
@[simp] theorem writeQueue_fixed (q y v f) : fixedPart (writeQueue q y v f).2 = fixedPart f := by
  unfold writeQueue
  split <;> simp
@[simp] theorem writeGroup_fixed (c g v f) : fixedPart (writeGroup c g v f).2 = fixedPart f := by
  unfold writeGroup
  dsimp only
  split
  · rfl
  · split
    · rfl
    · simp
@[simp] theorem writePorts_fixed (x y v f) : fixedPart (writePorts x y v f).2 = fixedPart f := by
  simp [writePorts]
theorem writeSlot_fixed (copy p k v slots f) : fixedPart (writeSlot copy p k v slots f).2.2 = fixedPart f := by
  simp [writeSlot]
@[simp] theorem writeRoute_fixed (package v f) : fixedPart (writeRoute package v f).2 = fixedPart f := by
  simp [writeRoute]
@[simp] theorem writeEye_fixed (y v f) : fixedPart (writeEye y v f).2 = fixedPart f := by
  simp [writeEye]
@[simp] theorem writeLinks_fixed (x y v f) : fixedPart (writeLinks x y v f).2 = fixedPart f := by
  unfold writeLinks
  split
  · split <;> simp
  · simp
@[simp] theorem writeMap_fixed (p x y v f) : fixedPart (writeMap p x y v f).2 = fixedPart f := by
  simp [writeMap]
@[simp] theorem clearAll_fixed (f) : fixedPart (clearAll f) = fixedPart f := by
  simp [clearAll]
@[simp] theorem writeCount_fixed (x y v f) : fixedPart (writeCount x y v f).2 = fixedPart f := by
  simp [writeCount]
@[simp] theorem writeSec_fixed (p x y v f) : fixedPart (writeSec p x y v f).2 = fixedPart f := by
  simp [writeSec]
@[simp] theorem writeStart_fixed (x y v f) : fixedPart (writeStart x y v f).2 = fixedPart f := by
  simp [writeStart]
@[simp] theorem writeEvents_fixed (y v f) : fixedPart (writeEvents y v f).2 = fixedPart f := by
  unfold writeEvents
  dsimp only
  split <;> simp
theorem applyWrite_fixed (p x y v slots f) : fixedPart (applyWrite p x y v slots f).2.2 = fixedPart f := by
  simp [applyWrite, writeSlot_fixed]
@[simp] theorem writeEntryAt_fixed (p x y n v slots f) : fixedPart (writeEntryAt p x y n v slots f).2.2 = fixedPart f := by
  simp [writeEntryAt, applyWrite_fixed]

/-! ### Dictionary -/

@[simp] theorem openAccess_fixed (path data f) : fixedPart (openAccess path data f) = fixedPart f := by
  simp [openAccess]
@[simp] theorem respond_fixed (m status cnt handle payload f) : fixedPart (respond m status cnt handle payload f) = fixedPart f := by
  simp [respond]
@[simp] theorem runRead_fixed (m w) : fixedPart (runRead m w).2 = fixedPart w.2 := by
  simp [runRead]
@[simp] theorem blockRead_fixed (p slots x n y room f) : fixedPart (blockRead p slots x n y room f).2.2 = fixedPart f := by
  induction n generalizing y room f with
  | zero => rfl
  | succ n ih => simp [blockRead, ih]
@[simp] theorem runReadBlock_fixed (m w) : fixedPart (runReadBlock m w).2 = fixedPart w.2 := by
  simp [runReadBlock]
@[simp] theorem runWrite_fixed (m w) : fixedPart (runWrite m w).2 = fixedPart w.2 := by
  unfold runWrite
  dsimp only
  split
  · split <;> simp
  · simp
@[simp] theorem startLong_fixed (opcode a h f) : fixedPart (startLong opcode a h f) = fixedPart f := by
  unfold startLong
  dsimp only
  split <;> simp
@[simp] theorem noteCommand_fixed (m h f) : fixedPart (noteCommand m h f) = fixedPart f := by
  simp [noteCommand]
@[simp] theorem runCommand_fixed (m f) : fixedPart (runCommand m f) = fixedPart f := by
  unfold runCommand
  dsimp only
  split
  · simp
  · split
    · simp
    · split <;> simp
@[simp] theorem runPoll_fixed (m f) : fixedPart (runPoll m f) = fixedPart f := by
  simp [runPoll]
@[simp] theorem runSubscribe_fixed (m f) : fixedPart (runSubscribe m f) = fixedPart f := by
  unfold runSubscribe
  split
  · simp
  · split
    · simp
    · split <;> simp
@[simp] theorem runMessage_fixed (m w) : fixedPart (runMessage m w).2 = fixedPart w.2 := by
  unfold runMessage
  split
  · simp
  · split <;> simp
@[simp] theorem refuseMessage_fixed (m w) : fixedPart (refuseMessage m w).2 = fixedPart w.2 := by
  simp [refuseMessage]
@[simp] theorem noteRefused_fixed (status x y f) : fixedPart (noteRefused status x y f) = fixedPart f := by
  simp [noteRefused]
@[simp] theorem runMirrorRead_fixed (a wide w) : fixedPart (runMirrorRead a wide w).2 = fixedPart w.2 := by
  unfold runMirrorRead
  dsimp only
  split
  · split
    · simp
    · split
      · simp
      · split
        · simp
        · split
          · simp
          · split <;> simp
  · split
    · simp
    · split
      · simp
      · split
        · simp
        · split
          · simp
          · split <;> simp
@[simp] theorem mirrorPut_fixed (x y n v w) : fixedPart (mirrorPut x y n v w).2 = fixedPart w.2 := by
  simp [mirrorPut]
@[simp] theorem runMirrorWrite_fixed (a wide data w) : fixedPart (runMirrorWrite a wide data w).2 = fixedPart w.2 := by
  simp [runMirrorWrite]
@[simp] theorem blockDone_fixed (status handle f) : fixedPart (blockDone status handle f) = fixedPart f := by
  simp [blockDone]
@[simp] theorem blockData_fixed (l f) : fixedPart (blockData l f) = fixedPart f := by
  simp [blockData]
@[simp] theorem blockReadOne_fixed (x y w) : fixedPart (blockReadOne x y w).2 = fixedPart w.2 := by
  simp [blockReadOne]
@[simp] theorem blockWrite_fixed (x y n w) : fixedPart (blockWrite x y n w).2 = fixedPart w.2 := by
  unfold blockWrite
  split
  · simp
  · simp
@[simp] theorem blockReadMany_fixed (x y n w) : fixedPart (blockReadMany x y n w).2 = fixedPart w.2 := by
  simp [blockReadMany]
@[simp] theorem blockCommand_fixed (x y n f) : fixedPart (blockCommand x y n f) = fixedPart f := by
  unfold blockCommand
  dsimp only
  split
  · simp
  · split <;> simp
@[simp] theorem runBlock_fixed (w) : fixedPart (runBlock w).2 = fixedPart w.2 := by
  unfold runBlock
  dsimp only
  split <;> simp
@[simp] theorem runRequest_fixed (r w) : fixedPart (runRequest r w).2 = fixedPart w.2 := by
  unfold runRequest
  dsimp only
  split <;> simp
@[simp] theorem serve_fixed (n w) : fixedPart (serve n w).2 = fixedPart w.2 := by
  induction n generalizing w with
  | zero => rfl
  | succ n ih =>
    unfold serve
    split
    · rfl
    · split <;> simp [ih]
@[simp] theorem serveAll_fixed (w) : fixedPart (serveAll w).2 = fixedPart w.2 := by
  simp [serveAll]
@[simp] theorem arrive_fixed (r w) : fixedPart (arrive r w).2 = fixedPart w.2 := by
  simp [arrive]
@[simp] theorem arriveMessage_fixed (op m w) : fixedPart (arriveMessage op m w).2 = fixedPart w.2 := by
  simp [arriveMessage]
@[simp] theorem putWindow_fixed (o v w) : fixedPart (putWindow o v w).2 = fixedPart w.2 := by
  simp [putWindow]
@[simp] theorem windowRead_fixed (addr wide w) : fixedPart (windowRead addr wide w).2 = fixedPart w.2 := by
  simp [windowRead]
@[simp] theorem windowWrite_fixed (addr wide data w) : fixedPart (windowWrite addr wide data w).2 = fixedPart w.2 := by
  simp [windowWrite]
@[simp] theorem hostAccess_fixed (p a w f) : fixedPart (hostAccess p a w f) = fixedPart f := by
  unfold hostAccess
  split
  · simp
  · simp
  · split
    · simp
    · dsimp only
      split <;> simp
  · simp
@[simp] theorem hostBeat_fixed (n write w x) : fixedPart (hostBeat n write w x).2 = fixedPart x.2 := by
  unfold hostBeat
  dsimp only
  split
  · simp
  · split
    · simp
    · split <;> simp
@[simp] theorem accessLate_fixed (w) : fixedPart (accessLate w).2 = fixedPart w.2 := by
  unfold accessLate
  split <;> simp
@[simp] theorem sendEvents_fixed (f) : fixedPart (sendEvents f) = fixedPart f := by
  unfold sendEvents
  split <;> simp
@[simp] theorem readTouch_fixed (eid slots f) : fixedPart (readTouch eid slots f) = fixedPart f := by
  simp [readTouch]

/-! ### Isolation -/

@[simp] theorem serveInput_fixed (w c) : fixedPart (serveInput w c).2 = fixedPart w.2 := by
  unfold serveInput
  split <;> simp
@[simp] theorem serveInputs_fixed (w) : fixedPart (serveInputs w).2 = fixedPart w.2 := by
  suffices h : ∀ (l : List Instr) (w : Whole), fixedPart (l.foldl serveInput w).2 = fixedPart w.2 by simp [serveInputs, h]
  intro l
  induction l with
  | nil => intro w; rfl
  | cons c l ih => intro w; rw [List.foldl_cons, ih, serveInput_fixed]

/-! ### Wrapper -/

@[simp] theorem loadWir_fixed (v w) : fixedPart (loadWir v w).2 = fixedPart w.2 := by
  simp [loadWir]
@[simp] theorem withWir_fixed (v g w) (h : ∀ f, fixedPart (g f) = fixedPart f) : fixedPart (withWir v g w).2 = fixedPart w.2 := by
  simp [withWir, h]
@[simp] theorem extest_fixed (f) : fixedPart (extest f) = fixedPart f := by
  simp [extest]
@[simp] theorem scanStages_fixed (f) : fixedPart (scanStages f) = fixedPart f := by
  simp [scanStages]
@[simp] theorem jtagAccess_fixed (f) : fixedPart (jtagAccess f) = fixedPart f := by
  unfold jtagAccess
  split <;> simp

end Sys2Proof.Machine
end

section
/-!
SUPPORT. What every command's answer keeps, when it stops, and where it does nothing (R9, R370, R385, R387, R390); then obligation
O56.
-/

namespace Sys2Proof.Machine

/-- What every answer of a command keeps: the waiting commands, the fixed part and, but for a command that may write them, the slot
tables. -/
def KeepsFixed (writes : Bool) (s : State) (r : Host.Outcome State Fault Refusal) : Prop :=
  ∀ t, r = .next t → t.pending = s.pending ∧ fixedPart t.fab = fixedPart s.fab ∧ (writes = false → t.slots = s.slots)

theorem onFab_keeps {writes : Bool} {s : State} {u : Supply} {g : Tbl (BitVec 16) → Fab → Fab}
    (h : ∀ slots f, fixedPart (g slots f) = fixedPart f) : KeepsFixed writes s (onFab u s g) := by
  intro t ht
  obtain ⟨-, hslots, hpend, hf | hf⟩ := onFab_answers ht
  · exact ⟨hpend, by rw [hf, h], fun _ => hslots⟩
  · exact ⟨hpend, by rw [hf], fun _ => hslots⟩

theorem onAll_keeps {writes : Bool} {s : State} {u : Supply} {g : Tbl (BitVec 16) → Fab → Tbl (BitVec 16) × Fab}
    (h : ∀ slots f, fixedPart (g slots f).2 = fixedPart f) (hw : writes = false → ∀ slots f, (g slots f).1 = slots) :
    KeepsFixed writes s (onAll u s g) := by
  intro t ht
  obtain ⟨-, hpend, ⟨hslots, hf⟩ | ⟨hslots, hf⟩⟩ := onAll_answers ht
  · exact ⟨hpend, by rw [hf, h], fun hn => by rw [hslots, hw hn]⟩
  · exact ⟨hpend, by rw [hf], fun _ => hslots⟩

/-- A command that may write the slot tables has only the fixed part to keep. -/
theorem onAll_keeps_fixed {s : State} {u : Supply} {g : Tbl (BitVec 16) → Fab → Tbl (BitVec 16) × Fab}
    (h : ∀ slots f, fixedPart (g slots f).2 = fixedPart f) : KeepsFixed true s (onAll u s g) :=
  onAll_keeps h (fun hn => by cases hn)

theorem onPower_keeps {writes : Bool} {s : State} {g : Tbl (BitVec 16) → Fab → Tbl (BitVec 16) × Fab}
    (h : ∀ slots f, fixedPart (g slots f).2 = fixedPart f) (hw : writes = false → ∀ slots f, (g slots f).1 = slots) :
    KeepsFixed writes s (onPower s g) := by
  intro t ht
  cases ht
  exact ⟨rfl, h .., fun hn => hw hn ..⟩

theorem onPin_keeps {writes : Bool} {c : Instr} {s : State} {r : Host.Outcome State Fault Refusal} (h : KeepsFixed writes s r) :
    KeepsFixed writes s (onPin c s r) := by
  unfold onPin
  split
  · intro t ht
    cases ht
    exact ⟨rfl, holdInput_fixed .., fun _ => rfl⟩
  · exact h

/-- The index is not that of a slot table: those of copies A and B of every port (R90, R91). -/
def notSlotTable (x : Nat) : Bool := !within x 0x4200 32 && !within x 0x4240 32

theorem applyWrite_slots {x : Nat} (h : notSlotTable x = true) (p : Path) (y v : Nat) (slots : Tbl (BitVec 16)) (f : Fab) :
    (applyWrite p x y v slots f).2.1 = slots := by
  simp only [notSlotTable, Bool.and_eq_true, Bool.not_eq_true'] at h
  simp [applyWrite, h.1, h.2, apply_ite Prod.fst]

/-- A write of an entry that is not of a slot table leaves the slot tables. -/
theorem writeEntryAt_slots {x : Nat} (h : notSlotTable x = true) (p : Path) (y n v : Nat) (slots : Tbl (BitVec 16)) (f : Fab) :
    (writeEntryAt p x y n v slots f).2.1 = slots := by
  simp [writeEntryAt, apply_ite Prod.fst, applyWrite_slots h]

theorem byEntry_keeps {writes : Bool} {s : State} {x y v : Nat} (h : writes = false → notSlotTable x = true) :
    KeepsFixed writes s (byEntry x y v s) :=
  onAll_keeps (fun slots f => by simp) (fun hn slots f => writeEntryAt_slots (h hn) ..)

theorem notSlotTable_of {x : Nat} (h : x < 0x4200 ∨ 0x4260 ≤ x) : notSlotTable x = true := by
  simp [notSlotTable, within]
  omega

theorem isCounter_ge {x y : Nat} (h : isCounter x y = true) : 0x8100 ≤ x := by
  by_contra hx
  simp [isCounter, within, show ¬ 0x8100 ≤ x by omega, show ¬ 0x8140 ≤ x by omega, show ¬ 0x8200 ≤ x by omega,
    show ¬ 0x8300 ≤ x by omega, show ¬ 0x8310 ≤ x by omega, show ¬ 0x8320 ≤ x by omega, show ¬ x = 0x8400 by omega,
    show ¬ 0x8500 ≤ x by omega] at h

/-- Every answer of every command keeps the waiting commands, the fixed part and, unless it may write them, the slot tables. -/
theorem exec_keeps (c : Instr) (s : State) : KeepsFixed (mayWriteSlots c) s (exec c s) := by
  unfold exec
  cases c with
  | railLoss goods => exact onPower_keeps (fun _ f => by simp) (fun _ _ _ => by rfl)
  | powerGood sec => exact onPower_keeps (fun slots f => by simp) (fun hn => by cases hn)
  | descriptorIntake q d => exact onPin_keeps (onFab_keeps fun _ f => by simp)
  | returnQuarterRow c quarter trow d => exact onPin_keeps (onFab_keeps fun _ f => by simp)
  | readData k h d => exact onPin_keeps (onFab_keeps fun _ f => by simp)
  | callData k h d => exact onPin_keeps (onFab_keeps fun _ f => by simp)
  | writeAck k h => exact onPin_keeps (onFab_keeps fun _ f => by simp)
  | progress k h => exact onPin_keeps (onFab_keeps fun _ f => by simp)
  | fault k h => exact onPin_keeps (onFab_keeps fun _ f => by simp)
  | cancelAck k h => exact onPin_keeps (onFab_keeps fun _ f => by simp)
  | credit k h => exact onPin_keeps (onFab_keeps fun _ f => by simp)
  | mirrorRead addr wide => exact onPin_keeps (onAll_keeps_fixed fun slots f => by simp)
  | mirrorWrite addr wide data => exact onPin_keeps (onAll_keeps_fixed fun slots f => by simp)
  | rowDataRead n w => exact onAll_keeps_fixed fun slots f => by simp
  | rowDataWrite n w => exact onAll_keeps_fixed fun slots f => by simp
  | windowAccessTimeout => exact onAll_keeps_fixed fun slots f => by simp
  | pwrOffAck => exact onAll_keeps_fixed fun slots f => by simp
  | stageTimeout sub => exact onAll_keeps_fixed fun slots f => by simp
  | bypass => exact onAll_keeps_fixed fun slots f => by simp
  | identity => exact onAll_keeps_fixed fun slots f => by simp
  | extest => exact onAll_keeps_fixed fun slots f => by simp
  | intestScan => exact onAll_keeps_fixed fun slots f => by simp
  | ijtag => exact onAll_keeps_fixed fun slots f => by simp
  | read m => exact onAll_keeps_fixed fun slots f => by simp
  | write m => exact onAll_keeps_fixed fun slots f => by simp
  | readBlock m => exact onAll_keeps_fixed fun slots f => by simp
  | command m => exact onAll_keeps_fixed fun slots f => by simp
  | poll m => exact onAll_keeps_fixed fun slots f => by simp
  | subscribe m => exact onAll_keeps_fixed fun slots f => by simp
  | slotEntryWrite copy p k v => exact byEntry_keeps fun hn => by cases hn
  | lfsrSeed p v => exact byEntry_keeps fun _ => notSlotTable_of (by omega)
  | epgroupWrite c g v => exact byEntry_keeps fun _ => notSlotTable_of (by omega)
  | routeWrite package v => exact byEntry_keeps fun _ => notSlotTable_of (by omega)
  | allocWrite b v => exact byEntry_keeps fun _ => notSlotTable_of (by omega)
  | arbLevelWrite q v => exact byEntry_keeps fun _ => notSlotTable_of (by omega)
  | retiredMaskWrite v => exact byEntry_keeps fun _ => notSlotTable_of (by omega)
  | retireThresholdWrite v => exact byEntry_keeps fun _ => notSlotTable_of (by omega)
  | stallBoundWrite v => exact byEntry_keeps fun _ => notSlotTable_of (by omega)
  | counterClearAll => exact byEntry_keeps fun _ => notSlotTable_of (by omega)
  | failedStartsClear => exact byEntry_keeps fun _ => notSlotTable_of (by omega)
  | failHistoryClear i => exact byEntry_keeps fun _ => notSlotTable_of (by omega)
  | fawnThresholdWrite v => exact byEntry_keeps fun _ => notSlotTable_of (by omega)
  | counterClear index sub =>
    show KeepsFixed _ s (execCounterClear index sub s)
    unfold execCounterClear
    split
    · next h => exact byEntry_keeps fun _ => notSlotTable_of (by have := isCounter_ge h; omega)
    · exact byEntry_keeps fun _ => notSlotTable_of (by omega)
  | thresholdWrite index sub v =>
    show KeepsFixed _ s (execThresholdWrite index sub v s)
    unfold execThresholdWrite
    split
    · next h => exact byEntry_keeps fun _ => notSlotTable_of (by have := isCounter_ge h; omega)
    · exact byEntry_keeps fun _ => notSlotTable_of (by omega)
  | _ => exact onFab_keeps fun slots f => by simp

/-- A command's answer as the rails and the wrapper leave it: the fault of R9 while a rail is outside its limits (log 2) and else a
next state, the same one where the fabric is in OFF or scanned and the command is `quiet` there (log 3). -/
def Governed (quiet : Prop) (s : State) (r : Host.Outcome State Fault Refusal) : Prop :=
  (s.fab.pwr.excursion = true → r = .fault .outsideLimits) ∧
  (s.fab.pwr.excursion = false → alive .ret s.fab = false → quiet → r = .next s) ∧
  (s.fab.pwr.excursion = false → ∃ t, r = .next t)

/-- Where not even the interfaces of RETAIN are alive, none that needs a supply is (R370). -/
theorem alive_eq_false {u : Supply} {f : Fab} (hu : u ≠ .off) (h : alive .ret f = false) : alive u f = false := by
  cases u with
  | main =>
    by_contra hm
    have hm := eq_true_of_ne_false hm
    simp only [alive, Bool.and_eq_true, decide_eq_true_eq, bne_iff_ne] at hm
    obtain ⟨⟨⟨⟨hst, -⟩, -⟩, he⟩, hi⟩ := hm
    have h3 : f.pwr.st = 3 := by simpa [alive, he, hi] using h
    simp [h3] at hst
  | ret => exact h
  | off => exact absurd rfl hu

theorem onFab_next {s : State} {u : Supply} {g : Tbl (BitVec 16) → Fab → Fab} (h : s.fab.pwr.excursion = false) :
    ∃ t, onFab u s g = .next t := by
  unfold onFab
  rw [if_neg (by simp [h])]
  split <;> exact ⟨_, rfl⟩

theorem onAll_next {s : State} {u : Supply} {g : Tbl (BitVec 16) → Fab → Tbl (BitVec 16) × Fab} (h : s.fab.pwr.excursion = false) :
    ∃ t, onAll u s g = .next t := by
  unfold onAll
  rw [if_neg (by simp [h])]
  split <;> exact ⟨_, rfl⟩

theorem onFab_governed {quiet : Prop} {s : State} {u : Supply} {g : Tbl (BitVec 16) → Fab → Fab} (hu : u ≠ .off) :
    Governed quiet s (onFab u s g) :=
  ⟨fun h => onFab_outside h g, fun hx h _ => onFab_dead hx (alive_eq_false hu h) g, onFab_next⟩

/-- An effect of an interface that needs no supply is to be nothing where the command is quiet. -/
theorem onAll_governed {quiet : Prop} {s : State} {u : Supply} {g : Tbl (BitVec 16) → Fab → Tbl (BitVec 16) × Fab}
    (hu : u = .off → alive .ret s.fab = false → quiet → g s.slots s.fab = (s.slots, s.fab)) : Governed quiet s (onAll u s g) := by
  refine ⟨fun h => by simp [onAll, h], fun hx h hq => ?_, onAll_next⟩
  by_cases ho : u = .off
  · simpa [onAll, hu ho h hq] using hx
  · simp [onAll, hx, alive_eq_false ho h]

theorem onAll_governed_supplied {quiet : Prop} {s : State} {u : Supply} {g : Tbl (BitVec 16) → Fab → Tbl (BitVec 16) × Fab}
    (hu : u ≠ .off) : Governed quiet s (onAll u s g) :=
  onAll_governed fun ho => absurd ho hu

theorem byEntry_governed {quiet : Prop} {s : State} {x y v : Nat} : Governed quiet s (byEntry x y v s) :=
  onAll_governed_supplied (by decide)

/-- The isolated inputs of RETAIN hold nothing outside the limits, in OFF or scanned (R385). -/
theorem onPin_governed {quiet : Prop} {c : Instr} {s : State} {r : Host.Outcome State Fault Refusal} (h : Governed quiet s r) :
    Governed quiet s (onPin c s r) := by
  obtain ⟨hfault, hquiet, hnext⟩ := h
  refine ⟨fun hx => ?_, fun hx hd hq => ?_, fun hx => ?_⟩
  · simp [onPin, isolating, hx, hfault hx]
  · have hi : isolating s.fab = false := by
      by_contra hi
      have hi := eq_true_of_ne_false hi
      simp only [isolating, Bool.and_eq_true, beq_iff_eq, bne_iff_ne] at hi
      obtain ⟨⟨⟨hst, -⟩, he⟩, hn⟩ := hi
      simp [alive, hst, he, hn] at hd
    simp [onPin, hi, hquiet hx hd hq]
  · unfold onPin
    split
    · exact ⟨_, rfl⟩
    · exact hnext hx

/-- The command changes nothing in OFF or while the fabric is scanned: neither the wrapper's, nor the end of stage 1's time but while
it is scanned (R387, R390, log 3). -/
def quietOff (c : Instr) (f : Fab) : Prop :=
  wrapperOf c = none ∧ ((∀ n, c ≠ .stageTimeout n) ∨ f.wir = .extest ∨ f.wir = .intestScan)

theorem wrapper_governed {c : Instr} {w : Wrapper} {s : State} {g : Tbl (BitVec 16) → Fab → Tbl (BitVec 16) × Fab}
    (h : wrapperOf c = some w) : Governed (quietOff c s.fab) s (onAll .off s g) :=
  onAll_governed fun _ _ hq => by simp [hq.1] at h

theorem stageLate_scanned {sub : Nat} {slots : Tbl (BitVec 16)} {f : Fab} (h : f.wir = .extest ∨ f.wir = .intestScan) :
    stageLate sub slots f = (slots, f) := by
  simp [stageLate, h]

/-- Every command but the rails' own stops outside the limits, and in OFF or scanned a quiet one changes nothing. -/
theorem exec_governed (c : Instr) (s : State) (hr : ∀ g, c ≠ .railLoss g) (hp : ∀ v, c ≠ .powerGood v) :
    Governed (quietOff c s.fab) s (exec c s) := by
  unfold exec
  cases c with
  | railLoss goods => exact absurd rfl (hr goods)
  | powerGood sec => exact absurd rfl (hp sec)
  | descriptorIntake q d => exact onPin_governed (onFab_governed (by decide))
  | returnQuarterRow c quarter trow d => exact onPin_governed (onFab_governed (by decide))
  | readData k h d => exact onPin_governed (onFab_governed (by decide))
  | callData k h d => exact onPin_governed (onFab_governed (by decide))
  | writeAck k h => exact onPin_governed (onFab_governed (by decide))
  | progress k h => exact onPin_governed (onFab_governed (by decide))
  | fault k h => exact onPin_governed (onFab_governed (by decide))
  | cancelAck k h => exact onPin_governed (onFab_governed (by decide))
  | credit k h => exact onPin_governed (onFab_governed (by decide))
  | mirrorRead addr wide => exact onPin_governed (onAll_governed_supplied (by decide))
  | mirrorWrite addr wide data => exact onPin_governed (onAll_governed_supplied (by decide))
  | rowDataRead n w => exact onAll_governed_supplied (by decide)
  | rowDataWrite n w => exact onAll_governed_supplied (by decide)
  | windowAccessTimeout => exact onAll_governed_supplied (by decide)
  | pwrOffAck => exact onAll_governed_supplied (by decide)
  | stageTimeout sub =>
    exact onAll_governed fun _ _ hq => stageLate_scanned (hq.2.resolve_left fun hn => absurd rfl (hn sub))
  | bypass => exact wrapper_governed rfl
  | identity => exact wrapper_governed rfl
  | extest => exact wrapper_governed rfl
  | intestScan => exact wrapper_governed rfl
  | ijtag => exact wrapper_governed rfl
  | read m => exact onAll_governed_supplied (by decide)
  | write m => exact onAll_governed_supplied (by decide)
  | readBlock m => exact onAll_governed_supplied (by decide)
  | command m => exact onAll_governed_supplied (by decide)
  | poll m => exact onAll_governed_supplied (by decide)
  | subscribe m => exact onAll_governed_supplied (by decide)
  | slotEntryWrite copy p k v => exact byEntry_governed
  | lfsrSeed p v => exact byEntry_governed
  | epgroupWrite c g v => exact byEntry_governed
  | routeWrite package v => exact byEntry_governed
  | allocWrite b v => exact byEntry_governed
  | arbLevelWrite q v => exact byEntry_governed
  | retiredMaskWrite v => exact byEntry_governed
  | retireThresholdWrite v => exact byEntry_governed
  | stallBoundWrite v => exact byEntry_governed
  | counterClearAll => exact byEntry_governed
  | failedStartsClear => exact byEntry_governed
  | failHistoryClear i => exact byEntry_governed
  | fawnThresholdWrite v => exact byEntry_governed
  | counterClear index sub =>
    show Governed _ s (execCounterClear index sub s)
    unfold execCounterClear
    split <;> exact byEntry_governed
  | thresholdWrite index sub v =>
    show Governed _ s (execThresholdWrite index sub v s)
    unfold execThresholdWrite
    split <;> exact byEntry_governed
  | _ => exact onFab_governed (by decide)

/-- The commands of the class-B channels into the MAIN interfaces wait at isolated inputs (R385). -/
theorem exec_isolated {c : Instr} {n : Nat} {s : State} (hc : channelOf c = some n) (hi : isolating s.fab = true) :
    exec c s = .next { s with fab := holdInput c s.fab } := by
  have held (r : Host.Outcome State Fault Refusal) : onPin c s r = .next { s with fab := holdInput c s.fab } := by
    simp [onPin, hi]
  unfold exec
  cases c with
  | descriptorIntake q d => exact held _
  | returnQuarterRow c quarter trow d => exact held _
  | readData k h d => exact held _
  | callData k h d => exact held _
  | writeAck k h => exact held _
  | progress k h => exact held _
  | fault k h => exact held _
  | cancelAck k h => exact held _
  | credit k h => exact held _
  | mirrorRead addr wide => exact held _
  | mirrorWrite addr wide data => exact held _
  | _ => cases hc

theorem isolating_of_retain {s : State} (hr : Runs .ret s) (hst : s.fab.pwr.st = 2) : isolating s.fab = true := by
  obtain ⟨hx, ha⟩ := hr
  simp only [alive, Bool.and_eq_true, bne_iff_ne] at ha
  obtain ⟨⟨-, he⟩, hn⟩ := ha
  simp [isolating, hst, show s.fab.pwr.excursion = false from hx, he, hn]

/-- A `REQ` rises on a channel whose input holds none (R385). -/
theorem holdInput_rises {c : Instr} {n : Nat} {f : Fab} (hc : channelOf c = some n) (h : ∀ x ∈ f.isolated, channelOf x ≠ some n) :
    holdInput c f = { f with isolated := f.isolated ++ [c] } := by
  unfold holdInput
  rw [if_neg]
  simpa [hc] using h

/-- A channel whose `REQ` is high brings no other (R371, R385). -/
theorem holdInput_stays {c : Instr} {n : Nat} {f : Fab} (hc : channelOf c = some n) (h : ∃ x ∈ f.isolated, channelOf x = some n) :
    holdInput c f = f := by
  unfold holdInput
  rw [if_pos]
  simpa [hc] using h

/-- Settles O56: the answers of a command by the interface that takes it, and the frame of every effect. -/
theorem everyCommandKeeps : Obligations.EveryCommandKeeps := by
  unfold Obligations.EveryCommandKeeps
  refine ⟨fun c s hr hp => ?_, fun c s t h => ?_, fun c n s hc hr hst => ⟨fun h => ?_, fun h => ?_⟩⟩
  · obtain ⟨hfault, hquiet, hnext⟩ := exec_governed c s hr hp
    exact ⟨hfault, fun hx hd hw hs => hquiet hx hd ⟨hw, hs⟩, hnext⟩
  · obtain ⟨hpending, hfixed, hslots⟩ := exec_keeps c s t h
    obtain ⟨hprm, hpins⟩ := Prod.mk.inj hfixed
    exact ⟨hpending, hprm, hpins, hslots⟩
  · rw [Gives, exec_isolated hc (isolating_of_retain hr hst), holdInput_rises hc h]
  · rw [Gives, exec_isolated hc (isolating_of_retain hr hst), holdInput_stays hc h]

end Sys2Proof.Machine
end

section
/-!
SUPPORT. What a decision whose first round is due reads and grants (R18, R89, R92, R96, R103, R228, R333): what the standing requests
leave alone, the rounds that each step of the order decides, and what a grant gives; then obligation O9.
-/

namespace Sys2Proof.Machine

/-- One occurrence counted at a port adds one to its counter (R292). -/
theorem countPort_one {p sub : Nat} (f : Fab) (hp : p < 32) (hs : sub < 256) :
    counterOf (countPort p sub 1 f) (0x8100 + p) sub = counterOf f (0x8100 + p) sub + 1 :=
  count_self _ _ _ _ (by unfold cKey; omega) (by unfold cKey; omega)

/-- Raising an event counts nothing at a port (R292, R321). -/
theorem raise_portCounter {p sub : Nat} (c x : Nat) (f : Fab) (hp : p < 32) (hs : sub < 256) :
    counterOf (raise c x f) (0x8100 + p) sub = counterOf f (0x8100 + p) sub :=
  raiseWith_counter _ _ _ _ _ (by unfold cKey; omega) (by unfold cKey; omega)

/-- Port p's standing requests may differ; everything else that a decision on it reads is the same. -/
def SameButReqs (p : Nat) (f g : Fab) : Prop :=
  g = { f with ports := g.ports } ∧ portOf g p = { portOf f p with reqs := (portOf g p).reqs }

theorem SameButReqs.refl (p : Nat) (f : Fab) : SameButReqs p f f := ⟨rfl, rfl⟩

theorem SameButReqs.trans {p : Nat} {f g h : Fab} (a : SameButReqs p f g) (b : SameButReqs p g h) : SameButReqs p f h := by
  obtain ⟨a1, a2⟩ := a
  obtain ⟨b1, b2⟩ := b
  refine ⟨?_, ?_⟩
  · rw [b1, a1]
  · rw [b2, a2]

theorem onPort_sameButReqs (p : Nat) (f : Fab) (k : Port → Tbl Req) :
    SameButReqs p f (onPort f p fun x => { x with reqs := k x }) := ⟨rfl, by simp⟩

theorem refreshReqs_sameButReqs (p : Nat) (f : Fab) : SameButReqs p f (refreshReqs p f) := ⟨rfl, by simp [refreshReqs]⟩

theorem tickGuards_sameButReqs (p : Nat) (f : Fab) : SameButReqs p f (tickGuards p f) := by
  unfold tickGuards
  split
  · exact .refl p f
  · exact onPort_sameButReqs ..

/-- The requests as a decision finds them differ from those before in port p's requests alone. -/
theorem standing_sameButReqs (p : Nat) (f : Fab) : SameButReqs p f (refreshReqs p (tickGuards p f)) :=
  (tickGuards_sameButReqs p f).trans (refreshReqs_sameButReqs p _)

section
variable {p : Nat} {f g : Fab}

theorem SameButReqs.queues_eq (h : SameButReqs p f g) : g.queues = f.queues := by rw [h.1]
theorem SameButReqs.store_eq (h : SameButReqs p f g) : g.store = f.store := by rw [h.1]
theorem SameButReqs.cnt_eq (h : SameButReqs p f g) : g.cnt = f.cnt := by rw [h.1]
theorem SameButReqs.th_eq (h : SameButReqs p f g) : g.th = f.th := by rw [h.1]
theorem SameButReqs.lop_eq (h : SameButReqs p f g) : g.lop = f.lop := by rw [h.1]
theorem SameButReqs.dilution_eq (h : SameButReqs p f g) : (portOf g p).dilution = (portOf f p).dilution := by rw [h.2]

theorem SameButReqs.counterOf_eq (h : SameButReqs p f g) (x y : Nat) : counterOf g x y = counterOf f x y := by
  rw [counterOf, h.cnt_eq, counterOf]

theorem SameButReqs.dilutionOf_eq (h : SameButReqs p f g) : dilutionOf g = dilutionOf f := by
  rw [dilutionOf, h.th_eq, dilutionOf]

theorem SameButReqs.forcedIdle_eq (h : SameButReqs p f g) : forcedIdle g p = forcedIdle f p := by
  rw [forcedIdle, h.dilutionOf_eq, h.dilution_eq, forcedIdle]

end

theorem zeroLeft_of_none {f : Fab} (h : f.lop.zero = none) (n : Nat) : zeroLeft f n = 0 := by
  simp [zeroLeft, h]

theorem beginZero_of_none {f : Fab} (h : f.lop.zero = none) : beginZero f = f := by
  simp [beginZero, h]

/-- Without a ZEROIZE a decision finds the requests as the round's count and their own standing leave them. -/
theorem refreshReqs_tickGuards_of_none {f : Fab} {p : Nat} (h : f.lop.zero = none) :
    refreshReqs p (beginZero (tickGuards p f)) = refreshReqs p (tickGuards p f) := by
  rw [beginZero_of_none (by rw [(tickGuards_sameButReqs p f).lop_eq, h])]

/-- Without a ZEROIZE a port runs rounds in ON alone (R18). -/
theorem on_of_portRuns {f : Fab} {p : Nat} (hz : f.lop.zero = none) (h : portRuns f p = true) : f.pwr.st = 0 := by
  have h : f.pwr.st = 0 ∧ bitAt f.sec.portHalt p = false := by simpa [portRuns, zeroLeft_of_none hz] using h
  exact h.1

/-- The decision of a port that has run no round yet begins the round it decides (R18, R95). -/
theorem decideNext_first (slots : Tbl (BitVec 16)) {p : Nat} {f : Fab} (hr : portRuns f p = true) (hst : f.pwr.st = 0)
    (hc : (portOf f p).cur = .idle) (hw : (portOf f p).wrapped = false) :
    decideNext slots p f =
      onPort (chooseRound slots p (portOf f p).round.toNat (portOf f p).rounds (tickGuards p f)).2 p fun x =>
        { x with cur := (chooseRound slots p (portOf f p).round.toNat (portOf f p).rounds (tickGuards p f)).1 } := by
  have hd : decisionDue f p = true := by simp [decisionDue, hr, hc]
  have hclose : closeRound p f = tickGuards p f := by simp [closeRound, hw, atBoundary, hc]
  simp [decideNext, hd, hst, hclose, hc]

/-! The order of R96, read on the requests that stand as the decision is made. -/

section
variable {slots : Tbl (BitVec 16)} {p k m : Nat} {f g : Fab}

/-- A forced-idle round takes N - 1 from the dilution count (R333). -/
theorem chooseRound_forced (hg : refreshReqs p (beginZero f) = g) (hf : bitAt g.th.frozen (p % 16) = false)
    (hi : forcedIdle g p = true) :
    chooseRound slots p k m f = (.empty, onPort g p fun x => { x with dilution := x.dilution - (dilutionOf g - 1) }) := by
  subst hg
  simp [chooseRound, hf, hi]

theorem chooseRound_still (hg : refreshReqs p (beginZero f) = g) (hf : bitAt g.th.frozen (p % 16) = false)
    (hi : forcedIdle g p = false) (hz : g.lop.zero = none) (hs : stillPort g p = true) :
    chooseRound slots p k m f = (.empty, g) := by
  subst hg
  simp [chooseRound, hf, hi, zeroLeft_of_none hz, hs]

variable (hg : refreshReqs p (beginZero f) = g) (hf : bitAt g.th.frozen (p % 16) = false) (hi : forcedIdle g p = false)
  (hz : g.lop.zero = none) (hs : stillPort g p = false) (hb : fallback g = false) (hj : injKind g ≠ 4)
include hg hf hi hz hs hb hj

/-- An entry of bad parity is an IDLE round, counted and told (R92). -/
theorem chooseRound_odd (ho : eOdd (activeSlot slots g p k) = true) :
    chooseRound slots p k m f =
      (.empty, raise 0x0A (place [(0, p), (8, k), (16, (activeSlot slots g p k).toNat)]) (countPort p 0x0E 1 g)) := by
  subst hg
  simp [chooseRound, hf, hi, zeroLeft_of_none hz, hs, hb, hj, when, ho]

theorem chooseRound_idle (ho : eOdd (activeSlot slots g p k) = false) (hk : eKind (activeSlot slots g p k) = 2) :
    chooseRound slots p k m f = (.empty, g) := by
  subst hg
  simp [chooseRound, hf, hi, zeroLeft_of_none hz, hs, hb, hj, when, ho, hk]

/-- A round with an owner that stands ready is the owner's (R96). -/
theorem chooseRound_owned {w : Nat} (ho : eOdd (activeSlot slots g p k) = false) (hk : eKind (activeSlot slots g p k) ≠ 2)
    (hw : ownerOf (activeSlot slots g p k) = some w) (hr : w ∈ readyOn g p) :
    chooseRound slots p k m f = grantTo p w .owned (eBurst (activeSlot slots g p k)) g := by
  subst hg
  simp [chooseRound, hf, hi, zeroLeft_of_none hz, hs, hb, hj, when, ho, hk, hw, hr]

/-- A FREE round goes first to a guarded requester (R96, R228). -/
theorem chooseRound_guarded {w : Nat} (ho : eOdd (activeSlot slots g p k) = false) (hk : eKind (activeSlot slots g p k) = 0)
    (hw : guardedOf g p (readyOn g p) = some w) :
    chooseRound slots p k m f = grantTo p w .guard (eBurst (activeSlot slots g p k)) g := by
  subst hg
  simp [chooseRound, hf, hi, zeroLeft_of_none hz, hs, hb, hj, when, ho, hk, ownerOf, hw]

end

/-- A grant to a requester that can move something is a burst of its, none of it moved, as long as R88 allows. -/
theorem grantTo_burst {p r : Nat} {how : Grant} {bm1 : Nat} {f : Fab} {v : Nat × Nat × Nat × Nat}
    (h : wantsOf (ahead p f) p r = some v) : ∃ b, (grantTo p r how bm1 f).1 = .burst b ∧ b.req = r ∧ b.grant = how ∧ b.moved = 0 ∧
      b.len = max 1 (min (bm1 + 1) (min (if r < 256 then (queueOf f r).maxBurst.toNat else 16) v.2.2.2)) := by
  simp only [grantTo, h]
  exact ⟨_, rfl, rfl, rfl, rfl, rfl⟩

/-- A standing put through a function counts nothing. -/
theorem onReq_counterOf (p r : Nat) (k : Req → Req) (f : Fab) (x y : Nat) : counterOf (onReq p r k f) x y = counterOf f x y := rfl

theorem grantTo_owned_count {p r : Nat} {bm1 : Nat} {f : Fab} {v : Nat × Nat × Nat × Nat} (hp : p < 32)
    (h : wantsOf (ahead p f) p r = some v) :
    counterOf (grantTo p r .owned bm1 f).2 (0x8100 + p) 2 = counterOf f (0x8100 + p) 2 + 1 := by
  simp only [grantTo, h, countPort_one _ hp (show 2 < 256 by decide), onReq_counterOf]

theorem grantTo_guard_count {p r : Nat} {bm1 : Nat} {f : Fab} {v : Nat × Nat × Nat × Nat} (hp : p < 32)
    (h : wantsOf (ahead p f) p r = some v) :
    counterOf (grantTo p r .guard bm1 f).2 (0x8100 + p) 0x0F = counterOf f (0x8100 + p) 0x0F + 1 := by
  simp only [grantTo, h, countPort_one _ hp (show 0x0F < 256 by decide), onReq_counterOf]

/-- A round decided as the port's first is the one that runs, over what the decision leaves. -/
theorem gives_firstRound {p : Fin 32} {s : State} {r : Round} {h : Fab} (hm : Runs .main s) (hr : portRuns s.fab p = true)
    (hc : (portOf s.fab p).cur = .idle) (hw : (portOf s.fab p).wrapped = false) (hz : s.fab.lop.zero = none)
    (hd : chooseRound s.slots p (portOf s.fab p).round.toNat (portOf s.fab p).rounds (tickGuards p s.fab) = (r, h)) :
    Gives (.roundDecision p) s (onPort h p fun x => { x with cur := r }) := by
  have := gives_of_onFab (c := .roundDecision p) (fun slots f => decideNext slots p f) hm rfl
  rwa [decideNext_first s.slots hr (on_of_portRuns hz hr) hc hw, hd] at this

/-- A first round granted to a requester that can move something is a burst of its that runs. -/
theorem gives_firstBurst {p : Fin 32} {s : State} {r bm1 : Nat} {how : Grant} {g : Fab} {v : Nat × Nat × Nat × Nat} (hm : Runs .main s)
    (hr : portRuns s.fab p = true) (hc : (portOf s.fab p).cur = .idle) (hw : (portOf s.fab p).wrapped = false)
    (hz : s.fab.lop.zero = none) (hv : wantsOf (ahead p g) p r = some v)
    (hd : chooseRound s.slots p (portOf s.fab p).round.toNat (portOf s.fab p).rounds (tickGuards p s.fab) = grantTo p r how bm1 g) :
    ∃ b, Gives (.roundDecision p) s (onPort (grantTo p r how bm1 g).2 p fun x => { x with cur := .burst b }) ∧ b.req = r ∧
      b.grant = how ∧ b.moved = 0 ∧
      b.len = max 1 (min (bm1 + 1) (min (if r < 256 then (queueOf g r).maxBurst.toNat else 16) v.2.2.2)) := by
  obtain ⟨b, hb, h⟩ := grantTo_burst (how := how) (bm1 := bm1) hv
  exact ⟨b, gives_firstRound hm hr hc hw hz (hd.trans (Prod.ext hb rfl)), h⟩

/-- Settles O9: the order of R96 branch by branch, on the requests as they stand when the decision is made. -/
theorem roundDecisions : Obligations.RoundDecisions := by
  unfold Obligations.RoundDecisions
  refine ⟨?_, fun p s hm hr hc hw hz hf hi => ?_⟩
  · intro p s hm hr hc hw hz hf hi g e
    have hsame : SameButReqs p s.fab g := standing_sameButReqs ..
    have hg : refreshReqs p (beginZero (tickGuards p s.fab)) = g := refreshReqs_tickGuards_of_none hz
    rw [← hsame.th_eq] at hf
    rw [← hsame.forcedIdle_eq] at hi
    have hzg : g.lop.zero = none := by rw [hsame.lop_eq, hz]
    refine ⟨fun hs => ?still, fun hs hb hj => ⟨fun ho => ?odd, fun ho hk => ?idle, fun w v ho hk hown hready hv => ?owned,
      fun w v ho hk hguard hv => ?free⟩⟩
    case still =>
      have hd := chooseRound_still (slots := s.slots) (k := (portOf s.fab p).round.toNat) (m := (portOf s.fab p).rounds) hg hf hi hzg hs
      exact ⟨_, gives_firstRound hm hr hc hw hz hd, by simp, by simp [hsame.queues_eq]⟩
    case odd =>
      refine ⟨_, gives_firstRound hm hr hc hw hz (chooseRound_odd hg hf hi hzg hs hb hj ho), by simp, ?_⟩
      rw [← hsame.counterOf_eq]
      exact (raise_portCounter _ _ _ p.isLt (by decide)).trans (countPort_one g p.isLt (by decide))
    case idle =>
      exact ⟨_, gives_firstRound hm hr hc hw hz (chooseRound_idle hg hf hi hzg hs hb hj ho hk), by simp, by simp [hsame.cnt_eq]⟩
    case owned =>
      obtain ⟨b, hgives, hreq, hgrant, hmoved, hlen⟩ := gives_firstBurst hm hr hc hw hz hv
        (chooseRound_owned hg hf hi hzg hs hb hj ho hk hown (List.contains_iff_mem.mp hready))
      refine ⟨_, b, hgives, by simp, hreq, hgrant, hmoved, hlen, ?_⟩
      rw [← hsame.counterOf_eq]
      exact grantTo_owned_count p.isLt hv
    case free =>
      obtain ⟨b, hgives, hreq, hgrant, hmoved, -⟩ := gives_firstBurst hm hr hc hw hz hv
        (chooseRound_guarded hg hf hi hzg hs hb hj ho hk hguard)
      refine ⟨_, b, hgives, by simp, hreq, hgrant, hmoved, ?_⟩
      rw [← hsame.counterOf_eq]
      exact grantTo_guard_count p.isLt hv
  · have hsame : SameButReqs p s.fab (refreshReqs p (tickGuards p s.fab)) := standing_sameButReqs ..
    have hd := chooseRound_forced (slots := s.slots) (k := (portOf s.fab p).round.toNat) (m := (portOf s.fab p).rounds)
      (refreshReqs_tickGuards_of_none hz) (by rw [hsame.th_eq, hf]) (by rw [hsame.forcedIdle_eq, hi])
    have hgives := gives_of_onFab (c := .dilutionForcedIdle p) (fun slots f => when (forcedIdle f p) (decideNext slots p) f) hm rfl
    rw [when, if_pos hi, decideNext_first s.slots hr (on_of_portRuns hz hr) hc hw, hd] at hgives
    exact ⟨_, hgives, by simp, by simp [hsame.dilution_eq, hsame.dilutionOf_eq], by simp [hsame.queues_eq], by simp [hsame.store_eq]⟩

end Sys2Proof.Machine
end

section
/-!
SUPPORT. What a beat of a queue's burst that nothing keeps from moving does (R15, R53, R105, R106, R112): the parts of the fabric that
a row written or cleared leaves alone, what the row stored depends on, and the burst as the beat leaves it; then obligation O12.
-/

namespace Sys2Proof.Machine

/-! ### What a write or a CLEAR of a row leaves alone -/

/-- The ports, the queues, and the counters that stand below those of the bank groups (R292, R293). -/
def roundsPart (f : Fab) : Tbl Port × Tbl Queue × (Fin 0x8320 → Fin 256 → BitVec 64) :=
  (f.ports, f.queues, fun x y => counterOf f x y)

theorem roundsPart_ext {f g : Fab} (hp : g.ports = f.ports) (hq : g.queues = f.queues)
    (hc : ∀ x y, x < 0x8320 → y < 256 → counterOf g x y = counterOf f x y) : roundsPart g = roundsPart f := by
  unfold roundsPart
  rw [hp, hq]
  congr
  funext x y
  exact hc x y x.isLt y.isLt

section
variable {f g : Fab} (h : roundsPart g = roundsPart f)
include h

theorem portOf_of_roundsPart (p : Nat) : portOf g p = portOf f p := by
  rw [portOf, show g.ports = f.ports from congrArg Prod.fst h, portOf]

theorem queueOf_of_roundsPart (q : Nat) : queueOf g q = queueOf f q := queueOf_congr (congrArg (·.2.1) h) q

theorem portCounter_of_roundsPart {p sub : Nat} (hp : p < 32) (hs : sub < 256) :
    counterOf g (0x8100 + p) sub = counterOf f (0x8100 + p) sub :=
  congrFun (congrFun (congrArg (·.2.2) h) ⟨0x8100 + p, by omega⟩) ⟨sub, hs⟩

end

@[simp] theorem raise_roundsPart (c x : Nat) (f : Fab) : roundsPart (raise c x f) = roundsPart f :=
  roundsPart_ext (raise_ports ..) (raise_queues ..) fun _ _ hx hy =>
    raiseWith_counter _ _ _ _ _ (by unfold cKey; omega) (by unfold cKey; omega)

theorem count_roundsPart {x : Nat} (y n : Nat) (f : Fab) (h : 0x8320 ≤ x) : roundsPart (count x y n f) = roundsPart f :=
  roundsPart_ext (count_ports ..) (count_queues ..) fun _ _ hx hy =>
    count_ne _ _ _ _ (by unfold cKey; omega) (by unfold cKey; omega) (by unfold cKey; omega)

@[simp] theorem countGroup_roundsPart (g s n : Nat) (f : Fab) : roundsPart (countGroup g s n f) = roundsPart f :=
  count_roundsPart _ _ _ (by omega)

@[simp] theorem countInst_roundsPart (s n : Nat) (f : Fab) : roundsPart (countInst s n f) = roundsPart f :=
  count_roundsPart _ _ _ (by omega)

@[simp] theorem onStore_roundsPart (f : Fab) (k : Store → Store) : roundsPart (onStore f k) = roundsPart f := rfl

@[simp] theorem injFired_roundsPart (f : Fab) : roundsPart (injFired f) = roundsPart f := rfl

@[simp] theorem dropRepair_roundsPart (ra : Nat) (f : Fab) : roundsPart (dropRepair ra f) = roundsPart f := rfl

@[simp] theorem checkState_roundsPart (ra : Nat) (f : Fab) : roundsPart (checkState ra f) = roundsPart f := by
  unfold checkState
  dsimp only
  split
  · simp
  · split <;> simp

@[simp] theorem logError_roundsPart (ra w sy k so p : Nat) (t : Bool) (f : Fab) :
    roundsPart (logError ra w sy k so p t f) = roundsPart f := by
  unfold logError
  dsimp only
  split
  · rw [raise_roundsPart, countGroup_roundsPart]; rfl
  · rw [countGroup_roundsPart]; rfl

@[simp] theorem freshError_roundsPart (b : Nat) (f : Fab) : roundsPart (freshError b f) = roundsPart f := by
  unfold freshError
  dsimp only
  split
  · rw [retireBank, raise_roundsPart, countInst_roundsPart]; rfl
  · rfl

/-- A part of the fabric that the log, the groups' counts and a fresh error leave alone, a merge's reports leave alone. -/
theorem reportMerge_proj {β : Type} (π : Fab → β) (hlog : ∀ ra w sy k so p t f, π (logError ra w sy k so p t f) = π f)
    (hcount : ∀ g s n f, π (countGroup g s n f) = π f) (hfresh : ∀ b f, π (freshError b f) = π f)
    (ra p : Nat) (was : Bool) (bm : Nat) (ws : List Code) (f : Fab) : π (reportMerge ra p was bm ws f) = π f := by
  unfold reportMerge Machine.when
  dsimp only
  split
  on_goal 1 => rw [hfresh]
  all_goals
    refine each_proj π _ _ (fun f e _ => ?_) f
    split <;> simp [hlog, hcount]

@[simp] theorem reportMerge_roundsPart (ra p : Nat) (was : Bool) (bm : Nat) (ws : List Code) (f : Fab) :
    roundsPart (reportMerge ra p was bm ws f) = roundsPart f :=
  reportMerge_proj roundsPart logError_roundsPart countGroup_roundsPart freshError_roundsPart ..

@[simp] theorem postWords_roundsPart (p ra : Nat) (ws : List Code) (m : BitVec 36) (st : Nat) (f : Fab) :
    roundsPart (postWords p ra ws m st f) = roundsPart f := by
  unfold postWords injectWords
  dsimp only
  split <;> simp

@[simp] theorem settleRepair_roundsPart (ra : Nat) (f : Fab) : roundsPart (settleRepair ra f) = roundsPart f := by
  unfold settleRepair
  split <;> simp

/-- A write of a row changes no port, no queue, and none of their counters. -/
theorem writeRow_roundsPart (p ra : Nat) (new fresh : Row) (bm : Nat) (poison : Bool) (f : Fab) :
    roundsPart (writeRow p ra new fresh bm poison f) = roundsPart f := by
  unfold writeRow
  dsimp only
  split
  · split <;> simp
  · split
    · split <;> simp
    · split <;> simp

theorem clearRow_roundsPart (ra : Nat) (f : Fab) : roundsPart (clearRow ra f) = roundsPart f := by
  simp [clearRow]

/-! ### What the row stored depends on -/

/-- The banks, and the security state with the injection that is armed (R297). -/
def banksPart (f : Fab) : Store × Sec := (f.store, f.sec)

@[simp] theorem raise_banksPart (c x : Nat) (f : Fab) : banksPart (raise c x f) = banksPart f := by
  simp [banksPart]

@[simp] theorem countGroup_banksPart (g s n : Nat) (f : Fab) : banksPart (countGroup g s n f) = banksPart f := by
  simp [banksPart]

@[simp] theorem logError_banksPart (ra w sy k so p : Nat) (t : Bool) (f : Fab) :
    banksPart (logError ra w sy k so p t f) = banksPart f := by
  unfold logError
  dsimp only
  split
  · rw [raise_banksPart, countGroup_banksPart]; rfl
  · rw [countGroup_banksPart]; rfl

@[simp] theorem freshError_banksPart (b : Nat) (f : Fab) : banksPart (freshError b f) = banksPart f := by
  unfold freshError
  dsimp only
  split
  · rw [retireBank, raise_banksPart]; simp [banksPart]
  · rfl

@[simp] theorem reportMerge_banksPart (ra p : Nat) (was : Bool) (bm : Nat) (ws : List Code) (f : Fab) :
    banksPart (reportMerge ra p was bm ws f) = banksPart f :=
  reportMerge_proj banksPart logError_banksPart countGroup_banksPart freshError_banksPart ..

theorem checkState_banksPart_congr {f g : Fab} (ra : Nat) (h : banksPart g = banksPart f) :
    banksPart (checkState ra g) = banksPart (checkState ra f) := by
  obtain ⟨hstore, hsec⟩ := Prod.mk.inj h
  unfold checkState
  dsimp only
  rw [hstore]
  split
  · simp [banksPart, hstore, hsec]
  · split
    · simp [banksPart, hstore, hsec]
    · exact h

theorem postWords_store_congr {f g : Fab} (p ra : Nat) (ws : List Code) (m : BitVec 36) (st : Nat) (h : banksPart g = banksPart f) :
    (postWords p ra ws m st g).store = (postWords p ra ws m st f).store := by
  obtain ⟨hstore, hsec⟩ := Prod.mk.inj h
  have hwords : (injectWords ra m ws g).1 = (injectWords ra m ws f).1 := by
    unfold injectWords injKind injTarget injWord injBit
    rw [hsec]
    dsimp only
    split <;> rfl
  simp only [postWords, onStore_self, injectWords_store, hstore, hwords]

/-- What a write of a row stores is the same wherever the banks and the injection are. -/
theorem writeRow_store_congr {f g : Fab} (p ra : Nat) (new fresh : Row) (bm : Nat) (poison : Bool) (h : banksPart g = banksPart f) :
    (writeRow p ra new fresh bm poison g).store = (writeRow p ra new fresh bm poison f).store := by
  have h := checkState_banksPart_congr ra h
  unfold writeRow
  dsimp only
  generalize checkState ra g = g at *
  generalize checkState ra f = f at *
  have hstore : g.store = f.store := congrArg Prod.fst h
  rw [hstore]
  split
  · split <;> exact postWords_store_congr _ _ _ _ _ h
  · split
    · simp only [settleRepair_store]
      split <;> exact postWords_store_congr _ _ _ _ _ h
    · split
      · simp only [settleRepair_store]
        exact postWords_store_congr _ _ _ _ _ (by simpa using h)
      · simp only [settleRepair_store]
        exact postWords_store_congr _ _ _ _ _ h

/-- The array read at a row leaves the states of the rows of other state words. -/
theorem checkState_rawState_ne {ra j : Nat} (f : Fab) (h : j / 8 ≠ ra / 8) :
    rawState (checkState ra f).store j = rawState f.store j := by
  unfold checkState
  dsimp only
  split
  · simp [rawState, stateWord, tget_tset_ne _ _ _ h]
  · split
    · simp [rawState, stateWord]
    · rfl

theorem clearRow_rawState_self (ra : Nat) (f : Fab) : rawState (clearRow ra f).store ra = 0 := by
  simp [clearRow, rawState_setState]

theorem clearRow_rawState_ne {ra j : Nat} (f : Fab) (h : j / 8 ≠ ra / 8) :
    rawState (clearRow ra f).store j = rawState f.store j := by
  have hne : j ≠ ra := by rintro rfl; exact h rfl
  simp [clearRow, rawState_setState, hne, checkState_rawState_ne f h]

/-! ### The beat of a queue's burst -/

/-- Row k of leg i moved through port p, from the beat's start on (R105, R106). -/
def rowMoved (p : Nat) (w : BeatWait) (q : Nat) (x : Flight) (i : Nat) (l : Leg) (k : Nat) (f : Fab) : Fab :=
  let rows := accessRows x l k
  let reads := readsBank l.kind || (rmwBeat f q x i l k && rawState f.store (writeAddr x l k) != 0)
  moveRow p q x i l k (disturb rows (beginBeat p rows (cycleWait p w reads f)))

/-- The first leg row of burst `b` noted, where none of it has moved. -/
def noteFirst (p : Nat) (b : Burst) (k : Nat) (f : Fab) : Fab := when (b.moved == 0) (onBurst p fun b => { b with first := k }) f

/-- The leg past row k. -/
def passRow (q ord i k : Nat) (f : Fab) : Fab := onFlight q ord (onLeg i fun l => { l with next := max l.next (k + 1) }) f

theorem runBeat_queue {slots : Tbl (BitVec 16)} {p : Nat} {w : BeatWait} {f : Fab} {b : Burst} (hc : checkPreempt slots p f = f)
    (hb : burstOf (portOf f p) = some b) (hq : b.req < 256) : runBeat slots p w f = queueBeat p b w f := by
  simp [runBeat, hc, hb, hq]

/-- A beat whose gate is open, in a region that is free, moves its leg's next row (R105, R256). -/
theorem queueBeat_moves {p : Nat} {b : Burst} {w : BeatWait} {f g : Fab} {x : Flight} {l : Leg} {k : Nat}
    (hx : flightOf f b.req b.ord = some x) (hl : x.legs[b.leg]? = some l) (hk : legStart f b.req x b.leg l = k)
    (hf : noteFirst p b k f = g) (hg : gateOf g p b.req x b.leg l k = .go) (hr : regionWaits g p = false ∨ accessRows x l k = [])
    (hy : ∃ y, flightOf (rowMoved p w b.req x b.leg l k g) b.req b.ord = some y ∧ y.stopping = none) :
    queueBeat p b w f = when (l.kind == .spanRead || l.kind == .accSend || l.kind == .accOut) (askMore b.req b.ord)
      (afterBeat p (passRow b.req b.ord b.leg k (rowMoved p w b.req x b.leg l k g))) := by
  subst hk hf
  obtain ⟨y, hy, hstop⟩ := hy
  have hregion : ¬(regionWaits (noteFirst p b (legStart f b.req x b.leg l) f) p &&
      !(accessRows x l (legStart f b.req x b.leg l)).isEmpty) = true := by
    rcases hr with h | h <;> simp [h]
  unfold noteFirst at *
  simp only [queueBeat, hx, hl, hg]
  rw [if_neg hregion, if_neg]
  · rfl
  · unfold rowMoved at hy
    simp [hy, hstop]

theorem onBurst_burstOf {p : Nat} {f : Fab} {b : Burst} (k : Burst → Burst) (hb : burstOf (portOf f p) = some b) :
    burstOf (portOf (onBurst p k f) p) = some (k b) := by
  unfold burstOf at hb
  split at hb
  · next c hc => cases hb; simp [onBurst, hc, burstOf]
  · cases hb

/-- A port reads the same burst in fabrics where the same round runs on it. -/
theorem burstOf_congr {x y : Port} (h : y.cur = x.cur) : burstOf y = burstOf x := by
  rw [burstOf, h, burstOf]

/-- A beat that is not its burst's last counts one and leaves the burst one beat further (R112). -/
theorem afterBeat_goes_on {p : Nat} {f : Fab} {b : Burst} (hp : p < 32) (hb : burstOf (portOf f p) = some b) (hl : b.lastBeat = false)
    (hm : b.moved + 1 < b.len) :
    (afterBeat p f).store = f.store ∧ counterOf (afterBeat p f) (0x8100 + p) 1 = counterOf f (0x8100 + p) 1 + 1 ∧
      burstOf (portOf (afterBeat p f) p) = some { b with moved := b.moved + 1, waited := false, tied := false } := by
  have hcounted : portOf (countPort p 1 1 f) p = portOf f p := by simp [portOf]
  unfold afterBeat
  simp only [hb]
  generalize hg : onLop _ _ = g
  have hgb : burstOf (portOf g p) = some b := by
    rw [← hg, ← hb, ← hcounted]
    exact burstOf_congr (by simp [onLop, portOf, onPort])
  have hmoved := onBurst_burstOf (fun b => { b with moved := b.moved + 1, waited := false, tied := false }) hgb
  rw [hmoved]
  dsimp only
  rw [if_neg (by simp [hl]), if_neg (by omega)]
  refine ⟨by simp [← hg, onBurst], ?_, hmoved⟩
  rw [← hg, ← countPort_one f hp (by decide)]
  rfl

/-! ### A beat of a CLEAR or of a FILL -/

/-- The gate of a beat looks at no port but for the pipeline of its own. -/
theorem gateOf_onPort {p q i k : Nat} {x : Flight} {l : Leg} {f : Fab} (g : Port → Port) (h : (g (portOf f p)).pipe = (portOf f p).pipe) :
    gateOf (onPort f p g) p q x i l k = gateOf f p q x i l k := by
  unfold gateOf
  rw [onPort_self, h]
  rfl

theorem gateOf_noteFirst {p q i k n : Nat} {x : Flight} {l : Leg} {b : Burst} {f : Fab} :
    gateOf (noteFirst p b n f) p q x i l k = gateOf f p q x i l k := by
  unfold noteFirst Machine.when
  split
  · refine gateOf_onPort _ ?_
    dsimp only
    split <;> rfl
  · rfl

/-- The fabric as a beat of burst `b` from row n on begins, where nothing adds a wait: the first row noted and the bleat of the port's
last beat over (R383). -/
def begunBeat (p : Nat) (b : Burst) (n : Nat) (f : Fab) : Fab := onPort (noteFirst p b n f) p fun y => { y with bleat := false }

/-- A beat that begins changes ports alone. -/
theorem begunBeat_eq (p : Nat) (b : Burst) (n : Nat) (f : Fab) : begunBeat p b n f = { f with ports := (begunBeat p b n f).ports } := by
  unfold begunBeat noteFirst Machine.when
  split <;> rfl

theorem begunBeat_burstOf {p n : Nat} {b : Burst} {f : Fab} (hb : burstOf (portOf f p) = some b) :
    burstOf (portOf (begunBeat p b n f) p) = some { b with first := if b.moved = 0 then n else b.first } := by
  rw [begunBeat, onPort_self]
  refine (burstOf_congr (x := portOf (noteFirst p b n f) p) rfl).trans ?_
  unfold noteFirst Machine.when
  by_cases h : b.moved = 0
  · simp [h, onBurst_burstOf _ hb]
  · simp [h, hb]

theorem disturb_of_no_march {l : List Nat} {f : Fab} (h : f.integ.march = none) : disturb l f = f :=
  each_id _ _ _ fun b _ => by simp [engineOf, h]

/-- A burst granted by a slot is not preempted (R100). -/
theorem checkPreempt_of_owned {slots : Tbl (BitVec 16)} {p : Nat} {f : Fab} {b : Burst} (hb : burstOf (portOf f p) = some b)
    (hg : b.grant = .owned) : checkPreempt slots p f = f := by
  have hpre : preemptible f b = false := by simp [preemptible, hg]
  unfold burstOf at hb
  split at hb
  · next c hc => cases hb; simp [checkPreempt, hc, hpre]
  · cases hb

/-- The only flight of a queue reads as the update of it says. -/
theorem onFlight_flightOf {q : Nat} {x : Flight} {g : Flight → Flight} {f : Fab} (h : (queueOf f q).flights = [x])
    (hg : (g x).ord = x.ord) : flightOf (onFlight q x.ord g f) q x.ord = some (g x) := by
  simp [flightOf, onFlight, h, hg]

theorem rowDone_flightOf {q i k : Nat} {x : Flight} {f : Fab} (h : (queueOf f q).flights = [x]) :
    ∃ y, flightOf (rowDone q x.ord i k f) q x.ord = some y ∧ y.stopping = x.stopping := by
  refine ⟨_, onFlight_flightOf h ?_, ?_⟩
  all_goals
    dsimp only
    split
    · split <;> rfl
    · rfl

/-- Passing a row and doing it change queues alone. -/
theorem passRow_rowDone_eq (q ord i k : Nat) (f : Fab) : passRow q ord i k (rowDone q ord i k f) =
    { f with queues := (passRow q ord i k (rowDone q ord i k f)).queues } := rfl

/-- In an arrangement without fall-back and march nothing but the row moved follows the beat's beginning. -/
theorem rowMoved_prompt {p q i k n : Nat} {x : Flight} {l : Leg} {b : Burst} {f : Fab} (hb : fallback f = false)
    (hm : f.integ.march = none) :
    rowMoved p .prompt q x i l k (noteFirst p b n f) = moveRow p q x i l k (begunBeat p b n f) := by
  have hfall : fallback (begunBeat p b n f) = false := by rw [begunBeat_eq]; exact hb
  have hbegin : beginBeat p (accessRows x l k) (noteFirst p b n f) = begunBeat p b n f := by
    unfold begunBeat at hfall
    simp [beginBeat, hfall, begunBeat]
  simp only [rowMoved, cycleWait, hbegin]
  rw [disturb_of_no_march (by rw [begunBeat_eq]; exact hm)]

/-- The row of a CLEAR or of a FILL as its beat leaves the fabric, but for the leg (R15). -/
def wroteRow (p : Nat) (x : Flight) (l : Leg) (k : Nat) (f : Fab) : Fab :=
  if l.kind = .clear then clearRow (writeAddr x l k) f
  else writeTile p (writeAddr x l k) (dDstFmt x.desc) (dBytes x.desc)
    (fillRow (dDstFmt x.desc) (dBytes x.desc) (oValue (dSrc x.desc)) (oExp (dSrc x.desc))) false f

theorem moveRow_wroteRow {p q k i : Nat} {x : Flight} {l : Leg} {f : Fab} (h : l.kind = .clear ∨ l.kind = .fill) :
    moveRow p q x i l k f = rowDone q x.ord i k (wroteRow p x l k f) := by
  rcases h with h | h <;> simp [moveRow, wroteRow, h]

theorem wroteRow_roundsPart (p : Nat) (x : Flight) (l : Leg) (k : Nat) (f : Fab) : roundsPart (wroteRow p x l k f) = roundsPart f := by
  unfold wroteRow
  split
  · exact clearRow_roundsPart ..
  · exact writeRow_roundsPart ..

section
variable {slots : Tbl (BitVec 16)} {p : Nat} {f : Fab} {b : Burst} {x : Flight} {l : Leg}
  (hb : burstOf (portOf f p) = some b) (hq : b.req < 256) (hgrant : b.grant = .owned) (hleg : b.leg = 0)
  (hx : (queueOf f b.req).flights = [x]) (hord : x.ord = b.ord) (hstop : x.stopping = none) (hlegs : x.legs = [l])
  (hkind : l.kind = .clear ∨ l.kind = .fill) (hgate : gateOf f p b.req x 0 l l.next = .go) (hfall : fallback f = false)
  (hmarch : f.integ.march = none)
include hb hq hgrant hleg hx hord hstop hlegs hkind hgate hfall hmarch

/-- A beat of a CLEAR or of a FILL that its slot granted and whose gate is open clears or writes its leg's next row (R15, R105). -/
theorem runBeat_wroteRow : runBeat slots p .prompt f = afterBeat p (passRow b.req b.ord b.leg l.next
    (rowDone b.req b.ord b.leg l.next (wroteRow p x l l.next (begunBeat p b l.next f)))) := by
  obtain ⟨hsend, hstart⟩ : (l.kind == .spanRead || l.kind == .accSend || l.kind == .accOut) = false ∧
      legStart f b.req x b.leg l = l.next := by rcases hkind with h | h <;> simp [h, legStart]
  have hregion : regionWaits (noteFirst p b l.next f) p = false := by
    have : fallback (noteFirst p b l.next f) = fallback f := by unfold noteFirst Machine.when; split <;> rfl
    simp [regionWaits, this, hfall]
  have hrow : rowMoved p .prompt b.req x b.leg l l.next (noteFirst p b l.next f) =
      rowDone b.req b.ord b.leg l.next (wroteRow p x l l.next (begunBeat p b l.next f)) := by
    rw [rowMoved_prompt hfall hmarch, moveRow_wroteRow hkind, hord]
  have hflights : (queueOf (wroteRow p x l l.next (begunBeat p b l.next f)) b.req).flights = [x] := by
    rw [queueOf_of_roundsPart (wroteRow_roundsPart ..), begunBeat_eq]
    exact hx
  rw [runBeat_queue (checkPreempt_of_owned hb hgrant) hb hq, queueBeat_moves (x := x) (l := l) (by simp [flightOf, hx, hord])
    (by simp [hlegs, hleg]) hstart rfl (by rw [gateOf_noteFirst, hleg, hgate]) (.inl hregion) ?_, hrow]
  · simp [hsend, Machine.when]
  · rw [hrow, ← hord, ← hstop]
    exact rowDone_flightOf hflights

/-- Such a beat, not its burst's last, counts one and leaves the burst one beat further (R112). -/
theorem runBeat_wroteRow_goes_on (hp : p < 32) (hlast : b.lastBeat = false) (hmoved : b.moved + 1 < b.len) :
    (runBeat slots p .prompt f).store = (wroteRow p x l l.next (begunBeat p b l.next f)).store ∧
    counterOf (runBeat slots p .prompt f) (0x8100 + p) 1 = counterOf f (0x8100 + p) 1 + 1 ∧
    ∃ b', burstOf (portOf (runBeat slots p .prompt f) p) = some b' ∧ b'.moved = b.moved + 1 ∧ b'.len = b.len := by
  rw [runBeat_wroteRow hb hq hgrant hleg hx hord hstop hlegs hkind hgate hfall hmarch]
  have hpart := wroteRow_roundsPart p x l l.next (begunBeat p b l.next f)
  have hrow := passRow_rowDone_eq b.req b.ord b.leg l.next (wroteRow p x l l.next (begunBeat p b l.next f))
  generalize passRow b.req b.ord b.leg l.next _ = e at hrow
  have hburst : burstOf (portOf e p) = some { b with first := if b.moved = 0 then l.next else b.first } := by
    rw [hrow, ← begunBeat_burstOf hb, ← portOf_of_roundsPart hpart]
    rfl
  have hcounter : counterOf e (0x8100 + p) 1 = counterOf f (0x8100 + p) 1 := by
    rw [hrow]
    refine (portCounter_of_roundsPart hpart hp (by decide)).trans ?_
    rw [begunBeat_eq]
    rfl
  obtain ⟨hstore, hcount, hnext⟩ := afterBeat_goes_on hp hburst hlast hmoved
  exact ⟨by rw [hstore, hrow], by rw [hcount, hcounter], _, hnext, rfl, rfl⟩

end

/-- Settles O12: a beat whose gate is open through `queueBeat_moves`, and the beats of a CLEAR and of a FILL through
`runBeat_wroteRow_goes_on`. -/
theorem beatsMoveRows : Obligations.BeatsMoveRows := by
  unfold Obligations.BeatsMoveRows
  refine ⟨?_, fun p s b x l hm hb hq hgrant hlast hmoved hleg hx hord hstop hlegs hkind hgate hfall hmarch => ?_⟩
  · intro p w s b x l f hm hc hb hq hmoved hx hl hg hr k rows reads hf hy
    have hrow : f = rowMoved p w b.req x b.leg l k s.fab := hf
    have hnoted : noteFirst p b k s.fab = s.fab := by simp [noteFirst, Machine.when, hmoved]
    have hgives := gives_of_onFab (c := .beat p w) (fun slots f => runBeat slots p w f) hm rfl
    rw [runBeat_queue hc hb hq, queueBeat_moves hx hl rfl hnoted hg hr (hrow ▸ hy), ← hrow] at hgives
    exact hgives
  · obtain ⟨hstore, hcount, hnext⟩ := runBeat_wroteRow_goes_on (slots := s.slots) hb hq hgrant hleg hx hord hstop hlegs
      hkind hgate hfall hmarch p.isLt hlast hmoved
    have hbanks : banksPart (begunBeat p b l.next s.fab) = banksPart s.fab := by rw [begunBeat_eq]; rfl
    have hbase : (begunBeat p b l.next s.fab).store = s.fab.store := congrArg Prod.fst hbanks
    refine ⟨_, gives_of_onFab (c := .beat p .prompt) (fun slots f => runBeat slots p .prompt f) hm rfl,
      fun hclear => ⟨?_, fun ra hne => ?_⟩, fun hfill => ?_, hcount, hnext⟩
    · rw [hstore, wroteRow, if_pos hclear, clearRow_rawState_self]
    · rw [hstore, wroteRow, if_pos hclear, clearRow_rawState_ne _ hne, hbase]
    · rw [hstore, wroteRow, if_neg (by simp [hfill])]
      exact writeRow_store_congr _ _ _ _ _ _ hbanks

end Sys2Proof.Machine
end

section
/-!
SUPPORT. What a table that lists nothing gives where an entry is more than one value: a residency entry never written and the default
slot entry (R90, R207); then obligation O57.
-/

namespace Sys2Proof.Machine

/-- The check bits of zero data are zero: no column is taken (R234). -/
theorem xorColumns_zero (l : List Nat) : xorColumns l 0 = 0 := by
  induction l with
  | nil => rfl
  | cons c t ih => simp [xorColumns, ih]

theorem classOf_zero : classOf 0 = .clean := by simp [classOf, syndromeOf, dataOf, checkBits, xorColumns_zero]

/-- A clean entry is read as stored where no fault is armed on the map (R207). -/
theorem readEntry_of_clean {f : Fab} {i : Nat} (hc : classOf (mapCode f i) = .clean) (hj : injKind f ≠ 8) :
    readEntry i f = (BitVec.ofNat 128 (dataOf (mapCode f i)), f) := by
  have hmiss : (injKind f == 8 && injTarget f == i) = false := by simp [hj]
  simp [readEntry, hc, hmiss, Machine.when]

/-- The default slot entry is legal for every port (R90). -/
theorem slotLegal_default (p : Nat) : slotLegal p slotDefault = true := by
  have h : fld slotDefault 8 2 ≠ 3 := by decide
  simp only [slotLegal, bne_iff_ne.mpr h, Bool.true_or, Bool.and_true]
  decide

/-- Settles O57: reset lists no slot entry, port, queue, row, map entry or counter, so each reads its default. -/
theorem resetState : Obligations.ResetState := by
  unfold Obligations.ResetState
  have hlegal : SlotsLegal State.reset := ⟨rfl, fun _ p _ _ _ _ => slotLegal_default p⟩
  have hrows : ∀ ra, rawState State.reset.fab.store ra = 0 := fun ra => by simp [rawState, stateWord, State.reset, fld]
  have hread : ∀ i, readEntry i State.reset.fab = (0, State.reset.fab) := fun i =>
    readEntry_of_clean classOf_zero (by decide)
  exact ⟨rfl, fun _ _ _ => rfl, hlegal, fun _ => ⟨rfl, rfl, rfl, rfl⟩, fun _ => ⟨rfl, rfl, rfl, rfl⟩, fun _ => rfl,
    fun _ _ => rfl, hrows, rfl, hread, fun _ _ => ⟨rfl, rfl⟩, rfl, rfl, rfl, rfl, rfl, rfl, rfl, rfl, rfl⟩

end Sys2Proof.Machine
end

section
/-!
SUPPORT. What becomes of the paths in use when links or routes change leaves the route table as it is written (R169, R171, R182).
-/

namespace Sys2Proof.Machine

/-- The route table, as the entries at 0x5400 on hold it (R169). -/
def routesOf (f : Fab) : Tbl (BitVec 64) := f.dom.route

theorem routesOf_each {α : Type} (l : List α) (g : Fab → α → Fab) (f : Fab) (h : ∀ f a, routesOf (g f a) = routesOf f) :
    routesOf (each l g f) = routesOf f := each_proj routesOf l g (fun f a _ => h f a) f

/-- What leaves the domain as it was leaves the route table. -/
theorem routesOf_of_dom {f g : Fab} (h : g.dom = f.dom) : routesOf g = routesOf f := congrArg Domain.route h

@[simp] theorem completeOp_dom (h : BitVec 16) (st r0 r1 r2 r3 : Nat) (f : Fab) : (completeOp h st r0 r1 r2 r3 f).dom = f.dom := by
  unfold completeOp completeWith
  split
  · rfl
  · simp [takeStamp]

theorem each_dom {α : Type} (l : List α) (g : Fab → α → Fab) (f : Fab) (h : ∀ f a, (g f a).dom = f.dom) :
    (each l g f).dom = f.dom := each_proj Fab.dom l g (fun f a _ => h f a) f

@[simp] theorem boundary_dom (p n : Nat) (f : Fab) : (boundary p n f).dom = f.dom := by
  unfold boundary
  dsimp only
  split
  · simp
  · rw [endCommits, each_dom _ _ _ fun _ _ => by simp]
    simp

@[simp] theorem finishRound_dom (p : Nat) (f : Fab) : (finishRound p f).dom = f.dom := by
  unfold finishRound
  split
  · simp
  · have hcounted : ∀ (l : List Nat) (f : Fab), (each l (fun f q => countQueue q 3 1 f) f).dom = f.dom := fun l f =>
      each_dom _ _ _ fun _ _ => by simp
    simp [apply_ite Fab.dom, hcounted]

@[simp] theorem endBurstsOf_dom (q ord : Nat) (f : Fab) : (endBurstsOf q ord f).dom = f.dom := by
  unfold endBurstsOf
  exact each_dom _ _ _ fun _ _ => by simp [apply_ite Fab.dom]

@[simp] theorem notify_dom (c : Nat) (slots : List Nat) (data : BitVec 50) (qmask : Nat → BitVec 4) (f : Fab) :
    (notify c slots data qmask f).dom = f.dom := each_dom _ _ _ fun _ _ => by simp

@[simp] theorem abortClusters_dom (q : Nat) (x : Flight) (f : Fab) : (abortClusters q x f).dom = f.dom := by
  unfold abortClusters
  dsimp only
  split
  · exact each_dom _ _ _ fun _ _ => by simp
  · split
    · exact each_dom _ _ _ fun _ _ => by simp
    · rfl

@[simp] theorem sendSop_dom (k : Nat) (h : BitVec 256) (d : Option Row) (f : Fab) : (sendSop k h d f).dom = f.dom := by
  simp [sendSop, Machine.when, apply_ite Fab.dom]

@[simp] theorem cancelTag_dom (k : Nat) (t : SopTag) (retry : Bool) (f : Fab) : (cancelTag k t retry f).dom = f.dom := by
  unfold cancelTag
  split <;> simp [onTag]

@[simp] theorem dropOwner_dom (o : Owner) (f : Fab) : (dropOwner o f).dom = f.dom := by
  unfold dropOwner
  exact each_dom _ _ _ fun _ _ => (each_dom _ _ _ fun _ _ => by simp).trans (by simp)

@[simp] theorem dropMigrate_dom (h : BitVec 16) (f : Fab) : (dropMigrate h f).dom = f.dom := by
  unfold dropMigrate
  exact each_dom _ _ _ fun _ _ => (each_dom _ _ _ fun _ _ => by simp).trans (by simp)

@[simp] theorem presentHead_dom (p : Nat) (f : Fab) : (presentHead p f).dom = f.dom := by
  unfold presentHead
  split
  · rfl
  · simp [apply_ite Fab.dom]

@[simp] theorem onFlight_dom (q ord : Nat) (g : Flight → Flight) (f : Fab) : (onFlight q ord g f).dom = f.dom := rfl

@[simp] theorem withdrawQueue_dom (q : Nat) (f : Fab) : (withdrawQueue q f).dom = f.dom := rfl

@[simp] theorem takeEffect_dom (who : ChangeBy) (writes : List (Nat × BitVec 128)) (f : Fab) :
    (takeEffect who writes f).dom = f.dom := by
  have hput : ∀ (n : Nat) (f : Fab), (each writes (fun f e => putEntry e.1 (putf e.2 32 16 n) f) f).dom = f.dom :=
    fun n f => each_dom _ _ _ fun _ _ => by simp
  simp [takeEffect, mapLow, apply_ite Fab.dom, hput]

/-- A message adds at most to the messages that wait here. -/
theorem routesOf_answer (dest : Nat) (m : BitVec 512) (f : Fab) : routesOf (answer dest m f) = routesOf f := by
  unfold answer sendMsg findRoute routesOf
  dsimp only
  split
  · simp
  · split <;> simp [queueFlit]

theorem routesOf_cancelGrants (segs : List Seg) (f : Fab) : routesOf (cancelGrants segs f) = routesOf f :=
  routesOf_each _ _ _ fun _ _ => routesOf_answer ..

theorem routesOf_abortFlight (q ord reason addr stack : Nat) (f : Fab) :
    routesOf (abortFlight q ord reason addr stack f) = routesOf f := by
  unfold abortFlight
  split
  · rfl
  · split
    · rfl
    · next x _ _ =>
      have hcancel := routesOf_cancelGrants x.segs (abortClusters q x (endBurstsOf q ord f))
      have hpresent : ∀ f, (each (List.range 16) (fun f p => presentHead p f) f).dom = f.dom := fun f =>
        each_dom _ _ _ fun _ _ => by simp
      simpa [routesOf, hpresent] using hcancel

theorem routesOf_applyInstalls (f : Fab) : routesOf (applyInstalls f) = routesOf f := by
  unfold applyInstalls
  refine routesOf_each _ _ _ fun f i => ?_
  split
  · rfl
  · rw [applyInstall, routesOf_answer]
    exact routesOf_of_dom (by simp)

theorem routesOf_endMigrate (h : BitVec 16) (status srcMe : Nat) (f : Fab) : routesOf (endMigrate h status srcMe f) = routesOf f := by
  unfold endMigrate
  split
  · rfl
  · next m _ =>
    dsimp only
    rw [routesOf_applyInstalls, ← routesOf_cancelGrants m.segs f]
    exact routesOf_of_dom (by simp)

theorem routesOf_dropFarEnd (dest : Nat) (f : Fab) : routesOf (dropFarEnd dest f) = routesOf f := by
  unfold dropFarEnd abortWhere
  exact (routesOf_each _ _ _ fun _ _ => routesOf_endMigrate ..).trans (routesOf_each _ _ _ fun _ _ => routesOf_abortFlight ..)

/-- What becomes of the paths in use leaves the route table as the change has left it (R171). -/
theorem routesOf_withPaths (g : Fab → Fab) (f : Fab) : routesOf (withPaths g f) = routesOf (g f) := by
  unfold withPaths
  refine routesOf_each _ _ _ fun f old => ?_
  unfold settlePath
  split
  · rfl
  · split
    · exact routesOf_dropFarEnd ..
    · dsimp only
      split <;> rfl

end Sys2Proof.Machine
end

section
/-!
SUPPORT. Which entries of the dictionary a command can write, what their own rules write, and what the commands give (R48, R111,
R118, R169, R231, R247, R248, R250, R269, R290, R291, R303); then obligation O53.
-/

namespace Sys2Proof.Machine

section

theorem within_iff {x lo n : Nat} : within x lo n = true ↔ lo ≤ x ∧ x < lo + n := by simp [within]

/-! ### Which entries a command can write -/

/-- An entry of the access and size given, open to every level, is open to a WRITE: its access admits one, the running values of a
persistent entry are there, and the fabric is not in RETAIN (R261, R262, R264). -/
structure OpenEntry (x y : Nat) (acc : Acc) (n : Nat) (f : Fab) : Prop where
  shape : entryAt x y = some ⟨acc, .any, n⟩
  access : acc = .rw ∨ acc = .wo ∨ acc = .rwp ∧ rwpClosed f = false
  awake : f.pwr.st ≠ 2

/-- The checks of a WRITE that look at one entry alone pass: a bank's `ALLOC` that is not RETIRED, and no bit of `RETIRED_MASK` cleared
above CUSTODY (R247, R250, R262). -/
def RulePasses (x y : Nat) (f : Fab) : Prop :=
  (within x 0x3100 2 = true → tget 0 f.integ.alloc ((x - 0x3100) * 256 + y) ≠ 2) ∧ (x = 0x3110 ∧ y = 1 → f.sec.st.toNat < 2)

theorem rulePasses_of {x y : Nat} {f : Fab} (h : x < 0x3100 ∨ 0x3110 < x) : RulePasses x y f :=
  ⟨fun hw => by rw [within_iff] at hw; omega, fun hx => by omega⟩

theorem rulePasses_retirement {y : Nat} {f : Fab} (h : y = 1 → f.sec.st.toNat < 2) : RulePasses 0x3110 y f :=
  ⟨fun hw => absurd hw (by decide), fun hx => h hx.2⟩

variable {p : Path} {x y v n : Nat} {acc : Acc} {slots : Tbl (BitVec 16)} {f : Fab}

theorem writeCheck_of_open (h : OpenEntry x y acc n f) : writeCheck x y f = 0 := by
  obtain ⟨hs, hacc, hst⟩ := h
  have hopen : (acc = .ro ∨ acc = .cmd) = False ∧ (acc = .rwp ∧ rwpClosed f = true) = False := by
    rcases hacc with rfl | rfl | ⟨rfl, hc⟩ <;> simp [*]
  simp only [writeCheck, hs, Bool.or_eq_true, Bool.and_eq_true, decide_eq_true_eq, hopen, hst, or_self, if_false]

/-- An open entry's own rule decides its write, but for a refusal for the state (R269). -/
theorem writeEntryAt_of_open (h : OpenEntry x y acc n f) (hp : RulePasses x y f) (ha : (applyWrite p x y v slots f).1 ≠ 6) :
    writeEntryAt p x y n v slots f = applyWrite p x y v slots f := by
  have hcheck := writeCheck_of_open h
  have hs := h.shape
  obtain ⟨halloc, hmask⟩ := hp
  have hstuck : (within x 0x3100 2 && tget 0 f.integ.alloc ((x - 0x3100) * 256 + y) == 2) = false := by
    simpa using halloc
  have hsec : belowSecurity x y v true f = false := by
    by_cases hx : x = 0x3110 ∧ y = 1
    · have := hmask hx
      simp [belowSecurity, hs, show ¬ 2 ≤ f.sec.st.toNat by omega]
    · have hclears : (x == 0x3110 && y == 1) = false := by simpa using hx
      simp [belowSecurity, hs, hclears]
  simp only [writeEntryAt, hcheck, hs, Option.getD_some, beq_self_eq_true, hstuck, hsec, belowDebug, ha, bne_self_eq_false,
    Bool.true_and, Bool.or_false, Bool.not_true, decide_false, Bool.false_eq_true, if_false]

/-- A write that its entry's check refuses changes nothing. -/
theorem writeEntryAt_of_check (h : writeCheck x y f ≠ 0) : writeEntryAt p x y n v slots f = (writeCheck x y f, slots, f) := by
  simp [writeEntryAt, h]

/-- The `ALLOC` of a RETIRED bank refuses every write for the state (R247). -/
theorem writeEntryAt_of_retired (h : OpenEntry x y acc n f) (hx : within x 0x3100 2 = true)
    (hr : tget 0 f.integ.alloc ((x - 0x3100) * 256 + y) = 2) : writeEntryAt p x y n v slots f = (6, slots, f) := by
  have hstuck : (within x 0x3100 2 && tget 0 f.integ.alloc ((x - 0x3100) * 256 + y) == 2) = true := by rw [hx, hr]; rfl
  simp only [writeEntryAt, writeCheck_of_open h, hstuck, Bool.or_true, bne_self_eq_false, Bool.false_eq_true, if_false, if_true]

/-- A command that is the write of one entry answers what the write gives, with its status. -/
theorem exec_of_byEntry {c : Instr} {s : State} {k : Nat} {t : Tbl (BitVec 16)} {g : Fab} (hm : Runs .ret s)
    (he : exec c s = byEntry x y v s)
    (hw : writeEntryAt none x y ((entryAt x y).map (·.size) |>.getD 0) v s.slots s.fab = (k, t, g)) :
    exec c s = .next { s with slots := t, fab := emit g (.status (BitVec.ofNat 8 k)) } := by
  rw [he, byEntry, onAll_runs hm, hw]

/-- A command that writes an open entry answers what the entry's own rule gives, with its status. -/
theorem exec_of_open {c : Instr} {s : State} {k : Nat} {t : Tbl (BitVec 16)} {g : Fab} (hm : Runs .ret s)
    (he : exec c s = byEntry x y v s) (ho : OpenEntry x y acc n s.fab) (hp : RulePasses x y s.fab)
    (ha : applyWrite none x y v s.slots s.fab = (k, t, g)) (hk : k ≠ 6) :
    exec c s = .next { s with slots := t, fab := emit g (.status (BitVec.ofNat 8 k)) } := by
  refine exec_of_byEntry hm he ?_
  rw [ho.shape]
  exact (writeEntryAt_of_open ho hp (by rwa [ha])).trans ha

end

section

/-! ### The entries that have commands of their own (R111, R118, R247, R290, R291, R303) -/

theorem entryAt_bank {x : Nat} (y : Nat) (h : 0x3000 ≤ x) (h' : x < 0x4000) : entryAt x y = bankShape x y := by
  simp (disch := omega) only [entryAt, if_neg, if_pos]

theorem entryAt_port {x : Nat} (y : Nat) (h : 0x4000 ≤ x) (h' : x < 0x5000) : entryAt x y = portShape x y := by
  simp (disch := omega) only [entryAt, if_neg, if_pos]

theorem entryAt_count {x : Nat} (y : Nat) (h : 0x8000 ≤ x) (h' : x < 0x9000) : entryAt x y = countShape x y := by
  simp (disch := omega) only [entryAt, if_neg, if_pos]

theorem table_of_lt {n y : Nat} (s : Shape) (h : y < n) : table n s y = some s := if_pos h

theorem entryAt_alloc {b : Nat} (h : b < 512) : entryAt (0x3100 + b / 256) (b % 256) = some (rw 1) := by
  rw [entryAt_bank _ (by omega) (by omega)]
  simp (disch := omega) only [bankShape, within_iff, if_neg, if_pos, table_of_lt]

theorem entryAt_portControl {p : Nat} (h : p < 32) (y : Nat) :
    entryAt (0x4100 + p) y = rows [rw 1, ro 1, ro 1, ro 8, rw 4, rw 2, ro 1, ro 4] y := by
  rw [entryAt_port _ (by omega) (by omega)]
  simp (disch := omega) only [portShape, within_iff, if_neg, if_pos]

theorem entryAt_slot {copy p k : Nat} (hc : copy < 2) (hp : p < 32) (hk : k < 256) :
    entryAt (0x4200 + 0x40 * copy + p) k = some (rw 2) := by
  rw [entryAt_port _ (by omega) (by omega)]
  simp (disch := omega) only [portShape, within_iff, Bool.or_eq_true, if_neg, if_pos, table_of_lt]

theorem entryAt_queue {q : Nat} (h : q < 256) (y : Nat) :
    entryAt (0x4300 + q) y = rows [rw 1, rw 1, rw 1, rw 1, ⟨.wo, .any, 1⟩, ro 1, ro 1, ro 1, ro 1, ro 1, ro 1] y := by
  rw [entryAt_port _ (by omega) (by omega)]
  simp (disch := omega) only [portShape, within_iff, Bool.or_eq_true, if_neg, if_pos]

theorem entryAt_group {c g : Nat} (hc : c < 16) (hg : g < 256) : entryAt (0x4400 + c) g = some (rw 36) := by
  rw [entryAt_port _ (by omega) (by omega)]
  simp (disch := omega) only [portShape, within_iff, Bool.or_eq_true, if_neg, if_pos, table_of_lt]

theorem entryAt_route {k : Nat} (h : k < 8192) : entryAt (0x5400 + k / 256) (k % 256) = some (rwp 8) := by
  have hx : entryAt (0x5400 + k / 256) (k % 256) = linkShape (0x5400 + k / 256) (k % 256) := by
    simp (disch := omega) only [entryAt, if_neg, if_pos]
  rw [hx]
  simp (disch := omega) only [linkShape, within_iff, if_neg, if_pos, table_of_lt]

/-- The indices of counters lie apart from those of their thresholds (R291). -/
theorem isCounter_lt {x y : Nat} (h : isCounter x y = true) : x < 0x8504 := by
  by_contra hx
  simp (disch := omega) only [isCounter, within_iff, if_neg] at h
  simp [within_iff] at h
  omega

theorem entryAt_counter {x y : Nat} (h : isCounter x y = true) : entryAt x y = some (rw (if isMaxBackoff x y then 2 else 8)) := by
  have hlo := isCounter_ge h
  have hhi := isCounter_lt h
  rw [entryAt_count _ (by omega) (by omega)]
  simp (disch := omega) only [countShape, h, if_neg, if_true]

theorem isCounter_threshold {x y : Nat} (h : isCounter x y = true) : isCounter (x + 0x800) y = false := by
  have hlo := isCounter_ge h
  by_contra hc
  have := isCounter_lt (by simpa using hc)
  omega

theorem entryAt_threshold {x y : Nat} (h : isCounter x y = true) : entryAt (x + 0x800) y = some (rw 8) := by
  have hlo := isCounter_ge h
  have hhi := isCounter_lt h
  have hsub : (decide (0x8800 ≤ x + 0x800) && isCounter (x + 0x800 - 0x800) y) = true := by simp [h]; omega
  rw [entryAt_count _ (by omega) (by omega), countShape, isCounter_threshold h, hsub]
  simp (disch := omega) only [Bool.false_eq_true, if_neg, if_false, if_true]

variable {p : Path} {x y v : Nat} {slots : Tbl (BitVec 16)} {f : Fab} {r : Nat × Fab}

theorem applyWrite_bank (h : x < 0x4000) (hr : writeBank x y v f = r) : applyWrite p x y v slots f = (r.1, slots, r.2) := by
  subst hr
  simp (disch := omega) only [applyWrite, within_iff, if_neg, if_pos]

theorem applyWrite_ports (h : 0x4000 ≤ x) (h' : x < 0x5000) (hs : notSlotTable x = true) (hr : writePorts x y v f = r) :
    applyWrite p x y v slots f = (r.1, slots, r.2) := by
  subst hr
  simp only [notSlotTable, Bool.and_eq_true, Bool.not_eq_true'] at hs
  simp (disch := omega) only [applyWrite, hs, Bool.false_eq_true, if_neg, if_pos, if_false]

theorem applyWrite_links (h : 0x5000 ≤ x) (h' : x < 0x6000) (hr : writeLinks x y v f = r) :
    applyWrite p x y v slots f = (r.1, slots, r.2) := by
  subst hr
  simp (disch := omega) only [applyWrite, within_iff, if_neg, if_pos]

theorem applyWrite_count (h : 0x8000 ≤ x) (h' : x < 0x9000) (hr : writeCount x y v f = r) :
    applyWrite p x y v slots f = (r.1, slots, r.2) := by
  subst hr
  simp (disch := omega) only [applyWrite, within_iff, if_neg, if_pos]

theorem applyWrite_start (h : 0xA000 ≤ x) (h' : x < 0xC000) (hr : writeStart x y v f = r) :
    applyWrite p x y v slots f = (r.1, slots, r.2) := by
  subst hr
  simp (disch := omega) only [applyWrite, within_iff, if_neg, if_pos]

theorem applyWrite_slot {copy q : Nat} (hc : copy < 2) (hq : q < 32) :
    applyWrite p (0x4200 + 0x40 * copy + q) y v slots f = writeSlot copy q y v slots f := by
  obtain rfl | rfl : copy = 0 ∨ copy = 1 := by omega
  · simp (disch := omega) only [applyWrite, within_iff, if_pos]
    rw [show 0x4200 + 0x40 * 0 + q - 0x4200 = q by omega]
  · simp (disch := omega) only [applyWrite, within_iff, if_neg, if_pos]
    rw [show 0x4200 + 0x40 * 1 + q - 0x4240 = q by omega]

end

theorem inRange_true {g : Fab → Fab} {f : Fab} : inRange true g f = (0, g f) := rfl
theorem inRange_false {g : Fab → Fab} {f : Fab} : inRange false g f = (0x0B, f) := rfl

/-! ### What the entries' own rules write -/

/-- A standing put through a function is the only one of its port that changes. -/
theorem onReq_reqs (p q : Nat) (g : Req → Req) (f : Fab) (j : Nat) :
    (portOf (onReq p q g f) j).reqs =
      if j = p then tset {} (portOf f p).reqs q (g (tget {} (portOf f p).reqs q)) else (portOf f j).reqs := by
  by_cases h : j = p
  · subst h; simp [onReq]
  · simp [onReq, h, onPort_ne _ _ _ _ h]

theorem each_onReq_queues (l : List Nat) (q : Nat) (g : Req → Req) (f : Fab) : (each l (fun f p => onReq p q g f) f).queues = f.queues :=
  each_proj Fab.queues l (fun f p => onReq p q g f) (fun _ _ _ => rfl) f

/-- A queue's level written, it alone changes of the queues; off level 3 it has no quota count on any port (R111). -/
theorem writeLevel_level (q v : Nat) (f : Fab) :
    queueOf (writeLevel q v f) q = { queueOf f q with level := BitVec.ofNat 8 v } ∧
      ∀ r, r ≠ q → queueOf (writeLevel q v f) r = queueOf f r := by
  have h : (writeLevel q v f).queues = (onQueue f q fun x => { x with level := BitVec.ofNat 8 v }).queues := by
    unfold writeLevel Machine.when
    dsimp only
    split
    · rw [each_onReq_queues]
    · rfl
  refine ⟨?_, fun r hr => ?_⟩
  · rw [queueOf_congr h, onQueue_self]
  · rw [queueOf_congr h, onQueue_ne _ _ _ _ hr]

theorem writeLevel_used {q v : Nat} {f : Fab} (h3 : (queueOf f q).level = 3) (hv : v ≠ 3) {p : Nat} (hp : p < 32) :
    (tget {} (portOf (writeLevel q v f) p).reqs q).used = 0 := by
  have hleaves : ((queueOf f q).level == 3 && v != 3) = true := by simp [h3, hv]
  simp only [writeLevel, hleaves, Machine.when, if_true]
  obtain ⟨F, -, hF⟩ := each_at (fun p f => (tget {} (portOf f p).reqs q).used) (fun f p => onReq p q (fun r => { r with used := 0 }) f)
    (fun f a b hab => by simp [onReq_reqs, Ne.symm hab]) (List.range 32) List.nodup_range p (by simpa using hp)
    (onQueue f q fun x => { x with level := BitVec.ofNat 8 v })
  rw [hF]
  simp [onReq_reqs]

/-! ### Retirement (R247, R248, R250) -/

/-- What a bank reads of its `ALLOC`, its bit of `RETIRED_MASK` and its error count, with the threshold. -/
structure BankView where
  alloc : BitVec 8
  retired : Bool
  errors : BitVec 8
  threshold : BitVec 8

def bankView (b : Nat) (f : Fab) : BankView :=
  ⟨tget 0 f.integ.alloc b, bitAt f.integ.retired b, tget 0 f.integ.ueCount b, f.integ.retireAt⟩

theorem bankView_alloc (b : Nat) (f : Fab) : (bankView b f).alloc = tget 0 f.integ.alloc b := rfl
theorem bankView_retired (b : Nat) (f : Fab) : (bankView b f).retired = bitAt f.integ.retired b := rfl
theorem bankView_errors (b : Nat) (f : Fab) : (bankView b f).errors = tget 0 f.integ.ueCount b := rfl
theorem bankView_threshold (b : Nat) (f : Fab) : (bankView b f).threshold = f.integ.retireAt := rfl

/-- The bank once it is RETIRED. -/
def BankView.retire (v : BankView) : BankView := { v with alloc := 2, retired := true }
/-- The bank once it is FREE again. -/
def BankView.free (v : BankView) : BankView := { v with alloc := 0, retired := false, errors := 0 }

theorem bankView_retireBank {b : Nat} (hb : b < 512) (m k : Bool) (f : Fab) (j : Nat) :
    bankView j (retireBank b m k f) = if j = b then (bankView b f).retire else bankView j f := by
  have h : bankView j (retireBank b m k f) =
      ⟨tget 0 (tset 0 f.integ.alloc b 2) j, bitAt (putBit f.integ.retired b true) j, tget 0 f.integ.ueCount j, f.integ.retireAt⟩ := by
    simp [bankView, retireBank]
  rw [h, tget_tset, bitAt_putBit _ _ _ hb]
  split
  · next hj => rw [hj]; rfl
  · rfl

theorem bankView_freeBank {b : Nat} (hb : b < 512) (f : Fab) (j : Nat) :
    bankView j (freeBank b f) = if j = b then (bankView b f).free else bankView j f := by
  have h : bankView j (freeBank b f) = ⟨tget 0 (tset 0 f.integ.alloc b 0) j, bitAt (putBit f.integ.retired b false) j,
      tget 0 (tset 0 f.integ.ueCount b 0) j, f.integ.retireAt⟩ := rfl
  rw [h, tget_tset, tget_tset, bitAt_putBit _ _ _ hb]
  split <;> rfl

/-- Banks put each through its own step read as that step leaves them, every other bank as before. -/
theorem bankView_each {u : BankView → BankView} {g : Fab → Nat → Fab} {l : List Nat} (hn : l.Nodup)
    (hg : ∀ b ∈ l, ∀ f j, bankView j (g f b) = if j = b then u (bankView b f) else bankView j f) (f : Fab) (j : Nat) :
    bankView j (each l g f) = if j ∈ l then u (bankView j f) else bankView j f := by
  induction l generalizing f with
  | nil => rfl
  | cons b t ih =>
    obtain ⟨hb, ht⟩ := List.nodup_cons.mp hn
    rw [each_cons, ih ht fun c hc => hg c (List.mem_cons_of_mem _ hc), hg b (by simp)]
    by_cases hj : j = b
    · subst hj; simp [hb]
    · simp [hj]

theorem lt_of_mem_bitsSet {n i : Nat} {x : BitVec n} (h : i ∈ bitsSet x) : i < n :=
  List.mem_range.mp ((onesList_sublist _ _).subset h)

/-- The banks as a write of `RETIRED_MASK` leaves them (R250). -/
theorem bankView_writeMask (v : BitVec 512) (f : Fab) (j : Nat) :
    bankView j (writeMask v f) =
      if bitAt v j = bitAt f.integ.retired j then bankView j f
      else if bitAt v j = true then (bankView j f).retire else (bankView j f).free := by
  unfold writeMask
  dsimp only
  rw [bankView_each ((nodup_bitsSet v).filter _) fun b hb => bankView_retireBank (lt_of_mem_bitsSet (List.mem_filter.mp hb).1) false true,
    bankView_each ((nodup_bitsSet _).filter _) fun b hb => bankView_freeBank (lt_of_mem_bitsSet (List.mem_filter.mp hb).1)]
  simp only [List.mem_filter, mem_bitsSet]
  cases bitAt v j <;> cases bitAt f.integ.retired j <;> simp

theorem writeMask_retired (v : BitVec 512) (f : Fab) : (writeMask v f).integ.retired = v := by
  refine BitVec.eq_of_getLsbD_eq fun j _ => ?_
  change bitAt (writeMask v f).integ.retired j = bitAt v j
  rw [← bankView_retired, bankView_writeMask]
  split
  · next h => rw [bankView_retired, h]
  · split
    · next h => rw [h]; rfl
    · next h => rw [Bool.eq_false_iff.mpr h]; rfl

/-- Banks that a threshold retires as it is written (R248). -/
def dueBanks (v : BitVec 8) (f : Fab) : List Nat :=
  (List.range 512).filter fun b => decide (v.toNat ≤ (tget 0 f.integ.ueCount b).toNat) && tget 0 f.integ.alloc b != 2

theorem bankView_writeRetireAt (v : BitVec 8) (f : Fab) (j : Nat) :
    bankView j (writeRetireAt v.toNat f) =
      if j ∈ dueBanks v f then ({ bankView j f with threshold := v } : BankView).retire else { bankView j f with threshold := v } := by
  have hw : writeRetireAt v.toNat f =
      each (dueBanks v f) (fun f b => retireBank b false false f) (onInteg f fun i => { i with retireAt := v }) := by
    simp [writeRetireAt, dueBanks, onInteg]
  rw [hw]
  exact bankView_each (l := dueBanks v f) (List.nodup_range.filter _) (fun b hb =>
    bankView_retireBank (List.mem_range.mp (List.mem_filter.mp hb).1) false false) _ j

theorem writeRetireAt_retireAt (v : BitVec 8) (f : Fab) : (writeRetireAt v.toNat f).integ.retireAt = v := by
  rw [← bankView_threshold 0, bankView_writeRetireAt]
  split <;> rfl

theorem writeRetireAt_alloc {v : BitVec 8} {f : Fab} {b : Nat} (hb : b < 512) (hdue : v.toNat ≤ (tget 0 f.integ.ueCount b).toNat) :
    tget 0 (writeRetireAt v.toNat f).integ.alloc b = 2 := by
  rw [← bankView_alloc, bankView_writeRetireAt]
  split
  · rfl
  · next hn => exact by_contra fun hne => hn (List.mem_filter.mpr ⟨List.mem_range.mpr hb,
      Bool.and_eq_true_iff.mpr ⟨decide_eq_true hdue, bne_iff_ne.mpr hne⟩⟩)

/-! ### The commands -/

theorem members_none {c : Nat} {v : BitVec 288} {f : Fab} (h : ∀ i, i < 256 → bitAt v i = true →
    bitAt (tget 0 f.prm.empty c) i = false ∧ (i % 4 = 0 ∨ bitAt (tget 0 f.prm.fullWide c) (i / 4) = false)) :
    (((List.range 256).filter fun i => bitAt v i).any fun i =>
      bitAt (tget 0 f.prm.empty c) i || (i % 4 != 0 && bitAt (tget 0 f.prm.fullWide c) (i / 4))) = false := by
  refine List.any_eq_false.mpr fun i hi => ?_
  obtain ⟨hlt, hbit⟩ := List.mem_filter.mp hi
  obtain ⟨hempty, hwide | hwide⟩ := h i (List.mem_range.mp hlt) hbit <;>
    simp only [hempty, hwide, bne_self_eq_false, Bool.false_or, Bool.false_and, Bool.and_false, Bool.false_eq_true, not_false_iff]

/-- A legal group entry of endpoints that are there is written (R118, R119). -/
theorem writeGroup_of_legal {c g : Nat} {v : BitVec 288} {f : Fab} (hmode : fld v 256 2 ≠ 3)
    (hfold : fld v 258 2 = 0 ∨ fld v 256 2 = 2) (hzero : fld v 260 28 = 0) (hmembers : ∀ i, i < 256 → bitAt v i = true →
      bitAt (tget 0 f.prm.empty c) i = false ∧ (i % 4 = 0 ∨ bitAt (tget 0 f.prm.fullWide c) (i / 4) = false)) :
    writeGroup c g v.toNat f = (0, { f with epgroups := tset 0 f.epgroups (256 * c + g) v }) := by
  have hlayout : (decide (fld v 256 2 = 3) || (fld v 258 2 != 0 && fld v 256 2 != 2) || fld v 260 28 != 0) = false := by
    rcases hfold with h | h <;> simp [hmode, hzero, h]
  simp only [writeGroup, BitVec.ofNat_toNat, BitVec.setWidth_eq, hlayout, members_none hmembers, Bool.false_eq_true, if_false]

/-- A legal slot entry of the copy at rest is written, where no commit stands (R90, R91). -/
theorem writeSlot_of_legal {copy p k : Nat} {v : BitVec 16} {slots : Tbl (BitVec 16)} {f : Fab}
    (hactive : (portOf f p).active.toNat ≠ copy) (hlegal : slotLegal p v = true) (hcommit : (portOf f p).commit = none) :
    writeSlot copy p k v.toNat slots f = (0, tset slotDefault slots (slotKey copy p k) v, f) := by
  obtain ⟨⟨⟨⟨hodd, hzero⟩, hqueue⟩, hburst⟩, hside⟩ :
      (((eOdd v = false ∧ bitAt v 14 = false) ∧ (eKind v = 1 ∨ eQueue v = 0)) ∧
      (eKind v ≠ 2 ∨ eBurst v = 0)) ∧ (eKind v ≠ 3 ∨ 16 ≤ p) := by
    simpa [slotLegal, eOdd, eKind, eQueue, eBurst] using hlegal
  have hsound : (bitAt v 14 || (eKind v != 1 && eQueue v != 0) || (eKind v == 2 && eBurst v != 0) ||
      (eKind v == 3 && decide (p < 16))) = false := by
    have h1 : (eKind v != 1 && eQueue v != 0) = false := by rcases hqueue with h | h <;> simp [h]
    have h2 : (eKind v == 2 && eBurst v != 0) = false := by rcases hburst with h | h <;> simp [h]
    have h3 : (eKind v == 3 && decide (p < 16)) = false := by rcases hside with h | h <;> simp [h]
    rw [hzero, h1, h2, h3]; rfl
  simp only [writeSlot, BitVec.ofNat_toNat, BitVec.setWidth_eq, hactive, hodd, hsound, hcommit, Option.isSome_none, Bool.false_eq_true,
    if_false]

theorem slotKey_inj {c p k c' p' k' : Nat} (hp : p < 32) (hk : k < 256) (hp' : p' < 32) (hk' : k' < 256)
    (h : slotKey c' p' k' = slotKey c p k) : (c', p', k') = (c, p, k) := by
  unfold slotKey at h
  obtain ⟨rfl, rfl, rfl⟩ : c' = c ∧ p' = p ∧ k' = k := by omega
  rfl

/-- A save that the fabric itself makes leaves the start-up state (R278, R303). -/
theorem selfSave_start (b : Bool) (f : Fab) : (selfSave b f).start = f.start := congrArg (·.2.2.1) (powerView_selfSave b f)

section
variable {s : State} {c : Instr} {x y v n : Nat} {acc : Acc} (hm : Runs .ret s) (hst : s.fab.pwr.st ≠ 2)
include hm hst

/-- A command that writes an open entry gives what the entry's own rule gives, with its status. -/
theorem gives_of_rule {k : Nat} {g : Fab} (he : exec c s = byEntry x y v s) (hs : entryAt x y = some ⟨acc, .any, n⟩)
    (ha : acc = .rw ∨ acc = .wo ∨ acc = .rwp ∧ rwpClosed s.fab = false) (hp : RulePasses x y s.fab)
    (hw : applyWrite none x y v s.slots s.fab = (k, s.slots, g)) (hk : k ≠ 6) :
    Gives c s (emit g (.status (BitVec.ofNat 8 k))) := exec_of_open hm he ⟨hs, ha, hst⟩ hp hw hk

/-- One whose rule is a range gives the rule's effect in it, and RANGE and no change outside. -/
theorem gives_of_inRange {b : Bool} {g : Fab → Fab} (he : exec c s = byEntry x y v s) (hs : entryAt x y = some ⟨acc, .any, n⟩)
    (ha : acc = .rw ∨ acc = .wo ∨ acc = .rwp ∧ rwpClosed s.fab = false) (hp : RulePasses x y s.fab)
    (hw : applyWrite none x y v s.slots s.fab = ((inRange b g s.fab).1, s.slots, (inRange b g s.fab).2)) :
    (b = false → Gives c s (emit s.fab (.status 0x0B))) ∧ (b = true → Gives c s (emit (g s.fab) (.status 0))) := by
  constructor
  · rintro rfl
    exact gives_of_rule hm hst he hs ha hp hw (show (0x0B : Nat) ≠ 6 by decide)
  · rintro rfl
    exact gives_of_rule hm hst he hs ha hp hw (show (0 : Nat) ≠ 6 by decide)

theorem lfsrSeed_writes (p : Fin 32) (v : BitVec 32) :
    (v = 0 → Gives (.lfsrSeed p v) s (emit s.fab (.status 0x0B))) ∧
    (v ≠ 0 → ∃ f, Gives (.lfsrSeed p v) s f ∧ portOf f p = { portOf s.fab p with seed := v, lfsr := v } ∧
      (∀ r, r ≠ p.val → portOf f r = portOf s.fab r) ∧ f.out = .status 0 :: s.fab.out) := by
  have hrule : writePorts (0x4100 + p) 5 v.toNat s.fab = inRange (v.toNat != 0) (writeSeed p v.toNat) s.fab := by
    simp (disch := omega) only [writePorts, within_iff, if_neg, if_pos, writePort]
    rw [show 0x4100 + p.val - 0x4100 = p.val by omega]
  obtain ⟨hout, hin⟩ := gives_of_inRange hm hst (c := .lfsrSeed p v) rfl (entryAt_portControl p.isLt 5) (.inl rfl)
    (rulePasses_of (by omega)) (applyWrite_ports (by omega) (by omega) (notSlotTable_of (by omega)) hrule)
  refine ⟨fun h => hout (by simp [h]), fun h =>
    ⟨_, hin (bne_iff_ne.mpr fun h0 => h (BitVec.eq_of_toNat_eq h0)), ?_, fun r hr => ?_, ?_⟩⟩
  · simp [writeSeed]
  · simp [writeSeed, onPort_ne _ _ _ _ hr]
  · simp [writeSeed]

theorem arbLevel_writes (q : Fin 256) (v : BitVec 8) :
    (3 < v.toNat → Gives (.arbLevelWrite q v) s (emit s.fab (.status 0x0B))) ∧
    (v.toNat ≤ 3 → ∃ f, Gives (.arbLevelWrite q v) s f ∧ queueOf f q = { queueOf s.fab q with level := v } ∧
      (∀ r, r ≠ q.val → queueOf f r = queueOf s.fab r) ∧
      ((queueOf s.fab q).level = 3 → v ≠ 3 → ∀ p, p < 32 → (tget {} (portOf f p).reqs q).used = 0)) := by
  have hrule : writePorts (0x4300 + q) 1 v.toNat s.fab = inRange (v.toNat ≤ 3) (writeLevel q v.toNat) s.fab := by
    simp (disch := omega) only [writePorts, within_iff, if_neg, if_pos, writeQueue]
    rw [show 0x4300 + q.val - 0x4300 = q.val by omega]
  obtain ⟨hout, hin⟩ := gives_of_inRange hm hst (c := .arbLevelWrite q v) rfl (entryAt_queue q.isLt 1) (.inl rfl)
    (rulePasses_of (by omega)) (applyWrite_ports (by omega) (by omega) (notSlotTable_of (by omega)) hrule)
  obtain ⟨hself, hothers⟩ := writeLevel_level q v.toNat s.fab
  refine ⟨fun h => hout (by simpa using h), fun h => ⟨_, hin (by simpa using h), ?_, hothers, fun h3 hv p hp => ?_⟩⟩
  · simpa using hself
  · exact writeLevel_used h3 (fun h => hv (BitVec.eq_of_toNat_eq h)) hp

theorem stallBound_writes (v : BitVec 16) :
    (v.toNat < 256 → Gives (.stallBoundWrite v) s (emit s.fab (.status 0x0B))) ∧
    (256 ≤ v.toNat → Gives (.stallBoundWrite v) s (emit { s.fab with stallBound := v } (.status 0))) := by
  obtain ⟨hout, hin⟩ := gives_of_inRange hm hst (c := .stallBoundWrite v) (b := 256 ≤ v.toNat)
    (g := fun f => { f with stallBound := BitVec.ofNat 16 v.toNat }) rfl (by decide : entryAt 0x4010 1 = some (rw 2)) (.inl rfl)
    (rulePasses_of (by decide)) (applyWrite_ports (by decide) (by decide) (by decide) rfl)
  rw [BitVec.ofNat_toNat, BitVec.setWidth_eq] at hin
  exact ⟨fun h => hout (by simpa using h), fun h => hin (by simpa using h)⟩

theorem alloc_writes (b : Fin 512) (v : BitVec 8) :
    (tget 0 s.fab.integ.alloc b = 2 → Gives (.allocWrite b v) s (emit s.fab (.status 6))) ∧
    (tget 0 s.fab.integ.alloc b ≠ 2 → 1 < v.toNat → Gives (.allocWrite b v) s (emit s.fab (.status 0x0B))) ∧
    (tget 0 s.fab.integ.alloc b ≠ 2 → v.toNat ≤ 1 → ∃ f, Gives (.allocWrite b v) s f ∧ tget 0 f.integ.alloc b = v ∧
      (∀ r, r ≠ b.val → tget 0 f.integ.alloc r = tget 0 s.fab.integ.alloc r) ∧ f.out = .status 0 :: s.fab.out) := by
  have hs := entryAt_alloc b.isLt
  have hx : within (0x3100 + b / 256) 0x3100 2 = true := within_iff.mpr (by omega)
  have hbank : (0x3100 + b.val / 256 - 0x3100) * 256 + b.val % 256 = b := by omega
  by_cases hr : tget 0 s.fab.integ.alloc b = 2
  · refine ⟨fun _ => exec_of_byEntry hm (c := .allocWrite b v) (k := 6) rfl ?_, fun h => absurd hr h, fun h => absurd hr h⟩
    rw [hs]
    exact writeEntryAt_of_retired ⟨hs, .inl rfl, hst⟩ hx (by rw [hbank, hr])
  have hrule : writeBank (0x3100 + b / 256) (b % 256) v.toNat s.fab =
      inRange (v.toNat ≤ 1) (fun f => onInteg f fun i => { i with alloc := tset 0 i.alloc b (BitVec.ofNat 8 v.toNat) }) s.fab := by
    rw [writeBank, if_pos hx, hbank, writeAlloc, if_neg hr]
  obtain ⟨hout, hin⟩ := gives_of_inRange hm hst (c := .allocWrite b v) rfl hs (.inl rfl)
    ⟨fun _ => by rwa [hbank], fun h => by omega⟩ (applyWrite_bank (by omega) hrule)
  refine ⟨fun h => absurd h hr, fun _ h => hout (by simpa using h), fun _ h =>
    ⟨_, hin (by simpa using h), ?_, fun r hne => ?_, rfl⟩⟩
  · simp [onInteg]
  · simp [onInteg, tget_tset_ne _ _ _ hne]

theorem epgroup_writes (c : Fin 16) (g : Fin 256) (v : BitVec 288) (hmode : fld v 256 2 ≠ 3) (hfold : fld v 258 2 = 0 ∨ fld v 256 2 = 2)
    (hzero : fld v 260 28 = 0) (hmembers : ∀ i, i < 256 → bitAt v i = true → bitAt (tget 0 s.fab.prm.empty c) i = false ∧
        (i % 4 = 0 ∨ bitAt (tget 0 s.fab.prm.fullWide c) (i / 4) = false)) :
    ∃ f, Gives (.epgroupWrite c g v) s f ∧ epgroupOf f c g = v ∧ f.out = .status 0 :: s.fab.out := by
  have hrule : writePorts (0x4400 + c) g v.toNat s.fab =
      (0, { s.fab with epgroups := tset 0 s.fab.epgroups (256 * c + g) v }) := by
    simp (disch := omega) only [writePorts, within_iff, if_neg, if_pos]
    rw [show 0x4400 + c.val - 0x4400 = c.val by omega, writeGroup_of_legal hmode hfold hzero hmembers]
  refine ⟨_, gives_of_rule hm hst (c := .epgroupWrite c g v) rfl (entryAt_group c.isLt g.isLt) (.inl rfl)
    (rulePasses_of (by omega)) (applyWrite_ports (by omega) (by omega) (notSlotTable_of (by omega)) hrule) (by simp), ?_, rfl⟩
  simp [epgroupOf]

theorem slotEntry_writes (copy : Fin 2) (p : Fin 32) (k : Fin 256) (v : BitVec 16) (hactive : (portOf s.fab p).active.toNat ≠ copy)
    (hlegal : slotLegal p v = true) (hcommit : (portOf s.fab p).commit = none) :
    ∃ t, exec (.slotEntryWrite copy p k v) s = .next { s with slots := t, fab := emit s.fab (.status 0) } ∧ slotOf t copy p k = v ∧
      ∀ c' p' k', c' < 2 → p' < 32 → k' < 256 → (c', p', k') ≠ (copy.val, p.val, k.val) →
        slotOf t c' p' k' = slotOf s.slots c' p' k' := by
  refine ⟨_, exec_of_open hm (c := .slotEntryWrite copy p k v) rfl ⟨entryAt_slot copy.isLt p.isLt k.isLt, .inl rfl, hst⟩
    (rulePasses_of (by omega)) ((applyWrite_slot copy.isLt p.isLt).trans (writeSlot_of_legal hactive hlegal hcommit)) (by decide), ?_,
    fun c' p' k' _ hp' hk' hne => ?_⟩
  · simp [slotOf]
  · exact tget_tset_ne _ _ _ fun h => hne (slotKey_inj p.isLt k.isLt hp' hk' h)

theorem counter_writes {x : BitVec 16} {y : BitVec 8} (h : isCounter x.toNat y.toNat = true) :
    (∃ f, Gives (.counterClear x y) s f ∧ counterOf f x.toNat y.toNat = 0 ∧ tget false f.cnt.spent (cKey x.toNat y.toNat) = false ∧
      ∀ x' y', cKey x' y' ≠ cKey x.toNat y.toNat → counterOf f x' y' = counterOf s.fab x' y') ∧
    (∀ v : BitVec 64, (v = 0 ∨ counterOf s.fab x.toNat y.toNat < v) → ∃ f, Gives (.thresholdWrite x y v) s f ∧
      thresholdOf f x.toNat y.toNat = v ∧ tget false f.cnt.spent (cKey x.toNat y.toNat) = false ∧ f.cnt.val = s.fab.cnt.val) := by
  have hlo := isCounter_ge h
  have hhi := isCounter_lt h
  refine ⟨?_, fun v hv => ?_⟩
  · have hrule : writeCount x.toNat y.toNat 0 s.fab = inRange true (clearCounter x.toNat y.toNat) s.fab := by
      rw [writeCount, if_neg (by omega), if_pos h]
      rfl
    refine ⟨_, (gives_of_inRange hm hst (c := .counterClear x y) (if_pos h) (entryAt_counter h) (.inl rfl) (rulePasses_of (by omega))
      (applyWrite_count (by omega) (by omega) hrule)).2 rfl, ?_, ?_, fun x' y' hne => ?_⟩
    · simp [counterOf, clearCounter]
    · simp [clearCounter]
    · simp [counterOf, clearCounter, tget_tset_ne _ _ _ hne]
  · have hunreached : (v != 0 && decide (v.toNat ≤ (counterOf s.fab x.toNat y.toNat).toNat)) = false := by
      rcases hv with rfl | hlt
      · rfl
      · simp [Nat.not_le.mpr (BitVec.lt_def.mp hlt)]
    have hrule : writeCount (x.toNat + 0x800) y.toNat v.toNat s.fab = (0, { s.fab with cnt := { s.fab.cnt with
        thr := tset 0 s.fab.cnt.thr (cKey x.toNat y.toNat) v
        spent := tset false s.fab.cnt.spent (cKey x.toNat y.toNat) false } }) := by
      rw [writeCount, if_neg (by omega), isCounter_threshold h, if_neg (by decide), Nat.add_sub_cancel]
      simp only [writeThreshold, BitVec.ofNat_toNat, BitVec.setWidth_eq, hunreached, Bool.false_eq_true, if_false]
    refine ⟨_, gives_of_rule hm hst (c := .thresholdWrite x y v) (if_pos h) (entryAt_threshold h) (.inl rfl) (rulePasses_of (by omega))
      (applyWrite_count (by omega) (by omega) hrule) (by simp), ?_, ?_, rfl⟩
    · simp [thresholdOf]
    · simp

omit hst in
/-- There is no entry at index 0. -/
theorem noCounter_writes {x : BitVec 16} {y : BitVec 8} (v : BitVec 64) (h : isCounter x.toNat y.toNat = false) :
    Gives (.counterClear x y) s (emit s.fab (.status 4)) ∧ Gives (.thresholdWrite x y v) s (emit s.fab (.status 4)) := by
  have hnot : ¬ isCounter x.toNat y.toNat = true := by simp [h]
  have hwrite : writeEntryAt none 0 0 ((entryAt 0 0).map (·.size) |>.getD 0) 0 s.slots s.fab = (4, s.slots, s.fab) :=
    writeEntryAt_of_check (f := s.fab) (show (4 : Nat) ≠ 0 by decide)
  exact ⟨exec_of_byEntry hm (if_neg hnot) hwrite, exec_of_byEntry hm (if_neg hnot) hwrite⟩

theorem counterClearAll_writes :
    ∃ f, Gives .counterClearAll s f ∧ f.cnt.val = [] ∧ f.cnt.thr = s.fab.cnt.thr ∧ f.out = .status 0 :: s.fab.out :=
  ⟨_, (gives_of_inRange hm hst (c := .counterClearAll) (b := true) (g := clearAll) rfl
    (by decide : entryAt 0x8000 1 = some ⟨.wo, .any, 1⟩) (.inr (.inl rfl)) (rulePasses_of (by decide))
    (applyWrite_count (by decide) (by decide) rfl)).2 rfl, rfl, rfl, rfl⟩

omit hst in
/-- A persistent entry refuses a write for the state until its running values are there (R264). -/
theorem gives_of_closed (hc : rwpClosed s.fab = true) (he : exec c s = byEntry x y v s) (hs : entryAt x y = some (rwp n)) :
    Gives c s (emit s.fab (.status 6)) := by
  have hcheck : writeCheck x y s.fab = 6 := by simp [writeCheck, hs, rwp, hc]
  exact exec_of_byEntry hm he ((writeEntryAt_of_check (by rw [hcheck]; decide)).trans (by rw [hcheck]))

section
variable (ho : rwpClosed s.fab = false)
include ho

theorem failedStarts_writes : ∃ f, Gives .failedStartsClear s f ∧ f.start.failed = 0 ∧ f.out.head? = some (.status 0) := by
  refine ⟨_, (gives_of_inRange hm hst (c := .failedStartsClear) (b := true) (g := fun f => selfSave false (rwpSet 0xB000 3 0 f)) rfl
    (by decide : entryAt 0xB000 3 = some (rwp 1)) (.inr (.inr ⟨rfl, ho⟩)) (rulePasses_of (by decide))
    (applyWrite_start (by decide) (by decide) rfl)).2 rfl, ?_, rfl⟩
  rw [emit_start, selfSave_start]
  rfl

theorem failHistory_writes (i : Fin 8) : ∃ f, Gives (.failHistoryClear i) s f ∧ tget 0 f.start.history i = 0 := by
  have hs : entryAt 0xB001 i = some (rwp 8) := table_of_lt (rwp 8) i.isLt
  refine ⟨_, (gives_of_inRange hm hst (c := .failHistoryClear i) (b := true) (g := fun f => selfSave false (rwpSet 0xB001 i 0 f)) rfl
    hs (.inr (.inr ⟨rfl, ho⟩)) (rulePasses_of (by decide)) (applyWrite_start (by decide) (by decide) rfl)).2 rfl, ?_⟩
  rw [emit_start, selfSave_start]
  simp [rwpSet, onStart]

theorem fawnThreshold_writes (v : BitVec 8) :
    (1 ≤ v.toNat → v.toNat ≤ 7 → ∃ f, Gives (.fawnThresholdWrite v) s f ∧ f.start.fawnAt = v) ∧
    (v = 0 → Gives (.fawnThresholdWrite v) s (emit s.fab (.status 0x0B))) := by
  obtain ⟨hout, hin⟩ := gives_of_inRange hm hst (c := .fawnThresholdWrite v) (b := decide (1 ≤ v.toNat) && decide (v.toNat ≤ 7))
    (g := fun f => selfSave false (rwpSet 0xB000 4 v.toNat f)) rfl (by decide : entryAt 0xB000 4 = some (rwp 1))
    (.inr (.inr ⟨rfl, ho⟩)) (rulePasses_of (by decide)) (applyWrite_start (by decide) (by decide) rfl)
  refine ⟨fun h1 h7 => ⟨_, hin (by simp [h1, h7]), ?_⟩, fun h => hout (by simp [h])⟩
  rw [emit_start, selfSave_start]
  simp [rwpSet, onStart]

theorem retireThreshold_writes {v : BitVec 8} (hv : v ≠ 0) : ∃ f, Gives (.retireThresholdWrite v) s f ∧ f.integ.retireAt = v ∧
    (∀ b, b < 512 → v.toNat ≤ (tget 0 s.fab.integ.ueCount b).toNat → tget 0 f.integ.alloc b = 2) := by
  obtain ⟨-, hin⟩ := gives_of_inRange hm hst (c := .retireThresholdWrite v) (b := decide (1 ≤ v.toNat) && decide (v.toNat ≤ 255))
    (g := writeRetireAt v.toNat) rfl (by decide : entryAt 0x3110 2 = some (rwp 1)) (.inr (.inr ⟨rfl, ho⟩))
    (rulePasses_retirement nofun) (applyWrite_bank (by decide) rfl)
  have hpos : 1 ≤ v.toNat := Nat.one_le_iff_ne_zero.mpr fun h => hv (BitVec.eq_of_toNat_eq h)
  refine ⟨_, hin (by simp [hpos, Nat.le_of_lt_succ v.isLt]), ?_, fun b hb hdue => ?_⟩
  · rw [emit_integ, writeRetireAt_retireAt]
  · rw [emit_integ, writeRetireAt_alloc hb hdue]

theorem retiredMask_writes (v : BitVec 512) (hsec : s.fab.sec.st.toNat < 2) :
    ∃ f, Gives (.retiredMaskWrite v) s f ∧ f.integ.retired = v ∧
      (∀ b, b < 512 → bitAt v b = true → bitAt s.fab.integ.retired b = false → tget 0 f.integ.alloc b = 2) ∧
      (∀ b, b < 512 → bitAt v b = false → bitAt s.fab.integ.retired b = true →
        tget 0 f.integ.alloc b = 0 ∧ tget 0 f.integ.ueCount b = 0) := by
  have hrule : writeBank 0x3110 1 v.toNat s.fab = (0, writeMask v s.fab) := by
    simp only [writeBank, show within 0x3110 0x3100 2 = false by decide, Bool.false_eq_true, if_false, if_true, BitVec.ofNat_toNat,
      BitVec.setWidth_eq]
  refine ⟨_, gives_of_rule hm hst (c := .retiredMaskWrite v) rfl (by decide : entryAt 0x3110 1 = some (rwp 64))
    (.inr (.inr ⟨rfl, ho⟩)) (rulePasses_retirement fun _ => hsec) (applyWrite_bank (by decide) hrule) (by simp), ?_,
    fun b _ hnew hold => ?_, fun b _ hnew hold => ?_⟩
  · rw [emit_integ, writeMask_retired]
  · rw [emit_integ, ← bankView_alloc, bankView_writeMask, hnew, hold]
    rfl
  · rw [emit_integ, ← bankView_alloc, ← bankView_errors, bankView_writeMask, hnew, hold]
    exact ⟨rfl, rfl⟩

theorem route_writes (k : BitVec 13) (v : BitVec 64) (hroute : routeOk s.fab s.fab.dom.package.toNat k.toNat v.toNat = true)
    (hv : v.toNat < 2 ^ 34) : ∃ f, Gives (.routeWrite k v) s f ∧ tget 0 f.dom.route k.toNat = v ∧
      ∀ j, j ≠ k.toNat → tget 0 f.dom.route j = tget 0 s.fab.dom.route j := by
  have hk : k.toNat < 8192 := k.isLt
  have hrule : writeLinks (0x5400 + k.toNat / 256) (k.toNat % 256) v.toNat s.fab =
      (0, withPaths (fun f => onDom f fun d => { d with route := tset 0 d.route k.toNat v }) s.fab) := by
    simp (disch := omega) only [writeLinks, if_neg]
    rw [show (0x5400 + k.toNat / 256 - 0x5400) * 256 + k.toNat % 256 = k.toNat by omega, writeRoute, Nat.mod_eq_of_lt hv, hroute,
      Nat.div_eq_of_lt hv]
    simp
  have hroutes := routesOf_withPaths (fun f => onDom f fun d => { d with route := tset 0 d.route k.toNat v }) s.fab
  refine ⟨_, gives_of_rule hm hst (c := .routeWrite k v) rfl (entryAt_route hk) (.inr (.inr ⟨rfl, ho⟩))
    (rulePasses_of (by omega)) (applyWrite_links (by omega) (by omega) hrule) (by simp), ?_, fun j hj => ?_⟩
  · exact (congrArg (tget 0 · k.toNat) hroutes).trans (tget_tset_self ..)
  · exact (congrArg (tget 0 · j) hroutes).trans (tget_tset_ne _ _ _ hj)
end
end
/-- Settles O53: each command's entry is open to it, and its write is what the entry's own rule gives. -/
theorem entryWritesTakeEffect : Obligations.EntryWritesTakeEffect := by
  unfold Obligations.EntryWritesTakeEffect
  intro s hm hst
  exact ⟨lfsrSeed_writes hm hst, arbLevel_writes hm hst, stallBound_writes hm hst, alloc_writes hm hst, epgroup_writes hm hst,
    slotEntry_writes hm hst, fun _ _ h => counter_writes hm hst h, fun _ _ v h => noCounter_writes hm v h, counterClearAll_writes hm hst,
    fun hc => ⟨gives_of_closed hm hc (c := .failedStartsClear) rfl (by decide : entryAt 0xB000 3 = some (rwp 1)),
      fun v => gives_of_closed hm hc (c := .retiredMaskWrite v) rfl (by decide : entryAt 0x3110 1 = some (rwp 64))⟩,
    fun ho => ⟨failedStarts_writes hm hst ho, failHistory_writes hm hst ho, fawnThreshold_writes hm hst ho,
      fun _ hv => retireThreshold_writes hm hst ho hv, retiredMask_writes hm hst ho, route_writes hm hst ho⟩⟩

end Sys2Proof.Machine
end

section
/-!
SUPPORT. The words of a row, what a read of a row hands on and leaves and what a write of one stores (R35, R53 to R57, R107, R237 to
R241), and the rows that the legs of an instruction read and write; then obligation O13.
-/

namespace Sys2Proof.Machine

/-! ### Lists of a row's 36 words -/

theorem slices_length (w n x : Nat) : (slices w n x).length = n := by
  induction n generalizing x with
  | zero => rfl
  | succ n ih => simp [slices, ih]

@[simp] theorem encodeRow_length (r : Row) : (encodeRow r).length = 36 := by simp [encodeRow, wordsOf, slices_length]
@[simp] theorem poisonRow_length (r : Row) : (poisonRow r).length = 36 := by simp [poisonRow, wordsOf, slices_length]
@[simp] theorem mergedRow_length (bm : Nat) (old : List Code) (new : Row) : (mergedRow bm old new).length = 36 := by simp [mergedRow]

/-- A function of each word in its place is a function of each word. -/
theorem map_range_getD {α β : Type} {l : List α} {n : Nat} (h : l.length = n) (g : α → β) (d : α) :
    ((List.range n).map fun w => g (l.getD w d)) = l.map g := by
  refine List.ext_getElem (by simp [h]) fun i hi _ => ?_
  have hi : i < l.length := by simpa [h] using hi
  simp [List.getElem?_eq_getElem hi]

/-- With no word held back, a test of the words checked is a test of the row's words. -/
theorem checkedWords_any {ws : List Code} (h : ws.length = 36) (P : Code → Bool) :
    ((checkedWords ws 0).any fun e => P e.2) = ws.any P := by
  have hall : checkedWords ws 0 = (List.range 36).zip ws := by simp [checkedWords, bitAt]
  have hsnd : ((List.range 36).zip ws).map Prod.snd = ws := List.map_snd_zip (by simp [h])
  rw [hall]
  conv_rhs => rw [← hsnd, List.any_map]
  rfl

theorem overlay_getD (old new : List Code) (m : BitVec 36) {w : Nat} (h : w < 36) :
    (overlay old new m).getD w 0 = if bitAt m w then new.getD w 0 else old.getD w 0 := by
  simp [overlay, h]

theorem overlay_getElem? {old new : List Code} (hnew : new.length = 36) (hold : old.length = 36) (m : BitVec 36) {w : Nat}
    (h : w < 36) : (overlay old new m)[w]? = if bitAt m w then new[w]? else old[w]? := by
  have hn : new[w]? = some (new.getD w 0) := by simp [List.getElem?_eq_getElem (hnew ▸ h)]
  have ho : old[w]? = some (old.getD w 0) := by simp [List.getElem?_eq_getElem (hold ▸ h)]
  rw [hn, ho, overlay, List.getElem?_map, List.getElem?_range h, Option.map_some]
  split <;> rfl

/-- Words written over a row are the row where every word is written. -/
theorem overlay_all {old new : List Code} (h : new.length = 36) : overlay old new (BitVec.allOnes 36) = new := by
  have hall : ∀ w ∈ List.range 36, (if bitAt (BitVec.allOnes 36) w then new.getD w 0 else old.getD w 0) = new.getD w 0 := fun w hw =>
    if_pos (by rw [bitAt, BitVec.getLsbD_allOnes]; simpa using hw)
  rw [overlay, List.map_congr_left hall]
  simpa using map_range_getD h id 0

/-- Words written over words written before: each place holds the latest word of it. -/
theorem overlay_overlay (old mid new : List Code) (m n : BitVec 36) :
    overlay old (overlay mid new n) (m ||| n) = overlay (overlay old mid m) new n := by
  refine List.map_congr_left fun w hw => ?_
  rw [overlay_getD _ _ _ (List.mem_range.mp hw), overlay_getD _ _ _ (List.mem_range.mp hw)]
  have hor : bitAt (m ||| n) w = (bitAt m w || bitAt n w) := by simp [bitAt]
  rw [hor]
  cases bitAt m w <;> cases bitAt n w <;> rfl

theorem unslice_testBit (l : List Bool) (i : Nat) : (unslice 1 (l.map Bool.toNat)).testBit i = l.getD i false := by
  induction l generalizing i with
  | nil => simp [unslice]
  | cons b t ih =>
    have hb : b.toNat % 2 ^ 1 = b.toNat := by cases b <;> rfl
    have hsplit : unslice 1 ((b :: t).map Bool.toNat) = 2 ^ 1 * unslice 1 (t.map Bool.toNat) + b.toNat := by
      simp only [List.map_cons, unslice, hb]; omega
    rw [hsplit, Nat.testBit_two_pow_mul_add _ (by cases b <;> decide)]
    cases i with
    | zero => cases b <;> rfl
    | succ i => rw [if_neg (by omega), Nat.add_sub_cancel, ih]; rfl

/-- The words of a row that a byte mask covers whole. -/
def wholeWords (bm : Nat) : BitVec 36 :=
  BitVec.ofNat 36 (unslice 1 ((List.range 36).map fun w => (coverOf bm w == 0xFFFF).toNat))

theorem bitAt_wholeWords (bm : Nat) {w : Nat} (h : w < 36) : bitAt (wholeWords bm) w = (coverOf bm w == 0xFFFF) := by
  have hbits : (unslice 1 ((List.range 36).map fun w => (coverOf bm w == 0xFFFF).toNat)).testBit w = (coverOf bm w == 0xFFFF) := by
    have := unslice_testBit ((List.range 36).map fun w => coverOf bm w == 0xFFFF) w
    simpa [h, Function.comp_def] using this
  rw [wholeWords, bitAt, BitVec.getLsbD_ofNat, hbits]
  simp [h]

/-! ### The read of the array that every access begins with (R55, R242) -/

@[simp] theorem checkState_sec (ra : Nat) (f : Fab) : (checkState ra f).sec = f.sec := by
  unfold checkState
  dsimp only
  split
  · simp
  · split <;> simp

/-- In a state word of good parity it notes at most that a reserved state has been told. -/
theorem checkState_told {ra : Nat} {f : Fab} (h : oddOnes 17 (stateWord f.store ra).toNat = false) :
    ∃ t, (checkState ra f).store = { f.store with told := t } := by
  simp only [checkState, h, Bool.false_eq_true, if_false]
  split
  · exact ⟨tset false f.store.told ra true, by simp⟩
  · exact ⟨f.store.told, rfl⟩

theorem checkState_of_unreserved {ra : Nat} {f : Fab} (h : oddOnes 17 (stateWord f.store ra).toNat = false)
    (hst : rawState f.store ra ≠ 3) : checkState ra f = f := by
  simp [checkState, h, hst]

/-! ### What a write of a row stores -/

/-- Row `ra` stands in state `st` and the words of `ws` that `m` marks stand over its words; no other row changes (R53, R108). -/
structure Stored (t s : Store) (ra st : Nat) (ws : List Code) (m : BitVec 36) : Prop where
  state : rawState t ra = st
  words : rmwWords t ra = overlay (rmwWords s ra) ws m
  others : OtherRowsKept t s ra

/-- The posted write buffer of a row's bank holds no other row. -/
def BufferFits (s : Store) (ra : Nat) : Prop := ∀ b, tget none s.pwb (bankOf ra) = some b → b.row = ra % 256

theorem bufferFits_of_takes {s : Store} {ra : Nat} {rmw : Bool} (h : bufferTakes s ra rmw = true) : BufferFits s ra := by
  intro b hb
  unfold bufferTakes at h
  rw [hb] at h
  simpa using (Bool.and_eq_true_iff.mp h).2

/-- The buffer as it takes words of row `ra` (R107). -/
def postedBuffer (p ra : Nat) (ws : List Code) (m : BitVec 36) (s : Store) : Pwb :=
  match bufferOf s ra with
  | some b => ⟨b.id, ra % 256, overlay b.words ws m, b.mask ||| m, p⟩
  | none => ⟨s.posted, ra % 256, ws, m, p⟩

theorem postedBuffer_row (p ra : Nat) (ws : List Code) (m : BitVec 36) (s : Store) : (postedBuffer p ra ws m s).row = ra % 256 := by
  unfold postedBuffer
  split <;> rfl

theorem overlay_postedBuffer (p ra : Nat) (ws : List Code) (m : BitVec 36) (s : Store) :
    overlay (arrayWords s ra) (postedBuffer p ra ws m s).words (postedBuffer p ra ws m s).mask = overlay (rmwWords s ra) ws m := by
  unfold postedBuffer rmwWords
  cases bufferOf s ra with
  | none => rfl
  | some b => exact overlay_overlay ..

/-- The banks once words of row `ra` stand in its bank's buffer with the row's state (R56, R107). -/
def postedStore (p ra : Nat) (ws : List Code) (m : BitVec 36) (st : Nat) (s : Store) : Store :=
  { setState ra st s with pwb := tset none s.pwb (bankOf ra) (some (postedBuffer p ra ws m s)), posted := s.posted + 1 }

theorem bufferOf_postedStore_self (p ra : Nat) (ws : List Code) (m : BitVec 36) (st : Nat) (s : Store) :
    bufferOf (postedStore p ra ws m st s) ra = some (postedBuffer p ra ws m s) := by
  simp [bufferOf, postedStore, postedBuffer_row]

theorem bufferOf_postedStore_ne {p ra r : Nat} {ws : List Code} {m : BitVec 36} {st : Nat} {s : Store} (hb : BufferFits s ra)
    (hr : r ≠ ra) : bufferOf (postedStore p ra ws m st s) r = bufferOf s r := by
  by_cases hbank : bankOf r = bankOf ra
  · have hrow : ¬ ra % 256 = r % 256 := by unfold bankOf at hbank; omega
    have hold : bufferOf s r = none := by
      unfold bufferOf
      rw [hbank]
      split
      · next b h => rw [if_neg (by rw [hb b h]; exact hrow)]
      · rfl
    rw [hold]
    simp [bufferOf, postedStore, hbank, postedBuffer_row, hrow]
  · simp [bufferOf, postedStore, tget_tset_ne _ _ _ hbank]

theorem stored_postedStore {p ra : Nat} {ws : List Code} {m : BitVec 36} {st : Nat} {s : Store} (hb : BufferFits s ra) (hst : st < 4) :
    Stored (postedStore p ra ws m st s) s ra st ws m := by
  have hstate : ∀ r, rawState (postedStore p ra ws m st s) r = if r = ra then st else rawState s r := fun r =>
    rawState_setState s ra st r hst
  refine ⟨by rw [hstate, if_pos rfl], ?_, fun r hr => ⟨by rw [hstate, if_neg hr], ?_⟩⟩
  · rw [rmwWords, bufferOf_postedStore_self]
    exact overlay_postedBuffer ..
  · rw [rmwWords, bufferOf_postedStore_ne hb hr, rmwWords]
    rfl

/-- No ECC fault is armed (R297). -/
def NoEccInjection (f : Fab) : Prop := injKind f ≠ 1 ∧ injKind f ≠ 2

theorem postWords_store {p ra : Nat} {ws : List Code} {m : BitVec 36} {st : Nat} {f : Fab} (h : NoEccInjection f) :
    (postWords p ra ws m st f).store = postedStore p ra ws m st f.store := by
  have hwords : injectWords ra m ws f = (ws, f) := by simp [injectWords, h.1, h.2]
  simp only [postWords, hwords, onStore_self]
  rfl

/-- State, words and mask of what a write of a row stores (R53, R54, R238, R240, R241). -/
def written (ra : Nat) (new fresh : Row) (bm : Nat) (poison : Bool) (s : Store) : Nat × List Code × BitVec 36 :=
  let st := rawState s ra
  let whole := fun r => (if poison then 2 else 1, if poison then poisonRow r else encodeRow r, BitVec.allOnes 36)
  if st = 0 then whole fresh
  else if bm = 2 ^ 576 - 1 then whole new
  else if needsMerge bm (st != 1) || poison then
    let out := mergedRow bm (rmwWords s ra) new
    let out := if st = 3 then (List.range 36).map fun w =>
        if coverOf bm w = 0xFFFF then out.getD w 0 else poisonWord (dataOf (out.getD w 0))
      else out
    let out := if poison then out.map fun c => poisonWord (dataOf c) else out
    (if st = 3 || poison || out.any (fun c => classOf c = .poison) then 2 else 1, out, BitVec.allOnes 36)
  else (1, encodeRow new, wholeWords bm)

theorem written_state_lt (ra : Nat) (new fresh : Row) (bm : Nat) (poison : Bool) (s : Store) :
    (written ra new fresh bm poison s).1 < 4 := by
  have hone : ∀ c : Prop, [Decidable c] → (if c then 2 else 1) < 4 := fun c _ => by split <;> decide
  unfold written
  dsimp only
  split
  · exact hone _
  · split
    · exact hone _
    · split
      · exact hone _
      · exact (by decide : 1 < 4)

/-- A write of a row stores what `written` says of the row as it is read (R55). -/
theorem writeRow_store {p ra : Nat} {new fresh : Row} {bm : Nat} {poison : Bool} {f g : Fab} (hg : checkState ra f = g)
    (hj : NoEccInjection g) : (writeRow p ra new fresh bm poison f).store =
      postedStore p ra (written ra new fresh bm poison g.store).2.1 (written ra new fresh bm poison g.store).2.2
        (written ra new fresh bm poison g.store).1 g.store := by
  have hpost := fun ws m st => postWords_store (p := p) (ra := ra) (ws := ws) (m := m) (st := st) hj
  unfold writeRow written
  rw [hg]
  dsimp only
  split
  · split <;> exact hpost ..
  · split
    · rw [settleRepair_store]
      split <;> exact hpost ..
    · split
      · rw [settleRepair_store, postWords_store_congr (f := g) _ _ _ _ _ (by simp)]
        exact hpost ..
      · rw [settleRepair_store]
        exact hpost ..

theorem writeRow_stored {p ra : Nat} {new fresh : Row} {bm : Nat} {poison : Bool} {f : Fab} (hs : RowSound f ra)
    (hb : BufferFits f.store ra) :
    Stored (writeRow p ra new fresh bm poison f).store f.store ra (written ra new fresh bm poison f.store).1
      (written ra new fresh bm poison f.store).2.1 (written ra new fresh bm poison f.store).2.2 := by
  obtain ⟨hparity, -, hj⟩ := hs
  obtain ⟨t, ht⟩ := checkState_told hparity
  have hj : NoEccInjection (checkState ra f) := by rwa [NoEccInjection, injKind, checkState_sec]
  rw [writeRow_store rfl hj, ht]
  obtain ⟨hstate, hwords, hothers⟩ := stored_postedStore (p := p) (m := (written ra new fresh bm poison f.store).2.2)
    (ws := (written ra new fresh bm poison f.store).2.1) (s := { f.store with told := t }) hb
    (written_state_lt ra new fresh bm poison f.store)
  exact ⟨hstate, hwords, hothers⟩

theorem mergesAt_iff {s : Store} {ra bm : Nat} {poison : Bool} : mergesAt s ra bm poison = true ↔
    rawState s ra ≠ 0 ∧ bm ≠ 2 ^ 576 - 1 ∧ (needsMerge bm (rawState s ra != 1) || poison) = true := by
  simp only [mergesAt, Bool.and_eq_true, bne_iff_ne, and_assoc]

/-- The words of a merged write, a poisoned row's with the poison syndrome (R240, R241). -/
def mergedWords (bm : Nat) (ws : List Code) (new : Row) (poison : Bool) : List Code :=
  if poison then (mergedRow bm ws new).map fun c => poisonWord (dataOf c) else mergedRow bm ws new

theorem mergedWords_length (bm : Nat) (ws : List Code) (new : Row) (poison : Bool) : (mergedWords bm ws new poison).length = 36 := by
  unfold mergedWords
  split <;> simp

/-- The words that a write of a row stores, in the terms of R238: whole, by words, or merged. -/
theorem writeRow_stores {p ra bm : Nat} {new fresh : Row} {poison : Bool} {f : Fab} (hs : RowSound f ra)
    (ht : bufferTakes f.store ra (mergesAt f.store ra bm poison) = true) :
    let st := rawState f.store ra
    let ws := rmwWords f.store ra
    let t := (writeRow p ra new fresh bm poison f).store
    OtherRowsKept t f.store ra ∧
    (st = 0 → rawState t ra = (if poison then 2 else 1) ∧ rmwWords t ra = (if poison then poisonRow fresh else encodeRow fresh)) ∧
    (st ≠ 0 → bm = 2 ^ 576 - 1 →
      rawState t ra = (if poison then 2 else 1) ∧ rmwWords t ra = (if poison then poisonRow new else encodeRow new)) ∧
    (st = 1 → bm ≠ 2 ^ 576 - 1 → mergesAt f.store ra bm poison = false → rawState t ra = 1 ∧
      ∀ w, w < 36 → (rmwWords t ra)[w]? = (if coverOf bm w = 0xFFFF then (encodeRow new)[w]? else ws[w]?)) ∧
    ((st = 1 ∨ st = 2) → mergesAt f.store ra bm poison = true →
      (poison = false → rmwWords t ra = mergedRow bm ws new ∧
        rawState t ra = (if someWord .poison (mergedRow bm ws new) then 2 else 1)) ∧
      (poison = true → rmwWords t ra = (mergedRow bm ws new).map (fun c => poisonWord (dataOf c)) ∧ rawState t ra = 2)) := by
  obtain ⟨hstate, hwords, hothers⟩ := writeRow_stored (p := p) (new := new) (fresh := fresh) (bm := bm) (poison := poison) hs
    (bufferFits_of_takes ht)
  have hlen := hs.2.1
  intro st ws t
  have hrow : ∀ r, (if poison then poisonRow r else encodeRow r).length = 36 := fun r => by split <;> simp
  refine ⟨hothers, fun h0 => ?unwritten, fun h0 hfull => ?whole, fun h1 hpart hmerge => ?words, fun h12 hmerge => ?merged⟩
  case unwritten =>
    have hw : written ra new fresh bm poison f.store = (if poison then 2 else 1, if poison then poisonRow fresh else encodeRow fresh,
        BitVec.allOnes 36) := if_pos h0
    rw [hw] at hstate hwords
    exact ⟨hstate, hwords.trans (overlay_all (hrow fresh))⟩
  case whole =>
    have hw : written ra new fresh bm poison f.store = (if poison then 2 else 1, if poison then poisonRow new else encodeRow new,
        BitVec.allOnes 36) := (if_neg h0).trans (if_pos hfull)
    rw [hw] at hstate hwords
    exact ⟨hstate, hwords.trans (overlay_all (hrow new))⟩
  case words =>
    have hpath : ¬ (needsMerge bm (st != 1) || poison) = true := fun hpath =>
      absurd (mergesAt_iff.mpr ⟨by simp only [st] at h1; omega, hpart, hpath⟩) (by simp [hmerge])
    have hw : written ra new fresh bm poison f.store = (1, encodeRow new, wholeWords bm) :=
      (if_neg (by simp [st, h1])).trans ((if_neg hpart).trans (if_neg hpath))
    rw [hw] at hstate hwords
    refine ⟨hstate, fun w hlt => ?_⟩
    rw [hwords, overlay_getElem? (by simp) hlen _ hlt, bitAt_wholeWords bm hlt]
    simp [ws]
  case merged =>
    obtain ⟨hne, hpart, hpath⟩ := mergesAt_iff.mp hmerge
    have h3 : ¬ rawState f.store ra = 3 := by rcases h12 with h | h <;> simp [st] at h <;> omega
    have hw : written ra new fresh bm poison f.store =
        (if poison || someWord .poison (mergedWords bm ws new poison) then 2 else 1, mergedWords bm ws new poison,
          BitVec.allOnes 36) :=
      (if_neg hne).trans <| (if_neg hpart).trans <| (if_pos hpath).trans <| by simp [h3, ws, mergedWords, someWord]
    rw [hw] at hstate hwords
    rw [overlay_all (mergedWords_length ..)] at hwords
    refine ⟨fun hp => ?_, fun hp => ?_⟩
    · subst hp
      exact ⟨hwords, hstate⟩
    · subst hp
      exact ⟨hwords, hstate⟩

/-! ### What a read of a row hands on and leaves -/

theorem readRow_unwritten {p req ra : Nat} {f : Fab} (hw : oddOnes 17 (stateWord f.store ra).toNat = false)
    (h : rawState f.store ra = 0) : readRow p req ra f =
      (⟨blankRow, false, false⟩, raise 8 (place [(0, p), (8, ra), (32, req)]) (countPort p 0x0D 1 f)) := by
  unfold readRow
  rw [checkState_of_unreserved hw (by omega)]
  simp only [h, if_pos]

/-- What a read of words `ws` of a written row leaves: they are reported, the row is POISONED where a word is uncorrectable, and it
is queued for repair where one is correctable (R237). -/
def wordsRead (p ra : Nat) (ws : List Code) (seen : List (Nat × Code)) (f : Fab) : Fab :=
  when (someWord .correctable ws) (queueRepair ra) (when (rawState f.store ra = 1 && someWord .uncorrectable ws)
    (fun f => onStore f (setState ra 2)) (reportWords ra 0 p (rawState f.store ra != 1) seen f))

theorem wordsRead_store (p ra : Nat) (ws : List Code) (seen : List (Nat × Code)) (f : Fab) : (wordsRead p ra ws seen f).store =
    if rawState f.store ra = 1 ∧ someWord .uncorrectable ws = true then setState ra 2 f.store else f.store := by
  unfold wordsRead
  rw [when_store _ _ _ (queueRepair_store ..), Machine.when]
  simp only [Bool.and_eq_true, decide_eq_true_eq]
  split <;> simp

/-- A read of a written row whose words no other port's buffer holds. -/
theorem readRow_unheld {p req ra : Nat} {f g : Fab} (hg : checkState ra f = g) (h0 : rawState g.store ra ≠ 0)
    (hheld : heldMask g.store ra p = 0) (hlen : (rmwWords g.store ra).length = 36) : readRow p req ra f =
      (⟨rowOfWords ((rmwWords g.store ra).map deliveredData), rawState g.store ra != 1 ||
        someWord .uncorrectable (rmwWords g.store ra) || someWord .poison (rmwWords g.store ra), false⟩,
      wordsRead p ra (rmwWords g.store ra) (checkedWords (rmwWords g.store ra) 0) g) := by
  have hany := fun k => checkedWords_any hlen fun c => decide (classOf c = k)
  unfold readRow
  rw [hg]
  simp only [h0, hheld, hany, if_true, if_false]
  have hdata : ((List.range 36).map fun w => if bitAt (0 : BitVec 36) w then fld (0 : Row) (128 * w) 128
      else deliveredData ((rmwWords g.store ra).getD w 0)) = (rmwWords g.store ra).map deliveredData := by
    simpa [bitAt] using map_range_getD hlen deliveredData 0
  rw [hdata]
  rfl

theorem readRow_held {p req ra : Nat} {f g : Fab} (hg : checkState ra f = g) (h0 : rawState g.store ra ≠ 0)
    (hheld : heldMask g.store ra p ≠ 0) : (readRow p req ra f).1.bleat = true := by
  unfold readRow
  rw [hg]
  simp only [h0, if_false]
  exact bne_iff_ne.mpr hheld

/-- The groups' repair queues, and whether rows are queued at all (R237). -/
def repairsPart (f : Fab) : Tbl (List Nat) × Bool := (f.integ.repairs, f.integ.repairOn)

@[simp] theorem raise_repairsPart (c x : Nat) (f : Fab) : repairsPart (raise c x f) = repairsPart f := by simp [repairsPart]

@[simp] theorem countGroup_repairsPart (g s n : Nat) (f : Fab) : repairsPart (countGroup g s n f) = repairsPart f := by
  simp [repairsPart]

@[simp] theorem checkState_repairsPart (ra : Nat) (f : Fab) : repairsPart (checkState ra f) = repairsPart f := by
  unfold checkState
  dsimp only
  split
  · rw [raise_repairsPart, countGroup_repairsPart]; rfl
  · split
    · rw [raise_repairsPart]; rfl
    · rfl

@[simp] theorem logError_repairsPart (ra w sy k so p : Nat) (t : Bool) (f : Fab) :
    repairsPart (logError ra w sy k so p t f) = repairsPart f := by
  unfold logError
  dsimp only
  split
  · rw [raise_repairsPart, countGroup_repairsPart]; rfl
  · rw [countGroup_repairsPart]; rfl

@[simp] theorem freshError_repairsPart (b : Nat) (f : Fab) : repairsPart (freshError b f) = repairsPart f := by
  unfold freshError
  dsimp only
  split
  · rw [retireBank, raise_repairsPart]; simp [repairsPart]
  · rfl

/-- A part of the fabric that the log, the groups' counts and a fresh error leave alone, a read's reports leave alone. -/
theorem reportWords_proj {β : Type} (π : Fab → β) (hlog : ∀ ra w sy k so p t f, π (logError ra w sy k so p t f) = π f)
    (hcount : ∀ g s n f, π (countGroup g s n f) = π f) (hfresh : ∀ b f, π (freshError b f) = π f)
    (ra so p : Nat) (was : Bool) (ws : List (Nat × Code)) (f : Fab) : π (reportWords ra so p was ws f) = π f := by
  unfold reportWords Machine.when
  dsimp only
  split
  on_goal 1 => rw [hfresh]
  all_goals
    refine each_proj π _ _ (fun f e _ => ?_) f
    split <;> simp [hlog, hcount]

@[simp] theorem reportWords_repairsPart (ra so p : Nat) (was : Bool) (ws : List (Nat × Code)) (f : Fab) :
    repairsPart (reportWords ra so p was ws f) = repairsPart f :=
  reportWords_proj repairsPart logError_repairsPart countGroup_repairsPart freshError_repairsPart ..

theorem when_proj {β : Type} (π : Fab → β) {b : Bool} {k : Fab → Fab} {f : Fab} (h : π (k f) = π f) : π (when b k f) = π f := by
  unfold Machine.when
  split
  · exact h
  · rfl

/-- A row put into a repair queue with room stands in it, or has stood there already (R237). -/
theorem queueRepair_mem {ra : Nat} {f : Fab} (hon : f.integ.repairOn = true)
    (hroom : (tget [] f.integ.repairs (groupAt ra)).length < 16) :
    ra ∈ tget [] (queueRepair ra f).integ.repairs (groupAt ra) := by
  by_cases hin : ra ∈ tget [] f.integ.repairs (groupAt ra)
  · have hsame : queueRepair ra f = f := by simp [queueRepair, hin]
    rwa [hsame]
  · simp [queueRepair, hon, hin, Nat.not_le.mpr hroom]

theorem wordsRead_repairs {p ra : Nat} {ws : List Code} {seen : List (Nat × Code)} {f : Fab} (hc : someWord .correctable ws = true)
    (hon : f.integ.repairOn = true) (hroom : (tget [] f.integ.repairs (groupAt ra)).length < 16) :
    ra ∈ tget [] (wordsRead p ra ws seen f).integ.repairs (groupAt ra) := by
  have hkept : repairsPart (when (rawState f.store ra = 1 && someWord .uncorrectable ws) (fun f => onStore f (setState ra 2))
      (reportWords ra 0 p (rawState f.store ra != 1) seen f)) = repairsPart f :=
    (when_proj repairsPart rfl).trans (reportWords_repairsPart ..)
  obtain ⟨hrepairs, hrepairOn⟩ := Prod.mk.inj hkept
  rw [wordsRead, Machine.when, if_pos hc]
  exact queueRepair_mem (hrepairOn.trans hon) (by rwa [hrepairs])

/-- A read of a row, by the row's state and by whether the group's other port holds words of it (R53, R57, R109, R237). -/
theorem readRow_reads (p : Fin 32) {req ra : Nat} {f : Fab} (hs : RowSound f ra) :
    let st := rawState f.store ra
    let ws := rmwWords f.store ra
    let r := readRow p req ra f
    (st = 0 → r.1 = ⟨blankRow, false, false⟩ ∧ r.2.store = f.store ∧
      counterOf r.2 (0x8100 + p) 0x0D = counterOf f (0x8100 + p) 0x0D + 1) ∧
    (st ≠ 0 → heldMask f.store ra p = 0 →
      r.1 = ⟨rowOfWords (ws.map deliveredData), st != 1 || someWord .uncorrectable ws || someWord .poison ws, false⟩ ∧
      rawState r.2.store ra = (if st = 1 ∧ someWord .uncorrectable ws = true then 2 else st) ∧ rmwWords r.2.store ra = ws ∧
      OtherRowsKept r.2.store f.store ra ∧
      (someWord .correctable ws = true → f.integ.repairOn = true → (tget [] f.integ.repairs (groupAt ra)).length < 16 →
        ra ∈ tget [] r.2.integ.repairs (groupAt ra))) ∧
    (st ≠ 0 → heldMask f.store ra p ≠ 0 → r.1.bleat = true) := by
  obtain ⟨hparity, hlen, -⟩ := hs
  obtain ⟨t, ht⟩ := checkState_told hparity
  have hstore : ∀ {α : Type} (π : Store → α), π (checkState ra f).store = π { f.store with told := t } := fun π => congrArg π ht
  intro st ws r
  refine ⟨fun h0 => ?unwritten, fun h0 hheld => ?unheld, fun h0 hheld => ?held⟩
  case unwritten =>
    have hr : r = _ := readRow_unwritten hparity h0
    rw [hr]
    exact ⟨rfl, by simp, (raise_portCounter _ _ _ p.isLt (by decide)).trans (countPort_one f p.isLt (by decide))⟩
  case unheld =>
    have hstate : rawState (checkState ra f).store ra = st := hstore (rawState · ra)
    have hwords : rmwWords (checkState ra f).store ra = ws := hstore (rmwWords · ra)
    have hr : r = _ := readRow_unheld rfl (by rwa [hstate]) ((hstore (heldMask · ra p)).trans hheld) (by rwa [hwords])
    rw [hr, hwords, hstate]
    have hleft := wordsRead_store p ra ws (checkedWords ws 0) (checkState ra f)
    rw [hstate] at hleft
    obtain ⟨hrepairs, hrepairOn⟩ := Prod.mk.inj (checkState_repairsPart ra f)
    refine ⟨rfl, ?_, ?_, fun j hj => ⟨?_, ?_⟩, fun hc hon hroom => wordsRead_repairs hc (hrepairOn.trans hon) (by rwa [hrepairs])⟩
    all_goals
      rw [hleft]
      split
    · rw [rawState_setState _ _ _ _ (by decide), if_pos rfl]
    · exact hstate
    · exact hwords
    · exact hwords
    · rw [rawState_setState _ _ _ _ (by decide), if_neg hj, ht]; rfl
    · rw [ht]; rfl
    · rw [ht]; rfl
    · rw [ht]; rfl
  case held =>
    exact readRow_held rfl (ne_of_eq_of_ne (hstore (rawState · ra)) h0) (ne_of_eq_of_ne (hstore (heldMask · ra p)) hheld)

/-! ### The rows that an instruction's leg reads and writes -/

/-- The ports and the queues. -/
def portsAndQueues (f : Fab) : Tbl Port × Tbl Queue := (f.ports, f.queues)

theorem portsAndQueues_of_roundsPart {f g : Fab} (h : roundsPart g = roundsPart f) : portsAndQueues g = portsAndQueues f :=
  congrArg (fun x => (x.1, x.2.1)) h

@[simp] theorem raise_portsAndQueues (c x : Nat) (f : Fab) : portsAndQueues (raise c x f) = portsAndQueues f := by
  simp [portsAndQueues]

@[simp] theorem countPort_portsAndQueues (p s n : Nat) (f : Fab) : portsAndQueues (countPort p s n f) = portsAndQueues f := by
  simp [portsAndQueues]

@[simp] theorem queueRepair_roundsPart (ra : Nat) (f : Fab) : roundsPart (queueRepair ra f) = roundsPart f := by
  unfold queueRepair
  dsimp only
  split
  · rfl
  · split
    · exact countGroup_roundsPart ..
    · rfl

@[simp] theorem reportWords_roundsPart (ra so p : Nat) (was : Bool) (ws : List (Nat × Code)) (f : Fab) :
    roundsPart (reportWords ra so p was ws f) = roundsPart f :=
  reportWords_proj roundsPart logError_roundsPart countGroup_roundsPart freshError_roundsPart ..

@[simp] theorem readRow_portsAndQueues (p req ra : Nat) (f : Fab) : portsAndQueues (readRow p req ra f).2 = portsAndQueues f := by
  have hcheck := portsAndQueues_of_roundsPart (checkState_roundsPart ra f)
  unfold readRow
  dsimp only
  split
  · simpa using hcheck
  · refine Eq.trans (b := portsAndQueues (checkState ra f)) (portsAndQueues_of_roundsPart ?_) hcheck
    split
    all_goals
      exact (when_proj roundsPart (queueRepair_roundsPart ..)).trans
        ((when_proj roundsPart rfl).trans (reportWords_roundsPart ..))

@[simp] theorem checkTag_portsAndQueues (p req ra fmt st : Nat) (r : Row) (f : Fab) :
    portsAndQueues (checkTag p req ra fmt st r f) = portsAndQueues f := by
  unfold checkTag
  split <;> simp

@[simp] theorem fetchRow_portsAndQueues (p q ra fmt : Nat) (f : Fab) : portsAndQueues (fetchRow p q ra fmt f).2 = portsAndQueues f := by
  simp [fetchRow]

/-- A bleat is noted in its port alone. -/
@[simp] theorem noteBleat_queues (p q ra : Nat) (b : Bool) (f : Fab) : (noteBleat p q ra b f).queues = f.queues :=
  when_proj Fab.queues (by simp)

/-- The queues after a beat's one row is read and its poison counted (R109, R241). -/
theorem fetchBeat_queues (p q ra fmt : Nat) (b : Bool) (f : Fab) :
    (countPoison p b (fetchBeat p q ra fmt f).2).queues = f.queues := by
  rw [countPoison, countPort_queues, fetchBeat, noteBleat_queues]
  exact congrArg Prod.snd (fetchRow_portsAndQueues ..)

section
variable {p q i k : Nat} {x : Flight} {l : Leg} {f : Fab}

theorem moveRow_fill (h : l.kind = .fill) : (moveRow p q x i l k f).store = (writeTile p (writeAddr x l k) (dDstFmt x.desc)
    (dBytes x.desc) (fillRow (dDstFmt x.desc) (dBytes x.desc) (oValue (dSrc x.desc)) (oExp (dSrc x.desc))) false f).store := by
  simp only [moveRow, h]
  rfl

theorem moveRow_moveWrite {y : Held} (h : l.kind = .moveWrite)
    (hy : (x.held.find? fun h => h.leg == i && h.idx == k) = some y) :
    (moveRow p q x i l k f).store = (writeTile p (writeAddr x l k) (dDstFmt x.desc) (dBytes x.desc)
      (copyRow (dDstFmt x.desc) (dBytes x.desc) y.row (contribOf y.row) (epochOf y.row)) y.poison f).store := by
  simp only [moveRow, h, hy]
  rfl

theorem moveRow_stackWrite {r : RxRow} (h : l.kind = .stackWrite)
    (hr : ((rxRows f (.flight q x.ord)).find? fun r => r.idx == k) = some r) :
    let g := dDstFmt x.desc
    let rb := dBytes x.desc
    let row := ofStack (packOf x.src) (dSrcFmt x.desc) rb r.data
    (moveRow p q x i l k f).store = (writeTile p (writeAddr x l k) g rb (if dOp x.desc = 6 then
      copyRow g rb row (contribOf row) (epochOf row) else copyRow g rb row 0 0) r.poison f).store := by
  simp only [moveRow, h, hr, beq_iff_eq]
  split <;> rfl

theorem moveRow_collect {a : AsmRow} (h : l.kind = .collect) (ha : returnRow f x k = some a) :
    let r := formReturn p x.desc a f
    let ra := writeAddr x l k
    let g := dDstFmt x.desc
    (moveRow p q x i l k f).store = (if dOp x.desc = 2 then writeTile p ra g (dBytes x.desc) (putTogether g r.1 0 0) false r.2
      else (accumulate p q ra ⟨r.1, dCtag x.desc, dEpoch x.desc, g, dRound x.desc, dOvf x.desc == 1, dBytes x.desc⟩ r.2).2).store := by
  have hdone : moveRow p q x i l k f = rowDone q x.ord i k (collectRow p q x l k f) := by simp only [moveRow, h]
  rw [hdone, collectRow, ha]
  rfl

/-- The flight that an update of flights changes, in the queue it is in. -/
theorem flightOf_onFlight {q : Nat} {y : Flight} {g : Flight → Flight} {f : Fab} (h : flightOf f q y.ord = some y)
    (hg : ∀ z, (g z).ord = z.ord) : flightOf (onFlight q y.ord g f) q y.ord = some (g y) := by
  simp only [flightOf, onFlight, onQueue_self, List.find?_map] at h ⊢
  have hsame : ((fun z : Flight => z.ord == y.ord) ∘ fun z => if z.ord = y.ord then g z else z) = fun z => z.ord == y.ord := by
    funext z
    simp only [Function.comp]
    split <;> simp [hg]
  rw [hsame, h]
  simp

/-- The row that a MOVE reads stands in the buffer of the leg that writes it, in place of one read before (R102). -/
theorem moveRow_moveRead {l' : Leg} (h : l.kind = .moveRead) (hl : x.legs[i + 1]? = some l') (hk : l'.kind = .moveWrite)
    (hnext : l'.next ≤ k) (hx : flightOf f q x.ord = some x) :
    let src := readRow p q (readAddr x l k) f
    ∃ y, flightOf (moveRow p q x i l k f) q x.ord = some y ∧ y.held = (x.held.filter fun h => !(h.leg == i + 1 && h.idx == k)) ++
      [⟨i + 1, k, src.1.row, src.1.poison, src.1.bleat⟩] := by
  intro src
  have hmove : moveRow p q x i l k f = holdRow q x i k src.1.row src.1.poison src.1.bleat
      (countPoison p src.1.poison (fetchBeat p q (readAddr x l k) (dSrcFmt x.desc) f).2) := by
    simp only [moveRow, h]
    rfl
  rw [hmove, holdRow]
  refine ⟨_, flightOf_onFlight ?_ fun z => ?_, ?_⟩
  · rw [flightOf, queueOf_congr (fetchBeat_queues ..)]
    exact hx
  · split
    · dsimp only
      split_ifs <;> rfl
    · rfl
  · simp [hl, hk, Nat.not_lt.mpr hnext]

/-- The head of a pipeline presented to the crossbar keeps its place, up to its order there and its wait (R113, R115). -/
theorem presentHead_pipe {r : PipeRow} {t : List PipeRow} (h : (portOf f p).pipe = r :: t) :
    ∃ shown waited, (portOf (presentHead p f) p).pipe = { r with shown := shown, waited := waited } :: t := by
  unfold presentHead
  simp only [h]
  split
  · exact ⟨r.shown, r.waited, h⟩
  · split
    · exact ⟨some f.shown, r.waited, by rw [onPort_self]; rfl⟩
    · exact ⟨some f.shown, true, by rw [portOf, countPort_ports, ← portOf, onPort_self, onPort_self]; rfl⟩

theorem presentHead_keeps {r : PipeRow} (h : r ∈ (portOf f p).pipe) :
    ∃ shown waited, { r with shown := shown, waited := waited } ∈ (portOf (presentHead p f) p).pipe := by
  cases hpipe : (portOf f p).pipe with
  | nil => simp [hpipe] at h
  | cons hd t =>
    obtain ⟨shown, waited, hhead⟩ := presentHead_pipe hpipe
    rw [hhead]
    rcases List.mem_cons.mp (hpipe ▸ h) with rfl | ht
    · exact ⟨shown, waited, List.mem_cons_self⟩
    · exact ⟨r.shown, r.waited, List.mem_cons_of_mem _ ht⟩

theorem moveRow_deliver (h : l.kind = .deliver) (hrot : dRotate x.desc = 0) :
    let src := readRow p q (readAddr x l k) f
    ∃ z ∈ (portOf (moveRow p q x i l k f) p).pipe, z.ord = x.ord ∧ z.mcast = dMcast x.desc ∧
      z.sb = sideband q k x src.1.bleat src.1.poison ∧
      z.row = (condition (dSrcFmt x.desc) (dDstFmt x.desc) (dBytes x.desc) 0 (dTranspose x.desc) (dRound x.desc) src.1.row src.1.row
        (portOf f p).lfsr).1 := by
  intro src
  have hports : (fetchRow p q (readAddr x l k) (dSrcFmt x.desc) f).2.ports = f.ports := congrArg Prod.fst (fetchRow_portsAndQueues ..)
  have hportOf : portOf (fetchRow p q (readAddr x l k) (dSrcFmt x.desc) f).2 p = portOf f p := by rw [portOf, hports, portOf]
  have hlast : ∀ (g : Fab) (u : Flight → Flight) (r : PipeRow) (y : BitVec 32),
      r ∈ (portOf (onFlight q x.ord u (onPort g p fun z => { z with lfsr := y, pipe := z.pipe ++ [r] })) p).pipe := fun g u r y => by
    rw [onFlight, onQueue_portOf, onPort_self]
    simp
  have hmove : moveRow p q x i l k f = deliverRow p q x l k f := by simp only [moveRow, h]
  rw [hmove, deliverRow]
  cases x.carry
  all_goals
    simp only [hrot, bne_self_eq_false, Bool.and_false, Bool.false_eq_true, if_true, if_false, Bool.or_self, hportOf]
    obtain ⟨shown, waited, hz⟩ := presentHead_keeps (hlast _ _ _ _)
    exact ⟨_, hz, rfl, rfl, rfl, rfl⟩
end

/-- Settles O13: the reads by the row's state and buffer, the writes by the path that they take, the beats by the leg's kind. -/
theorem rowsReadAndStored : Obligations.RowsReadAndStored := by
  unfold Obligations.RowsReadAndStored
  refine ⟨fun p _ _ _ _ hs => readRow_reads p hs, fun _ _ _ _ _ _ _ hs ht => writeRow_stores hs ht,
    fun p q i k x l f => ⟨moveRow_fill, fun _ => moveRow_moveWrite, fun _ => moveRow_stackWrite,
      fun a h ha => ⟨fun h2 => ?_, fun h3 => ?_⟩, fun _ => moveRow_moveRead, fun h _ hrot => moveRow_deliver h hrot⟩⟩
  · rw [moveRow_collect h ha, if_pos h2]
  · rw [moveRow_collect h ha, if_neg (by simp [h3])]

end Sys2Proof.Machine
end

section
/-!
SUPPORT. The refusals of a dictionary WRITE by its entry's own rule, whatever path it comes on (R91, R118, R269); then obligation O54.
-/

namespace Sys2Proof.Machine

/-- The layout that a slot entry's write refuses (R90). -/
def slotBroken (p : Nat) (e : BitVec 16) : Bool :=
  bitAt e 14 || (eKind e != 1 && eQueue e != 0) || (eKind e == 2 && eBurst e != 0) || (eKind e == 3 && decide (p < 16))

theorem slotLegal_of_sound {p : Nat} {e : BitVec 16} (hodd : eOdd e = false) (h : slotBroken p e = false) : slotLegal p e = true := by
  simp only [slotBroken, Bool.or_eq_false_iff, Bool.and_eq_false_imp, bne_iff_ne, beq_iff_eq, bne_eq_false_iff_eq,
    decide_eq_false_iff_not, Nat.not_lt] at h
  obtain ⟨⟨⟨hzero, hqueue⟩, hburst⟩, hside⟩ := h
  have hodd : oddOnes 16 e.toNat = false := hodd
  simpa [slotLegal, hodd, hzero, Decidable.or_iff_not_imp_left] using ⟨⟨hqueue, hburst⟩, hside⟩

/-- The write is refused, by a code that a status can hold, and leaves the slot tables and the fabric (R91, R269). -/
def Refused (slots : Tbl (BitVec 16)) (f : Fab) (r : Wrote) : Prop := ∃ c, c ≠ 0 ∧ c < 256 ∧ r = (c, slots, f)

/-- A write of a slot entry of the active copy, of an illegal value or with a commit pending is refused (R91). -/
theorem writeSlot_refused {copy p k v : Nat} {slots : Tbl (BitVec 16)} {f : Fab}
    (h : (portOf f p).active.toNat = copy ∨ slotLegal p (BitVec.ofNat 16 v) = false ∨ (portOf f p).commit ≠ none) :
    Refused slots f (writeSlot copy p k v slots f) := by
  have hbroken : slotBroken p (BitVec.ofNat 16 v) = (bitAt (BitVec.ofNat 16 v) 14 ||
      (eKind (BitVec.ofNat 16 v) != 1 && eQueue (BitVec.ofNat 16 v) != 0) ||
      (eKind (BitVec.ofNat 16 v) == 2 && eBurst (BitVec.ofNat 16 v) != 0) ||
      (eKind (BitVec.ofNat 16 v) == 3 && decide (p < 16))) := rfl
  simp only [Refused, writeSlot, ← hbroken]
  by_cases hactive : (portOf f p).active.toNat = copy
  · exact ⟨0x0E, by decide, by decide, if_pos hactive⟩
  by_cases hodd : eOdd (BitVec.ofNat 16 v) = true
  · exact ⟨0x0D, by decide, by decide, by rw [if_neg hactive, if_pos hodd]⟩
  by_cases hlayout : slotBroken p (BitVec.ofNat 16 v) = true
  · exact ⟨cLayout, by decide, by decide, by rw [if_neg hactive, if_neg hodd, if_pos hlayout]⟩
  have hlegal := slotLegal_of_sound (eq_false_of_ne_true hodd) (eq_false_of_ne_true hlayout)
  obtain h | h | h := h
  · exact absurd h hactive
  · rw [hlegal] at h; cases h
  · exact ⟨0x0F, by decide, by decide, by rw [if_neg hactive, if_neg hodd, if_neg hlayout, if_pos (Option.isSome_iff_ne_none.mpr h)]⟩

section
variable {p : Path} {x y v n : Nat} {slots : Tbl (BitVec 16)} {f : Fab}

theorem refused_of_code {c : Nat} (h : c ≠ 0) (hc : c < 256) : Refused slots f (c, slots, f) := ⟨c, h, hc, rfl⟩

theorem writeCheck_lt (x y : Nat) (f : Fab) : writeCheck x y f < 256 := by
  unfold writeCheck
  split
  · decide
  · split_ifs <;> decide

/-- A write that its entry's own rule refuses is refused, whichever check comes first (R269). -/
theorem writeEntryAt_refused (h : Refused slots f (applyWrite p x y v slots f)) : Refused slots f (writeEntryAt p x y n v slots f) := by
  obtain ⟨c, hc, hlt, hw⟩ := h
  by_cases hcheck : writeCheck x y f = 0
  · simp only [writeEntryAt, hcheck, hw, bne_self_eq_false, Bool.false_eq_true, if_false]
    split_ifs
    on_goal 5 => exact refused_of_code hc hlt
    all_goals exact refused_of_code (by decide) (by decide)
  · rw [writeEntryAt_of_check hcheck]
    exact refused_of_code hcheck (writeCheck_lt x y f)

theorem slotEntry_refused {copy q : Nat} (hc : copy < 2) (hq : q < 32)
    (h : (portOf f q).active.toNat = copy ∨ slotLegal q (BitVec.ofNat 16 v) = false ∨ (portOf f q).commit ≠ none) :
    Refused slots f (writeEntryAt p (0x4200 + 0x40 * copy + q) y n v slots f) := by
  refine writeEntryAt_refused ?_
  rw [applyWrite_slot hc hq]
  exact writeSlot_refused h

/-- What keeps an endpoint group entry of cluster c from its table (R118). -/
def GroupIllegal (c : Nat) (e : BitVec 288) (f : Fab) : Prop :=
  fld e 256 2 = 3 ∨ (fld e 258 2 ≠ 0 ∧ fld e 256 2 ≠ 2) ∨ fld e 260 28 ≠ 0 ∨
    ∃ i, i < 256 ∧ bitAt e i = true ∧ (bitAt (tget 0 f.prm.empty c) i = true ∨
      (i % 4 ≠ 0 ∧ bitAt (tget 0 f.prm.fullWide c) (i / 4) = true))

/-- A group entry of an illegal layout, or with a member that is not there, is refused (R118). -/
theorem writeGroup_refused {c g : Nat} (h : GroupIllegal c (BitVec.ofNat 288 v) f) :
    writeGroup c g v f = (cLayout, f) ∨ writeGroup c g v f = (cRange, f) := by
  unfold writeGroup
  dsimp only
  split
  · exact .inl rfl
  next hlayout =>
  simp only [Bool.or_eq_true, Bool.and_eq_true, decide_eq_true_eq, bne_iff_ne, not_or, not_and, not_not] at hlayout
  obtain ⟨⟨hmode, hfold⟩, hzero⟩ := hlayout
  obtain h | h | h | ⟨i, hi, hbit, hgone⟩ := h
  · exact absurd h hmode
  · exact absurd (hfold h.1) h.2
  · exact absurd hzero h
  · refine .inr (if_pos (List.any_eq_true.mpr ⟨i, List.mem_filter.mpr ⟨List.mem_range.mpr hi, hbit⟩, ?_⟩))
    simpa using hgone

theorem groupEntry_refused {c g : Nat} (hc : c < 16) (h : GroupIllegal c (BitVec.ofNat 288 v) f) :
    Refused slots f (writeEntryAt p (0x4400 + c) g n v slots f) := by
  have hrule : writePorts (0x4400 + c) g v f = writeGroup c g v f := by
    simp (disch := omega) only [writePorts, within_iff, if_neg, if_pos]
    rw [show 0x4400 + c - 0x4400 = c by omega]
  refine writeEntryAt_refused ?_
  rw [applyWrite_ports (by omega) (by omega) (notSlotTable_of (by omega)) hrule]
  obtain hw | hw := writeGroup_refused (g := g) h
  · rw [hw]
    exact refused_of_code (c := cLayout) (by decide) (by decide)
  · rw [hw]
    exact refused_of_code (c := cRange) (by decide) (by decide)

/-- What a refused write hands on. -/
theorem Refused.parts {r : Wrote} (h : Refused slots f r) : r.1 ≠ 0 ∧ r.2.1 = slots ∧ r.2.2 = f := by
  obtain ⟨c, hc, -, rfl⟩ := h
  exact ⟨hc, rfl, rfl⟩

/-- A command whose write is refused puts out the refusal and changes nothing else. -/
theorem gives_of_refused {c : Instr} {s : State} (hm : Runs .ret s) (he : exec c s = byEntry x y v s)
    (h : Refused s.slots s.fab (writeEntryAt none x y ((entryAt x y).map (·.size) |>.getD 0) v s.slots s.fab)) :
    ∃ k : BitVec 8, k ≠ 0 ∧ Gives c s (emit s.fab (.status k)) := by
  obtain ⟨k, hk, hlt, hw⟩ := h
  refine ⟨BitVec.ofNat 8 k, fun h0 => hk ?_, exec_of_byEntry hm he hw⟩
  have := congrArg BitVec.toNat h0
  simpa [Nat.mod_eq_of_lt hlt] using this

end

/-- Settles O54: the rules of the two tables refuse, no check before them lets a write pass, and the commands are such writes. -/
theorem tableWritesRefused : Obligations.TableWritesRefused := by
  unfold Obligations.TableWritesRefused
  refine ⟨fun path copy p k n v slots f _ h => (slotEntry_refused copy.isLt p.isLt h).parts, fun copy p k v s hm h => ?_,
    fun path c g n v slots f _ h => (groupEntry_refused c.isLt h).parts, fun c g v s hm h => ?_⟩
  · refine gives_of_refused hm (c := .slotEntryWrite copy p k v) rfl (slotEntry_refused copy.isLt p.isLt ?_)
    rwa [BitVec.ofNat_toNat, BitVec.setWidth_eq]
  · refine gives_of_refused hm (c := .epgroupWrite c g v) rfl (groupEntry_refused c.isLt ?_)
    rwa [BitVec.ofNat_toNat, BitVec.setWidth_eq]

end Sys2Proof.Machine
end

section
/-!
SUPPORT. Which tables of slot entries the fabric can come to hold: every operation that may change the tables leaves legal ones legal
(R90, R91, R263, R267, R271, R338, R385, R390); then obligation O58.
-/

namespace Sys2Proof.Machine

/-- What a slot entry's write takes depends on the low 16 bits of its value alone. -/
theorem writeSlot_low (copy p k v : Nat) (slots : Tbl (BitVec 16)) (f : Fab) :
    writeSlot copy p k v slots f = writeSlot copy p k (BitVec.ofNat 16 v).toNat slots f := by
  simp only [writeSlot, BitVec.ofNat_toNat, BitVec.setWidth_eq]

/-! ### Tables whose every entry is legal -/

/-- A table of slot entries in its canonical form, each entry legal for its port (R90). -/
def LegalTable (t : Tbl (BitVec 16)) : Prop :=
  tcanon slotDefault t = true ∧ ∀ c p k, c < 2 → p < 32 → k < 256 → slotLegal p (slotOf t c p k) = true

theorem slotsLegal_iff (s : State) : SlotsLegal s ↔ LegalTable s.slots := Iff.rfl

/-- A cold start's tables, every entry at its default (R90, R338). -/
theorem legalTable_nil : LegalTable [] := ⟨rfl, fun _ p _ _ _ _ => slotLegal_default p⟩

theorem LegalTable.tset {t : Tbl (BitVec 16)} {copy p k : Nat} {e : BitVec 16} (h : LegalTable t) (hp : p < 32) (hk : k < 256)
    (he : slotLegal p e = true) : LegalTable (tset slotDefault t (slotKey copy p k) e) := by
  obtain ⟨hcanon, hentries⟩ := h
  refine ⟨tset_canon _ _ _ _ hcanon, fun c' p' k' hc' hp' hk' => ?_⟩
  by_cases hkey : slotKey c' p' k' = slotKey copy p k
  · obtain ⟨-, rfl, -⟩ := Prod.mk.inj (slotKey_inj hp hk hp' hk' hkey) |>.imp_right Prod.mk.inj
    rwa [slotOf, hkey, tget_tset_self]
  · rw [slotOf, tget_tset_ne _ _ _ hkey]
    exact hentries c' p' k' hc' hp' hk'

theorem legal_writeSlot {copy p k : Nat} (v : Nat) {slots : Tbl (BitVec 16)} (f : Fab) (h : LegalTable slots) (hp : p < 32) (hk : k < 256) :
    LegalTable (writeSlot copy p k v slots f).2.1 := by
  by_cases hr : (portOf f p).active.toNat = copy ∨ slotLegal p (BitVec.ofNat 16 v) = false ∨ (portOf f p).commit ≠ none
  · obtain ⟨c, -, -, hc⟩ := writeSlot_refused (k := k) (slots := slots) hr
    rwa [hc]
  · simp only [not_or, not_not, Bool.not_eq_false] at hr
    obtain ⟨hactive, hlegal, hcommit⟩ := hr
    rw [writeSlot_low, writeSlot_of_legal hactive hlegal hcommit]
    exact h.tset hp hk hlegal

/-! ### The dictionary's paths (R263, R267, R271) -/

/-- What a WRITE leaves of the slot tables: as they were, or, where there is such an entry, as its own rule has them. -/
theorem writeEntryAt_slots_cases (q : Path) (x y n v : Nat) (slots : Tbl (BitVec 16)) (f : Fab) :
    (writeEntryAt q x y n v slots f).2.1 = slots ∨
      entryAt x y ≠ none ∧ (writeEntryAt q x y n v slots f).2.1 = (applyWrite q x y v slots f).2.1 := by
  by_cases hcheck : writeCheck x y f = 0
  · have hentry : entryAt x y ≠ none := fun h => by simp [writeCheck, h] at hcheck
    simp only [writeEntryAt, hcheck, bne_self_eq_false, Bool.false_eq_true, if_false, apply_ite Prod.fst, apply_ite Prod.snd]
    split_ifs
    on_goal 5 => exact .inr ⟨hentry, rfl⟩
    all_goals exact .inl rfl
  · exact .inl (by rw [writeEntryAt_of_check hcheck])

/-- A slot table has the subindices of its 256 rounds alone (R89). -/
theorem sub_lt_of_slotTable {x y : Nat} (h : notSlotTable x = false) (hy : entryAt x y ≠ none) : y < 256 := by
  by_contra hge
  simp only [notSlotTable, Bool.and_eq_false_iff, Bool.not_eq_false', within_iff] at h
  refine hy ?_
  rw [entryAt_port _ (by omega) (by omega)]
  simp (disch := omega) only [portShape, within_iff, Bool.or_eq_true, if_neg, if_pos, table]

theorem legal_applyWrite (q : Path) {x y : Nat} (v : Nat) {slots : Tbl (BitVec 16)} (f : Fab) (h : LegalTable slots) (hy : entryAt x y ≠ none) :
    LegalTable (applyWrite q x y v slots f).2.1 := by
  by_cases hx : notSlotTable x = true
  · rwa [applyWrite_slots hx]
  · have hx := eq_false_of_ne_true hx
    have hk := sub_lt_of_slotTable hx hy
    simp only [notSlotTable, Bool.and_eq_false_iff, Bool.not_eq_false', within_iff] at hx
    obtain ⟨copy, p, hcopy, hp, rfl⟩ : ∃ copy p, copy < 2 ∧ p < 32 ∧ x = 0x4200 + 0x40 * copy + p :=
      hx.elim (fun hx => ⟨0, x - 0x4200, by omega⟩) fun hx => ⟨1, x - 0x4240, by omega⟩
    rw [applyWrite_slot hcopy hp]
    exact legal_writeSlot v f h hp hk

theorem legal_writeEntryAt (q : Path) (x y n v : Nat) {slots : Tbl (BitVec 16)} (f : Fab) (h : LegalTable slots) :
    LegalTable (writeEntryAt q x y n v slots f).2.1 := by
  obtain hs | ⟨hy, hs⟩ := writeEntryAt_slots_cases q x y n v slots f
  · rwa [hs]
  · rw [hs]; exact legal_applyWrite q v f h hy

/-! Reads, commands, polls and subscriptions answer beside the tables. -/

@[simp] theorem runRead_slots (m : BdpMsg) (w : Whole) : (runRead m w).1 = w.1 := by
  simp [runRead, apply_ite Prod.fst]

@[simp] theorem runReadBlock_slots (m : BdpMsg) (w : Whole) : (runReadBlock m w).1 = w.1 := by
  simp [runReadBlock, apply_ite Prod.fst]

@[simp] theorem runMirrorRead_slots (a : Nat) (wide : Bool) (w : Whole) : (runMirrorRead a wide w).1 = w.1 := by
  unfold runMirrorRead
  dsimp only
  generalize (if isRowData (mirrorIndex a) (mirrorSub a) = true then _ else _) = c
  split
  · rfl
  split
  · rfl
  split
  · rfl
  split
  · rfl
  split <;> rfl

@[simp] theorem blockReadOne_slots (x y : Nat) (w : Whole) : (blockReadOne x y w).1 = w.1 := by
  simp [blockReadOne, apply_ite Prod.fst]

@[simp] theorem blockReadMany_slots (x y n : Nat) (w : Whole) : (blockReadMany x y n w).1 = w.1 := by
  simp [blockReadMany, apply_ite Prod.fst]

section
variable {slots : Tbl (BitVec 16)} (h : LegalTable slots)
include h

theorem legal_runWrite (m : BdpMsg) (f : Fab) : LegalTable (runWrite m (slots, f)).1 := by
  by_cases hrow : isRowData (hIndex (msgHdr m)) (hSub (msgHdr m)) = true
  · simpa [runWrite, hrow, apply_ite Prod.fst] using h
  · simpa [runWrite, hrow] using legal_writeEntryAt _ _ _ _ _ _ h

theorem legal_runMessage (m : BdpMsg) (f : Fab) : LegalTable (runMessage m (slots, f)).1 := by
  unfold runMessage
  split
  · exact h
  · split
    case h_1 => rwa [runRead_slots]
    case h_2 => exact legal_runWrite h m f
    case h_3 => rwa [runReadBlock_slots]
    all_goals exact h

theorem legal_mirrorPut (x y n v : Nat) (f : Fab) : LegalTable (mirrorPut x y n v (slots, f)).1 := by
  unfold mirrorPut
  dsimp only
  split
  · exact h
  · exact legal_writeEntryAt _ _ _ _ _ _ h

theorem legal_runMirrorWrite (a : Nat) (wide : Bool) (data : Nat) (f : Fab) : LegalTable (runMirrorWrite a wide data (slots, f)).1 := by
  have hput := fun n v => legal_mirrorPut h (mirrorIndex a) (mirrorSub a) n v
  unfold runMirrorWrite
  dsimp only
  generalize (if wide = true then data else data % 2 ^ 32) = d
  generalize (writeEntryAt none (mirrorIndex a) (mirrorSub a) 2048 0 slots f).1 = c
  by_cases hbig : (isRowData (mirrorIndex a) (mirrorSub a) || decide (8 < sizeAt (mirrorIndex a) (mirrorSub a))) = true
  · rwa [if_pos hbig]
  rw [if_neg hbig]
  by_cases hwide : wide = true
  · rw [if_pos hwide]
    exact hput ..
  rw [if_neg hwide]
  by_cases hsize : sizeAt (mirrorIndex a) (mirrorSub a) = 8
  · rw [if_pos hsize]
    by_cases hlow : a % 8 = 0
    · simpa only [if_pos hlow, apply_ite Prod.fst, ite_self] using h
    · rw [if_neg hlow]
      exact hput ..
  rw [if_neg hsize]
  by_cases hlow : a % 8 = 0
  · rw [if_pos hlow]
    exact hput ..
  · simpa only [if_neg hlow, apply_ite Prod.fst, ite_self] using h

theorem legal_blockWrite (x y n : Nat) (f : Fab) : LegalTable (blockWrite x y n (slots, f)).1 := by
  unfold blockWrite
  split
  · exact h
  · exact legal_writeEntryAt _ _ _ _ _ _ h

theorem legal_runBlock (f : Fab) : LegalTable (runBlock (slots, f)).1 := by
  unfold runBlock
  dsimp only
  split
  case h_1 => rwa [blockReadOne_slots]
  case h_2 => exact legal_blockWrite h ..
  case h_3 => rwa [blockReadMany_slots]
  all_goals exact h

theorem legal_runRequest (r : Request) (f : Fab) : LegalTable (runRequest r (slots, f)).1 := by
  unfold runRequest
  cases r with
  | message m => exact legal_runMessage h ..
  | refused m => exact h
  | mirrorRead a wide => rwa [runMirrorRead_slots]
  | mirrorWrite a wide data => exact legal_runMirrorWrite h ..
  | block => exact legal_runBlock h _

theorem legal_serve (n : Nat) (f : Fab) : LegalTable (serve n (slots, f)).1 := by
  induction n generalizing slots f with
  | zero => exact h
  | succ n ih =>
    unfold serve
    split
    · exact h
    · split
      · exact h
      · exact ih (legal_runRequest h ..) _

theorem legal_serveAll (f : Fab) : LegalTable (serveAll (slots, f)).1 := legal_serve h ..

theorem legal_arrive (r : Request) (f : Fab) : LegalTable (arrive r (slots, f)).1 := legal_serveAll h _

theorem legal_arriveMessage (op : Nat) (m : BdpMsg) (f : Fab) : LegalTable (arriveMessage op m (slots, f)).1 := by
  unfold arriveMessage
  split
  · exact h
  split
  · exact h
  · exact legal_arrive h ..

theorem legal_putWindow (o v : Nat) (f : Fab) : LegalTable (putWindow o v (slots, f)).1 := by
  unfold putWindow
  split
  · exact h
  split
  · split
    · exact h
    · exact legal_arrive h ..
  · split <;> exact h

theorem legal_windowRead (addr : BitVec 28) (wide : Bool) (f : Fab) : LegalTable (windowRead addr wide (slots, f)).1 := by
  unfold windowRead
  dsimp only
  split
  · exact h
  split
  · exact legal_arrive h ..
  · exact h

/-- The words that a write above the mirror puts, one or two (R271, R272). -/
theorem legal_putWords (o : Nat) (wide : Bool) (data : BitVec 64) (f : Fab) :
    LegalTable (if wide then putWindow (o + 4) (fld data 32 32) (putWindow o (fld data 0 32) (slots, f))
      else putWindow o (fld data 0 32) (slots, f)).1 := by
  have hput := legal_putWindow h o (fld data 0 32) f
  split
  · exact legal_putWindow hput ..
  · exact hput

theorem legal_windowWrite (addr : BitVec 28) (wide : Bool) (data : BitVec 64) (f : Fab) :
    LegalTable (windowWrite addr wide data (slots, f)).1 := by
  have hput := legal_putWords h (addr.toNat - mirrorBytes) wide data f
  unfold windowWrite
  split
  · exact h
  split
  · exact legal_arrive h ..
  · exact hput

theorem legal_hostBeat (n : Nat) (write : Bool) (b : BeatWait) (f : Fab) : LegalTable (hostBeat n write b (slots, f)).1 := by
  unfold hostBeat
  dsimp only
  split
  · exact h
  split
  · exact h
  split
  · exact h
  split
  · exact legal_serveAll h _
  · exact h

theorem legal_accessLate (f : Fab) : LegalTable (accessLate (slots, f)).1 := by
  unfold accessLate
  split
  · exact legal_serveAll h _
  · exact h

/-! ### Starts and the wrapper (R338, R385, R390) -/

theorem legal_serveInput (c : Instr) (f : Fab) : LegalTable (serveInput (slots, f) c).1 := by
  unfold serveInput
  split
  case h_3 => exact legal_windowRead h ..
  case h_4 => exact legal_windowWrite h ..
  all_goals exact h

theorem legal_serveInputs (f : Fab) : LegalTable (serveInputs (slots, f)).1 := by
  suffices hfold : ∀ (l : List Instr) (w : Whole), LegalTable w.1 → LegalTable (l.foldl serveInput w).1 from hfold _ _ h
  intro l
  induction l with
  | nil => exact fun _ hw => hw
  | cons c t ih => exact fun w hw => ih _ (legal_serveInput hw c w.2)

theorem legal_loadWir (v : Wrapper) (f : Fab) : LegalTable (loadWir v (slots, f)).1 := by
  unfold loadWir
  split
  · exact h
  split
  · exact legalTable_nil
  · exact h

theorem legal_withWir (v : Wrapper) (g : Fab → Fab) (f : Fab) : LegalTable (withWir v g (slots, f)).1 := legal_loadWir h v f

theorem legal_tryStageOne (v : Option SecValues) (f : Fab) : LegalTable (tryStageOne v slots f).1 := by
  cases v with
  | none => exact h
  | some v =>
    have hpass : tryStageOne (some v) slots f = (fun g : Fab =>
        if g.start.handle.isSome && g.start.marchBit then ([], coldRestart g) else (slots, g))
          (onStart (stageOneDone v f) fun s => { s with stage := 2, recompute := true }) := rfl
    rw [hpass]
    dsimp only
    split
    · exact legalTable_nil
    · exact h

theorem legal_powerGood (v : Option SecValues) (f : Fab) : LegalTable (powerGood v slots f).1 := by
  unfold powerGood
  split
  · exact legal_tryStageOne legalTable_nil ..
  split
  · exact h
  split
  · exact legal_tryStageOne h ..
  · exact h

theorem legal_stageLate (sub : Nat) (f : Fab) : LegalTable (stageLate sub slots f).1 := by
  unfold stageLate
  split
  · exact h
  split
  · exact h
  split
  · exact legalTable_nil
  · exact h

end

/-! ### Every command and every step -/

/-- An answer whose slot tables are legal where those before are. -/
def AnswersLegal (s : State) (r : Host.Outcome State Fault Refusal) : Prop :=
  ∀ t, LegalTable s.slots → r = .next t → LegalTable t.slots

theorem onAll_legal {s : State} {u : Supply} {g : Tbl (BitVec 16) → Fab → Whole}
    (hg : ∀ slots f, LegalTable slots → LegalTable (g slots f).1) : AnswersLegal s (onAll u s g) := by
  intro t h ht
  obtain ⟨-, -, ⟨hslots, -⟩ | ⟨hslots, -⟩⟩ := onAll_answers ht
  · rw [hslots]; exact hg _ _ h
  · rwa [hslots]

theorem onPower_legal {s : State} {g : Tbl (BitVec 16) → Fab → Whole}
    (hg : ∀ slots f, LegalTable slots → LegalTable (g slots f).1) : AnswersLegal s (onPower s g) := by
  intro t h ht
  cases ht
  exact hg _ _ h

theorem onPin_legal {c : Instr} {s : State} {r : Host.Outcome State Fault Refusal} (hr : AnswersLegal s r) : AnswersLegal s (onPin c s r) := by
  unfold onPin
  split
  · intro t h ht
    cases ht
    exact h
  · exact hr

theorem byEntry_legal {s : State} {x y v : Nat} : AnswersLegal s (byEntry x y v s) := by
  unfold byEntry
  exact onAll_legal fun _ _ h => legal_writeEntryAt _ _ _ _ _ _ h

/-- Every answer of every command leaves legal slot tables legal. -/
theorem exec_legal (c : Instr) (s : State) : AnswersLegal s (exec c s) := by
  by_cases hw : mayWriteSlots c = false
  · intro t h ht
    rwa [(exec_keeps c s t ht).2.2 hw]
  unfold exec
  cases c with
  | slotEntryWrite copy p k v => exact byEntry_legal
  | read m => exact onAll_legal fun _ _ h => legal_arriveMessage h ..
  | write m => exact onAll_legal fun _ _ h => legal_arriveMessage h ..
  | readBlock m => exact onAll_legal fun _ _ h => legal_arriveMessage h ..
  | command m => exact onAll_legal fun _ _ h => legal_arriveMessage h ..
  | poll m => exact onAll_legal fun _ _ h => legal_arriveMessage h ..
  | subscribe m => exact onAll_legal fun _ _ h => legal_arriveMessage h ..
  | mirrorRead addr wide => exact onPin_legal (onAll_legal fun _ _ h => legal_windowRead h ..)
  | mirrorWrite addr wide data => exact onPin_legal (onAll_legal fun _ _ h => legal_windowWrite h ..)
  | rowDataRead n b => exact onAll_legal fun _ _ h => legal_hostBeat h ..
  | rowDataWrite n b => exact onAll_legal fun _ _ h => legal_hostBeat h ..
  | windowAccessTimeout => exact onAll_legal fun _ _ h => legal_accessLate h _
  | pwrOffAck =>
    refine onAll_legal fun slots f h => ?_
    split
    · exact legalTable_nil
    · exact h
  | stageTimeout sub => exact onAll_legal fun _ _ h => legal_stageLate h ..
  | powerGood sec =>
    refine onPower_legal fun slots f h => ?_
    dsimp only
    split
    · exact legal_serveInputs (legal_powerGood h sec f) _
    · exact legal_powerGood h sec f
  | bypass => exact onAll_legal fun _ _ h => legal_loadWir h ..
  | identity => exact onAll_legal fun _ _ h => legal_loadWir h ..
  | extest => exact onAll_legal fun _ _ h => legal_withWir h ..
  | intestScan => exact onAll_legal fun _ _ h => legal_withWir h ..
  | ijtag => exact onAll_legal fun _ _ h => legal_withWir h ..
  | _ => exact absurd rfl hw

/-- Settles O58: a step is the front command's answer, and every command's answer leaves legal tables legal. -/
theorem slotsStayLegal : Obligations.SlotsStayLegal := by
  unfold Obligations.SlotsStayLegal
  intro s t h ht
  rw [slotsLegal_iff] at h ⊢
  cases hp : s.pending with
  | nil =>
    simp only [step, hp, Host.Outcome.next.injEq] at ht
    rwa [← ht]
  | cons c rest =>
    simp only [step, hp] at ht
    exact exec_legal c { s with pending := rest } t h ht

end Sys2Proof.Machine
end

section
/-!
SUPPORT. What a posted write's retirement, a guard end and a window boundary change (R93, R99, R107, R229); then obligations O15 and O11.
-/

namespace Sys2Proof.Machine

/-! ### A posted write retires (R107) -/

/-- A buffer that holds a row writes its words into its row of the array and is empty. -/
theorem retireBuffer_of_held {b : Nat} {s : Store} {w : Pwb} (h : tget none s.pwb b = some w) :
    retireBuffer b s = { s with
      rows := tset zeroWords s.rows (256 * b + w.row) (overlay (arrayWords s (256 * b + w.row)) w.words w.mask)
      pwb := tset none s.pwb b none } := by
  simp only [retireBuffer, h]

/-- Where no ZEROIZE stands a retirement changes the store and the banks noted at fences alone. -/
theorem retireAt_of_no_zero {b : Nat} {f : Fab} (h : f.lop.zero = none) :
    (retireAt b f).store = retireBuffer b f.store ∧ (retireAt b f).ports = f.ports := by
  unfold retireAt
  dsimp only
  rw [beginZero_of_none]
  · exact ⟨rfl, rfl⟩
  · exact h

/-! ### A guard end that ends nothing (R229) -/

/-- The code of what a beat waited for, as the event of a guard end names it (R322). -/
def guardCode : GuardWait → Nat
  | .crossbar => 1
  | .bankCycle => 2
  | .writeBuffer => 3
  | .borrowed => 4

theorem guardEnd_counts {p : Nat} {w : GuardWait} {f : Fab} {b : Burst} (hb : burstOf (portOf f p) = some b)
    (hp : preemptible f b = false) (he : b.ended = false) :
    guardEnd p w f = onBurst p (fun b => { b with ended := true })
      (raise 0x0B (place [(0, p), (8, 1), (9, guardCode w), (16, b.req)]) (countPort p 0x10 1 f)) := by
  cases w <;> simp [guardEnd, guardCode, hb, hp, he]

/-- One that has been told of its burst, which may not be preempted, is nothing. -/
theorem guardEnd_told {p : Nat} {w : GuardWait} {f : Fab} {b : Burst} (hb : burstOf (portOf f p) = some b)
    (hp : preemptible f b = false) (he : b.ended = true) : guardEnd p w f = f := by
  simp [guardEnd, hb, hp, he]

/-- Settles O15: a retirement writes one row and one buffer, and a guard end of such a burst counts, tells and marks it. -/
theorem postedWritesAndGuardEnds : Obligations.PostedWritesAndGuardEnds := by
  unfold Obligations.PostedWritesAndGuardEnds
  refine ⟨fun b s w hm hz hw => ?_, fun p w s b hm hb hp => ⟨fun he => ?_, fun he => ?_⟩⟩
  · obtain ⟨hstore, hports⟩ := retireAt_of_no_zero (b := b) hz
    rw [retireBuffer_of_held hw] at hstore
    refine ⟨_, gives_of_onFab (c := .postedWriteRetire b) (fun _ f => retireAt b f) hm rfl, ?_, ?_, fun ra hne => ?_, fun j hne => ?_,
      ?_, hports⟩
    · rw [hstore, arrayWords, tget_tset_self]
    · rw [hstore]
      dsimp only
      rw [tget_tset_self]
    · rw [hstore, arrayWords, tget_tset_ne _ _ _ hne, arrayWords]
    · rw [hstore]
      dsimp only
      rw [tget_tset_ne _ _ _ hne]
    · rw [hstore]
  · have hgives := gives_of_onFab (c := .guardEnd p w) (fun _ f => guardEnd p w f) hm rfl
    rw [guardEnd_counts hb hp he] at hgives
    refine ⟨_, hgives, onBurst_burstOf (fun b => { b with ended := true }) ?_, ?_, by simp [onBurst], by simp [onBurst]⟩
    · simpa [portOf] using hb
    · rw [← countPort_one s.fab p.isLt (by decide)]
      exact raise_portCounter _ _ _ p.isLt (by decide)
  · have hgives := gives_of_onFab (c := .guardEnd p w) (fun _ f => guardEnd p w f) hm rfl
    rwa [guardEnd_told hb hp he] at hgives

/-! ### The end of a window (R93, R99) -/

@[simp] theorem completeOp_ports (h : BitVec 16) (st r0 r1 r2 r3 : Nat) (f : Fab) : (completeOp h st r0 r1 r2 r3 f).ports = f.ports := by
  unfold completeOp completeWith
  split
  · rfl
  · simp [takeStamp, onLop]

@[simp] theorem endCommits_ports (f : Fab) : (endCommits f).ports = f.ports := by
  unfold endCommits
  exact each_proj Fab.ports _ _ (fun f c _ => completeOp_ports ..) _

/-- A port once its window has ended: one window more, no quota counted, and its copies swapped where a commit stood. -/
def nextWindow (x : Port) : Port :=
  { x with windows := x.windows + 1, reqs := tmap {} (fun _ r => { r with used := 0 }) x.reqs
           active := xor x.active x.commit.isSome, commit := none }

/-- A boundary changes its own port alone. -/
theorem boundary_ports (p n : Nat) (f : Fab) : portOf (boundary p n f) p = nextWindow (portOf f p) ∧
    ∀ j, j ≠ p → portOf (boundary p n f) j = portOf f j := by
  unfold boundary
  dsimp only
  cases hc : (portOf f p).commit with
  | none =>
    simp only [onPort_self, hc]
    refine ⟨by simp [nextWindow, hc], fun j hj => onPort_ne _ _ _ _ hj⟩
  | some h =>
    simp only [onPort_self, hc]
    have hports : ∀ f g j, portOf (endCommits (onLop f g)) j = portOf f j := fun f g j => by
      rw [portOf, endCommits_ports]; rfl
    refine ⟨by rw [hports]; simp [nextWindow, hc], fun j hj => ?_⟩
    rw [hports, onPort_ne _ _ _ _ hj, onPort_ne _ _ _ _ hj]

/-- No requester has a grant counted in the window that begins. -/
theorem tmap_used_zero (t : Tbl Req) (r : Nat) : (tget {} (tmap {} (fun _ r => { r with used := 0 }) t) r).used = 0 := by
  induction t with
  | nil => rfl
  | cons e t ih =>
    unfold tmap at *
    rw [List.filterMap_cons]
    by_cases he : ({ e.2 with used := 0 } : Req) = {}
    · simp only [if_pos he]
      exact ih
    · simp only [if_neg he, tget]
      split
      · rfl
      · exact ih

/-- Settles O11: the boundary passes at the end of round 255 and changes its own port alone. -/
theorem windowBoundaries : Obligations.WindowBoundaries := by
  unfold Obligations.WindowBoundaries
  intro p s hm hr hst hc h255 hw
  have hb : atBoundary (portOf s.fab p) = true := by simp [atBoundary, hc, h255, hw]
  have hruns : (portRuns s.fab p && s.fab.pwr.st == 0) = true := by simp [hr, hst]
  have hgives := gives_of_onFab (c := .windowBoundary p) (fun _ f => when (portRuns f p && f.pwr.st == 0) (crossWindow p) f) hm rfl
  rw [when, if_pos hruns, crossWindow, if_pos hb] at hgives
  have hticked := tickGuards_sameButReqs p s.fab
  obtain ⟨hself, hothers⟩ := boundary_ports p 1 (tickGuards p s.fab)
  have hport : portOf (tickGuards p s.fab) p = { portOf s.fab p with reqs := (portOf (tickGuards p s.fab) p).reqs } := hticked.2
  refine ⟨_, hgives, ?_, fun r => ?_, ?_, ?_, fun j hj => ?_⟩
  · rw [onPort_self, hself, hport]; rfl
  · rw [onPort_self, hself]; exact tmap_used_zero ..
  · rw [onPort_self, hself, hport]; rfl
  · rw [onPort_self, hself]; rfl
  · rw [onPort_ne _ _ _ _ hj, hothers j hj, tickGuards]
    split
    · rfl
    · exact onPort_ne _ _ _ _ hj

end Sys2Proof.Machine
end

section
/-!
SUPPORT. How a long operation gets its handle, how one that is not admitted ends at once (R308, R311, R313), and what SLOT_COMMIT, DRAIN,
ZEROIZE and CANARY_CAL freeze and set up (R93, R94, R104, R317, R319); then obligation O37.
-/

namespace Sys2Proof.Machine

/-! ### Fields of a packed value -/

theorem fields_cons_mod (w v : Nat) (t : List (Nat × Nat)) : fields ((w, v) :: t) % 2 ^ w = v % 2 ^ w := by
  simp [fields]

theorem fields_cons_div (w v : Nat) (t : List (Nat × Nat)) : fields ((w, v) :: t) / 2 ^ w = fields t := by
  rw [fields, Nat.add_mul_div_right _ _ (by positivity), Nat.div_eq_of_lt (Nat.mod_lt _ (by positivity)), Nat.zero_add]

/-- A field that lies within the value packed reads as it does before the value is cut to its width. -/
theorem fld_pack {n lo w : Nat} (l : List (Nat × Nat)) (h : lo + w ≤ n) : fld (pack n l) lo w = fields l / 2 ^ lo % 2 ^ w := by
  apply Nat.eq_of_testBit_eq
  intro i
  rw [fld_testBit, pack, BitVec.toNat_ofNat, Nat.testBit_mod_two_pow, Nat.testBit_mod_two_pow, Nat.testBit_div_two_pow, Nat.add_comm]
  by_cases hi : i < w
  · simp [hi, show i + lo < n by omega]
  · simp [hi]

/-! ### Handles and records (R308, R311) -/

theorem takeHandle_room {opcode : Nat} {f : Fab} (h : f.lop.ops.length < 64) :
    takeHandle opcode false f = (some (newHandle f), handleTaken (BitVec.ofNat 8 opcode) f) := by
  rw [takeHandle, if_neg (by omega)]
  rfl

/-- The record of an operation that ends with a status and no result words (R311). -/
def emptyRecord (h : BitVec 16) (o : Op) (status : Nat) (stamp : BitVec 64) : BitVec 256 :=
  pack 256 [(16, h.toNat), (8, o.opcode.toNat), (8, status), (1, 0), (1, o.self.toNat), (30, 0), (64, stamp.toNat), (32, 0), (32, 0),
    (32, 0), (32, 0)]

theorem emptyRecord_handle (h : BitVec 16) (o : Op) (status : Nat) (stamp : BitVec 64) :
    fld (emptyRecord h o status stamp) 0 16 = h.toNat := by
  rw [emptyRecord, fld_pack _ (by decide), pow_zero, Nat.div_one, fields_cons_mod, Nat.mod_eq_of_lt h.isLt]

theorem emptyRecord_status (h : BitVec 16) (o : Op) {status : Nat} (stamp : BitVec 64) (hs : status < 256) :
    fld (emptyRecord h o status stamp) 24 8 = status := by
  rw [emptyRecord, fld_pack _ (by decide), show 2 ^ 24 = 2 ^ 16 * 2 ^ 8 by decide, ← Nat.div_div_eq_div_mul, fields_cons_div,
    fields_cons_div, fields_cons_mod, show 2 ^ 8 = 256 from rfl, Nat.mod_eq_of_lt hs]

theorem completeOp_lop {h : BitVec 16} {o : Op} {f : Fab} (status : Nat) (ho : (f.lop.ops.find? fun o => o.handle == h) = some o) :
    (completeOp h status 0 0 0 0 f).lop = { f.lop with
      ring := tset 0 f.lop.ring f.lop.head.toNat (emptyRecord h o status (takeStamp f).1)
      head := BitVec.ofNat 8 ((f.lop.head.toNat + 1) % 64)
      ops := f.lop.ops.filter fun o => o.handle != h } := by
  simp only [completeOp, completeWith, ho, raise_lop]
  rfl

theorem handleTaken_ops (opcode : BitVec 8) (f : Fab) :
    (handleTaken opcode f).lop.ops = f.lop.ops ++ [⟨newHandle f, opcode, none, false⟩] := rfl

theorem handleTaken_head (opcode : BitVec 8) (f : Fab) : (handleTaken opcode f).lop.head = f.lop.head := rfl

/-- Some operation has the handle just given. -/
theorem handleTaken_found (opcode : BitVec 8) (f : Fab) :
    ∃ o, ((handleTaken opcode f).lop.ops.find? fun o => o.handle == newHandle f) = some o := by
  refine Option.isSome_iff_exists.mp (List.find?_isSome.mpr ⟨⟨newHandle f, opcode, none, false⟩, ?_, by simp⟩)
  simp [handleTaken_ops]

/-- An operation that ends as it starts leaves its record, the ring's head, the last handle and what it was told with (R308, R311). -/
theorem ended_at_once {s : State} {opcode : BitVec 8} {status : Nat} (hs : status < 256) :
    Ended s (newHandle s.fab) status (completeOp (newHandle s.fab) status 0 0 0 0 (handleTaken opcode s.fab)) := by
  obtain ⟨o, ho⟩ := handleTaken_found opcode s.fab
  unfold Ended
  rw [completeOp_lop status ho]
  dsimp only
  rw [handleTaken_ops, handleTaken_head, tget_tset_self]
  exact ⟨by simp, emptyRecord_handle .., emptyRecord_status _ _ _ hs⟩

/-- What of the long operations that run ports a handle and a record leave alone. -/
def portRunsOf (l : LongOps) : List CommitRun × Tbl (Option DrainRun) × Option ZeroRun × Option CalRun :=
  (l.commits, l.drains, l.zero, l.cal)

theorem portRunsOf_ended_at_once (f : Fab) (opcode : BitVec 8) (status : Nat) :
    portRunsOf (completeOp (newHandle f) status 0 0 0 0 (handleTaken opcode f)).lop = portRunsOf f.lop := by
  obtain ⟨o, ho⟩ := handleTaken_found opcode f
  rw [completeOp_lop status ho]
  rfl

section
variable {c : Instr} {s : State} {opcode : Nat} {start : BitVec 16 → Fab → Fab} (hr : Ready64 s)
  (he : exec c s = onFab .ret s fun _ f => byCommand opcode start f)
include hr he

/-- A long operation commanded in ON with room for it is given its handle and starts (R308, R309). -/
theorem gives_started : Gives c s (start (newHandle s.fab) (handleTaken (BitVec.ofNat 8 opcode) s.fab)) := by
  obtain ⟨hm, hst, hroom⟩ := hr
  have hgives := gives_of_onFab (fun _ f => byCommand opcode start f) hm he
  simpa [byCommand, hst, takeHandle_room hroom] using hgives

/-- One that its start refuses ends at once with its status and changes no port and no other operation (R313). -/
theorem gives_refused {status : Nat} (hs : status < 256)
    (hstart : start (newHandle s.fab) (handleTaken (BitVec.ofNat 8 opcode) s.fab) =
      completeOp (newHandle s.fab) status 0 0 0 0 (handleTaken (BitVec.ofNat 8 opcode) s.fab)) :
    ∃ f, Gives c s f ∧ Ended s (newHandle s.fab) status f ∧ f.ports = s.fab.ports ∧ portRunsOf f.lop = portRunsOf s.fab.lop :=
  ⟨_, hstart ▸ gives_started hr he, ended_at_once hs, by rw [completeOp_ports]; rfl, portRunsOf_ended_at_once ..⟩

end

/-! ### Ports put through a list of updates -/

theorem portOf_each {l : List Nat} (hn : l.Nodup) (g : Port → Port) (f : Fab) (j : Nat) :
    portOf (each l (fun f p => onPort f p g) f) j = if j ∈ l then g (portOf f j) else portOf f j := by
  induction l generalizing f with
  | nil => rfl
  | cons p t ih =>
    obtain ⟨hp, ht⟩ := List.nodup_cons.mp hn
    rw [each_cons, ih ht]
    by_cases hj : j = p
    · subst hj; simp [hp]
    · simp [hj, onPort_ne _ _ _ _ hj]

theorem each_onPort_ports (l : List Nat) (g : Port → Port) (f : Fab) :
    each l (fun f p => onPort f p g) f = { f with ports := (each l (fun f p => onPort f p g) f).ports } := by
  induction l generalizing f with
  | nil => rfl
  | cons p t ih => rw [each_cons, ih]; rfl

/-! ### SLOT_COMMIT (R93, R94) -/

theorem bitsSet_ne_nil {n : Nat} {w : BitVec n} (h : w ≠ 0) : bitsSet w ≠ [] := fun hn =>
  h (BitVec.eq_of_getLsbD_eq fun i _ => by
    have hi : i ∉ bitsSet w := by simp [hn]
    rw [mem_bitsSet] at hi
    simpa [bitAt] using hi)

theorem holdIdle_of_on {h : BitVec 16} {f : Fab} (hst : f.pwr.st = 0) : holdIdle h f = f := by simp [holdIdle, hst]

/-- The ports of a mask wait to swap for a handle. -/
def commitPorts (h : BitVec 16) (w : BitVec 32) (f : Fab) : Fab :=
  each (bitsSet w) (fun f p => onPort f p fun x => { x with commit := some h }) f

theorem commitPorts_eq (h : BitVec 16) (w : BitVec 32) (f : Fab) :
    commitPorts h w f = { f with ports := (commitPorts h w f).ports } := each_onPort_ports ..

theorem startCommit_accepts {h : BitVec 16} {w : BitVec 32} {f : Fab} (hw : w ≠ 0) (hc : ∀ p, bitAt w p = true → (portOf f p).commit = none)
    (hf : f.start.fawn = false) (hst : f.pwr.st = 0) : ∃ r : CommitRun, r.handle = h ∧ r.mask = w ∧ r.swapped = 0 ∧
      startCommit h w f = onLop (commitPorts h w f) fun x => { x with commits := x.commits ++ [r] } := by
  have hwaits : ((bitsSet w).any fun p => (portOf f p).commit.isSome) = false :=
    List.any_eq_false.mpr fun p hp => by simp [hc p ((mem_bitsSet w p).mp hp)]
  have hsome : (bitsSet w).isEmpty = false := by simp [bitsSet_ne_nil hw]
  simp only [startCommit, hsome, hwaits, hf, Bool.or_self, Bool.false_eq_true, if_false]
  rw [holdIdle_of_on (by rw [onLop_pwr]; exact (congrArg (·.pwr.st) (commitPorts_eq h w f)).trans hst)]
  exact ⟨⟨h, w, 0, _, 0, 0⟩, rfl, rfl, rfl, rfl⟩

theorem startCommit_refuses {h : BitVec 16} {w : BitVec 32} {f : Fab}
    (hw : w = 0 ∨ f.start.fawn = true ∨ ∃ p, p < 32 ∧ bitAt w p = true ∧ (portOf f p).commit ≠ none) :
    startCommit h w f = completeOp h sState 0 0 0 0 f := by
  have hrefuse : ((bitsSet w).isEmpty || ((bitsSet w).any fun p => (portOf f p).commit.isSome) || f.start.fawn) = true := by
    obtain rfl | hfawn | ⟨p, -, hbit, hc⟩ := hw
    · rfl
    · simp [hfawn]
    · have hany : ((bitsSet w).any fun p => (portOf f p).commit.isSome) = true :=
        List.any_eq_true.mpr ⟨p, (mem_bitsSet w p).mpr hbit, Option.isSome_iff_ne_none.mpr hc⟩
      simp [hany]
  unfold startCommit
  exact if_pos hrefuse

/-! ### DRAIN (R104) -/

/-- A FREEZE held leaves the handles and the drains. -/
theorem holdFreeze_lop (p : Nat) (f : Fab) : (holdFreeze p f).lop.last = f.lop.last ∧ (holdFreeze p f).lop.ops = f.lop.ops ∧
    (holdFreeze p f).lop.drains = f.lop.drains := ⟨rfl, rfl, rfl⟩

theorem holdFreeze_freeze (q : Nat) (f : Fab) (p : Nat) :
    (portOf (holdFreeze q f) p).freeze = (decide (p = q) || (portOf f p).freeze) := by
  by_cases h : p = q
  · subst h; simp [holdFreeze]
  · simp [holdFreeze, h, onPort_ne _ _ _ _ h]

theorem holdFreeze_ne {q p : Nat} (f : Fab) (h : p ≠ q) : portOf (holdFreeze q f) p = portOf f p :=
  (onLop_portOf ..).trans (onPort_ne _ _ _ _ h)

theorem startDrain_accepts {h : BitVec 16} {w : BitVec 32} {f : Fab} (hw : w.toNat < 32) (hd : tget none f.lop.drains w.toNat = none) :
    startDrain h w f = holdFreeze w.toNat (onLop f fun l => { l with drains := tset none l.drains w.toNat (some ⟨h, 0, 0⟩) }) := by
  simp [startDrain, hd, Nat.not_le.mpr hw]

theorem startDrain_refuses {h : BitVec 16} {w : BitVec 32} {f : Fab} (hw : 32 ≤ w.toNat ∨ tget none f.lop.drains w.toNat ≠ none) :
    startDrain h w f = completeOp h sState 0 0 0 0 f := by
  unfold startDrain
  refine if_pos ?_
  obtain hw | hd := hw
  · simp [hw]
  · simp [Option.isSome_iff_ne_none.mpr hd]

/-! ### ZEROIZE (R317) -/

/-- Where no MARCH and no SCRUB stands there is none to end. -/
theorem abortSweeps_of_none {f : Fab} (hm : f.integ.march = none) (hs : ∀ n, tget none f.integ.scrubs n = none) : abortSweeps f = f :=
  each_id _ _ _ fun h _ => by
    simp only [abortSweep, hm]
    exact each_id _ _ _ fun n _ => by simp only [hs n]

/-- A ZEROIZE that has not begun to clear does so now (R317, R357). -/
def zeroMayBegin (z : ZeroRun) (f : Fab) : Bool :=
  !z.begun && ((List.range 32).all fun p => if bitAt z.scope 0 then portClear f p else portEmpty f p) &&
    (!f.sec.zeroing || (allFlights f).all fun e => e.2.stopping.isNone)

theorem beginZero_of_some {f : Fab} {z : ZeroRun} (h : f.lop.zero = some z) :
    beginZero f = if zeroMayBegin z f then onLop f (fun l => { l with zero := some { z with begun := true } }) else f := by
  simp only [beginZero, h]
  rfl

/-- A ZEROIZE just set up stays set up, whether it may begin to clear or not. -/
theorem beginZero_begins (f : Fab) (z : ZeroRun) :
    ∃ y, beginZero (onLop f fun l => { l with zero := some z }) = onLop f (fun l => { l with zero := some y }) ∧
      y.handle = z.handle ∧ y.scope = z.scope ∧ y.trigger = z.trigger := by
  rw [beginZero_of_some (f := onLop f fun l => { l with zero := some z }) rfl]
  split
  · exact ⟨{ z with begun := true }, rfl, rfl, rfl, rfl⟩
  · exact ⟨z, rfl, rfl, rfl, rfl⟩

/-- Every port frozen. -/
def freezePorts (f : Fab) : Fab := each (List.range 32) (fun f p => onPort f p fun x => { x with freeze := true }) f

theorem freezePorts_eq (f : Fab) : freezePorts f = { f with ports := (freezePorts f).ports } := each_onPort_ports ..

theorem freezePorts_freeze {p : Nat} (f : Fab) (hp : p < 32) : (portOf (freezePorts f) p).freeze = true := by
  rw [freezePorts, portOf_each List.nodup_range, if_pos (List.mem_range.mpr hp)]

/-- A ZEROIZE as it is set up: what to restore of each port, nothing cleared. -/
def zeroRunOf (h : BitVec 16) (scope : BitVec 4) (trigger : BitVec 8) (f : Fab) : ZeroRun :=
  ⟨h, scope, trigger, BitVec.ofNat 32 (place ((List.range 32).map fun p => (p, (portOf f p).freeze.toNat))), false, []⟩

theorem beginRun_freezes {h : BitVec 16} {scope : BitVec 4} {trigger : BitVec 8} {f : Fab} (hm : f.integ.march = none)
    (hs : ∀ n, tget none f.integ.scrubs n = none) : ∃ z, z.handle = h ∧ z.scope = scope ∧ z.trigger = trigger ∧
      beginRun h scope trigger f = onLop (freezePorts f) fun l => { l with zero := some z } := by
  have hsweeps : when (bitAt scope 0) abortSweeps f = f := by
    unfold Machine.when
    rw [abortSweeps_of_none hm hs, ite_self]
  obtain ⟨z, hz, hhandle, hscope, htrigger⟩ := beginZero_begins (freezePorts f) (zeroRunOf h scope trigger f)
  refine ⟨z, hhandle, hscope, htrigger, Eq.trans ?_ hz⟩
  simp only [beginRun, hsweeps]
  rfl

theorem startZeroize_accepts {h : BitVec 16} {w : BitVec 32} {f : Fab} (hw : w ≠ 0) (hlt : w.toNat < 16) (hz : f.lop.zero = none)
    (hst : f.pwr.st = 0) (hm : f.integ.march = none) (hs : ∀ n, tget none f.integ.scrubs n = none) :
    ∃ z, z.handle = h ∧ z.scope = BitVec.ofNat 4 w.toNat ∧ z.trigger = 0 ∧
      startZeroize h w f = onLop (freezePorts f) fun l => { l with zero := some z } := by
  obtain ⟨z, hhandle, hscope, htrigger, hrun⟩ := beginRun_freezes (h := h) (scope := BitVec.ofNat 4 w.toNat) (trigger := 0) hm hs
  refine ⟨z, hhandle, hscope, htrigger, ?_⟩
  have hadmitted : (decide (w = 0) || decide (16 ≤ w.toNat) || f.lop.zero.isSome) = false := by simpa [hz, hlt] using hw
  have hon : (onLop (freezePorts f) fun l => { l with zero := some z }).pwr.st = 0 :=
    (congrArg (·.pwr.st) (freezePorts_eq f)).trans hst
  simp only [startZeroize, hadmitted, hrun, Machine.when, holdIdle_of_on hon, ite_self, Bool.false_eq_true, if_false]

theorem startZeroize_refuses {h : BitVec 16} {w : BitVec 32} {f : Fab} (hw : w = 0 ∨ 16 ≤ w.toNat ∨ f.lop.zero.isSome = true) :
    startZeroize h w f = completeOp h sState 0 0 0 0 f := by
  unfold startZeroize
  refine if_pos ?_
  obtain h | h | h := hw <;> simp [h]

/-! ### CANARY_CAL (R319) -/

/-- The ports of the groups of a mask. -/
def groupPorts (m : BitVec 16) : List Nat := (bitsSet m).flatMap fun n => [n, 16 + n]

theorem mem_groupPorts {m : BitVec 16} {n : Nat} (h : bitAt m n = true) : n ∈ groupPorts m ∧ 16 + n ∈ groupPorts m := by
  constructor <;> exact List.mem_flatMap.mpr ⟨n, (mem_bitsSet m n).mpr h, by simp⟩

theorem each_holdFreeze_freeze (l : List Nat) (f : Fab) (p : Nat) :
    (portOf (each l (fun f p => holdFreeze p f) f) p).freeze = (decide (p ∈ l) || (portOf f p).freeze) := by
  induction l generalizing f with
  | nil => simp [each]
  | cons q t ih =>
    rw [each_cons, ih, holdFreeze_freeze]
    by_cases h : p = q <;> simp [h]

theorem each_holdFreeze_lop (l : List Nat) (f : Fab) : (each l (fun f p => holdFreeze p f) f).lop.last = f.lop.last ∧
    (each l (fun f p => holdFreeze p f) f).lop.ops = f.lop.ops :=
  ⟨each_proj (·.lop.last) l (fun f p => holdFreeze p f) (fun _ _ _ => rfl) f,
    each_proj (·.lop.ops) l (fun f p => holdFreeze p f) (fun _ _ _ => rfl) f⟩

theorem startCal_accepts {h : BitVec 16} {w : BitVec 32} {f : Fab} (hw : w ≠ 0) (hlt : w.toNat < 65536) (hc : f.lop.cal = none)
    (hv : f.th.valid = true) (ht : signed 16 f.th.inUse.toNat < (f.th.startAct.toNat : Int) * 16) :
    ∃ c : CalRun, c.todo = BitVec.ofNat 16 w.toNat ∧ startCal h w f =
      onLop (each (groupPorts (BitVec.ofNat 16 w.toNat)) (fun f p => holdFreeze p f) f) fun l => { l with cal := some c } := by
  have hadmitted : (decide (w = 0) || decide (65536 ≤ w.toNat) || f.lop.cal.isSome) = false := by simpa [hc, hlt] using hw
  have hcool : (!f.th.valid || decide ((f.th.startAct.toNat : Int) * 16 ≤ signed 16 f.th.inUse.toNat)) = false := by
    simp [hv, ht]
  simp only [startCal, hadmitted, hcool, Bool.false_eq_true, if_false]
  exact ⟨⟨h, BitVec.ofNat 16 w.toNat, BitVec.ofNat 16 w.toNat, 0, 0, 63, 0, 0, 0, _⟩, rfl, rfl⟩

theorem startCal_refuses {h : BitVec 16} {w : BitVec 32} {f : Fab} (hw : w = 0 ∨ 65536 ≤ w.toNat ∨ f.lop.cal.isSome = true) :
    startCal h w f = completeOp h sState 0 0 0 0 f := by
  unfold startCal
  refine if_pos ?_
  obtain h | h | h := hw <;> simp [h]

theorem startCal_too_hot {h : BitVec 16} {w : BitVec 32} {f : Fab} (hw : w ≠ 0) (hlt : w.toNat < 65536) (hc : f.lop.cal = none)
    (ht : f.th.valid = false ∨ (f.th.startAct.toNat : Int) * 16 ≤ signed 16 f.th.inUse.toNat) :
    startCal h w f = completeOp h sTemperature 0 0 0 0 f := by
  have hadmitted : (decide (w = 0) || decide (65536 ≤ w.toNat) || f.lop.cal.isSome) = false := by simpa [hc, hlt] using hw
  simp only [startCal, hadmitted, Bool.false_eq_true, if_false]
  refine if_pos ?_
  obtain h | h := ht <;> simp [h]

/-! ### The obligation -/

section
variable {w : BitVec 32} {s : State} (hr : Ready64 s)
include hr

theorem slotCommit_starts (hw : w ≠ 0) (hc : ∀ p, bitAt w p = true → (portOf s.fab p).commit = none) (hf : s.fab.start.fawn = false) :
    ∃ f r, Gives (.slotCommit w) s f ∧ Accepted s 3 f ∧ f.lop.commits = s.fab.lop.commits ++ [r] ∧ r.handle = newHandle s.fab ∧
      r.mask = w ∧ r.swapped = 0 ∧ ∀ p, (portOf f p).commit = if bitAt w p then some (newHandle s.fab) else (portOf s.fab p).commit := by
  have hgives := gives_started hr (c := .slotCommit w) (opcode := 3) (start := fun h f => startCommit h w f) rfl
  obtain ⟨r, hhandle, hmask, hswapped, hstart⟩ := startCommit_accepts (h := newHandle s.fab) (f := handleTaken 3 s.fab) hw hc hf hr.2.1
  rw [show BitVec.ofNat 8 3 = 3 from rfl, hstart, commitPorts_eq] at hgives
  refine ⟨_, r, hgives, ⟨rfl, rfl⟩, rfl, hhandle, hmask, hswapped, fun p => ?_⟩
  change (portOf (commitPorts _ w (handleTaken 3 s.fab)) p).commit = _
  rw [commitPorts, portOf_each (nodup_bitsSet w)]
  simp only [mem_bitsSet]
  split <;> rfl

theorem drain_starts (hw : w.toNat < 32) (hd : tget none s.fab.lop.drains w.toNat = none) :
    ∃ f, Gives (.drain w) s f ∧ Accepted s 4 f ∧ (portOf f w.toNat).freeze = true ∧
      tget none f.lop.drains w.toNat = some ⟨newHandle s.fab, 0, 0⟩ ∧ (∀ p, p ≠ w.toNat → portOf f p = portOf s.fab p) := by
  have hgives := gives_started hr (c := .drain w) (opcode := 4) (start := fun h f => startDrain h w f) rfl
  rw [show BitVec.ofNat 8 4 = 4 from rfl, startDrain_accepts (f := handleTaken 4 s.fab) hw hd] at hgives
  refine ⟨_, hgives, ⟨rfl, rfl⟩, ?_, ?_, fun p hp => holdFreeze_ne _ hp⟩
  · simp [holdFreeze_freeze]
  · rw [(holdFreeze_lop ..).2.2]
    exact tget_tset_self none s.fab.lop.drains w.toNat (some ⟨newHandle s.fab, 0, 0⟩)

theorem zeroize_starts (hw : w ≠ 0) (hlt : w.toNat < 16) (hz : s.fab.lop.zero = none) (hm : s.fab.integ.march = none)
    (hs : ∀ n, tget none s.fab.integ.scrubs n = none) :
    ∃ f z, Gives (.zeroize w) s f ∧ Accepted s 8 f ∧ f.lop.zero = some z ∧ z.handle = newHandle s.fab ∧
      z.scope = BitVec.ofNat 4 w.toNat ∧ z.trigger = 0 ∧ (∀ p, p < 32 → (portOf f p).freeze = true) := by
  have hgives := gives_started hr (c := .zeroize w) (opcode := 8) (start := fun h f => startZeroize h w f) rfl
  obtain ⟨z, hhandle, hscope, htrigger, hstart⟩ := startZeroize_accepts (h := newHandle s.fab) (f := handleTaken 8 s.fab) hw hlt hz
    hr.2.1 hm hs
  have hfrozen : ∀ p, p < 32 → (portOf (freezePorts (handleTaken 8 s.fab)) p).freeze = true := fun p hp => freezePorts_freeze _ hp
  have hports := freezePorts_eq (handleTaken 8 s.fab)
  generalize freezePorts (handleTaken 8 s.fab) = g at hfrozen hports hstart
  rw [show BitVec.ofNat 8 8 = 8 from rfl, hstart] at hgives
  exact ⟨_, z, hgives, ⟨congrArg (·.lop.last) hports, congrArg (·.lop.ops) hports⟩, rfl, hhandle, hscope, htrigger, hfrozen⟩

theorem canaryCal_starts (hw : w ≠ 0) (hlt : w.toNat < 65536) (hc : s.fab.lop.cal = none) (hv : s.fab.th.valid = true)
    (ht : signed 16 s.fab.th.inUse.toNat < (s.fab.th.startAct.toNat : Int) * 16) :
    ∃ f c, Gives (.canaryCal w) s f ∧ Accepted s 0x0C f ∧ f.lop.cal = some c ∧ c.todo = BitVec.ofNat 16 w.toNat ∧
      (∀ n, n < 16 → bitAt w n = true → (portOf f n).freeze = true ∧ (portOf f (16 + n)).freeze = true) := by
  have hgives := gives_started hr (c := .canaryCal w) (opcode := 0xC) (start := fun h f => startCal h w f) rfl
  obtain ⟨c, htodo, hstart⟩ := startCal_accepts (h := newHandle s.fab) (f := handleTaken 0xC s.fab) hw hlt hc hv ht
  rw [show BitVec.ofNat 8 0xC = 0xC from rfl, hstart] at hgives
  obtain ⟨hlast, hops⟩ := each_holdFreeze_lop (groupPorts (BitVec.ofNat 16 w.toNat)) (handleTaken 0xC s.fab)
  refine ⟨_, c, hgives, ⟨hlast, hops⟩, rfl, htodo, fun n hn hbit => ?_⟩
  have hm : bitAt (BitVec.ofNat 16 w.toNat) n = true := by
    simpa [bitAt, BitVec.getLsbD_ofNat, hn] using hbit
  obtain ⟨hop, hxp⟩ := mem_groupPorts hm
  simp only [onLop_portOf, each_holdFreeze_freeze, hop, hxp, decide_true, Bool.true_or, and_self]

end

/-- Settles O37: what each operation's start gives where it is admitted, and that it ends at once where it is not. -/
theorem portOperationsStart : Obligations.PortOperationsStart := by
  unfold Obligations.PortOperationsStart
  intro w s hr
  refine ⟨slotCommit_starts hr, fun hw => ?_, drain_starts hr, fun hw => ?_, fun hw hlt hz hm hs => zeroize_starts hr hw hlt hz hm hs,
    fun hw => ?_, fun hw hlt hc hv _ ht => canaryCal_starts hr hw hlt hc hv ht, fun hw => ?_, fun hw hlt hc ht => ?_⟩
  · obtain ⟨f, hgives, hended, hports, hruns⟩ := gives_refused hr (c := .slotCommit w) (opcode := 3)
      (start := fun h f => startCommit h w f) rfl (by decide) (startCommit_refuses hw)
    exact ⟨f, hgives, hended, hports, congrArg (·.1) hruns⟩
  · obtain ⟨f, hgives, hended, hports, hruns⟩ := gives_refused hr (c := .drain w) (opcode := 4)
      (start := fun h f => startDrain h w f) rfl (by decide) (startDrain_refuses hw)
    exact ⟨f, hgives, hended, hports, congrArg (·.2.1) hruns⟩
  · obtain ⟨f, hgives, hended, hports, hruns⟩ := gives_refused hr (c := .zeroize w) (opcode := 8)
      (start := fun h f => startZeroize h w f) rfl (by decide) (startZeroize_refuses hw)
    exact ⟨f, hgives, hended, hports, congrArg (·.2.2.1) hruns⟩
  · obtain ⟨f, hgives, hended, hports, hruns⟩ := gives_refused hr (c := .canaryCal w) (opcode := 0xC)
      (start := fun h f => startCal h w f) rfl (by decide) (startCal_refuses hw)
    exact ⟨f, hgives, hended, hports, congrArg (·.2.2.2) hruns⟩
  · obtain ⟨f, hgives, hended, hports, hruns⟩ := gives_refused hr (c := .canaryCal w) (opcode := 0xC)
      (start := fun h f => startCal h w f) rfl (by decide) (startCal_too_hot hw hlt hc ht)
    exact ⟨f, hgives, hended, hports, (congrArg (·.2.2.2) hruns).trans hc⟩

end Sys2Proof.Machine
end

section
/-!
SUPPORT. What a requester could move behind a port's burst depends on the bursts of the ports, not on their requests, their rotations
or what is counted and told (R86, R87, R95).
-/

namespace Sys2Proof.Machine

/-! ### The bursts of a table of ports -/

/-- A measure of the bursts that run or are decided, summed over a table of ports. -/
def burstSum (w : Option Burst → Nat) (t : Tbl Port) : Nat := (t.map fun e => w (burstOf e.2) + w (nextBurst e.2)).sum

theorem burstSum_flatMap (t : Tbl Port) (k : Option Burst → Nat × Nat) (part : Nat × Nat → Nat) :
    ((t.flatMap fun e => [k (burstOf e.2), k (nextBurst e.2)]).map part).sum = burstSum (fun b => part (k b)) t := by
  induction t with
  | nil => rfl
  | cons e t ih => simp [burstSum, ih, Nat.add_assoc]

theorem burstSum_tput (w : Option Burst → Nat) (t : Tbl Port) (p : Nat) (x : Port) :
    burstSum w (tput t p x) = w (burstOf x) + w (nextBurst x) + burstSum w t := by
  induction t with
  | nil => rfl
  | cons e t ih =>
    unfold tput
    split
    · simp [burstSum]
    · simp only [burstSum, List.map_cons, List.sum_cons] at ih ⊢
      omega

theorem tdrop_tput (t : Tbl Port) (p : Nat) (x : Port) : tdrop (tput t p x) p = tdrop t p := by
  induction t with
  | nil => simp [tput, tdrop]
  | cons e t ih =>
    unfold tput
    split
    · simp [tdrop]
    · simp [tdrop, ih]

theorem tdrop_tset (t : Tbl Port) (p : Nat) (x : Port) : tdrop (tset {} t p x) p = tdrop t p := by
  unfold tset
  split
  · exact tdrop_tdrop t p
  · rw [tdrop_tput, tdrop_tdrop]

theorem burstSum_tset {w : Option Burst → Nat} (hw : w none = 0) (t : Tbl Port) (p : Nat) (x : Port) :
    burstSum w (tset {} t p x) = w (burstOf x) + w (nextBurst x) + burstSum w (tdrop t p) := by
  unfold tset
  split
  · next h => subst h; simp [burstOf, nextBurst, hw]
  · exact burstSum_tput ..

/-! ### Fabrics whose ports have the same bursts -/

/-- The two differ in what is counted and told, and in the ports, whose rounds under way and decided are the same. -/
def SameBursts (f g : Fab) : Prop :=
  g = { f with ports := g.ports, ev := g.ev, cnt := g.cnt, out := g.out, stamps := g.stamps } ∧
    (∀ j, (portOf g j).cur = (portOf f j).cur) ∧ ∀ w, w none = 0 → burstSum w g.ports = burstSum w f.ports

/-- The table lists port p at most once. -/
def ListedOnce (p : Nat) (f : Fab) : Prop :=
  ∀ w, w none = 0 → burstSum w f.ports = w (burstOf (portOf f p)) + w (nextBurst (portOf f p)) + burstSum w (tdrop f.ports p)

theorem onPort_listedOnce (p : Nat) (f : Fab) (g : Port → Port) : ListedOnce p (onPort f p g) := by
  intro w hw
  rw [onPort_self, onPort, tdrop_tset, burstSum_tset hw]

theorem refreshReqs_listedOnce (p : Nat) (f : Fab) : ListedOnce p (refreshReqs p f) := onPort_listedOnce p f _

/-- A change that leaves the bursts as they are, where port p is listed once, and keeps it so. -/
def KeepsBursts (p : Nat) (f g : Fab) : Prop := ListedOnce p f → SameBursts f g ∧ ListedOnce p g

theorem KeepsBursts.refl (p : Nat) (f : Fab) : KeepsBursts p f f := fun h => ⟨⟨rfl, fun _ => rfl, fun _ _ => rfl⟩, h⟩

theorem KeepsBursts.trans {p : Nat} {f g h : Fab} (a : KeepsBursts p f g) (b : KeepsBursts p g h) : KeepsBursts p f h := by
  intro hf
  obtain ⟨⟨afab, acur, asum⟩, hg⟩ := a hf
  obtain ⟨⟨bfab, bcur, bsum⟩, hh⟩ := b hg
  refine ⟨⟨?_, fun j => (bcur j).trans (acur j), fun w hw => (bsum w hw).trans (asum w hw)⟩, hh⟩
  rw [bfab, afab]

/-- Counting and telling leave every burst. -/
theorem SameButReports.keepsBursts {f g : Fab} (p : Nat) (h : SameButReports f g) : KeepsBursts p f g := by
  have hports : g.ports = f.ports := by rw [h]
  have hport : ∀ j, portOf g j = portOf f j := fun j => by rw [portOf, hports, portOf]
  refine fun hf => ⟨⟨?_, fun j => by rw [hport], fun w _ => by rw [hports]⟩, ?_⟩
  · rw [h]
  · unfold ListedOnce
    rwa [hports, hport]

/-- So does a change of what else a port holds. -/
theorem onPort_keepsBursts {p : Nat} {f : Fab} {g : Port → Port} (hcur : (g (portOf f p)).cur = (portOf f p).cur)
    (hnext : (g (portOf f p)).next = (portOf f p).next) : KeepsBursts p f (onPort f p g) := by
  refine fun hf => ⟨⟨rfl, fun j => ?_, fun w hw => ?_⟩, onPort_listedOnce p f g⟩
  · by_cases h : j = p
    · subst h; rw [onPort_self, hcur]
    · rw [onPort_ne _ _ _ _ h]
  · rw [hf w hw, onPort, burstSum_tset hw, burstOf_congr hcur, nextBurst, hnext, ← nextBurst]

theorem tickGuards_keepsBursts (p : Nat) (f : Fab) : KeepsBursts p f (tickGuards p f) := by
  unfold tickGuards
  split
  · exact .refl p f
  · exact onPort_keepsBursts rfl rfl

theorem loseRound_keepsBursts (p m : Nat) (f : Fab) (r : Nat) : KeepsBursts p f (loseRound p m f r) := by
  have hcounted : KeepsBursts p f (countPort p 5 1 f) := (count_same ..).keepsBursts p
  unfold loseRound
  dsimp only
  split
  · exact hcounted
  · exact (hcounted.trans (onPort_keepsBursts rfl rfl)).trans ((countMax_same ..).keepsBursts p)

theorem each_loseRound_keepsBursts (p m : Nat) (l : List Nat) (f : Fab) : KeepsBursts p f (each l (loseRound p m) f) := by
  induction l generalizing f with
  | nil => exact .refl p f
  | cons r t ih => exact (loseRound_keepsBursts p m f r).trans (ih _)

/-! ### What the bursts of the ports decide -/

section
variable {f g : Fab} (h : SameBursts f g)
include h

theorem roomAt_of_sameBursts (p : Nat) : roomAt g p = roomAt f p := by
  obtain ⟨hfab, -, hsum⟩ := h
  have hrows : allFlights g = allFlights f := by rw [hfab]; rfl
  have hreserved : reservedBy g p = reservedBy f p := by rw [hfab]; rfl
  have hkept := hsum (reservedBy f p) rfl
  simp only [roomAt, hrows, hreserved]
  exact congrArg _ hkept

theorem stackRoom_of_sameBursts (k : Nat) : stackRoom g k = stackRoom f k := by
  obtain ⟨hfab, -, hsum⟩ := h
  have hport : kportOf g k = kportOf f k := by rw [hfab]; rfl
  have hkept : keptBy g k = keptBy f k := by rw [hfab]; rfl
  simp only [stackRoom, hport, hkept, burstSum_flatMap]
  rw [hsum _ rfl, hsum _ rfl]

theorem legAvail_of_sameBursts (q : Nat) (x : Flight) (i : Nat) (l : Leg) : legAvail g q x i l = legAvail f q x i l := by
  have hroom := roomAt_of_sameBursts h
  have hstack := stackRoom_of_sameBursts h
  have hgrant : openGrant g x i = openGrant f x i := by rw [h.1]; rfl
  have hrows : assembledFrom g x l.next = assembledFrom f x l.next := by rw [h.1]; rfl
  have hrx : rxRows g = rxRows f := by rw [h.1]; rfl
  have htag : writeTag g = writeTag f := by rw [h.1]; rfl
  simp only [legAvail, hroom, hstack, hgrant, hrows, hrx, htag]

theorem awaited_of_sameBursts (q p : Nat) (x : Flight) : awaited g q p x = awaited f q p x := by
  obtain ⟨hfab, hcur, -⟩ := h
  have hfrom : againFrom g q p x = againFrom f q p x := by
    have hsec : g.sec = f.sec := by rw [hfab]
    funext i l
    simp only [againFrom, burstOf_congr (hcur l.port), hsec]
  simp only [awaited, hfrom]

theorem wantOf_of_sameBursts (q p : Nat) : wantOf g q p = wantOf f q p := by
  have hqueue : queueOf g q = queueOf f q := by rw [h.1]; rfl
  have hstart : legStart g q = legStart f q := by rw [h.1]; rfl
  have hblocked : blocked g q p = blocked f q p := by
    funext x banks
    simp only [blocked, hqueue, awaited_of_sameBursts h]
  simp only [wantOf, hqueue, hstart, hblocked, legAvail_of_sameBursts h]

theorem inboundWant_of_sameBursts (p : Nat) : inboundWant g p = inboundWant f p := by
  have hwaiting : inboundAt g p = inboundAt f p := by rw [h.1]; rfl
  have hctx : ctxOf g = ctxOf f := by rw [h.1]; rfl
  have hnote : notePending g = notePending f := by rw [h.1]; rfl
  have hstream : streamRoom g = streamRoom f := by
    have hserving : servingPort g = servingPort f := by rw [h.1]; rfl
    have hport : kportOf g = kportOf f := by rw [h.1]; rfl
    funext m
    simp only [streamRoom, hserving, hport, stackRoom_of_sameBursts h]
  simp only [inboundWant, hwaiting, hctx, hnote, hstream]

theorem wantsOf_of_sameBursts (p r : Nat) : wantsOf g p r = wantsOf f p r := by
  have hinbound := inboundWant_of_sameBursts h p
  have hwant := wantOf_of_sameBursts h r p
  obtain ⟨hfab, hcur, -⟩ := h
  have hmoving : inFlight (portOf g p) r = inFlight (portOf f p) r := by simp only [inFlight, hcur]
  have hhost : g.bdp = f.bdp := by rw [hfab]
  have hscrub : scrubWants g = scrubWants f := by rw [hfab]; rfl
  have hmarch : marchWants g = marchWants f := by rw [hfab]; rfl
  have hload : loadWants g = loadWants f := by rw [hfab]; rfl
  have hzero : zeroLeft g = zeroLeft f := by rw [hfab]; rfl
  simp only [wantsOf, hinbound, hwant, hmoving, hhost, hscrub, hmarch, hload, hzero]

end

/-- The ports stand as they are while the burst under way is taken as moved. -/
theorem passRows_ports (q ord i n : Nat) (f : Fab) : (passRows q ord i n f).ports = f.ports := by
  unfold passRows
  split
  · rfl
  · split
    · rfl
    · dsimp only
      split <;> rfl

theorem ahead_ports (p : Nat) (f : Fab) : (ahead p f).ports = f.ports := by
  unfold ahead
  split
  · split
    · exact passRows_ports ..
    · split <;> rfl
  · rfl

/-- A fabric with other ports, and otherwise counted and told. -/
def otherwise (ps : Tbl Port) (e : Events) (c : Counts) (o : List Output) (n : Nat) (f : Fab) : Fab :=
  { f with ports := ps, ev := e, cnt := c, out := o, stamps := n }

theorem passRows_otherwise (q ord i n : Nat) (ps e c o m) (f : Fab) :
    passRows q ord i n (otherwise ps e c o m f) = otherwise ps e c o m (passRows q ord i n f) := by
  have hflight : flightOf (otherwise ps e c o m f) q ord = flightOf f q ord := rfl
  have hopen : isOpen (otherwise ps e c o m f) = isOpen f := rfl
  have htag : ∀ F, writeTag (onFlight q ord F (otherwise ps e c o m f)) (.flight q ord) = writeTag (onFlight q ord F f) (.flight q ord) :=
    fun _ => rfl
  unfold passRows
  rw [hflight]
  split
  · rfl
  · split
    · rfl
    · simp only [hopen, htag]
      split <;> rfl

theorem ahead_otherwise {p : Nat} {ps : Tbl Port} {e c o m} {f : Fab} (h : (tget {} ps p).cur = (portOf f p).cur) :
    ahead p (otherwise ps e c o m f) = otherwise ps e c o m (ahead p f) := by
  have hcur : (portOf (otherwise ps e c o m f) p).cur = (portOf f p).cur := h
  have hin : inPort (otherwise ps e c o m f) = inPort f := rfl
  unfold ahead
  rw [hcur]
  split
  · simp only [hin, passRows_otherwise]
    split
    · rfl
    · split <;> rfl
  · rfl

/-- Judged behind the burst under way, too, the bursts are the same. -/
theorem ahead_of_sameBursts {f g : Fab} (h : SameBursts f g) (p : Nat) : SameBursts (ahead p f) (ahead p g) := by
  obtain ⟨hfab, hcur, hsum⟩ := h
  have hports : ∀ f j, portOf (ahead p f) j = portOf f j := fun f j => by rw [portOf, ahead_ports, portOf]
  have hother : g = otherwise g.ports g.ev g.cnt g.out g.stamps f := hfab
  have hahead : ahead p g = otherwise g.ports g.ev g.cnt g.out g.stamps (ahead p f) := by
    conv_lhs => rw [hother]
    exact ahead_otherwise (hcur p)
  refine ⟨?_, fun j => by rw [hports, hports, hcur], fun w hw => by rw [ahead_ports, ahead_ports, hsum w hw]⟩
  rw [hahead]
  rfl

/-- What a requester could move behind the burst is the same where the bursts are. -/
theorem wantsOf_ahead_of_sameBursts {f g : Fab} (h : SameBursts f g) (p r : Nat) : wantsOf (ahead p g) p r = wantsOf (ahead p f) p r :=
  wantsOf_of_sameBursts (ahead_of_sameBursts h p) p r

end Sys2Proof.Machine
end

section
/-!
SUPPORT. What a round lost, a round granted and a background ranking leave of a port's standing requests, its rotations and its
counters (R97 to R99).
-/

namespace Sys2Proof.Machine

/-! ### The first and the greatest of a list -/

theorem foldl_max_eq {l : List Nat} {a m : Nat} (ha : a ≤ m) (hle : ∀ x ∈ l, x ≤ m) (hm : a = m ∨ m ∈ l) : l.foldl max a = m := by
  induction l generalizing a with
  | nil => simpa using hm
  | cons x t ih =>
    have hx : x ≤ m := hle x (by simp)
    refine ih (by omega) (fun y hy => hle y (by simp [hy])) ?_
    rcases hm with h | h
    · exact .inl (by omega)
    · rcases List.mem_cons.mp h with h | h
      · exact .inl (by omega)
      · exact .inr h

/-- The greatest value over a list is that of a member which no other exceeds. -/
theorem greatest_eq {l : List Nat} {v : Nat → Nat} {w : Nat} (hw : w ∈ l) (hle : ∀ r ∈ l, v r ≤ v w) : (l.map v).foldl max 0 = v w :=
  foldl_max_eq (Nat.zero_le _) (by simpa using hle) (.inr (List.mem_map.mpr ⟨w, hw, rfl⟩))

/-- The least of an ascending list stands first. -/
theorem head_of_ascending {l : List Nat} {w : Nat} (hl : l.Pairwise (· < ·)) (hw : w ∈ l) (hle : ∀ r ∈ l, r ≠ w → w < r) :
    l.head? = some w := by
  cases l with
  | nil => cases hw
  | cons x t =>
    rcases List.mem_cons.mp hw with h | h
    · rw [h]; rfl
    · have hx : x < w := (List.pairwise_cons.mp hl).1 w h
      have := hle x (by simp) (by omega)
      omega

/-- The members after the one last granted. -/
def afterLast (last : Option Nat) (l : List Nat) : List Nat :=
  match last with
  | some a => l.filter fun r => decide (a < r)
  | none => l

/-- The first in the rotation stands first among those after the last granted, or first of all where none stands after it (R97). -/
theorem head_of_firstAfter {last : Option Nat} {l : List Nat} {w : Nat} (hl : l.Pairwise (· < ·)) (hw : w ∈ l)
    (h : FirstAfter last w l) : (afterLast last l ++ l).head? = some w := by
  rw [List.head?_append]
  cases last with
  | none => rw [afterLast, head_of_ascending hl hw h]; rfl
  | some a =>
    by_cases ha : a < w
    · have hafter : (l.filter fun r => decide (a < r)).head? = some w :=
        head_of_ascending (hl.filter _) (by simp [hw, ha]) fun r hr hne => by
          obtain ⟨hr, har⟩ : r ∈ l ∧ a < r := by simpa using hr
          have := (h r hr hne).1 ha
          omega
      rw [afterLast, hafter]; rfl
    · have hnone : (l.filter fun r => decide (a < r)) = [] := by
        refine List.filter_eq_nil_iff.mpr fun r hr => ?_
        by_cases hne : r = w
        · simpa [hne] using ha
        · have := ((h r hr hne).2 (by omega)).1
          simpa using this
      rw [afterLast, hnone, head_of_ascending hl hw fun r hr hne => ((h r hr hne).2 (by omega)).2]
      rfl

/-! ### A round lost -/

/-- The back-off of a requester that has lost `losses` rounds before this one (R98). -/
def backoffOf (cap losses : Nat) : Nat := min (2 ^ min losses 16) cap

/-- A requester's standing once it has lost round m (R98). -/
def lost (cap m : Nat) (q : Req) : Req :=
  { q with losses := q.losses + 1, backUntil := m + backoffOf cap q.losses + 1 }

/-- A round lost changes the loser's standing alone, and counts; a requester that does not back off is only counted. -/
theorem loseRound_port (p m : Nat) (f : Fab) (r : Nat) : portOf (loseRound p m f r) p =
    if rHost < r then portOf f p
    else { portOf f p with
      reqs := tset {} (portOf f p).reqs r (lost (portOf f p).backoffCap.toNat m (tget {} (portOf f p).reqs r)) } := by
  have hcounted : portOf (countPort p 5 1 f) p = portOf f p := by simp [portOf]
  unfold loseRound
  dsimp only
  split
  · exact hcounted
  · rw [portOf, countMax_ports, ← portOf, onReq, onPort_self, hcounted]
    rfl

theorem loseRound_reqs_ne {p m r j : Nat} (f : Fab) (h : j ≠ r) :
    tget {} (portOf (loseRound p m f r) p).reqs j = tget {} (portOf f p).reqs j := by
  rw [loseRound_port]
  split
  · rfl
  · exact tget_tset_ne _ _ _ h

theorem loseRound_reqs_self {p m r : Nat} (f : Fab) (h : r ≤ rHost) :
    tget {} (portOf (loseRound p m f r) p).reqs r = lost (portOf f p).backoffCap.toNat m (tget {} (portOf f p).reqs r) := by
  rw [loseRound_port, if_neg (by omega)]
  exact tget_tset_self ..

theorem loseRound_backoffCap (p m : Nat) (f : Fab) (r : Nat) :
    (portOf (loseRound p m f r) p).backoffCap = (portOf f p).backoffCap := by
  rw [loseRound_port]
  split <;> rfl

theorem loseRound_lastAt (p m : Nat) (f : Fab) (r : Nat) : (portOf (loseRound p m f r) p).lastAt = (portOf f p).lastAt := by
  rw [loseRound_port]
  split <;> rfl

theorem loseRound_queues (p m : Nat) (f : Fab) (r : Nat) : (loseRound p m f r).queues = f.queues := by
  unfold loseRound
  dsimp only
  split <;> simp [onReq]

/-- The largest back-off seen is one counter. -/
theorem countMax_ne (x y n : Nat) (f : Fab) {a b : Nat} (h : cKey a b ≠ cKey x y) (h1 : cKey a b ≠ cKey 0x8400 0x1C)
    (h2 : cKey a b ≠ cKey 0x8400 0x1D) : counterOf (countMax x y n f) a b = counterOf f a b := by
  unfold countMax
  split
  · rfl
  · dsimp only
    split
    · rw [raise, raiseWith_counter _ _ _ _ _ h1 h2, setCounter_ne _ _ _ _ h]
    · rw [setCounter_ne _ _ _ _ h]

theorem countPort_ne {p s c : Nat} (f : Fab) (hp : p < 32) (hc : c < 256) (_ : s < 256) (h : c ≠ s) :
    counterOf (countPort p s 1 f) (0x8100 + p) c = counterOf f (0x8100 + p) c :=
  count_ne _ _ _ _ (by unfold cKey; omega) (by unfold cKey; omega) (by unfold cKey; omega)

/-- A round lost counts at the losses and at the largest back-off (R292). -/
theorem loseRound_counter {p m r c : Nat} (f : Fab) (hp : p < 32) (hc : c < 256) (h5 : c ≠ 5) (h7 : c ≠ 7) :
    counterOf (loseRound p m f r) (0x8100 + p) c = counterOf f (0x8100 + p) c := by
  have hcounted := countPort_ne f hp hc (by decide) h5
  unfold loseRound
  dsimp only
  split
  · exact hcounted
  · rw [countMax_ne _ _ _ _ (by unfold cKey; omega) (by unfold cKey; omega) (by unfold cKey; omega), onReq_counterOf, hcounted]

/-! ### The rounds that all but the winner lose -/

section
variable {p m : Nat} {l : List Nat} (f : Fab)

theorem losers_reqs_notMem {j : Nat} (h : j ∉ l) :
    tget {} (portOf (each l (loseRound p m) f) p).reqs j = tget {} (portOf f p).reqs j :=
  each_proj (fun f => tget {} (portOf f p).reqs j) l (loseRound p m) (fun f r hr => loseRound_reqs_ne f (by rintro rfl; exact h hr)) f

theorem losers_reqs_mem {r : Nat} (hl : l.Nodup) (hr : r ∈ l) (hhost : r ≤ rHost) :
    tget {} (portOf (each l (loseRound p m) f) p).reqs r = lost (portOf f p).backoffCap.toNat m (tget {} (portOf f p).reqs r) := by
  obtain ⟨g, hg, heach⟩ := each_at (fun r f => (tget {} (portOf f p).reqs r, (portOf f p).backoffCap)) (loseRound p m)
    (fun f a b hab => Prod.ext (loseRound_reqs_ne f (Ne.symm hab)) (loseRound_backoffCap ..)) l hl r hr f
  obtain ⟨hreq, hcap⟩ := Prod.mk.inj hg
  rw [(Prod.mk.inj heach).1, loseRound_reqs_self g hhost, hreq, hcap]

theorem losers_lastAt : (portOf (each l (loseRound p m) f) p).lastAt = (portOf f p).lastAt :=
  each_proj (fun f => (portOf f p).lastAt) l (loseRound p m) (fun f r _ => loseRound_lastAt p m f r) f

theorem losers_queues : (each l (loseRound p m) f).queues = f.queues :=
  each_proj Fab.queues l (loseRound p m) (fun f r _ => loseRound_queues p m f r) f

theorem losers_counter {c : Nat} (hp : p < 32) (hc : c < 256) (h5 : c ≠ 5) (h7 : c ≠ 7) :
    counterOf (each l (loseRound p m) f) (0x8100 + p) c = counterOf f (0x8100 + p) c :=
  each_proj (fun f => counterOf f (0x8100 + p) c) l (loseRound p m) (fun f _ _ => loseRound_counter f hp hc h5 h7) f

end

/-! ### A round granted -/

/-- A grant counted against the quota of a level-3 queue (R99). -/
def charges (f : Fab) (r : Nat) (how : Grant) : Bool :=
  r < 256 && (queueOf f r).level == 3 && (how == .background || how == .preempt)

section
variable {p r bm1 : Nat} {how : Grant} {f : Fab} {v : Nat × Nat × Nat × Nat} (h : wantsOf (ahead p f) p r = some v)
include h

/-- A grant ends its requester's standing but for its count, and counts. -/
theorem grantTo_port : portOf (grantTo p r how bm1 f).2 p = { portOf f p with
    reqs := tset {} (portOf f p).reqs r { used := (tget {} (portOf f p).reqs r).used + (charges f r how).toNat } } := by
  cases how <;> simp [grantTo, h, portOf, onReq, onPort, charges]

theorem grantTo_pwr : (grantTo p r how bm1 f).2.pwr = f.pwr := by
  cases how <;> simp [grantTo, h, onReq]

/-- A grant counts at its own kind's counter (R292). -/
theorem grantTo_background_count (hp : p < 32) :
    counterOf (grantTo p r .background bm1 f).2 (0x8100 + p) 3 = counterOf f (0x8100 + p) 3 + 1 := by
  simp only [grantTo, h, countPort_one _ hp (show 3 < 256 by decide), onReq_counterOf]

theorem grantTo_counter {c : Nat} (hp : p < 32) (hc : c < 256) (h2 : c ≠ 2) (h3 : c ≠ 3) (h4 : c ≠ 4) (hf : c ≠ 0x0F) :
    counterOf (grantTo p r how bm1 f).2 (0x8100 + p) c = counterOf f (0x8100 + p) c := by
  cases how <;> simp only [grantTo, h]
  case owned => exact countPort_ne _ hp hc (by decide) h2
  case background => exact countPort_ne _ hp hc (by decide) h3
  case preempt => exact countPort_ne _ hp hc (by decide) h4
  case guard => exact countPort_ne _ hp hc (by decide) hf
  case exclusive => rfl

end

/-! ### The ranking -/

/-- The candidates among those that stand ready for round m (R98, R99). -/
def candidates (f : Fab) (p m : Nat) (ready : List Nat) : List Nat :=
  ready.filter fun r => decide ((tget {} (portOf f p).reqs r).backUntil ≤ m) && !masked f p r false

/-- Age of requester r's standing on port p (R97). -/
def ageAt (f : Fab) (p r : Nat) : Nat := ageOf (portOf f p).rounds (tget {} (portOf f p).reqs r)

/-- The candidates of the highest level, and of those the ones of the greatest age (R97). -/
def topLevel (f : Fab) (l : List Nat) : Nat := (l.map (levelOf f)).foldl max 0
def atTop (f : Fab) (l : List Nat) : List Nat := l.filter fun r => levelOf f r == topLevel f l
def oldestAtTop (f : Fab) (p : Nat) (l : List Nat) : List Nat :=
  (atTop f l).filter fun r => ageAt f p r == ((atTop f l).map (ageAt f p)).foldl max 0

/-- Those in the order of their level's rotation. -/
def rotation (f : Fab) (p : Nat) (l : List Nat) : List Nat :=
  afterLast (tget none (portOf f p).lastAt (topLevel f l)) (oldestAtTop f p l) ++ oldestAtTop f p l

section
variable {p m bm1 w : Nat} {ready : List Nat} {f : Fab}

theorem rankRound_of_no_head (h : (rotation f p (candidates f p m ready)).head? = none) : rankRound p m bm1 ready f = (.empty, f) := by
  unfold rankRound
  dsimp only
  split
  · rfl
  · next heq => cases heq.symm.trans h

theorem rankRound_of_head (h : (rotation f p (candidates f p m ready)).head? = some w) : rankRound p m bm1 ready f =
    grantTo p w .background bm1 (each ((candidates f p m ready).filter (· ≠ w)) (loseRound p m)
      (onPort f p fun x => { x with lastAt := tset none x.lastAt (topLevel f (candidates f p m ready)) (some w) })) := by
  unfold rankRound
  dsimp only
  split
  · next heq => cases heq.symm.trans h
  · next heq => cases heq.symm.trans h; rfl

theorem rankRound_of_none (h : candidates f p m ready = []) : rankRound p m bm1 ready f = (.empty, f) := by
  refine rankRound_of_no_head ?_
  rw [h]
  unfold rotation afterLast
  split <;> rfl

/-- The round goes to the candidate of the highest level, then of the greatest age, then first in its level's rotation (R97). -/
theorem rankRound_of_first (hready : ready.Pairwise (· < ·)) (hw : w ∈ candidates f p m ready)
    (hbest : ∀ r ∈ candidates f p m ready, levelOf f r < levelOf f w ∨ (levelOf f r = levelOf f w ∧ ageAt f p r ≤ ageAt f p w))
    (hfirst : FirstAfter (tget none (portOf f p).lastAt (levelOf f w)) w
      ((candidates f p m ready).filter fun r => levelOf f r == levelOf f w && ageAt f p r == ageAt f p w)) :
    rankRound p m bm1 ready f = grantTo p w .background bm1 (each ((candidates f p m ready).filter (· ≠ w)) (loseRound p m)
      (onPort f p fun x => { x with lastAt := tset none x.lastAt (levelOf f w) (some w) })) := by
  have hasc : (candidates f p m ready).Pairwise (· < ·) := hready.filter _
  have hrank := @rankRound_of_head p m bm1 w ready f
  generalize candidates f p m ready = l at *
  have htop : topLevel f l = levelOf f w := greatest_eq hw fun r hr => by rcases hbest r hr with h | h <;> omega
  have hage : ((atTop f l).map (ageAt f p)).foldl max 0 = ageAt f p w := by
    refine greatest_eq (by simp [atTop, htop, hw]) fun r hr => ?_
    obtain ⟨hr, hlevel⟩ : r ∈ l ∧ levelOf f r = levelOf f w := by simpa [atTop, htop] using hr
    rcases hbest r hr with h | h <;> omega
  have holdest : oldestAtTop f p l = l.filter fun r => levelOf f r == levelOf f w && ageAt f p r == ageAt f p w := by
    rw [oldestAtTop, hage, atTop, htop, List.filter_filter]
    simp only [Bool.and_comm]
  rw [← htop]
  refine hrank ?_
  rw [rotation, holdest, htop]
  exact head_of_firstAfter (hasc.filter _) (by simp [hw]) hfirst

end

end Sys2Proof.Machine
end

section
/-!
SUPPORT. A decision made of a background round, in an empty round or during a burst's last beat, and one that a preemption makes at the
start of a beat (R95 to R101).
-/

namespace Sys2Proof.Machine

/-! ### The fabric in which a ranking grants its round -/

/-- The rotation moved on to the winner, and the round lost by every other candidate. -/
def rankedTo (f : Fab) (p m w : Nat) (l : List Nat) : Fab :=
  each (l.filter (· ≠ w)) (loseRound p m) (onPort f p fun x => { x with lastAt := tset none x.lastAt (levelOf f w) (some w) })

section
variable (f : Fab) (p m w : Nat) (l : List Nat)

theorem rankedTo_keepsBursts : KeepsBursts p f (rankedTo f p m w l) :=
  (onPort_keepsBursts (g := fun x => { x with lastAt := tset none x.lastAt (levelOf f w) (some w) }) rfl rfl).trans
    (each_loseRound_keepsBursts p m _ _)

theorem rankedTo_queues : (rankedTo f p m w l).queues = f.queues := losers_queues _

theorem rankedTo_lastAt : tget none (portOf (rankedTo f p m w l) p).lastAt (levelOf f w) = some w := by
  rw [rankedTo, losers_lastAt, onPort_self]
  exact tget_tset_self none (portOf f p).lastAt (levelOf f w) (some w)

theorem rankedTo_winner : tget {} (portOf (rankedTo f p m w l) p).reqs w = tget {} (portOf f p).reqs w := by
  rw [rankedTo, losers_reqs_notMem _ (by simp), onPort_self]

theorem rankedTo_loser {r : Nat} (hl : l.Nodup) (hr : r ∈ l) (hne : r ≠ w) (hhost : r ≤ rHost) :
    tget {} (portOf (rankedTo f p m w l) p).reqs r = lost (portOf f p).backoffCap.toNat m (tget {} (portOf f p).reqs r) := by
  rw [rankedTo, losers_reqs_mem _ (hl.filter _) (by simp [hr, hne]) hhost, onPort_self]

theorem rankedTo_counter {c : Nat} (hp : p < 32) (hc : c < 256) (h5 : c ≠ 5) (h7 : c ≠ 7) :
    counterOf (rankedTo f p m w l) (0x8100 + p) c = counterOf f (0x8100 + p) c := losers_counter _ hp hc h5 h7

end

/-! ### Decisions -/

/-- A FREE round that no guarded requester takes is ranked (R96). -/
theorem chooseRound_ranked {slots : Tbl (BitVec 16)} {p k m : Nat} {f g : Fab} (hg : refreshReqs p (beginZero f) = g)
    (hf : bitAt g.th.frozen (p % 16) = false) (hi : forcedIdle g p = false) (hz : g.lop.zero = none) (hs : stillPort g p = false)
    (hb : fallback g = false) (hj : injKind g ≠ 4) (ho : eOdd (activeSlot slots g p k) = false)
    (hk : eKind (activeSlot slots g p k) = 0) (hw : guardedOf g p (readyOn g p) = none) :
    chooseRound slots p k m f = rankRound p m (eBurst (activeSlot slots g p k)) (readyOn g p) g := by
  subst hg
  simp [chooseRound, hf, hi, zeroLeft_of_none hz, hs, hb, hj, Machine.when, ho, hk, ownerOf, hw]

theorem decideNext_not_due {slots : Tbl (BitVec 16)} {p : Nat} {f : Fab} (h : decisionDue f p = false) : decideNext slots p f = f := by
  simp [decideNext, h]

/-- During a round that ends no window the round is counted in the guard waits as the next is decided (R227). -/
theorem closeRound_within {p : Nat} {f : Fab} (hw : (portOf f p).wrapped = false) (hr : (portOf f p).round ≠ 255) :
    closeRound p f = tickGuards p f := by
  have hinside : atBoundary (portOf f p) = false := by
    simp only [atBoundary, beq_eq_false_iff_ne.mpr hr, Bool.and_false, Bool.false_and]
  simp [closeRound, hw, hinside]

theorem nextRound_within {x : BitVec 8} (h : x ≠ 255) : (x.toNat + 1) % 256 = x.toNat + 1 := by
  have : x.toNat ≠ 255 := fun hx => h (BitVec.eq_of_toNat_eq hx)
  omega

section
variable {slots : Tbl (BitVec 16)} {p : Nat} {f : Fab} {r : Round} {h : Fab} (hr : portRuns f p = true) (hst : f.pwr.st = 0)
  (hw : (portOf f p).wrapped = false) (h255 : (portOf f p).round ≠ 255)
  (hd : chooseRound slots p ((portOf f p).round.toNat + 1) ((portOf f p).rounds + 1) (tickGuards p f) = (r, h))
include hr hst hw h255 hd

/-- What is decided during a burst's last beat waits for its end (R95). -/
theorem decideNext_lastBeat {b : Burst} (hc : (portOf f p).cur = .burst b) (hn : (portOf f p).next = none) (hl : b.moved + 1 = b.len) :
    decideNext slots p f = onPort h p fun x => { x with next := some r } := by
  have hdue : decisionDue f p = true := by simp [decisionDue, hr, hc, hn, hl, hst]
  simp [decideNext, hdue, hst, hc, closeRound_within hw h255, nextRound_within h255, hd]

/-- What is decided in an empty round ends it (R18, R95). -/
theorem decideNext_empty (hc : (portOf f p).cur = .empty) :
    decideNext slots p f = finishEmpty p (onPort h p fun x => { x with next := some r }) := by
  have hdue : decisionDue f p = true := by simp [decisionDue, hr, hc]
  simp [decideNext, hdue, hst, hc, closeRound_within hw h255, nextRound_within h255, hd]

end

/-! ### The end of a round -/

/-- A port as its next round begins. -/
def nextRound (x : Port) : Port :=
  { x with round := x.round + 1, rounds := x.rounds + 1, cur := x.next.getD .idle, next := none }

/-- A round of port p that ends changes its own port and counts. -/
theorem finishRound_port {p : Nat} {f : Fab} (hst : f.pwr.st = 0) : portOf (finishRound p f) p =
    if (portOf f p).round = 255 then
      if (portOf f p).wrapped then { nextRound (portOf f p) with wrapped := false } else nextWindow (nextRound (portOf f p))
    else nextRound (portOf f p) := by
  have hcounted : ∀ (l : List Nat) (f : Fab), portOf (each l (fun f q => countQueue q 3 1 f) f) p = portOf f p := fun l f =>
    each_proj (fun f => portOf f p) l (fun f q => countQueue q 3 1 f) (fun f q _ => by simp [portOf, countQueue]) f
  have hon : ¬(f.pwr.st != 0) = true := by simp [hst]
  unfold finishRound
  rw [if_neg hon]
  dsimp only
  rw [apply_ite (fun f => portOf f p), hcounted, ite_self, onLop_portOf]
  split
  · split
    · simp [nextRound]
    · rw [(boundary_ports ..).1, onPort_self]
      rfl
  · rw [onPort_self]
    rfl

theorem finishRound_counter {p a b : Nat} {f : Fab} (hst : f.pwr.st = 0) (hr : (portOf f p).round ≠ 255) (ha : a < 0x8200)
    (hb : b < 256) : counterOf (finishRound p f) a b = counterOf f a b := by
  have hcounted : ∀ (l : List Nat) (f : Fab), counterOf (each l (fun f q => countQueue q 3 1 f) f) a b = counterOf f a b := fun l f =>
    each_proj (fun f => counterOf f a b) l (fun f q => countQueue q 3 1 f)
      (fun f q _ => count_ne _ _ _ _ (by unfold cKey; omega) (by unfold cKey; omega) (by unfold cKey; omega)) f
  have hon : ¬(f.pwr.st != 0) = true := by simp [hst]
  unfold finishRound
  rw [if_neg hon]
  dsimp only
  rw [apply_ite (fun f => counterOf f a b), hcounted, ite_self, if_neg hr]
  rfl

/-- An empty round that ends is counted, and the round decided in it begins. -/
theorem finishEmpty_port {p : Nat} {f : Fab} (hst : f.pwr.st = 0) (hr : (portOf f p).round ≠ 255) :
    portOf (finishEmpty p f) p = nextRound { portOf f p with beatTimes := (portOf f p).beatTimes + 1 } := by
  have hport : portOf (countPort p 8 1 (onPort f p fun x => { x with beatTimes := x.beatTimes + 1 })) p =
      { portOf f p with beatTimes := (portOf f p).beatTimes + 1 } := by rw [portOf, countPort_ports, ← portOf, onPort_self]
  rw [finishEmpty, finishRound_port (by simpa using hst), hport, if_neg hr]

theorem finishEmpty_counter {p : Nat} {f : Fab} (hp : p < 32) (hst : f.pwr.st = 0) (hr : (portOf f p).round ≠ 255) :
    counterOf (finishEmpty p f) (0x8100 + p) 8 = counterOf f (0x8100 + p) 8 + 1 := by
  have hround : (portOf (countPort p 8 1 (onPort f p fun x => { x with beatTimes := x.beatTimes + 1 })) p).round = (portOf f p).round := by
    rw [portOf, countPort_ports, ← portOf, onPort_self]
  rw [finishEmpty, finishRound_counter (by simpa using hst) (by rw [hround]; exact hr) (by omega) (by decide),
    countPort_one _ hp (by decide)]
  rfl

/-! ### Preemption -/

section
variable {slots : Tbl (BitVec 16)} {p : Nat} {f : Fab} {b : Burst} (h255 : (portOf f p).round ≠ 255)
include h255

/-- Within a window the entry of the next round is the active copy's (R89). -/
theorem entryFor_within : entryFor slots (portOf f p) p (((portOf f p).round.toNat + 1) % 256)
    ((portOf f p).round == 255 && !(portOf f p).wrapped) = activeSlot slots f p ((portOf f p).round.toNat + 1) := by
  have hinside : ((portOf f p).round == 255 && !(portOf f p).wrapped) = false := by
    rw [beq_eq_false_iff_ne.mpr h255, Bool.false_and]
  simp only [entryFor, hinside, Bool.false_and, Bool.xor_false, nextRound_within h255, activeSlot]

/-- The next round is fixed, or its owner takes it. -/
def NextRoundTaken (slots : Tbl (BitVec 16)) (f : Fab) (p : Nat) (b : Burst) : Prop :=
  eOdd (activeSlot slots f p ((portOf f p).round.toNat + 1)) = true ∨ eKind (activeSlot slots f p ((portOf f p).round.toNat + 1)) = 2 ∨
    stillPort f p = true ∨
    ∃ o, ownerOf (activeSlot slots f p ((portOf f p).round.toNat + 1)) = some o ∧ (o = b.req ∨ o ∈ readyOn f p)

theorem preemptBy_of_taken (h : NextRoundTaken slots f p b) : preemptBy slots f p b = none := by
  unfold preemptBy
  dsimp only
  rw [entryFor_within h255]
  unfold NextRoundTaken at h
  generalize activeSlot slots f p _ = e at h ⊢
  rcases h with h | h | h | ⟨o, ho, h⟩
  · simp [h]
  · simp [h]
  · simp [h]
  · have howned : (o == b.req || (readyOn f p).contains o) = true := by simpa using h
    simp only [ho, howned, if_true, ite_self]

variable (hb : fallback f = false) (hs : stillPort f p = false) (hi : forcedIdle f p = false)
  (ho : eOdd (activeSlot slots f p ((portOf f p).round.toNat + 1)) = false)
  (hk : eKind (activeSlot slots f p ((portOf f p).round.toNat + 1)) ≠ 2)
  (hown : ∀ o, ownerOf (activeSlot slots f p ((portOf f p).round.toNat + 1)) = some o → o ≠ b.req ∧ o ∉ readyOn f p)

/-- The URGENT queues that may preempt (R101). -/
def urgentOf (f : Fab) (p : Nat) (ready : List Nat) : List Nat :=
  ready.filter fun r => r < 256 && (queueOf f r).level == 3 && (queueOf f r).urgent && !masked f p r false &&
    decide ((tget {} (portOf f p).reqs r).backUntil ≤ (portOf f p).rounds + 1)

include hb hs hi ho hk hown

/-- A next round that is open goes to a guarded requester, or else to the oldest URGENT queue (R101, R228). -/
theorem preemptBy_of_open : preemptBy slots f p b =
    let others := (readyOn f p).filter fun r => r != b.req
    match guardedOf f p others with
    | some g => some (g, .guard)
    | none => ((urgentOf f p others).find? fun r => ageAt f p r == ((urgentOf f p others).map (ageAt f p)).foldl max 0).map
        fun r => (r, .preempt) := by
  have hbar : (fallback f || stillPort f p || forcedIdle f p || eOdd (activeSlot slots f p ((portOf f p).round.toNat + 1)) ||
      eKind (activeSlot slots f p ((portOf f p).round.toNat + 1)) == 2) = false := by simp [hb, hs, hi, ho, hk]
  have hcross : ((portOf f p).round == 255 && !(portOf f p).wrapped) = false := by
    rw [beq_eq_false_iff_ne.mpr h255, Bool.false_and]
  have hentry := entryFor_within (slots := slots) h255
  rw [hcross] at hentry
  simp only [preemptBy, hcross, hentry, hbar, Bool.false_eq_true, if_false]
  generalize activeSlot slots f p _ = e at hown
  cases howner : ownerOf e with
  | none => rfl
  | some o =>
    obtain ⟨hne, hnot⟩ := hown o howner
    have hfree : ¬(o == b.req || (readyOn f p).contains o) = true := by simpa using ⟨hne, hnot⟩
    dsimp only
    rw [if_neg hfree]
    rfl

end

theorem mem_urgentOf {f : Fab} {p r : Nat} {l : List Nat} : r ∈ urgentOf f p l ↔ r ∈ l ∧ r < 256 ∧ (queueOf f r).level = 3 ∧
    (queueOf f r).urgent = true ∧ (tget {} (portOf f p).reqs r).used < (queueOf f r).quota.toNat ∧
    (tget {} (portOf f p).reqs r).backUntil ≤ (portOf f p).rounds + 1 := by
  simp only [urgentOf, List.mem_filter, Bool.and_eq_true, decide_eq_true_eq, beq_iff_eq]
  refine and_congr_right fun _ => ⟨fun ⟨⟨⟨⟨hq, hlevel⟩, hurgent⟩, hmask⟩, hback⟩ => ⟨hq, hlevel, hurgent, ?_, hback⟩,
    fun ⟨hq, hlevel, hurgent, hused, hback⟩ => ⟨⟨⟨⟨hq, hlevel⟩, hurgent⟩, ?_⟩, hback⟩⟩
  · simpa only [masked, hq, hlevel, decide_true, beq_self_eq_true, Bool.true_and, Bool.false_eq_true, if_false, Bool.not_eq_true',
      decide_eq_false_iff_not, Nat.not_le] using hmask
  · simp only [masked, hq, hlevel, decide_true, beq_self_eq_true, Bool.true_and, Bool.false_eq_true, if_false, Bool.not_eq_true',
      decide_eq_false_iff_not, Nat.not_le, hused]

/-- Of the greatest over an ascending list the lowest is found first. -/
theorem find_greatest {l : List Nat} {v : Nat → Nat} {w : Nat} (hl : l.Pairwise (· < ·)) (hw : w ∈ l)
    (hbest : ∀ r ∈ l, r ≠ w → v r < v w ∨ (v r = v w ∧ w < r)) : (l.find? fun r => v r == (l.map v).foldl max 0) = some w := by
  have htop : (l.map v).foldl max 0 = v w := greatest_eq hw fun r hr => by
    by_cases h : r = w
    · rw [h]
    · rcases hbest r hr h with h | h <;> omega
  rw [htop, ← List.head?_filter]
  refine head_of_ascending (hl.filter _) (by simp [hw]) fun r hr hne => ?_
  obtain ⟨hr, heq⟩ : r ∈ l ∧ v r = v w := by simpa using hr
  rcases hbest r hr hne with h | h <;> omega

section
variable {slots : Tbl (BitVec 16)} {p : Nat} {f : Fab} {b : Burst} (hc : (portOf f p).cur = .burst b) (hm : b.moved + 1 ≠ b.len)
  (hl : b.lastBeat = false) (hwait : b.waited = false) (htied : b.tied = false) (hpre : preemptible f b = true)
include hc hm hl hwait htied hpre

theorem checkPreempt_of_none (h : preemptBy slots (refreshReqs p f) p b = none) : checkPreempt slots p f = refreshReqs p f := by
  simp [checkPreempt, hc, hm, hl, hwait, htied, hpre, h]

/-- A preemption within a window makes the beat the burst's last, the grant the next round, and is counted (R101). -/
theorem checkPreempt_of_some {r : Nat} {how : Grant} {v : Nat × Nat × Nat × Nat} (hp : p < 32) (hw : (portOf f p).wrapped = false)
    (h255 : (portOf f p).round ≠ 255)
    (h : preemptBy slots (refreshReqs p f) p b = some (r, how)) (hv : wantsOf (ahead p (refreshReqs p f)) p r = some v) :
    burstOf (portOf (checkPreempt slots p f) p) = some { b with lastBeat := true } ∧
      (∃ n, nextBurst (portOf (checkPreempt slots p f) p) = some n ∧ n.req = r ∧ n.grant = how ∧ n.moved = 0) ∧
      counterOf (checkPreempt slots p f) (0x8100 + p) 6 = counterOf f (0x8100 + p) 6 + 1 := by
  have hsame := refreshReqs_sameButReqs p f
  have hclose : closeRound p (refreshReqs p f) = tickGuards p (refreshReqs p f) :=
    closeRound_within (by rw [hsame.2]; exact hw) (by rw [hsame.2]; exact h255)
  have hkeeps : KeepsBursts p (refreshReqs p f) (countPort p 6 1 (tickGuards p (refreshReqs p f))) :=
    (tickGuards_keepsBursts _ _).trans ((count_same ..).keepsBursts p)
  have hcount : counterOf (countPort p 6 1 (tickGuards p (refreshReqs p f))) (0x8100 + p) 6 = counterOf f (0x8100 + p) 6 + 1 := by
    rw [countPort_one _ hp (by decide), (tickGuards_sameButReqs ..).counterOf_eq, hsame.counterOf_eq]
  have hcheck : ∃ bm1, checkPreempt slots p f = onPort (grantTo p r how bm1 (countPort p 6 1 (tickGuards p (refreshReqs p f)))).2 p
      fun x => { x with next := some (grantTo p r how bm1 (countPort p 6 1 (tickGuards p (refreshReqs p f)))).1
                        cur := .burst { b with lastBeat := true } } := by
    simp only [checkPreempt, hc, hl, hwait, htied, hpre, h, hclose, beq_eq_false_iff_ne.mpr hm, Bool.or_false, Bool.not_true,
      Bool.false_eq_true, if_false]
    exact ⟨_, rfl⟩
  obtain ⟨bm1, hcheck⟩ := hcheck
  obtain ⟨hbursts, -⟩ := hkeeps (refreshReqs_listedOnce p f)
  generalize countPort p 6 1 (tickGuards p (refreshReqs p f)) = g at hcount hcheck hbursts
  have hg := (wantsOf_ahead_of_sameBursts hbursts p r).trans hv
  obtain ⟨n, hround, hreq, hgrant, hmoved, -⟩ := grantTo_burst (how := how) (bm1 := bm1) hg
  rw [hcheck, onPort_self, hround]
  refine ⟨rfl, ⟨n, rfl, hreq, hgrant, hmoved⟩, ?_⟩
  rw [← hcount]
  exact grantTo_counter hg hp (by decide) (by decide) (by decide) (by decide) (by decide)

end

end Sys2Proof.Machine
end

section
/-!
SUPPORT. The last beat of a burst that a preemption or a halt has cut short (R101, R227); then obligation O10.
-/

namespace Sys2Proof.Machine

/-! ### A burst discarded -/

section
variable {α : Type} [DecidableEq α]

theorem tmap_cons (d : α) (g : Nat → α → α) (e : Nat × α) (t : Tbl α) :
    tmap d g (e :: t) = if g e.1 e.2 = d then tmap d g t else (e.1, g e.1 e.2) :: tmap d g t := by
  unfold tmap
  rw [List.filterMap_cons]
  split <;> simp_all

theorem tget_tmap_cons_ne (d : α) (g : Nat → α → α) {e : Nat × α} (t : Tbl α) {k : Nat} (h : e.1 ≠ k) :
    tget d (tmap d g (e :: t)) k = tget d (tmap d g t) k := by
  rw [tmap_cons]
  split
  · rfl
  · rw [tget, if_neg h]

theorem tget_tmap_of_unlisted (d : α) (g : Nat → α → α) {t : Tbl α} {k : Nat} (h : ∀ e ∈ t, e.1 ≠ k) :
    tget d (tmap d g t) k = d := by
  induction t with
  | nil => rfl
  | cons e t ih => rw [tget_tmap_cons_ne d g t (h e (by simp)), ih fun e he => h e (by simp [he])]

theorem tget_tmap_tput (d : α) (g : Nat → α → α) {t : Tbl α} {k : Nat} (h : ∀ e ∈ t, e.1 ≠ k) (v : α) :
    tget d (tmap d g (tput t k v)) k = g k v := by
  have hfirst : ∀ t : Tbl α, (∀ e ∈ t, e.1 ≠ k) → tget d (tmap d g ((k, v) :: t)) k = g k v := fun t ht => by
    rw [tmap_cons]
    split
    · next hg => rw [tget_tmap_of_unlisted d g ht, hg]
    · simp [tget]
  induction t with
  | nil => exact hfirst [] h
  | cons e t ih =>
    unfold tput
    split
    · exact hfirst _ h
    · rw [tget_tmap_cons_ne d g _ (h e (by simp)), ih fun e he => h e (by simp [he])]

/-- A value put through a function that keeps the default is read as put through it, where the key was written before. -/
theorem tget_tmap_tset (d : α) (g : Nat → α → α) (t : Tbl α) (k : Nat) (v : α) (hd : g k d = d) :
    tget d (tmap d g (tset d t k v)) k = g k v := by
  unfold tset
  split
  · next h => rw [tget_tmap_of_unlisted _ _ (tdrop_ne t k), h, hd]
  · exact tget_tmap_tput d g (tdrop_ne t k) v

end

/-- The burst that runs on a port in its last beat is not preempted (R101). -/
theorem checkPreempt_of_lastBeat {slots : Tbl (BitVec 16)} {p : Nat} {f : Fab} {b : Burst} (hb : burstOf (portOf f p) = some b)
    (hl : b.lastBeat = true) : checkPreempt slots p f = f := by
  unfold burstOf at hb
  split at hb
  · next c hc => cases hb; simp [checkPreempt, hc, hl]
  · cases hb

/-- The queues and the banks. -/
def queuesAndStore (f : Fab) : Tbl Queue × Store := (f.queues, f.store)

theorem endCommits_queuesAndStore (f : Fab) : queuesAndStore (endCommits f) = queuesAndStore f := by
  unfold endCommits
  refine each_proj queuesAndStore _ _ (fun f c _ => ?_) _
  unfold completeOp completeWith
  split
  · rfl
  · simp [queuesAndStore, takeStamp, onLop]

/-- A round that ends leaves the queues and the banks. -/
theorem finishRound_queuesAndStore (p : Nat) (f : Fab) : queuesAndStore (finishRound p f) = queuesAndStore f := by
  have hboundary : ∀ n f, queuesAndStore (boundary p n f) = queuesAndStore f := fun n f => by
    unfold boundary
    dsimp only
    split
    · rfl
    · exact endCommits_queuesAndStore _
  have hcounted : ∀ (l : List Nat) (f : Fab), queuesAndStore (each l (fun f q => countQueue q 3 1 f) f) = queuesAndStore f := fun l f =>
    each_proj queuesAndStore l (fun f q => countQueue q 3 1 f) (fun f q _ => by simp [queuesAndStore]) f
  unfold finishRound
  split
  · rfl
  · dsimp only
    rw [apply_ite queuesAndStore, hcounted, ite_self]
    change queuesAndStore (if _ then _ else _) = _
    rw [apply_ite queuesAndStore, apply_ite queuesAndStore, hboundary]
    simp [queuesAndStore]

/-- The round decided meanwhile begins (R17, R95). -/
theorem finishRound_begins {p : Nat} {f : Fab} (hst : f.pwr.st = 0) : (portOf (finishRound p f) p).cur = (portOf f p).next.getD .idle ∧
    (portOf (finishRound p f) p).next = none ∧ (portOf (finishRound p f) p).round = (portOf f p).round + 1 := by
  rw [finishRound_port hst]
  split
  · split <;> exact ⟨rfl, rfl, rfl⟩
  · exact ⟨rfl, rfl, rfl⟩

/-- A standing just written outlives the end of the round, but for the window's grants (R99). -/
theorem finishRound_standing {p r : Nat} {f : Fab} {t : Tbl Req} {q : Req} (hst : f.pwr.st = 0)
    (hq : (portOf f p).reqs = tset {} t r q) : (tget {} (portOf (finishRound p f) p).reqs r).since = q.since ∧
    (tget {} (portOf (finishRound p f) p).reqs r).guard = q.guard := by
  have hwritten : tget {} (nextRound (portOf f p)).reqs r = q := by
    rw [nextRound, hq]
    exact tget_tset_self ..
  rw [finishRound_port hst]
  split
  · split
    · exact ⟨congrArg (·.since) hwritten, congrArg (·.guard) hwritten⟩
    · have hwindow := tget_tmap_tset {} (fun _ r => { r with used := 0 }) t r q rfl
      simp only [nextWindow, nextRound, hq, hwindow, and_self]
  · exact ⟨congrArg (·.since) hwritten, congrArg (·.guard) hwritten⟩

/-- A queue's burst discarded: its leg takes its rows back, its request stands as it stood, and the round ends (R101, R227). -/
theorem discardBurst_of_queue {p guard : Nat} {b : Burst} {f : Fab} (hq : b.req < 256)
    (hnext : ∀ n, nextBurst (portOf f p) = some n → n.req ≠ b.req) : discardBurst p guard b f =
      finishRound p (onReq p b.req (fun r => { r with since := some b.since, guard := guard }) (takeBack b f)) := by
  have hkept : portOf (takeBack b f) p = portOf f p := by
    unfold takeBack
    rw [if_pos hq]
    rfl
  have hdecided : nextBurst (portOf (onReq p b.req (fun r => { r with since := some b.since, guard := guard }) (takeBack b f)) p) =
      nextBurst (portOf f p) := by
    rw [onReq, onPort_self, hkept, nextBurst, nextBurst]
  unfold discardBurst
  dsimp only
  rw [hdecided]
  cases hn : nextBurst (portOf f p) with
  | none => rfl
  | some n => simp [hnext n hn]

/-- After its last beat a burst that was cut short is discarded (R101). -/
theorem afterBeat_lastBeat {p : Nat} {f : Fab} {b : Burst} (hb : burstOf (portOf f p) = some b) (hl : b.lastBeat = true) :
    ∃ g, afterBeat p f = discardBurst p b.guard { b with moved := b.moved + 1, waited := false, tied := false } g ∧
      (portOf g p).next = (portOf f p).next ∧ (portOf g p).round = (portOf f p).round ∧ g.queues = f.queues ∧ g.store = f.store ∧
      g.pwr = f.pwr := by
  have hcounted : portOf (countPort p 1 1 f) p = portOf f p := by simp [portOf]
  unfold afterBeat
  simp only [hb]
  generalize hg : onLop _ _ = g
  have hgport : portOf g p = { portOf f p with dilution := (portOf f p).dilution + 1, beatTimes := (portOf f p).beatTimes + 1 } := by
    rw [← hg, onLop_portOf, onPort_self, hcounted]
  have hmoved := onBurst_burstOf (p := p) (f := g) (fun b => { b with moved := b.moved + 1, waited := false, tied := false })
    (b := b) ((burstOf_congr (by rw [hgport])).trans hb)
  rw [hmoved]
  dsimp only
  rw [if_pos hl]
  refine ⟨_, rfl, ?_, ?_, by simp [← hg, onBurst], by simp [← hg, onBurst], by simp [← hg, onBurst]⟩
  all_goals
    rw [onBurst, onPort_self, hgport]
    dsimp only
    split <;> rfl

section
variable {slots : Tbl (BitVec 16)} {p : Nat} {f : Fab} {b : Burst} {x : Flight} {l : Leg}
  (hb : burstOf (portOf f p) = some b) (hq : b.req < 256) (hlast : b.lastBeat = true) (hmoved : b.moved ≠ 0) (hleg : b.leg = 0)
  (hx : (queueOf f b.req).flights = [x]) (hord : x.ord = b.ord) (hstop : x.stopping = none) (hlegs : x.legs = [l])
  (hkind : l.kind = .clear) (hgate : gateOf f p b.req x 0 l l.next = .go) (hfall : fallback f = false)
  (hmarch : f.integ.march = none)
include hb hq hlast hmoved hleg hx hord hstop hlegs hkind hgate hfall hmarch

/-- The last beat of a burst of a CLEAR that was cut short clears its leg's next row (R15, R101). -/
theorem runBeat_clears : runBeat slots p .prompt f = afterBeat p (passRow b.req b.ord b.leg l.next
    (rowDone b.req b.ord b.leg l.next (clearRow (writeAddr x l l.next) (begunBeat p b l.next f)))) := by
  have hnoted : noteFirst p b l.next f = f := by simp [noteFirst, Machine.when, hmoved]
  have hrow : rowMoved p .prompt b.req x b.leg l l.next f =
      rowDone b.req b.ord b.leg l.next (clearRow (writeAddr x l l.next) (begunBeat p b l.next f)) := by
    have hrow := rowMoved_prompt (p := p) (q := b.req) (i := b.leg) (k := l.next) (n := l.next) (x := x) (l := l) (b := b) hfall hmarch
    rw [hnoted, moveRow_wroteRow (.inl hkind), wroteRow, if_pos hkind, hord] at hrow
    exact hrow
  have hflights : (queueOf (clearRow (writeAddr x l l.next) (begunBeat p b l.next f)) b.req).flights = [x] := by
    rw [queueOf_of_roundsPart (clearRow_roundsPart ..), begunBeat_eq]
    exact hx
  rw [runBeat_queue (checkPreempt_of_lastBeat hb hlast) hb hq, queueBeat_moves (x := x) (l := l) (by simp [flightOf, hx, hord])
    (by simp [hlegs, hleg]) (by simp [legStart, hkind]) hnoted (by rw [hleg, hgate]) (.inl (by simp [regionWaits, hfall])) ?_, hrow]
  · simp [hkind, Machine.when]
  · rw [hrow, ← hord, ← hstop]
    exact rowDone_flightOf hflights

end

/-- Queue q has one flight, of this order and with one leg, of this kind. -/
def OnlyLeg (f : Fab) (q ord : Nat) (k : LegKind) : Prop :=
  ∃ x l, (queueOf f q).flights = [x] ∧ x.ord = ord ∧ x.legs = [l] ∧ l.kind = k

theorem onFlight_flights {q ord : Nat} {g : Flight → Flight} {f : Fab} {x : Flight} (hx : (queueOf f q).flights = [x]) (ho : x.ord = ord) :
    (queueOf (onFlight q ord g f) q).flights = [g x] := by
  simp [onFlight, hx, ho]

theorem rowDone_onlyLeg {f : Fab} {q ord k : Nat} {kind : LegKind} (h : OnlyLeg f q ord kind) : OnlyLeg (rowDone q ord 0 k f) q ord kind := by
  obtain ⟨x, l, hx, hord, hlegs, hkind⟩ := h
  refine ⟨_, if k < l.high then l else { l with high := k + 1 }, onFlight_flights hx hord, ?_, ?_, ?_⟩
  · simp only [hlegs, List.getElem?_cons_zero]
    split <;> exact hord
  · simp only [hlegs, List.getElem?_cons_zero]
    split
    · exact hlegs
    · simp [onLeg, hlegs]
  · split <;> exact hkind

/-- Its leg put through a function that keeps the kind. -/
theorem onLeg_onlyLeg {f : Fab} {q ord : Nat} {kind : LegKind} (g : Leg → Leg) (hg : ∀ l, (g l).kind = l.kind)
    (h : OnlyLeg f q ord kind) : OnlyLeg (onFlight q ord (onLeg 0 g) f) q ord kind := by
  obtain ⟨x, l, hx, hord, hlegs, hkind⟩ := h
  exact ⟨onLeg 0 g x, g l, onFlight_flights hx hord, hord, by simp [onLeg, hlegs], (hg l).trans hkind⟩

/-- A leg that sends nothing out takes back the rows of a burst discarded (R101). -/
theorem takeBack_leg {f : Fab} {b : Burst} {kind : LegKind} (hq : b.req < 256) (hleg : b.leg = 0) (hk : sendsOut kind = false)
    (h : OnlyLeg f b.req b.ord kind) :
    ∃ y l, (queueOf (takeBack b f) b.req).flights = [y] ∧ y.legs = [l] ∧ l.next = b.first := by
  obtain ⟨x, l, hx, hord, hlegs, hkind⟩ := h
  unfold takeBack
  rw [if_pos hq, hleg]
  refine ⟨_, { l with next := b.first }, onFlight_flights hx hord, ?_, rfl⟩
  simp [onLeg, hlegs, hkind, hk]

theorem takeBack_keeps {p : Nat} {f : Fab} {b : Burst} (hq : b.req < 256) : portOf (takeBack b f) p = portOf f p ∧
    (takeBack b f).store = f.store ∧ (takeBack b f).pwr = f.pwr := by
  unfold takeBack
  rw [if_pos hq]
  exact ⟨rfl, rfl, rfl⟩

/-- A queue's burst discarded over a leg that sends nothing out, as the next round begins (R101, R227). -/
theorem discarded_round {p : Nat} {f : Fab} {b : Burst} {kind : LegKind} {guard : Nat} (hq : b.req < 256) (hleg : b.leg = 0)
    (hk : sendsOut kind = false) (hone : OnlyLeg f b.req b.ord kind) (hst : f.pwr.st = 0) :
    let h := finishRound p (onReq p b.req (fun r => { r with since := some b.since, guard := guard }) (takeBack b f))
    (portOf h p).cur = (portOf f p).next.getD .idle ∧ (portOf h p).next = none ∧ (portOf h p).round = (portOf f p).round + 1 ∧
      (∃ y l, (queueOf h b.req).flights = [y] ∧ y.legs = [l] ∧ l.next = b.first) ∧
      (tget {} (portOf h p).reqs b.req).since = some b.since ∧ (tget {} (portOf h p).reqs b.req).guard = guard ∧
      h.store = f.store := by
  obtain ⟨hport, hstore, hpwr⟩ := takeBack_keeps (p := p) (f := f) hq
  obtain ⟨y, l, hy, hlegs, hnext⟩ := takeBack_leg hq hleg hk hone
  have hon : (onReq p b.req (fun r => { r with since := some b.since, guard := guard }) (takeBack b f)).pwr.st = 0 :=
    (congrArg (·.st) hpwr).trans hst
  obtain ⟨hcur, hnone, hround⟩ := finishRound_begins (p := p) hon
  obtain ⟨hsince, hguard⟩ := finishRound_standing hon ((onReq_reqs ..).trans (if_pos rfl))
  rw [onReq, onPort_self, hport] at hcur hround
  obtain ⟨hqueues, hbanks⟩ := Prod.mk.inj (finishRound_queuesAndStore p
    (onReq p b.req (fun r => { r with since := some b.since, guard := guard }) (takeBack b f)))
  refine ⟨hcur, hnone, hround, ⟨y, l, ?_, hlegs, hnext⟩, hsince, hguard, hbanks.trans hstore⟩
  rw [queueOf_congr hqueues]
  exact hy

theorem clearRow_pwr (ra : Nat) (f : Fab) : (clearRow ra f).pwr = f.pwr := by
  have hchecked : (checkState ra f).pwr = f.pwr := by
    unfold checkState
    dsimp only
    split
    · simp [countGroup]
    · split <;> simp
  exact hchecked

section
variable {slots : Tbl (BitVec 16)} {p : Nat} {f : Fab} {b : Burst} {x : Flight} {l : Leg}
  (hb : burstOf (portOf f p) = some b) (hq : b.req < 256) (hlast : b.lastBeat = true) (hmoved : b.moved ≠ 0) (hleg : b.leg = 0)
  (hx : (queueOf f b.req).flights = [x]) (hord : x.ord = b.ord) (hstop : x.stopping = none) (hlegs : x.legs = [l])
  (hkind : l.kind = .clear) (hgate : gateOf f p b.req x 0 l l.next = .go) (hfall : fallback f = false)
  (hmarch : f.integ.march = none)
include hb hq hlast hmoved hleg hx hord hstop hlegs hkind hgate hfall hmarch

/-- Such a beat discards its burst: over the row cleared, the rows go back to the leg and the round ends (R101). -/
theorem runBeat_discards (hst : f.pwr.st = 0) (hnext : ∀ n, nextBurst (portOf f p) = some n → n.req ≠ b.req) :
    ∃ g : Fab, runBeat slots p .prompt f =
        finishRound p (onReq p b.req (fun r => { r with since := some b.since, guard := b.guard })
          (takeBack { b with moved := b.moved + 1, waited := false, tied := false } g)) ∧
      (portOf g p).next = (portOf f p).next ∧ (portOf g p).round = (portOf f p).round ∧ g.pwr.st = 0 ∧
      rawState g.store (writeAddr x l l.next) = 0 ∧ OnlyLeg g b.req b.ord .clear := by
  have hrun := runBeat_clears (slots := slots) hb hq hlast hmoved hleg hx hord hstop hlegs hkind hgate hfall hmarch
  rw [show passRow b.req b.ord b.leg = passRow b.req b.ord 0 by rw [hleg],
    show rowDone b.req b.ord b.leg = rowDone b.req b.ord 0 by rw [hleg]] at hrun
  rw [hrun]
  have hport : portOf (begunBeat p b l.next f) p = { portOf f p with bleat := false } := by
    simp [begunBeat, noteFirst, Machine.when, hmoved]
  have hcleared := clearRow_roundsPart (writeAddr x l l.next) (begunBeat p b l.next f)
  have hrow := passRow_rowDone_eq b.req b.ord 0 l.next (clearRow (writeAddr x l l.next) (begunBeat p b l.next f))
  have honly : OnlyLeg (passRow b.req b.ord 0 l.next (rowDone b.req b.ord 0 l.next
      (clearRow (writeAddr x l l.next) (begunBeat p b l.next f)))) b.req b.ord .clear := by
    refine onLeg_onlyLeg _ (fun _ => rfl) (rowDone_onlyLeg ⟨x, l, ?_, hord, hlegs, hkind⟩)
    rw [queueOf_of_roundsPart hcleared, begunBeat_eq]
    exact hx
  generalize passRow b.req b.ord 0 l.next _ = e at hrow honly
  have heport : portOf e p = { portOf f p with bleat := false } := by
    rw [hrow, ← hport, ← portOf_of_roundsPart hcleared]
    rfl
  obtain ⟨g, hafter, hgnext, hground, hgqueues, hgstore, hgpwr⟩ :=
    afterBeat_lastBeat (p := p) (f := e) (b := b) ((burstOf_congr (by rw [heport])).trans hb) hlast
  rw [heport] at hgnext hground
  have hepwr : e.pwr = f.pwr := by
    rw [hrow]
    refine (clearRow_pwr ..).trans ?_
    rw [begunBeat_eq]
  refine ⟨g, ?_, hgnext, hground, by rw [hgpwr, hepwr, hst], ?_, ?_⟩
  · have hdecided : nextBurst (portOf g p) = nextBurst (portOf f p) := by rw [nextBurst, nextBurst, hgnext]
    rw [hafter]
    exact discardBurst_of_queue hq (by rw [hdecided]; exact hnext)
  · rw [hgstore, hrow]
    exact clearRow_rawState_self ..
  · unfold OnlyLeg at honly ⊢
    rwa [queueOf_congr hgqueues]

end

/-! ### The decisions of O10 -/

/-- Without a candidate the round is empty (R97). -/
theorem ranked_no_candidate {p : Fin 32} {s : State} (hm : Runs .main s) (hr : portRuns s.fab p = true)
    (hc : (portOf s.fab p).cur = .idle) (hw : (portOf s.fab p).wrapped = false) (hz : s.fab.lop.zero = none) {bm1 m : Nat}
    {ready : List Nat} {g : Fab} (hsame : SameButReqs p s.fab g)
    (hd : chooseRound s.slots p (portOf s.fab p).round.toNat (portOf s.fab p).rounds (tickGuards p s.fab) = rankRound p m bm1 ready g)
    (hnone : candidates g p m ready = []) :
    ∃ f, Gives (.roundDecision p) s f ∧ (portOf f p).cur = .empty ∧ f.queues = s.fab.queues := by
  rw [rankRound_of_none hnone] at hd
  exact ⟨_, gives_firstRound hm hr hc hw hz hd, by simp, hsame.queues_eq⟩

/-- The winner's burst runs, and what the ranking leaves of the requests (R97 to R99). -/
theorem ranked_winner {p : Fin 32} {s : State} (hm : Runs .main s) (hr : portRuns s.fab p = true)
    (hc : (portOf s.fab p).cur = .idle) (hw : (portOf s.fab p).wrapped = false) (hz : s.fab.lop.zero = none) {bm1 w m : Nat}
    {g : Fab} {l : List Nat} {v : Nat × Nat × Nat × Nat} (hsame : SameButReqs p s.fab g) (hlisted : ListedOnce p g)
    (hd : chooseRound s.slots p (portOf s.fab p).round.toNat (portOf s.fab p).rounds (tickGuards p s.fab) =
      grantTo p w .background bm1 (rankedTo g p m w l)) (hl : l.Nodup) (hv : wantsOf (ahead p g) p w = some v) :
    ∃ f b, Gives (.roundDecision p) s f ∧ (portOf f p).cur = .burst b ∧ b.req = w ∧ b.grant = .background ∧ b.moved = 0 ∧
      counterOf f (0x8100 + p) 3 = counterOf s.fab (0x8100 + p) 3 + 1 ∧
      tget none (portOf f p).lastAt (levelOf g w) = some w ∧
      (w < 256 → (queueOf g w).level = 3 → (tget {} (portOf f p).reqs w).used = (tget {} (portOf g p).reqs w).used + 1) ∧
      (∀ r ∈ l, r ≠ w → r ≤ rHost →
        tget {} (portOf f p).reqs r = lost (portOf g p).backoffCap.toNat m (tget {} (portOf g p).reqs r)) := by
  obtain ⟨hbursts, -⟩ := rankedTo_keepsBursts g p m w l hlisted
  have hv' := (wantsOf_ahead_of_sameBursts hbursts p w).trans hv
  obtain ⟨b, hgives, hreq, hgrant, hmoved, -⟩ := gives_firstBurst hm hr hc hw hz hv' hd
  refine ⟨_, b, hgives, by simp, hreq, hgrant, hmoved, ?_, ?_, fun hq hlevel => ?_, fun r hr hne hhost => ?_⟩
  · rw [← hsame.counterOf_eq, ← rankedTo_counter g p m w l p.isLt (show 3 < 256 by decide) (by decide) (by decide)]
    exact grantTo_background_count hv' p.isLt
  · rw [onPort_self, grantTo_port hv']
    exact rankedTo_lastAt ..
  · have hcharged : charges (rankedTo g p m w l) w .background = true := by
      simp only [charges, queueOf_congr (rankedTo_queues ..), hq, hlevel]
      rfl
    rw [onPort_self, grantTo_port hv', hcharged]
    dsimp only
    rw [tget_tset_self, rankedTo_winner]
    rfl
  · rw [onPort_self, grantTo_port hv']
    dsimp only
    rw [tget_tset_ne _ _ _ hne, rankedTo_loser _ _ _ _ _ hl hr hne hhost]

/-- A round whose owner stands ready, decided during a burst's last beat (R95, R96). -/
theorem owned_lastBeat {p : Fin 32} {s : State} (hm : Runs .main s) (hr : portRuns s.fab p = true) (hst : s.fab.pwr.st = 0)
    (hw : (portOf s.fab p).wrapped = false) (h255 : (portOf s.fab p).round ≠ 255) {bm1 w : Nat} {g : Fab} {v : Nat × Nat × Nat × Nat}
    (hsame : SameButReqs p s.fab g) (hv : wantsOf (ahead p g) p w = some v)
    (hd : chooseRound s.slots p ((portOf s.fab p).round.toNat + 1) ((portOf s.fab p).rounds + 1) (tickGuards p s.fab) =
      grantTo p w .owned bm1 g) {b : Burst} (hc : (portOf s.fab p).cur = .burst b) (hn : (portOf s.fab p).next = none)
    (hl : b.moved + 1 = b.len) :
    ∃ f n, Gives (.roundDecision p) s f ∧ (portOf f p).cur = .burst b ∧ (portOf f p).next = some (.burst n) ∧ n.req = w ∧
      n.grant = .owned ∧ n.moved = 0 ∧ (portOf f p).round = (portOf s.fab p).round ∧
      counterOf f (0x8100 + p) 2 = counterOf s.fab (0x8100 + p) 2 + 1 := by
  obtain ⟨n, hround, hreq, hgrant, hmoved, -⟩ := grantTo_burst (how := .owned) (bm1 := bm1) hv
  have hgives := gives_of_onFab (c := .roundDecision p) (fun slots f => decideNext slots p f) hm rfl
  rw [decideNext_lastBeat hr hst hw h255 (hd.trans (Prod.ext hround rfl)) hc hn hl] at hgives
  refine ⟨_, n, hgives, ?_, by simp, hreq, hgrant, hmoved, ?_, ?_⟩
  · rw [onPort_self, grantTo_port hv, hsame.2]
    exact hc
  · rw [onPort_self, grantTo_port hv, hsame.2]
  · rw [← hsame.counterOf_eq]
    exact grantTo_owned_count p.isLt hv

/-- The same decided in an empty round, which it ends (R18, R95, R96). -/
theorem owned_empty {p : Fin 32} {s : State} (hm : Runs .main s) (hr : portRuns s.fab p = true) (hst : s.fab.pwr.st = 0)
    (hw : (portOf s.fab p).wrapped = false) (h255 : (portOf s.fab p).round ≠ 255) {bm1 w : Nat} {g : Fab} {v : Nat × Nat × Nat × Nat}
    (hsame : SameButReqs p s.fab g) (hv : wantsOf (ahead p g) p w = some v)
    (hd : chooseRound s.slots p ((portOf s.fab p).round.toNat + 1) ((portOf s.fab p).rounds + 1) (tickGuards p s.fab) =
      grantTo p w .owned bm1 g) (hc : (portOf s.fab p).cur = .empty) :
    ∃ f n, Gives (.roundDecision p) s f ∧ (portOf f p).cur = .burst n ∧ (portOf f p).next = none ∧ n.req = w ∧ n.grant = .owned ∧
      n.moved = 0 ∧ (portOf f p).round = (portOf s.fab p).round + 1 ∧
      counterOf f (0x8100 + p) 8 = counterOf s.fab (0x8100 + p) 8 + 1 := by
  obtain ⟨n, hround, hreq, hgrant, hmoved, -⟩ := grantTo_burst (how := .owned) (bm1 := bm1) hv
  have hgives := gives_of_onFab (c := .roundDecision p) (fun slots f => decideNext slots p f) hm rfl
  rw [decideNext_empty hr hst hw h255 (hd.trans (Prod.ext hround rfl)) hc] at hgives
  have hpwr : (onPort (grantTo p w .owned bm1 g).2 p fun x => { x with next := some (.burst n) }).pwr.st = 0 := by
    rw [onPort_pwr, grantTo_pwr hv, hsame.1]
    exact hst
  have hport : (portOf (grantTo p w .owned bm1 g).2 p).round = (portOf s.fab p).round := by
    rw [grantTo_port hv, hsame.2]
  have hwithin : (portOf (onPort (grantTo p w .owned bm1 g).2 p fun x => { x with next := some (.burst n) }) p).round ≠ 255 := by
    rw [onPort_self]
    exact hport ▸ h255
  have hbegun := finishEmpty_port hpwr hwithin
  rw [onPort_self] at hbegun
  refine ⟨_, n, hgives, by rw [hbegun]; rfl, by rw [hbegun]; rfl, hreq, hgrant, hmoved, ?_, ?_⟩
  · rw [hbegun, ← hport]
    rfl
  · rw [finishEmpty_counter p.isLt hpwr hwithin, ← hsame.counterOf_eq]
    exact congrArg (· + 1) (grantTo_counter hv p.isLt (by decide) (by decide) (by decide) (by decide) (by decide))

/-- Settles O10: the ranking through `rankRound_of_first`, decisions made while a round runs, preemption through `preemptBy_of_taken` and
`preemptBy_of_open`, and a discarded burst through `runBeat_discards`. -/
theorem rankingAndPreemption : Obligations.RankingAndPreemption := by
  unfold Obligations.RankingAndPreemption
  refine ⟨?ranked, fun p s b hm hst hc hnot => ?notDue, ?decided, ?preempted, ?discarded⟩
  case ranked =>
    intro p s hm hr hc hw hz hf hi g x own e hs hb hj ho hk hguard hasc cands
    have hsame : SameButReqs p s.fab g := standing_sameButReqs ..
    have hrounds : x.rounds = (portOf s.fab p).rounds := by rw [show x = portOf g p from rfl, hsame.2]
    have hround : x.round = (portOf s.fab p).round := by rw [show x = portOf g p from rfl, hsame.2]
    have hd : chooseRound s.slots p (portOf s.fab p).round.toNat (portOf s.fab p).rounds (tickGuards p s.fab) =
        rankRound p x.rounds (eBurst e) (readyOn g p) g := by
      rw [← hround, ← hrounds]
      exact chooseRound_ranked (refreshReqs_tickGuards_of_none hz) (by rw [hsame.th_eq, hf]) (by rw [hsame.forcedIdle_eq, hi])
        (by rw [hsame.lop_eq, hz]) hs hb hj ho hk hguard
    refine ⟨fun hnone => ranked_no_candidate hm hr hc hw hz hsame hd hnone, fun w v hwin hbest hfirst hv => ?_⟩
    rw [rankRound_of_first hasc hwin hbest hfirst] at hd
    obtain ⟨f, b, hgives, hcur, hreq, hgrant, hmoved, hcount, hlast, hused, hlost⟩ := ranked_winner hm hr hc hw hz hsame
      (refreshReqs_listedOnce p _) hd ((hasc.filter _).imp Nat.ne_of_lt) hv
    refine ⟨f, b, hgives, hcur, hreq, hgrant, hmoved, hcount, hlast, hused, fun r hr hne hhost => ?_⟩
    rw [hlost r hr hne hhost]
    exact ⟨rfl, rfl⟩
  case notDue =>
    have hgives := gives_of_onFab (c := .roundDecision p) (fun slots f => decideNext slots p f) hm rfl
    rwa [decideNext_not_due] at hgives
    have hlate : ((portOf s.fab p).next.isNone && b.moved + 1 == b.len) = false := by
      rcases hnot with h | h
      · simp [h]
      · simp [Option.isNone_eq_false_iff.mpr h]
    simp only [decisionDue, hc, hlate, Bool.false_and, Bool.and_false]
  case decided =>
    intro p s w v hm hr hw h255 hz hf hi g e hs hb hj ho hk hown hready hv
    have hsame : SameButReqs p s.fab g := standing_sameButReqs ..
    have hd := chooseRound_owned (slots := s.slots) (k := (portOf s.fab p).round.toNat + 1) (m := (portOf s.fab p).rounds + 1)
      (refreshReqs_tickGuards_of_none hz) (by rw [hsame.th_eq, hf]) (by rw [hsame.forcedIdle_eq, hi]) (by rw [hsame.lop_eq, hz])
      hs hb hj ho hk hown (List.contains_iff_mem.mp hready)
    exact ⟨fun b hc hn hl => owned_lastBeat hm hr (on_of_portRuns hz hr) hw h255 hsame hv hd hc hn hl,
      fun hc => owned_empty hm hr (on_of_portRuns hz hr) hw h255 hsame hv hd hc⟩
  case preempted =>
    intro p slots f b hc hm hl hwait htied hpre h255 hw g x own e others taken
    have hround : (portOf g p).round = (portOf f p).round := by rw [(refreshReqs_sameButReqs p f).2]
    have h255g : (portOf g p).round ≠ 255 := hround ▸ h255
    have hnone : preemptBy slots g p b = none → checkPreempt slots p f = g := checkPreempt_of_none hc hm hl hwait htied hpre
    have hsome : ∀ w how v, preemptBy slots g p b = some (w, how) → wantsOf (ahead p g) p w = some v → taken w how :=
      fun w how v h hv => checkPreempt_of_some hc hm hl hwait htied hpre p.isLt hw h255 h hv
    refine ⟨fun h => hnone (preemptBy_of_taken h255g h), fun hb hs hi ho hk hown => ?_⟩
    have hopen := preemptBy_of_open (slots := slots) (b := b) h255g hb hs hi ho hk hown
    have hothers : (readyOn g p).filter (fun r => r != b.req) = others := rfl
    rw [hothers] at hopen
    refine ⟨fun w v hguard hv => hsome w .guard v ?_ hv, fun hguard hasc => ?_⟩
    · rw [hopen]
      simp only [hguard]
    · simp only [hguard] at hopen
      refine ⟨fun hno => hnone ?_, fun w v hurgent hv hbest => hsome w .preempt v ?_ hv⟩
      · have hempty : urgentOf g p others = [] := List.eq_nil_iff_forall_not_mem.mpr fun r hr => hno r (mem_urgentOf.mp hr)
        rw [hopen, hempty]
        rfl
      · have hascending : (urgentOf g p others).Pairwise (· < ·) := (hasc.filter _).filter _
        rw [hopen, find_greatest (v := ageAt g p) hascending (mem_urgentOf.mpr hurgent) fun r hr hne => hbest r (mem_urgentOf.mp hr) hne]
        rfl
  case discarded =>
    intro p s b x l hm hst hb hq hlast hmoved hleg hx hord hstop hlegs hkind hgate hfall hmarch hnext
    obtain ⟨g, hrun, hgnext, hground, hgst, hcleared, hone⟩ := runBeat_discards (slots := s.slots) hb hq hlast hmoved hleg hx hord hstop
      hlegs hkind hgate hfall hmarch hst hnext
    have hgives := gives_of_onFab (c := .beat p .prompt) (fun slots f => runBeat slots p .prompt f) hm rfl
    obtain ⟨hcur, hnone, hround, ⟨y, l', hy, hlegs', hback⟩, hsince, hguard, hstore⟩ := discarded_round (p := p) (guard := b.guard)
      (b := { b with moved := b.moved + 1, waited := false, tied := false }) hq hleg (by rfl) hone hgst
    rw [hrun] at hgives
    exact ⟨_, y, l', hgives, hcur.trans (by rw [hgnext]), hnone, hround.trans (by rw [hground]), hy, hlegs', hback, hsince, hguard,
      by rw [hstore]; exact hcleared⟩

end Sys2Proof.Machine
end

section
/-!
SUPPORT. Rounding keeps a range (R47, R48), what a pattern and its signed value say of each other, and saturation (R49).
-/

namespace Sys2Proof.Machine

/-! ### Rounding -/

/-- A value within a range times 2^s is rounded into the range, under every mode (R47, R48). -/
theorem roundShift_mem {mode s : Nat} {x lo hi : Int} {l : BitVec 32} (hlo : lo * 2 ^ s ≤ x) (hhi : x ≤ hi * 2 ^ s) :
    lo ≤ (roundShift mode x s l).1 ∧ (roundShift mode x s l).1 ≤ hi := by
  have hpos : (0 : Int) < 2 ^ s := by positivity
  have hfloor : lo ≤ x / 2 ^ s ∧ x / 2 ^ s ≤ hi := ⟨(Int.le_ediv_iff_mul_le hpos).mpr hlo, Int.ediv_le_of_le_mul hpos hhi⟩
  unfold roundShift
  split
  · next h => simpa [h] using And.intro hlo hhi
  split
  case isTrue =>
    have hup : x % 2 ^ s ≠ 0 → x / 2 ^ s + 1 ≤ hi := fun hr => by
      have hsplit := Int.mul_ediv_add_emod x (2 ^ s)
      have hrem := Int.emod_nonneg x hpos.ne'
      have : x / 2 ^ s < hi := by
        refine lt_of_mul_lt_mul_left ?_ hpos.le
        rw [mul_comm _ hi]
        omega
      omega
    have hhalf : (0 : Int) < 2 ^ (s - 1) := by positivity
    dsimp only
    split_ifs with h1 h2
    · exact hfloor
    · exact ⟨by omega, hup (by omega)⟩
    · exact hfloor
    · exact ⟨by omega, hup (by omega)⟩
  split
  case isTrue =>
    have hmono := fun {a b : Int} (h : a ≤ b) => Int.tdiv_le_tdiv hpos h
    have hcancel := fun a : Int => Int.mul_tdiv_cancel a hpos.ne'
    exact ⟨hcancel lo ▸ hmono hlo, hcancel hi ▸ hmono hhi⟩
  case isFalse =>
    dsimp only
    generalize hr : (if s ≤ 32 then (lfsrStep l).toNat % 2 ^ s else (lfsrStep l).toNat * 2 ^ (s - 32)) = r
    have hlt : (r : Int) < 2 ^ s := by
      have : r < 2 ^ s := by
        rw [← hr]
        split
        · exact Nat.mod_lt _ (by positivity)
        · calc (lfsrStep l).toNat * 2 ^ (s - 32) < 2 ^ 32 * 2 ^ (s - 32) := Nat.mul_lt_mul_of_pos_right (lfsrStep l).isLt (by positivity)
            _ = 2 ^ s := by rw [← pow_add]; congr 1; omega
      exact_mod_cast this
    refine ⟨(Int.le_ediv_iff_mul_le hpos).mpr (by omega), Int.le_of_lt_add_one (Int.ediv_lt_of_lt_mul hpos ?_)⟩
    rw [add_mul, one_mul]
    omega

theorem roundShift_zero (mode : Nat) (x : Int) (l : BitVec 32) : roundShift mode x 0 l = (x, l) := rfl

/-- A list whose every value lies within a range times 2 to its shift is rounded into the range. -/
theorem roundAll_mem {mode : Nat} {lo hi : Int} {xs : List (Int × Nat)} (h : ∀ e ∈ xs, lo * 2 ^ e.2 ≤ e.1 ∧ e.1 ≤ hi * 2 ^ e.2)
    (l : BitVec 32) : ∀ y ∈ (roundAll mode xs l).1, lo ≤ y ∧ y ≤ hi := by
  induction xs generalizing l with
  | nil => exact fun y hy => absurd hy List.not_mem_nil
  | cons e t ih =>
    obtain ⟨hhead, htail⟩ := List.forall_mem_cons.mp h
    exact List.forall_mem_cons.mpr ⟨roundShift_mem hhead.1 hhead.2, ih htail _⟩

theorem roundAll_zero (mode : Nat) (q : List Int) (l : BitVec 32) : roundAll mode (q.map fun x => (x, 0)) l = (q, l) := by
  induction q with
  | nil => rfl
  | cons x t ih => simp [roundAll, roundShift_zero, ih]

/-! ### Ranges of an element -/

theorem minOf_nonpos (w : Nat) : minOf w ≤ 0 := neg_nonpos.mpr (by positivity)

theorem maxOf_nonneg (w : Nat) : 0 ≤ maxOf w := Int.sub_nonneg_of_le (one_le_pow₀ (by decide))

/-- What a shift brings in range, a greater one does. -/
theorem range_mono {w s t : Nat} {x : Int} (hst : s ≤ t) (h : minOf w * 2 ^ s ≤ x ∧ x ≤ maxOf w * 2 ^ s) :
    minOf w * 2 ^ t ≤ x ∧ x ≤ maxOf w * 2 ^ t := by
  have hpow : (2 : Int) ^ s ≤ 2 ^ t := pow_le_pow_right₀ (by decide) hst
  exact ⟨(mul_le_mul_of_nonpos_left hpow (minOf_nonpos w)).trans h.1, h.2.trans (mul_le_mul_of_nonneg_left hpow (maxOf_nonneg w))⟩

theorem fits_iff {w : Nat} {x : Int} : fits w x = true ↔ minOf w ≤ x ∧ x ≤ maxOf w := by simp [fits]

theorem clampTo_mem (w : Nat) (x : Int) : minOf w ≤ clampTo w x ∧ clampTo w x ≤ maxOf w := by
  have := minOf_nonpos w
  have := maxOf_nonneg w
  unfold clampTo
  split_ifs <;> omega

theorem clampTo_map_mem (w : Nat) (l : List Int) : ∀ y ∈ l.map (clampTo w), minOf w ≤ y ∧ y ≤ maxOf w := by
  simpa using fun x _ => clampTo_mem w x

/-! ### Patterns and signed values -/

theorem pow_pred_double {w : Nat} (h : 0 < w) : (2 : Int) ^ w = 2 * 2 ^ (w - 1) := by
  rw [mul_comm, pow_sub_one_mul h.ne']

theorem signed_range {w v : Nat} (h : 0 < w) : -2 ^ (w - 1) ≤ signed w v ∧ signed w v < 2 ^ (w - 1) := by
  have hlt : ((v % 2 ^ w : Nat) : Int) < 2 ^ w := by exact_mod_cast Nat.mod_lt v (by positivity)
  have hcast : ((2 ^ (w - 1) : Nat) : Int) = 2 ^ (w - 1) := by push_cast; rfl
  rw [pow_pred_double h] at hlt
  unfold signed
  rw [pow_pred_double h]
  split <;> omega

theorem pattern_lt (w : Nat) (x : Int) : pattern w x < 2 ^ w := by
  have h : x % 2 ^ w < ((2 ^ w : Nat) : Int) := by
    push_cast
    exact Int.emod_lt_of_pos x (by positivity)
  exact (Int.toNat_lt (Int.emod_nonneg x (by positivity))).mpr h

/-- A value within the width is the signed value of its pattern. -/
theorem signed_pattern {w : Nat} {x : Int} (h : 0 < w) (hlo : -2 ^ (w - 1) ≤ x) (hhi : x < 2 ^ (w - 1)) :
    signed w (pattern w x) = x := by
  have hcast : ((pattern w x : Nat) : Int) = x % 2 ^ w := Int.toNat_of_nonneg (Int.emod_nonneg x (by positivity))
  have hhalf : ((2 ^ (w - 1) : Nat) : Int) = 2 ^ (w - 1) := by push_cast; rfl
  have hdouble := pow_pred_double h
  have hpos : (0 : Int) < 2 ^ (w - 1) := by positivity
  unfold signed
  rw [Nat.mod_eq_of_lt (pattern_lt w x)]
  rcases lt_or_ge x 0 with hneg | hnonneg
  · have hmod : x % 2 ^ w = x + 2 ^ w := by
      rw [← Int.add_emod_right, Int.emod_eq_of_lt (by omega) (by omega)]
    rw [if_neg (by omega)]
    omega
  · have hmod : x % 2 ^ w = x := Int.emod_eq_of_lt hnonneg (by omega)
    rw [if_pos (by omega)]
    omega

/-- A pattern of the width is the pattern of its signed value. -/
theorem pattern_signed {w v : Nat} (h : v < 2 ^ w) : pattern w (signed w v) = v := by
  have hcast : (((2 : Nat) ^ w : Nat) : Int) = 2 ^ w := by push_cast; rfl
  have hmod : signed w v % 2 ^ w = v := by
    unfold signed
    rw [Nat.mod_eq_of_lt h]
    split
    · exact Int.emod_eq_of_lt (by omega) (by omega)
    · rw [Int.sub_emod_right, Int.emod_eq_of_lt (by omega) (by omega)]
  rw [pattern, hmod, Int.toNat_natCast]

/-- The code of an exponent that is not VOID (R41). -/
theorem exponent_range {e : Nat} (he : e < 256) (hv : e ≠ voidExp) : -127 ≤ signed 8 e ∧ signed 8 e ≤ 127 := by
  unfold signed voidExp at *
  split <;> omega

theorem signed_pattern_exponent {x : Int} (hlo : -128 ≤ x) (hhi : x ≤ 127) : signed 8 (pattern 8 x) = x :=
  signed_pattern (by decide) (by omega) (by omega)

end Sys2Proof.Machine
end

section
/-!
SUPPORT. The least shift of a group and of its sub-blocks, and what a group becomes when it is requantized (R130 to R132); what a
rotate, a transpose and a widening keep (R127 to R129); then obligation O60.
-/

namespace Sys2Proof.Machine

/-! ### The least shift that brings a list in range (R130) -/

/-- `s` is the smallest shift that brings every value of the list into the range of a `w`-bit element. -/
def LeastShift (w : Nat) (q : List Int) (s : Nat) : Prop :=
  (∀ x ∈ q, minOf w * 2 ^ s ≤ x ∧ x ≤ maxOf w * 2 ^ s) ∧ ∀ t, t < s → ∃ x ∈ q, x < minOf w * 2 ^ t ∨ maxOf w * 2 ^ t < x

theorem needShift_of_least {w n a s : Nat} {q : List Int} (h : LeastShift w q s) (ha : a ≤ s) (hn : s ≤ a + n) :
    needShift w q n a = s := by
  induction n generalizing a with
  | zero => exact le_antisymm ha hn
  | succ n ih =>
    unfold needShift
    rcases ha.eq_or_lt with rfl | hlt
    · exact if_pos (by simpa using h.1)
    · obtain ⟨x, hx, hout⟩ := h.2 a hlt
      refine (if_neg fun hall => ?_).trans (ih hlt (by omega))
      have := List.all_eq_true.mp hall x hx
      simp only [Bool.and_eq_true, decide_eq_true_eq] at this
      omega

/-- Values of 32 bits are in the range of any target after 31 shifts at the latest. -/
theorem LeastShift.le {w s : Nat} {q : List Int} (h : LeastShift w q s) (hw : 2 ≤ w) (hq : ∀ x ∈ q, -(2 ^ 31) ≤ x ∧ x < 2 ^ 31) :
    s ≤ 31 := by
  by_contra hs
  obtain ⟨x, hx, hout⟩ := h.2 31 (by omega)
  obtain ⟨hlo, hhi⟩ := hq x hx
  have hpow : (2 : Int) ^ 1 ≤ 2 ^ (w - 1) := pow_le_pow_right₀ (by decide) (by omega)
  unfold minOf maxOf at hout
  omega

theorem LeastShift.needShift_eq {w s : Nat} {q : List Int} (h : LeastShift w q s) (hw : 2 ≤ w)
    (hq : ∀ x ∈ q, -(2 ^ 31) ≤ x ∧ x < 2 ^ 31) : needShift w q 32 0 = s :=
  needShift_of_least h (Nat.zero_le s) (by have := h.le hw hq; omega)

/-- Zeros need no shift. -/
theorem LeastShift.eq_zero {w s : Nat} {q : List Int} (h : LeastShift w q s) (hq : ∀ x ∈ q, x = 0) : s = 0 := by
  by_contra hs
  obtain ⟨x, hx, hout⟩ := h.2 0 (Nat.pos_of_ne_zero hs)
  have := minOf_nonpos w
  have := maxOf_nonneg w
  rw [hq x hx] at hout
  omega

/-! ### A group with one shift (R130, R131) -/

theorem requantGroup_void (w mode : Nat) (q : List Int) (l : BitVec 32) :
    (requantGroup w false mode voidExp q l).exp = voidExp ∧ (requantGroup w false mode voidExp q l).elems = q.map fun _ => 0 :=
  ⟨rfl, rfl⟩

section
variable {w mode e s : Nat} {q : List Int} {l : BitVec 32} (hv : e ≠ voidExp) (hs : needShift w q 32 0 = s)
include hv hs

/-- A group whose exponent has room is rounded under its least shift. -/
theorem requantGroup_room (h : s ≤ (127 - signed 8 e).toNat) : requantGroup w false mode e q l =
    ⟨(roundAll mode (q.map fun x => (x, s)) l).1, pattern 8 (signed 8 e + s), [], false,
      (roundAll mode (q.map fun x => (x, s)) l).2⟩ := by
  simp [requantGroup, hv, hs, Nat.not_lt.mpr h]

/-- A group whose exponent has no room is rounded under what room there is, and clamped. -/
theorem requantGroup_clamped (h : (127 - signed 8 e).toNat < s) :
    requantGroup w false mode e q l =
      ⟨(roundAll mode (q.map fun x => (x, (127 - signed 8 e).toNat)) l).1.map (clampTo w),
        pattern 8 (signed 8 e + (127 - signed 8 e).toNat), [], true,
        (roundAll mode (q.map fun x => (x, (127 - signed 8 e).toNat)) l).2⟩ := by
  simp [requantGroup, hv, hs, h]

end

/-- An exponent that takes all the room there is becomes +127 (R131). -/
theorem pattern_full {e : Nat} (he : e < 256) (hv : e ≠ voidExp) : pattern 8 (signed 8 e + (127 - signed 8 e).toNat) = 127 := by
  have := exponent_range he hv
  rw [Int.toNat_of_nonneg (by omega), add_sub_cancel]
  rfl

section
variable {w mode e s : Nat} {q : List Int} {l : BitVec 32} (hw : 2 ≤ w) (hq : ∀ x ∈ q, -(2 ^ 31) ≤ x ∧ x < 2 ^ 31) (he : e < 256)
  (hv : e ≠ voidExp) (hleast : LeastShift w q s)
include hw hq he hv hleast

theorem requantGroup_in_range (hroom : signed 8 e + s ≤ 127) :
    let r := requantGroup w false mode e q l
    signed 8 r.exp = signed 8 e + s ∧ (r.elems, r.lfsr) = roundAll mode (q.map fun x => (x, s)) l ∧ r.sat = false ∧
      (∀ y ∈ r.elems, minOf w ≤ y ∧ y ≤ maxOf w) ∧ ((∀ x ∈ q, x = 0) → r.exp = e ∧ r.elems = q) := by
  have hexp := exponent_range he hv
  have hr := requantGroup_room (mode := mode) (l := l) hv (hleast.needShift_eq hw hq) (by omega)
  simp only [hr]
  refine ⟨signed_pattern_exponent (by omega) hroom, trivial, trivial, roundAll_mem (List.forall_mem_map.mpr hleast.1) l,
    fun hzero => ?_⟩
  obtain rfl := hleast.eq_zero hzero
  refine ⟨?_, by rw [roundAll_zero]⟩
  rw [Nat.cast_zero, add_zero]
  exact pattern_signed he

theorem requantGroup_past_range (hroom : 127 < signed 8 e + s) :
    let r := requantGroup w false mode e q l
    r.exp = 127 ∧ r.sat = true ∧ (∀ y ∈ r.elems, minOf w ≤ y ∧ y ≤ maxOf w) ∧
      r.elems = (roundAll mode (q.map fun x => (x, (127 - signed 8 e).toNat)) l).1.map (clampTo w) := by
  have hexp := exponent_range he hv
  have hr := requantGroup_clamped (mode := mode) (l := l) hv (hleast.needShift_eq hw hq) (by omega)
  simp only [hr]
  exact ⟨pattern_full he hv, trivial, clampTo_map_mem w _, trivial⟩

end

/-! ### A group under MICRO (R132) -/

theorem chunk_eq_map {α : Type} (n k : Nat) (l : List α) : chunk n k l = (List.range k).map fun b => (l.drop (n * b)).take n := by
  induction k generalizing l with
  | zero => rfl
  | succ k ih =>
    rw [chunk, ih, List.range_succ_eq_map, List.map_cons, List.map_map]
    simp [Function.comp_def, Nat.mul_add, Nat.add_comm]

/-- The least member of a list, where the fold begins no lower. -/
theorem foldl_min_eq {l : List Nat} {a low : Nat} (ha : low ≤ a) (hle : ∀ x ∈ l, low ≤ x) (hlow : a = low ∨ low ∈ l) :
    l.foldl min a = low := by
  induction l generalizing a with
  | nil => simpa using hlow
  | cons x t ih =>
    obtain ⟨hx, ht⟩ := List.forall_mem_cons.mp hle
    refine ih (le_min ha hx) ht ?_
    rcases hlow with rfl | hmem
    · exact .inl (min_eq_left hx)
    · rcases List.mem_cons.mp hmem with rfl | hmem
      · exact .inl (min_eq_right ha)
      · exact .inr hmem

/-- A function of the places of a list is a function of the list's numbered elements. -/
theorem zip_range_map {α β : Type} (q : List α) (d : α) (g : Nat → α → β) :
    (((List.range q.length).zip q).map fun x => g x.1 x.2) = (List.range q.length).map fun i => g i (q.getD i d) := by
  refine List.ext_getElem (by simp) fun i hi _ => ?_
  have hi : i < q.length := by simpa using hi
  simp [List.getElem?_eq_getElem hi]

/-- An element lies in its run of `n`. -/
theorem getD_mem_run {α : Type} {q : List α} {d : α} {n i : Nat} (hn : 0 < n) (hi : i < q.length) :
    q.getD i d ∈ (q.drop (n * (i / n))).take n := by
  have hmod := Nat.mod_lt i hn
  have hsplit := Nat.div_add_mod i n
  rw [List.getD_eq_getElem _ _ hi]
  refine List.mem_iff_getElem.mpr ⟨i % n, by simp; omega, ?_⟩
  simp [hsplit]

/-- Every sub-block's least shift, `low` and `top` the least and the greatest of them (R132). -/
structure SubShifts (w m : Nat) (q : List Int) (sb : Nat → Nat) (low top : Nat) : Prop where
  length : q.length = 8 * m
  least : ∀ b, b < m → LeastShift w ((q.drop (8 * b)).take 8) (sb b)
  bounds : ∀ b, b < m → low ≤ sb b ∧ sb b ≤ top
  attains_low : ∃ b, b < m ∧ sb b = low
  attains_top : ∃ b, b < m ∧ sb b = top

/-- The elements of a group under MICRO, each rounded under the group's shift and its sub-block's micro-offset. -/
def microRounded (mode g : Nat) (ms : Nat → Nat) (q : List Int) (l : BitVec 32) : List Int × BitVec 32 :=
  roundAll mode ((List.range q.length).map fun i => (q.getD i 0, g + ms (i / 8))) l

section
variable {w mode e m low top : Nat} {q : List Int} {l : BitVec 32} {sb : Nat → Nat} (h : SubShifts w m q sb low top) (hw : 2 ≤ w)
  (hq : ∀ x ∈ q, -(2 ^ 31) ≤ x ∧ x < 2 ^ 31)
include h hw hq

theorem SubShifts.le {b : Nat} (hb : b < m) : sb b ≤ 31 :=
  (h.least b hb).le hw fun x hx => hq x (List.mem_of_mem_drop (List.mem_of_mem_take hx))

theorem SubShifts.subs_eq : ((chunk 8 (q.length / 8) q).map fun b => needShift w b 32 0) = (List.range m).map sb := by
  rw [h.length, Nat.mul_div_cancel_left m (by decide), chunk_eq_map, List.map_map]
  refine List.map_congr_left fun b hb => ?_
  exact (h.least b (List.mem_range.mp hb)).needShift_eq hw fun x hx => hq x (List.mem_of_mem_drop (List.mem_of_mem_take hx))

omit hw hq in
theorem SubShifts.foldl_max : ((List.range m).map sb).foldl max 0 = top :=
  foldl_max_eq (Nat.zero_le _) (by simpa using fun b hb => (h.bounds b hb).2) (.inr (by simpa using h.attains_top))

theorem SubShifts.foldl_min : ((List.range m).map sb).foldl min 32 = low := by
  obtain ⟨b, hb, hlow⟩ := h.attains_low
  exact foldl_min_eq (by have := h.le hw hq hb; omega) (by simpa using fun b hb => (h.bounds b hb).1) (.inr (by simpa using h.attains_low))

omit hw hq in
/-- The list that a group's rounding goes over. -/
theorem SubShifts.items_eq (g : Nat) (ms : Nat → Nat) :
    (((List.range q.length).zip q).map fun x => (x.2, g + (((List.range m).map sb).map ms).getD (x.1 / 8) 0)) =
      (List.range q.length).map fun i => (q.getD i 0, g + ms (sb (i / 8))) := by
  rw [zip_range_map q 0 fun i x => (x, g + (((List.range m).map sb).map ms).getD (i / 8) 0)]
  refine List.map_congr_left fun i hi => ?_
  have hblock : i / 8 < m := by
    have := List.mem_range.mp hi
    rw [h.length] at this
    omega
  simp [hblock]

/-- What a group that is not VOID becomes under MICRO. -/
theorem SubShifts.requantGroup_eq (hv : e ≠ voidExp) : requantGroup w true mode e q l =
    let room := (127 - signed 8 e).toNat
    let sg := max low (top - 3)
    if room < sg then
      ⟨(microRounded mode room (fun b => min 3 (sb b - room)) q l).1.map (clampTo w), pattern 8 (signed 8 e + room),
        (List.range m).map fun b => min 3 (sb b - room), true, (microRounded mode room (fun b => min 3 (sb b - room)) q l).2⟩
    else
      ⟨(microRounded mode sg (fun b => sb b - sg) q l).1, pattern 8 (signed 8 e + sg), (List.range m).map fun b => sb b - sg, false,
        (microRounded mode sg (fun b => sb b - sg) q l).2⟩ := by
  simp only [requantGroup, if_neg hv, if_true, h.subs_eq hw hq, h.foldl_max, h.foldl_min hw hq, h.items_eq, decide_eq_true_eq]
  split
  · next hlt => simp only [hlt, decide_true, List.map_map, microRounded, Function.comp_def]
  · next hge => simp only [hge, decide_false, List.map_map, microRounded, Function.comp_def]

omit hw hq in
/-- Rounded under no less than the least shift of its sub-block, every element is in range. -/
theorem SubShifts.microRounded_mem {g : Nat} {ms : Nat → Nat} (hms : ∀ b, b < m → sb b ≤ g + ms b) :
    ∀ y ∈ (microRounded mode g ms q l).1, minOf w ≤ y ∧ y ≤ maxOf w := by
  refine roundAll_mem (List.forall_mem_map.mpr fun i hi => ?_) l
  have hi := List.mem_range.mp hi
  have hblock : i / 8 < m := by rw [h.length] at hi; omega
  exact range_mono (hms _ hblock) ((h.least _ hblock).1 _ (getD_mem_run (by decide) hi))

theorem SubShifts.in_range (he : e < 256) (hv : e ≠ voidExp) (hroom : signed 8 e + max low (top - 3) ≤ 127) :
    let r := requantGroup w true mode e q l
    let sg := max low (top - 3)
    signed 8 r.exp = signed 8 e + sg ∧ r.sat = false ∧ (∀ b, b < m → r.micros[b]? = some (sb b - sg) ∧ sb b - sg ≤ 3) ∧
      (r.elems, r.lfsr) = microRounded mode sg (fun b => sb b - sg) q l ∧ (∀ y ∈ r.elems, minOf w ≤ y ∧ y ≤ maxOf w) := by
  have hexp := exponent_range he hv
  intro r sg
  have hroom : signed 8 e + sg ≤ 127 := by simpa [sg] using hroom
  have hr : r = _ := (h.requantGroup_eq hw hq hv).trans (if_neg (show ¬(127 - signed 8 e).toNat < sg by omega))
  rw [hr]
  refine ⟨signed_pattern_exponent (by omega) hroom, rfl, fun b hb => ⟨by simp [hb, sg], ?_⟩, rfl,
    h.microRounded_mem fun b _ => by omega⟩
  have := (h.bounds b hb).2
  omega

theorem SubShifts.past_range (he : e < 256) (hv : e ≠ voidExp) (hroom : 127 < signed 8 e + max low (top - 3)) :
    let r := requantGroup w true mode e q l
    let room := (127 - signed 8 e).toNat
    r.exp = 127 ∧ r.sat = true ∧ (∀ b, b < m → r.micros[b]? = some (min 3 (sb b - room))) ∧
      r.elems = (microRounded mode room (fun b => min 3 (sb b - room)) q l).1.map (clampTo w) := by
  have hexp := exponent_range he hv
  intro r room
  have hr : r = _ := (h.requantGroup_eq hw hq hv).trans (if_pos (by omega))
  rw [hr]
  exact ⟨pattern_full he hv, rfl, fun b hb => by simp [hb, room], rfl⟩

end

/-! ### Rotate, transpose and widen (R127 to R129) -/

/-- A window of a list as long as its beginning reads the list further on. -/
theorem take_drop_getElem? {α : Type} (l : List α) {i n : Nat} (k : Nat) (h : i < n) : ((l.drop k).take n)[i]? = l[i + k]? := by
  rw [List.getElem?_take_of_lt h, List.getElem?_drop, Nat.add_comm]

theorem transposeParts_getElem? {a : Parts} {n r c : Nat} (hr : r < 8) (hc : c < 8) (hn : 64 * n + 64 ≤ a.elems.length) :
    (transposeParts a).elems[64 * n + 8 * c + r]? = a.elems[64 * n + 8 * r + c]? := by
  have hplace : (64 * n + 8 * c + r) / 64 * 64 + 8 * ((64 * n + 8 * c + r) % 8) + (64 * n + 8 * c + r) % 64 / 8 = 64 * n + 8 * r + c := by
    omega
  have hfrom : 64 * n + 8 * r + c < a.elems.length := by omega
  have hto : 64 * n + 8 * c + r < a.elems.length := by omega
  simp only [transposeParts, List.getElem?_map, List.getElem?_range hto, Option.map_some, hplace, List.getD_eq_getElem _ _ hfrom,
    List.getElem?_eq_getElem hfrom]

theorem widthOf_pos (f : Nat) : 0 < widthOf f := Nat.two_pow_pos _

/-- Widening keeps the value of every element. -/
theorem widenParts_getElem? {f g : Nat} {a : Parts} (hfg : widthOf f ≤ widthOf g) {i v : Nat} (hi : a.elems[i]? = some v) :
    ∃ u, (widenParts f g a).elems[i]? = some u ∧ u < 2 ^ widthOf g ∧ signed (widthOf g) u = signed (widthOf f) v := by
  obtain ⟨hlo, hhi⟩ := signed_range (v := v) (widthOf_pos f)
  have hpow : (2 : Int) ^ (widthOf f - 1) ≤ 2 ^ (widthOf g - 1) := pow_le_pow_right₀ (by decide) (by omega)
  exact ⟨_, by simp [widenParts, hi], pattern_lt .., signed_pattern (widthOf_pos g) (by omega) (by omega)⟩

/-- Settles O60: a group through its least shift, under MICRO through those of its sub-blocks, and the places of a rotate, a transpose
and a widening. -/
theorem rowsConditioned : Obligations.RowsConditioned := by
  unfold Obligations.RowsConditioned
  have hwidth : ∀ {w : Nat}, w ∈ [2, 4, 8, 16] → 2 ≤ w := by decide +revert
  refine ⟨fun w mode e q l hw _ hq => ⟨requantGroup_void w mode q l, fun he hv s hfit hmin => ?plain⟩,
    fun w mode e m q l sb low top hw _ hq he hv hlen hsb hbounds hlow htop => ?micro, fun f g rot a b => ?places⟩
  case plain =>
    exact ⟨requantGroup_in_range (hwidth hw) hq he hv ⟨hfit, hmin⟩, requantGroup_past_range (hwidth hw) hq he hv ⟨hfit, hmin⟩⟩
  case micro =>
    have h : SubShifts w m q sb low top := ⟨hlen, hsb, hbounds, hlow, htop⟩
    intro r sg room
    exact ⟨fun hroom => h.in_range (hwidth hw) hq he hv (by simpa [sg] using hroom),
      fun hroom => h.past_range (hwidth hw) hq he hv (by simpa [sg] using hroom)⟩
  case places =>
    exact ⟨fun i => take_drop_getElem? _ _, fun i => take_drop_getElem? _ _, fun i => take_drop_getElem? _ _, rfl,
      by simp [transposeParts], fun n r c => transposeParts_getElem?, rfl, rfl, by simp [widenParts],
      fun hfg i v _ => widenParts_getElem? hfg⟩

end Sys2Proof.Machine
end

section
/-!
SUPPORT. Two groups added (R140): the sums at the greater exponent, and what becomes of them where they do not fit.
-/

namespace Sys2Proof.Machine

/-- Two groups rounded to the greater of their exponents and added element by element, with the LFSR after it (R140). -/
def alignedSums (oe ne mode : Nat) (old new : List Int) (l : BitVec 32) : List Int × BitVec 32 :=
  let e := max (signed 8 oe) (signed 8 ne)
  let a := roundAll mode (old.map fun x => (x, (e - signed 8 oe).toNat)) l
  let b := roundAll mode (new.map fun x => (x, (e - signed 8 ne).toNat)) a.2
  (List.zipWith (· + ·) a.1 b.1, b.2)

/-- How many of some sums do not fit 32 bits. -/
def misfits (t : List Int) : Nat := (t.filter fun x => !fits 32 x).length

theorem misfits_eq_zero {t : List Int} (h : ∀ y ∈ t, fits 32 y = true) : misfits t = 0 := by
  rw [misfits, List.length_eq_zero_iff, List.filter_eq_nil_iff]
  simpa using h

theorem misfits_pos {t : List Int} (h : ∃ y ∈ t, fits 32 y = false) : 0 < misfits t :=
  List.length_filter_pos_iff.mpr (by simpa using h)

/-- Values of 32 bits rounded under any shift are of 32 bits. -/
theorem roundAll_fits {mode s : Nat} {q : List Int} (hq : ∀ x ∈ q, fits 32 x = true) (l : BitVec 32) :
    ∀ y ∈ (roundAll mode (q.map fun x => (x, s)) l).1, minOf 32 ≤ y ∧ y ≤ maxOf 32 :=
  roundAll_mem (List.forall_mem_map.mpr fun x hx => range_mono (Nat.zero_le s) (by simpa using fits_iff.mp (hq x hx))) l

section
variable {oe ne mode : Nat} {old new : List Int} {l : BitVec 32}

/-- The sums are in range one exponent up. -/
theorem alignedSums_mem (h : ∀ x ∈ old ++ new, fits 32 x = true) :
    ∀ y ∈ (alignedSums oe ne mode old new l).1, minOf 32 * 2 ^ 1 ≤ y ∧ y ≤ maxOf 32 * 2 ^ 1 := by
  intro y hy
  obtain ⟨hold, hnew⟩ := List.forall_mem_append.mp h
  rw [alignedSums, ← List.map_uncurry_zip_eq_zipWith] at hy
  obtain ⟨⟨a, b⟩, hab, rfl⟩ := List.mem_map.mp hy
  obtain ⟨ha, hb⟩ := List.of_mem_zip hab
  obtain ⟨halo, hahi⟩ := roundAll_fits hold _ a ha
  obtain ⟨hblo, hbhi⟩ := roundAll_fits hnew _ b hb
  dsimp only [Function.uncurry]
  omega

/-- The sums halved for the next exponent fit (R140). -/
theorem halvedSums_fit (h : ∀ x ∈ old ++ new, fits 32 x = true) (s : BitVec 32) :
    ∀ y ∈ (roundAll mode ((alignedSums oe ne mode old new l).1.map fun x => (x, 1)) s).1, fits 32 y = true := fun y hy =>
  fits_iff.mpr (roundAll_mem (List.forall_mem_map.mpr (alignedSums_mem h)) s y hy)

variable {hr : Bool} (hne : ne ≠ voidExp) (hoe : oe ≠ voidExp)
include hne hoe

/-- Two groups that are not VOID, by whether their sums fit, the policy, and the exponent (R140). -/
theorem accGroup_eq : accGroup oe old ne new mode hr l =
    let e := max (signed 8 oe) (signed 8 ne)
    let t := alignedSums oe ne mode old new l
    if misfits t.1 = 0 then ⟨pattern 8 e, t.1, false, 0, false, t.2⟩
    else if !hr then ⟨pattern 8 e, t.1.map (clampTo 32), false, misfits t.1, false, t.2⟩
    else if e = 127 then ⟨127, t.1.map (clampTo 32), false, misfits t.1, true, t.2⟩
    else
      let c := roundAll mode (t.1.map fun x => (x, 1)) t.2
      ⟨pattern 8 (e + 1), c.1, true, 0, false, c.2⟩ := by
  rw [accGroup, if_neg hne, if_neg hoe]
  rfl

theorem accGroup_fit (h : ∀ y ∈ (alignedSums oe ne mode old new l).1, fits 32 y = true) : accGroup oe old ne new mode hr l =
    ⟨pattern 8 (max (signed 8 oe) (signed 8 ne)), (alignedSums oe ne mode old new l).1, false, 0, false,
      (alignedSums oe ne mode old new l).2⟩ :=
  (accGroup_eq hne hoe).trans (if_pos (misfits_eq_zero h))

variable (h : ∃ y ∈ (alignedSums oe ne mode old new l).1, fits 32 y = false)
include h

theorem accGroup_saturate : accGroup oe old ne new mode false l =
    ⟨pattern 8 (max (signed 8 oe) (signed 8 ne)), (alignedSums oe ne mode old new l).1.map (clampTo 32), false,
      misfits (alignedSums oe ne mode old new l).1, false, (alignedSums oe ne mode old new l).2⟩ :=
  (accGroup_eq hne hoe).trans (if_neg (misfits_pos h).ne')

theorem accGroup_at_top (htop : max (signed 8 oe) (signed 8 ne) = 127) : accGroup oe old ne new mode true l =
    ⟨127, (alignedSums oe ne mode old new l).1.map (clampTo 32), false, misfits (alignedSums oe ne mode old new l).1, true,
      (alignedSums oe ne mode old new l).2⟩ :=
  (accGroup_eq hne hoe).trans ((if_neg (misfits_pos h).ne').trans (if_pos htop))

theorem accGroup_headroom (htop : max (signed 8 oe) (signed 8 ne) ≠ 127) : accGroup oe old ne new mode true l =
    let c := roundAll mode ((alignedSums oe ne mode old new l).1.map fun x => (x, 1)) (alignedSums oe ne mode old new l).2
    ⟨pattern 8 (max (signed 8 oe) (signed 8 ne) + 1), c.1, true, 0, false, c.2⟩ :=
  (accGroup_eq hne hoe).trans ((if_neg (misfits_pos h).ne').trans (if_neg htop))

end

/-- How two groups add (R140), neither of them VOID. -/
theorem accGroup_adds {oe ne mode : Nat} {old new : List Int} {l : BitVec 32} {hr : Bool} (hoe : oe < 256) (hne : ne < 256)
    (hfit : ∀ x ∈ old ++ new, fits 32 x = true) (hnv : ne ≠ voidExp) (hov : oe ≠ voidExp) :
    let r := accGroup oe old ne new mode hr l
    let e := max (signed 8 oe) (signed 8 ne)
    let t := alignedSums oe ne mode old new l
    (∀ y ∈ r.elems, fits 32 y = true) ∧
    ((∀ y ∈ t.1, fits 32 y = true) → signed 8 r.exp = e ∧ r.elems = t.1 ∧ r.headroom = false ∧ r.saturated = 0) ∧
    ((∃ y ∈ t.1, fits 32 y = false) →
      (hr = false → signed 8 r.exp = e ∧ r.elems = t.1.map (clampTo 32) ∧ 0 < r.saturated ∧ r.expSat = false) ∧
      (hr = true → e = 127 → r.exp = 127 ∧ r.elems = t.1.map (clampTo 32) ∧ r.expSat = true) ∧
      (hr = true → e ≠ 127 → signed 8 r.exp = e + 1 ∧ r.headroom = true ∧ r.saturated = 0 ∧
        r.elems = (roundAll mode (t.1.map fun x => (x, 1)) t.2).1)) := by
  obtain ⟨holo, hohi⟩ := exponent_range hoe hov
  obtain ⟨hnlo, hnhi⟩ := exponent_range hne hnv
  intro r e t
  have hexp : signed 8 (pattern 8 e) = e := signed_pattern_exponent (by omega) (by omega)
  by_cases hall : ∀ y ∈ t.1, fits 32 y = true
  · have hr' : r = _ := accGroup_fit hnv hov hall
    rw [hr']
    exact ⟨hall, fun _ => ⟨hexp, rfl, rfl, rfl⟩, fun ⟨y, hy, hbad⟩ => absurd (hall y hy) (by simp [hbad])⟩
  · have hbad : ∃ y ∈ t.1, fits 32 y = false := by simpa using hall
    have hclamp : ∀ y ∈ t.1.map (clampTo 32), fits 32 y = true := fun y hy => fits_iff.mpr (clampTo_map_mem 32 t.1 y hy)
    cases hr
    · have hr' : r = _ := accGroup_saturate hnv hov hbad
      rw [hr']
      exact ⟨hclamp, fun h => absurd h hall, fun _ => ⟨fun _ => ⟨hexp, rfl, misfits_pos hbad, rfl⟩, by simp, by simp⟩⟩
    · by_cases htop : e = 127
      · have hr' : r = _ := accGroup_at_top hnv hov hbad htop
        rw [hr']
        exact ⟨hclamp, fun h => absurd h hall, fun _ => ⟨by simp, fun _ _ => ⟨rfl, rfl, rfl⟩, fun _ h => absurd htop h⟩⟩
      · have hr' : r = _ := accGroup_headroom hnv hov hbad htop
        rw [hr']
        exact ⟨halvedSums_fit hfit _, fun h => absurd h hall, fun _ => ⟨by simp, fun _ h => absurd h htop,
          fun _ _ => ⟨signed_pattern_exponent (by omega) (by omega), rfl, rfl, rfl⟩⟩⟩

end Sys2Proof.Machine
end

section
/-!
SUPPORT. What the read before an addition leaves, and how a contribution to a row ends (R138, R139, R141, R142); then obligation O14.
-/

namespace Sys2Proof.Machine

/-! ### The counters of a port -/

/-- A count at a port adds to its own counter and to no other of the port (R292). -/
theorem countPort_counter {p s t n : Nat} (f : Fab) (hp : p < 32) (hs : s < 256) (ht : t < 256) :
    counterOf (countPort p s n f) (0x8100 + p) t = counterOf f (0x8100 + p) t + BitVec.ofNat 64 (if t = s then n else 0) := by
  split
  · next h =>
    subst h
    exact count_self _ _ _ _ (by unfold cKey; omega) (by unfold cKey; omega)
  · rw [BitVec.add_zero]
    exact count_ne _ _ _ _ (by unfold cKey; omega) (by unfold cKey; omega) (by unfold cKey; omega)

theorem when_countPort_counter {p s t n : Nat} (b : Bool) (f : Fab) (hp : p < 32) (hs : s < 256) (ht : t < 256) :
    counterOf (when b (countPort p s n) f) (0x8100 + p) t =
      counterOf f (0x8100 + p) t + BitVec.ofNat 64 (if b = true ∧ t = s then n else 0) := by
  cases b
  · simp [Machine.when]
  · simpa [Machine.when] using countPort_counter f hp hs ht

/-- The format check of a read counts wrong tags alone (R38). -/
theorem checkTag_counter {p req ra fmt st t : Nat} {r : Row} (f : Fab) (hp : p < 32) (ht : t < 256) (hne : t ≠ 0x13) :
    counterOf (checkTag p req ra fmt st r f) (0x8100 + p) t = counterOf f (0x8100 + p) t := by
  unfold checkTag
  split
  · rfl
  · rw [raise_portCounter _ _ _ hp ht, countPort_counter _ hp (by decide) ht, if_neg hne, BitVec.add_zero]

/-! ### The read before an addition -/

/-- What the read of a row for an addition leaves: its words are reported, the row is POISONED where a word is uncorrectable, and it is
queued for repair where one is correctable (R53, R139, R237). -/
def readToAdd (p ra : Nat) (f : Fab) : Fab :=
  let st := rawState f.store ra
  let ws := rmwWords f.store ra
  when (st != 0 && someWord .correctable ws) (queueRepair ra) (when (st = 1 && (st != 0 && someWord .uncorrectable ws))
    (fun f => onStore f (setState ra 2)) (when (st != 0) (reportWords ra 2 p (st != 1) (checkedWords ws 0)) f))

@[simp] theorem readToAdd_roundsPart (p ra : Nat) (f : Fab) : roundsPart (readToAdd p ra f) = roundsPart f :=
  (when_proj roundsPart (queueRepair_roundsPart ..)).trans ((when_proj roundsPart (onStore_roundsPart ..)).trans
    (when_proj roundsPart (reportWords_roundsPart ..)))

theorem queueRepair_banksPart (ra : Nat) (f : Fab) : banksPart (queueRepair ra f) = banksPart f := by
  unfold queueRepair
  dsimp only
  split
  · rfl
  · split
    · exact countGroup_banksPart ..
    · rfl

theorem reportWords_banksPart (ra so p : Nat) (was : Bool) (ws : List (Nat × Code)) (f : Fab) :
    banksPart (reportWords ra so p was ws f) = banksPart f :=
  reportWords_proj banksPart logError_banksPart countGroup_banksPart freshError_banksPart ..

theorem when_onStore_banksPart (b : Bool) (k : Store → Store) {f g : Fab} (h : banksPart g = banksPart f) :
    banksPart (when b (fun f => onStore f k) g) = (if b = true then k f.store else f.store, f.sec) := by
  obtain ⟨hstore, hsec⟩ := Prod.mk.inj h
  cases b
  · exact h
  · exact Prod.ext (congrArg k hstore) hsec

/-- A row that the read shows uncorrectable is POISONED; nothing else of the banks and of the injection armed changes. -/
theorem readToAdd_banksPart (p ra : Nat) (f : Fab) : banksPart (readToAdd p ra f) =
    (if rawState f.store ra = 1 ∧ someWord .uncorrectable (rmwWords f.store ra) = true then setState ra 2 f.store
      else f.store, f.sec) := by
  have hbad : (decide (rawState f.store ra = 1) && (rawState f.store ra != 0 && someWord .uncorrectable (rmwWords f.store ra))) = true ↔
      rawState f.store ra = 1 ∧ someWord .uncorrectable (rmwWords f.store ra) = true := by
    simp only [Bool.and_eq_true, decide_eq_true_eq, bne_iff_ne]
    exact ⟨fun h => ⟨h.1, h.2.2⟩, fun h => ⟨h.1, by omega, h.2⟩⟩
  simp only [← hbad]
  exact (when_proj banksPart (queueRepair_banksPart ..)).trans
    (when_onStore_banksPart _ (setState ra 2) (when_proj banksPart (reportWords_banksPart ..)))

/-! ### How a contribution ends -/

/-- What an addition takes the row for: blank where it is UNWRITTEN, else its corrected words (R57, R139). -/
def rowToAdd (st : Nat) (ws : List Code) : Row := if st = 0 then blankRow else rowOfWords (ws.map deliveredData)

/-- The tags that the row's epoch has recorded: none at its first touch (R138, R139). -/
def tagsBefore (st epoch : Nat) (old : Row) : Nat := if st = 0 || (st = 1 && epochOf old != epoch) then 0 else contribOf old

theorem tagsBefore_eq {st epoch : Nat} {old : Row} (h : st < 2) :
    tagsBefore st epoch old = if st = 0 ∨ epochOf old ≠ epoch then 0 else contribOf old := by
  rcases (by omega : st = 0 ∨ st = 1) with rfl | rfl <;> simp [tagsBefore]

/-- A contribution whose read shows the row lost, as it ends (R142). -/
def contributionLost (p ra : Nat) (c : Contribution) (f : Fab) : Fab :=
  raise 0x0F (place [(0, p), (8, ra), (32, c.tag), (40, c.epoch)]) (countPort p 0x1A 1 f)

/-- The first touch of an epoch counted (R139). -/
def touchCounted (p st : Nat) (c : Contribution) (old : Row) (f : Fab) : Fab :=
  when (st = 1 && epochOf old != c.epoch) (countPort p 0x16 1) f

/-- A contribution added to a row that reads `old` (R139, R140, R141). -/
def contributionAdded (p req ra st : Nat) (c : Contribution) (old : Row) (a : AccRow) (f : Fab) : Fab :=
  let g := onPort (checkTag p req ra c.fmt st old f) p fun x => { x with lfsr := a.lfsr }
  let g := countPort p 0x14 1 (countPort p 0x19 a.expSat (countPort p 0x18 a.saturated (countPort p 0x17 a.headroom g)))
  settleRepair ra (postWords p ra (encodeRow (putTogether c.fmt a.parts (tagsBefore st c.epoch old ||| 2 ^ c.tag) c.epoch))
    (BitVec.allOnes 36) 1 g)

/-- The groups of a contribution added into those of the row that reads `old`. -/
def addedGroups (p : Nat) (c : Contribution) (old : Row) (f : Fab) : AccRow :=
  accRow c.fmt (c.bytes / groupBytes c.fmt) c.round c.headroom (takeApart c.fmt old) c.parts (portOf f p).lfsr

/-- The row takes no contribution: it is POISONED, or its read shows a word uncorrectable or poison (R142). -/
def RowLost (st : Nat) (ws : List Code) : Prop := 2 ≤ st ∨ (st = 1 ∧ (someWord .uncorrectable ws || someWord .poison ws) = true)

theorem not_rowLost {st : Nat} {ws : List Code} (h : ¬ RowLost st ws) :
    st < 2 ∧ (st = 1 → someWord .uncorrectable ws = false ∧ someWord .poison ws = false) := by
  simpa [RowLost] using h

section
variable {p req ra st : Nat} {ws : List Code} {c : Contribution} {f g : Fab} (hg : checkState ra f = g)
  (hst : rawState g.store ra = st) (hws : rmwWords g.store ra = ws) (hlen : ws.length = 36)
include hg hst hws hlen

theorem accumulate_of_lost (hlost : RowLost st ws) :
    accumulate p req ra c f = (.poisoned, contributionLost p ra c (readToAdd p ra g)) := by
  have hany := fun k => checkedWords_any hlen fun c => decide (classOf c = k)
  have htest : (decide (2 ≤ st) || (st != 0 && someWord .uncorrectable ws) || (decide (st = 1) && someWord .poison ws)) = true := by
    rcases hlost with h | ⟨rfl, h⟩
    · simp [h]
    · simpa using h
  unfold accumulate
  rw [hg]
  simp only [hst, hws, hany, readToAdd, contributionLost]
  exact if_pos htest

theorem accumulate_of_sound (hlost : ¬ RowLost st ws) :
    let old := rowToAdd st ws
    let g := touchCounted p st c old (readToAdd p ra g)
    accumulate p req ra c f = if (tagsBefore st c.epoch old).testBit c.tag then (.repeated, countPort p 0x15 1 g)
      else (.added, contributionAdded p req ra st c old (addedGroups p c old (checkTag p req ra c.fmt st old g)) g) := by
  have hany := fun k => checkedWords_any hlen fun c => decide (classOf c = k)
  obtain ⟨hlow, hclean⟩ := not_rowLost hlost
  have htest : (decide (2 ≤ st) || (st != 0 && someWord .uncorrectable ws) || (decide (st = 1) && someWord .poison ws)) = false := by
    rcases (by omega : st = 0 ∨ st = 1) with rfl | rfl
    · rfl
    · simp [hclean rfl]
  intro old g'
  unfold accumulate
  rw [hg]
  simp only [hst, hws, hany]
  refine (if_neg (ne_of_eq_of_ne htest Bool.false_ne_true)).trans ?_
  simp only [old, g', contributionAdded, addedGroups, touchCounted, readToAdd, rowToAdd, tagsBefore, someWord, hst, hws]

end

/-! ### What the ends leave -/

/-- `g` counts `n` more than `f` in counter `t` of port p (R292). -/
def PortCounted (p t n : Nat) (f g : Fab) : Prop :=
  counterOf g (0x8100 + p) t = counterOf f (0x8100 + p) t + BitVec.ofNat 64 n

/-- A lost contribution is counted once and changes nothing of the banks (R142). -/
theorem contributionLost_counter {p ra t : Nat} (c : Contribution) (f : Fab) (hp : p < 32) (ht : t < 256) :
    counterOf (contributionLost p ra c f) (0x8100 + p) t = counterOf f (0x8100 + p) t + BitVec.ofNat 64 (if t = 0x1A then 1 else 0) := by
  rw [contributionLost, raise_portCounter _ _ _ hp ht, countPort_counter _ hp (by decide) ht]

theorem contributionLost_store (p ra : Nat) (c : Contribution) (f : Fab) : (contributionLost p ra c f).store = f.store := by
  simp [contributionLost]

/-- The row's read and the first touch of an epoch, where the row is sound: counted in its own counter, and all else as it was. -/
theorem touchCounted_counter {p st t : Nat} (c : Contribution) (old : Row) (f : Fab) (hp : p < 32) (ht : t < 256) :
    counterOf (touchCounted p st c old f) (0x8100 + p) t =
      counterOf f (0x8100 + p) t + BitVec.ofNat 64 (if (st = 1 ∧ epochOf old ≠ c.epoch) ∧ t = 0x16 then 1 else 0) := by
  rw [touchCounted, when_countPort_counter _ _ hp (by decide) ht]
  simp only [Bool.and_eq_true, decide_eq_true_eq, bne_iff_ne]

theorem touchCounted_banksPart (p st : Nat) (c : Contribution) (old : Row) (f : Fab) :
    banksPart (touchCounted p st c old f) = banksPart f := when_proj banksPart (by simp [banksPart])

theorem touchCounted_portOf (p st : Nat) (c : Contribution) (old : Row) (f : Fab) (j : Nat) :
    portOf (touchCounted p st c old f) j = portOf f j := when_proj (portOf · j) (by simp [portOf])

theorem checkTag_portOf (p req ra fmt st : Nat) (r : Row) (f : Fab) (j : Nat) : portOf (checkTag p req ra fmt st r f) j = portOf f j := by
  unfold checkTag
  split
  · rfl
  · simp [portOf]

theorem checkTag_sec (p req ra fmt st : Nat) (r : Row) (f : Fab) : (checkTag p req ra fmt st r f).sec = f.sec := by
  unfold checkTag
  split <;> simp

section
variable {p req ra st : Nat} {c : Contribution} {old : Row} {a : AccRow} {f : Fab}

/-- What an addition counts (R140, R141). -/
theorem contributionAdded_counter {t : Nat} (hp : p < 32) (ht : t < 256) (hne : t ≠ 0x13) :
    counterOf (contributionAdded p req ra st c old a f) (0x8100 + p) t = counterOf f (0x8100 + p) t +
      BitVec.ofNat 64 (if t = 0x17 then a.headroom else 0) + BitVec.ofNat 64 (if t = 0x18 then a.saturated else 0) +
      BitVec.ofNat 64 (if t = 0x19 then a.expSat else 0) + BitVec.ofNat 64 (if t = 0x14 then 1 else 0) := by
  unfold contributionAdded
  rw [portCounter_of_roundsPart ((settleRepair_roundsPart ..).trans (postWords_roundsPart ..)) hp ht]
  simp only [countPort_counter _ hp (show 0x14 < 256 by decide) ht, countPort_counter _ hp (show 0x17 < 256 by decide) ht,
    countPort_counter _ hp (show 0x18 < 256 by decide) ht, countPort_counter _ hp (show 0x19 < 256 by decide) ht]
  rw [← checkTag_counter (req := req) (ra := ra) (fmt := c.fmt) (st := st) (r := old) f hp ht hne]
  rfl

/-- The port's LFSR stands as the rounding leaves it (R48). -/
theorem contributionAdded_lfsr : (portOf (contributionAdded p req ra st c old a f) p).lfsr = a.lfsr := by
  unfold contributionAdded
  rw [portOf_of_roundsPart ((settleRepair_roundsPart ..).trans (postWords_roundsPart ..))]
  simp [portOf, onPort]

/-- The row is stored whole and WRITTEN (R53, R139). -/
theorem contributionAdded_stored {g : Fab} (h : banksPart f = banksPart g) (hb : BufferFits g.store ra) (hj : NoEccInjection g) :
    Stored (contributionAdded p req ra st c old a f).store g.store ra 1
      (encodeRow (putTogether c.fmt a.parts (tagsBefore st c.epoch old ||| 2 ^ c.tag) c.epoch)) (BitVec.allOnes 36) := by
  obtain ⟨hbanks, hsec⟩ := Prod.mk.inj h
  have hj : NoEccInjection f := by rwa [NoEccInjection, injKind, hsec]
  rw [← hbanks] at hb ⊢
  unfold contributionAdded
  rw [settleRepair_store, postWords_store (by simpa [NoEccInjection, injKind, checkTag_sec] using hj)]
  have hstore : ∀ s n1 n2 n3 n4, (countPort p s n1 (countPort p 0x19 n2 (countPort p 0x18 n3 (countPort p 0x17 n4
      (onPort (checkTag p req ra c.fmt st old f) p fun x => { x with lfsr := a.lfsr }))))).store = f.store := by simp
  rw [hstore]
  exact stored_postedStore hb (by decide)

end

/-- The words of a row are read from the array and from the posted write buffers (R108). -/
theorem rmwWords_congr {s t : Store} (hrows : t.rows = s.rows) (hpwb : t.pwb = s.pwb) (r : Nat) : rmwWords t r = rmwWords s r := by
  unfold rmwWords bufferOf arrayWords
  rw [hrows, hpwb]

/-- A row made POISONED or left as it is keeps its words, and every other row keeps all (R53). -/
theorem poisoned_or_kept {ra : Nat} {s t : Store} {b : Prop} [Decidable b] (h : t = if b then setState ra 2 s else s) :
    OtherRowsKept t s ra ∧ rmwWords t ra = rmwWords s ra ∧ rawState t ra = if b then 2 else rawState s ra := by
  have hwords : ∀ st r, rmwWords (setState ra st s) r = rmwWords s r := fun _ r => rmwWords_congr (by rw [setState]) (by rw [setState]) r
  subst h
  split
  · exact ⟨fun j hj => ⟨by rw [rawState_setState _ _ _ _ (by decide), if_neg hj], hwords ..⟩, hwords ..,
      by rw [rawState_setState _ _ _ _ (by decide), if_pos rfl]⟩
  · exact ⟨fun _ _ => ⟨rfl, rfl⟩, rfl, rfl⟩

section
variable {p : Fin 32} {req ra : Nat} {c : Contribution} {f : Fab} (hs : RowSound f ra)
include hs

/-- A contribution to a lost row is not added (R142). -/
theorem accumulate_lost (hlost : RowLost (rawState f.store ra) (rmwWords f.store ra)) :
    let st := rawState f.store ra
    let ws := rmwWords f.store ra
    let r := accumulate p req ra c f
    r.1 = .poisoned ∧ OtherRowsKept r.2.store f.store ra ∧ rmwWords r.2.store ra = ws ∧
      rawState r.2.store ra = (if st = 1 ∧ someWord .uncorrectable ws = true then 2 else st) ∧
      PortCounted p 0x1A 1 f r.2 ∧ PortCounted p 0x14 0 f r.2 := by
  obtain ⟨hparity, hlen, -⟩ := hs
  obtain ⟨told, htold⟩ := checkState_told hparity
  intro st ws r
  have hst : rawState (checkState ra f).store ra = st := by rw [htold]; rfl
  have hws : rmwWords (checkState ra f).store ra = ws := by rw [htold]; rfl
  have hr : r = _ := accumulate_of_lost rfl hst hws hlen hlost
  have hstore : (contributionLost p ra c (readToAdd p ra (checkState ra f))).store =
      if st = 1 ∧ someWord .uncorrectable ws = true then setState ra 2 { f.store with told := told }
      else { f.store with told := told } := by
    rw [contributionLost_store, show (readToAdd p ra (checkState ra f)).store = _ from congrArg Prod.fst (readToAdd_banksPart ..), hst, hws,
      htold]
  have hcount : ∀ t, t < 256 → PortCounted p t (if t = 0x1A then 1 else 0) f
      (contributionLost p ra c (readToAdd p ra (checkState ra f))) := by
    intro t ht
    rw [PortCounted, contributionLost_counter _ _ p.isLt ht,
      portCounter_of_roundsPart ((readToAdd_roundsPart ..).trans (checkState_roundsPart ..)) p.isLt ht]
  obtain ⟨hothers, hwords, hstate⟩ := poisoned_or_kept hstore
  rw [hr]
  exact ⟨rfl, hothers, hwords, hstate, hcount 0x1A (by decide), hcount 0x14 (by decide)⟩

/-- A sound row whose epoch has recorded the contribution's tag stays as it is; into any other the contribution is added
(R138 to R141). -/
theorem accumulate_sound (hb : bufferTakes f.store ra true = true) (hlost : ¬ RowLost (rawState f.store ra) (rmwWords f.store ra)) :
    let st := rawState f.store ra
    let old := rowToAdd st (rmwWords f.store ra)
    let r := accumulate p req ra c f
    PortCounted p 0x16 (if st = 1 ∧ epochOf old ≠ c.epoch then 1 else 0) f r.2 ∧
    ((tagsBefore st c.epoch old).testBit c.tag = true → r.1 = .repeated ∧ r.2.store = f.store ∧
      PortCounted p 0x15 1 f r.2 ∧ PortCounted p 0x14 0 f r.2) ∧
    ((tagsBefore st c.epoch old).testBit c.tag = false →
      let a := addedGroups p c old f
      r.1 = .added ∧ (portOf r.2 p).lfsr = a.lfsr ∧
      Stored r.2.store f.store ra 1 (encodeRow (putTogether c.fmt a.parts (tagsBefore st c.epoch old ||| 2 ^ c.tag) c.epoch))
        (BitVec.allOnes 36) ∧
      PortCounted p 0x14 1 f r.2 ∧ PortCounted p 0x17 a.headroom f r.2 ∧ PortCounted p 0x18 a.saturated f r.2 ∧
        PortCounted p 0x19 a.expSat f r.2) := by
  obtain ⟨hparity, hlen, hj⟩ := hs
  obtain ⟨hlow, hclean⟩ := not_rowLost hlost
  intro st old r
  have hcheck : checkState ra f = f := checkState_of_unreserved hparity (by omega)
  have hr : r = _ := accumulate_of_sound hcheck rfl rfl hlen hlost
  have hbanks : banksPart (touchCounted p st c old (readToAdd p ra f)) = banksPart f := by
    refine (touchCounted_banksPart ..).trans ((readToAdd_banksPart ..).trans ?_)
    rw [if_neg (fun h => by simp [(hclean h.1).1] at h)]
    rfl
  have hport : portOf (touchCounted p st c old (readToAdd p ra f)) p = portOf f p :=
    (touchCounted_portOf ..).trans (portOf_of_roundsPart (readToAdd_roundsPart ..) p)
  have hcount : ∀ t, t < 256 → counterOf (touchCounted p st c old (readToAdd p ra f)) (0x8100 + p) t = counterOf f (0x8100 + p) t +
      BitVec.ofNat 64 (if (st = 1 ∧ epochOf old ≠ c.epoch) ∧ t = 0x16 then 1 else 0) := fun t ht => by
    rw [touchCounted_counter _ _ _ p.isLt ht, portCounter_of_roundsPart (readToAdd_roundsPart ..) p.isLt ht]
  have hgroups : addedGroups p c old (checkTag p req ra c.fmt st old (touchCounted p st c old (readToAdd p ra f))) =
      addedGroups p c old f := by
    rw [addedGroups, checkTag_portOf, hport, addedGroups]
  cases htag : (tagsBefore st c.epoch old).testBit c.tag
  · have hr : r = _ := hr.trans (if_neg (ne_of_eq_of_ne htag Bool.false_ne_true))
    have hadded := fun t ht hne => (contributionAdded_counter (req := req) (ra := ra) (st := st) (c := c) (old := old)
      (a := addedGroups p c old f) (t := t) p.isLt ht hne).trans (by rw [hcount t ht])
    rw [hr, hgroups]
    dsimp only
    have hstored := contributionAdded_stored (p := p) (req := req) (st := st) (c := c) (old := old) (a := addedGroups p c old f) hbanks
      (bufferFits_of_takes hb) hj
    refine ⟨?_, fun h => absurd h Bool.false_ne_true, fun _ => ⟨rfl, contributionAdded_lfsr, hstored, ?_, ?_, ?_, ?_⟩⟩
    all_goals
      rw [PortCounted, hadded _ (by decide) (by decide)]
      simp
  · have hr : r = _ := hr.trans (if_pos htag)
    rw [hr]
    refine ⟨?_, fun _ => ⟨rfl, (countPort_store ..).trans (congrArg Prod.fst hbanks), ?_, ?_⟩,
      fun h => absurd h.symm Bool.false_ne_true⟩
    all_goals
      rw [PortCounted, countPort_counter _ p.isLt (by decide) (by decide), hcount _ (by decide)]
      simp

end

/-- Settles O14: a contribution by whether its row is lost and its tag recorded, and two groups by whether their sums fit. -/
theorem rowsAccumulate : Obligations.RowsAccumulate := by
  unfold Obligations.RowsAccumulate
  refine ⟨fun p req ra c f _ hs hb => ?_, fun oe ne mode old new hr l _ hoe hne _ hfit => ⟨fun h => ?_, fun h h' => ?_, ?_⟩⟩
  · intro st ws old lost set r counted
    by_cases hlost : RowLost st ws
    · obtain ⟨hend, hothers, hwords, hstate, hcounts⟩ := accumulate_lost (p := p) (req := req) (c := c) hs hlost
      exact ⟨hothers, fun _ => ⟨hend, hwords, hstate, hcounts⟩, fun h => absurd hlost h⟩
    · obtain ⟨htouch, hseen, hnew⟩ := accumulate_sound (p := p) (req := req) (c := c) hs hb hlost
      have htags : tagsBefore st c.epoch old = set := tagsBefore_eq (not_rowLost hlost).1
      refine ⟨?_, fun h => absurd h hlost, fun _ => ⟨htouch, fun h => hseen (htags ▸ h), fun h => ?_⟩⟩
      · cases htag : (tagsBefore st c.epoch old).testBit c.tag
        · obtain ⟨-, -, hstored, -⟩ := hnew htag
          exact hstored.others
        · obtain ⟨-, hstore, -⟩ := hseen htag
          rw [show r.2.store = f.store from hstore]
          exact fun _ _ => ⟨rfl, rfl⟩
      · obtain ⟨hend, hlfsr, ⟨hstate, hwords, -⟩, hcounts⟩ := hnew (htags ▸ h)
        exact ⟨hend, hstate, hlfsr, htags ▸ hwords.trans (overlay_all (encodeRow_length _)), hcounts⟩
  · rw [accGroup, if_pos h]
  · rw [accGroup, if_neg h, if_pos h']
  · exact accGroup_adds hoe hne hfit

end Sys2Proof.Machine
end

section
/-!
SUPPORT. What a cluster takes onto its bus and what the crossbar and a latching endpoint leave alone (R113, R114, R119, R124, R378); then
obligation O16.
-/

namespace Sys2Proof.Machine

/-! ### The bus of a cluster -/

/-- A part of the fabric that clusters, their counters and outputs are no part of, a cluster's filling of its bus leaves alone. -/
theorem fillBus_proj {β : Type} (π : Fab → β) {c : Nat} (hcluster : ∀ f g, π (onCluster f c g) = π f)
    (hcount : ∀ f, π (countCluster c 1 1 f) = π f) (hemit : ∀ f o, π (emit f o) = π f) (n : Nat) (f : Fab) :
    π (fillBus c n f) = π f := by
  induction n generalizing f with
  | zero => rfl
  | succ n ih =>
    unfold fillBus
    dsimp only
    split
    · split
      · rw [ih, hcount, hcluster]
      · rw [hemit, hcluster, hcluster]
    · rfl

theorem fillBus_clusterOf_ne {c j : Nat} (h : j ≠ c) (n : Nat) (f : Fab) : clusterOf (fillBus c n f) j = clusterOf f j :=
  fillBus_proj (clusterOf · j) (fun f g => onCluster_ne f c g j h) (by simp [clusterOf]) (by simp [clusterOf]) n f

@[simp] theorem fillBus_store (c n : Nat) (f : Fab) : (fillBus c n f).store = f.store :=
  fillBus_proj Fab.store (by simp) (by simp) (by simp) n f

@[simp] theorem fillBus_fences (c n : Nat) (f : Fab) : (fillBus c n f).fences = f.fences :=
  fillBus_proj Fab.fences (by simp) (by simp) (by simp) n f

@[simp] theorem fillBus_ports (c n : Nat) (f : Fab) : (fillBus c n f).ports = f.ports :=
  fillBus_proj Fab.ports (by simp) (by simp) (by simp) n f

/-- A bus that is taken keeps its row (R124). -/
theorem fillBus_of_taken {c : Nat} {f : Fab} (h : (clusterOf f c).bus.isSome = true) (n : Nat) : fillBus c n f = f := by
  obtain ⟨b, hb⟩ := Option.isSome_iff_exists.mp h
  cases n with
  | zero => rfl
  | succ n => simp [fillBus, hb]

/-- A bus with no row behind it stays as it is. -/
theorem fillBus_of_empty {c : Nat} {f : Fab} (h : (clusterOf f c).dbuf = []) (n : Nat) : fillBus c n f = f := by
  cases n with
  | zero => rfl
  | succ n => simp [fillBus, h]

/-- A free bus takes the next row of the delivery buffer, for the members that it waits for (R119, R124, R378). -/
theorem fillBus_next {c : Nat} {f : Fab} {r : PipeRow} {t : List PipeRow} (hb : (clusterOf f c).bus = none)
    (hd : (clusterOf f c).dbuf = r :: t) (hm : waitMask f c r ≠ 0) (n : Nat) : fillBus c (n + 1) f =
      emit (onCluster (onCluster f c fun y => { y with dbuf := t }) c fun y => { y with bus := some ⟨r, waitMask f c r, 0⟩ })
        (busOutput f c r (waitMask f c r)) := by
  have hmask : waitMask (onCluster f c fun y => { y with dbuf := t }) c r = waitMask f c r := by simp [waitMask]
  unfold fillBus
  simp only [hb, hd, hmask, if_neg hm]
  rfl

/-- A cluster as its bus takes row `r`, `t` left behind it. -/
theorem fillBus_next_clusterOf {c : Nat} {f : Fab} {r : PipeRow} {t : List PipeRow} (hb : (clusterOf f c).bus = none)
    (hd : (clusterOf f c).dbuf = r :: t) (hm : waitMask f c r ≠ 0) (n : Nat) :
    clusterOf (fillBus c (n + 1) f) c = { clusterOf f c with bus := some ⟨r, waitMask f c r, 0⟩, dbuf := t } := by
  rw [fillBus_next hb hd hm, emit_clusterOf, onCluster_self, onCluster_self]

/-! ### The crossbar -/

/-- Row `r` comes to cluster `c` (R113, R119). -/
def enterCluster (r : PipeRow) (f : Fab) (c : Nat) : Fab := fillBus c 3 (onCluster f c fun y => { y with dbuf := y.dbuf ++ [r] })

theorem enterCluster_clusterOf_ne (r : PipeRow) (f : Fab) {c j : Nat} (h : j ≠ c) :
    clusterOf (enterCluster r f c) j = clusterOf f j :=
  (fillBus_clusterOf_ne h _ _).trans (onCluster_ne _ _ _ _ h)

theorem enterCluster_of_taken {r : PipeRow} {f : Fab} {c : Nat} (h : (clusterOf f c).bus.isSome = true) :
    clusterOf (enterCluster r f c) c = { clusterOf f c with dbuf := (clusterOf f c).dbuf ++ [r] } := by
  rw [enterCluster, fillBus_of_taken (by simpa using h), onCluster_self]

theorem enterCluster_of_free {r : PipeRow} {f : Fab} {c : Nat} (hb : (clusterOf f c).bus = none) (hd : (clusterOf f c).dbuf = [])
    (hm : waitMask f c r ≠ 0) :
    clusterOf (enterCluster r f c) c = { clusterOf f c with bus := some ⟨r, waitMask f c r, 0⟩ } := by
  have hmask : waitMask (onCluster f c fun y => { y with dbuf := y.dbuf ++ [r] }) c r = waitMask f c r := by simp [waitMask]
  rw [enterCluster, fillBus_next_clusterOf (r := r) (t := []) (by simpa using hb) (by simp [hd]) (by rwa [hmask]), hmask,
    onCluster_self, ← hd]

/-- A part of the fabric that ports and their counters are no part of, a presentation at the crossbar leaves alone. -/
theorem presentHead_proj {β : Type} (π : Fab → β) {p : Nat} (hshown : ∀ f n, π { f with shown := n } = π f)
    (hport : ∀ f g, π (onPort f p g) = π f) (hcount : ∀ f, π (countPort p 0x1B 1 f) = π f) (f : Fab) :
    π (presentHead p f) = π f := by
  unfold presentHead
  split
  · rfl
  · split
    · rfl
    · dsimp only
      split
      · rw [hport, hshown]
      · rw [hcount, hport, hport, hshown]

theorem presentHead_clusterOf (p : Nat) (f : Fab) (c : Nat) : clusterOf (presentHead p f) c = clusterOf f c :=
  presentHead_proj (clusterOf · c) (by intros; rfl) (by simp) (by simp [clusterOf]) f

theorem presentHead_store (p : Nat) (f : Fab) : (presentHead p f).store = f.store :=
  presentHead_proj Fab.store (by simp) (by simp) (by simp) f

theorem presentHead_fences (p : Nat) (f : Fab) : (presentHead p f).fences = f.fences :=
  presentHead_proj Fab.fences (by simp) (by simp) (by simp) f

/-- A presentation keeps the number of rows in the pipeline. -/
theorem presentHead_pipe_length (p : Nat) (f : Fab) : (portOf (presentHead p f) p).pipe.length = (portOf f p).pipe.length := by
  cases hpipe : (portOf f p).pipe with
  | nil => simp [presentHead, hpipe]
  | cons r t =>
    obtain ⟨_, _, h⟩ := presentHead_pipe hpipe
    rw [h]
    rfl

theorem crossMove_of_blocked {n : Nat} {f : Fab} (h : canCross f n = false) : crossMove n f = f := by simp [crossMove, h]

/-- Row `r` once it has left the pipeline of OP n, done in its leg. -/
def leftPipe (n : Nat) (r : PipeRow) (t : List PipeRow) (f : Fab) : Fab :=
  rowDone (sbQueue r.sb) r.ord 0 (sbRow r.sb) (onPort f n fun x => { x with pipe := t })

theorem leftPipe_clusterOf (n : Nat) (r : PipeRow) (t : List PipeRow) (f : Fab) (c : Nat) :
    clusterOf (leftPipe n r t f) c = clusterOf f c := rfl

section
variable {n : Nat} {f : Fab} {r : PipeRow} {t : List PipeRow} (hpipe : (portOf f n).pipe = r :: t) (hopen : canCross f n = true)
include hpipe hopen

theorem crossMove_of_open :
    crossMove n f = presentHead n (each (clustersOf r.mcast) (enterCluster r) (leftPipe n r t f)) := by
  simp only [crossMove, hopen, hpipe, Bool.not_true, Bool.false_eq_true, if_false]
  rfl

/-- The pipeline keeps the rows behind the one that crosses. -/
theorem crossMove_pipe_length : (portOf (crossMove n f) n).pipe.length = t.length := by
  have hports : (each (clustersOf r.mcast) (enterCluster r) (leftPipe n r t f)).ports = (leftPipe n r t f).ports :=
    each_proj Fab.ports _ _ (fun f c _ => (fillBus_ports ..).trans (onCluster_ports ..)) _
  rw [crossMove_of_open hpipe hopen, presentHead_pipe_length, portOf, hports, ← portOf, leftPipe, rowDone, onFlight, onQueue_portOf,
    onPort_self]

theorem crossMove_store : (crossMove n f).store = f.store := by
  rw [crossMove_of_open hpipe hopen, presentHead_store]
  exact each_proj Fab.store _ _ (fun f c _ => (fillBus_store ..).trans (onCluster_store ..)) _

theorem crossMove_fences : (crossMove n f).fences = f.fences := by
  rw [crossMove_of_open hpipe hopen, presentHead_fences]
  exact each_proj Fab.fences _ _ (fun f c _ => (fillBus_fences ..).trans (onCluster_fences ..)) _

/-- A cluster that the row is not bound for keeps what it holds (R113). -/
theorem crossMove_clusterOf_unselected {c : Nat} (hc : bitAt r.mcast c = false) : clusterOf (crossMove n f) c = clusterOf f c := by
  rw [crossMove_of_open hpipe hopen, presentHead_clusterOf]
  refine each_proj (clusterOf · c) _ _ (fun f j hj => enterCluster_clusterOf_ne r f ?_) _
  rintro rfl
  rw [(mem_bitsSet ..).mp hj] at hc
  cases hc

/-- A cluster that the row is bound for takes it as a cluster in its present state does (R113). -/
theorem crossMove_clusterOf_selected {c : Nat} (hc : bitAt r.mcast c = true) :
    ∃ g, clusterOf g c = clusterOf f c ∧ clusterOf (crossMove n f) c = clusterOf (enterCluster r g c) c := by
  obtain ⟨g, hsame, henter⟩ := each_at (fun c f => clusterOf f c) (enterCluster r)
    (fun f a b h => enterCluster_clusterOf_ne r f h.symm) (clustersOf r.mcast) (nodup_bitsSet _) c ((mem_bitsSet ..).mpr hc)
    (leftPipe n r t f)
  exact ⟨g, hsame, by rw [crossMove_of_open hpipe hopen, presentHead_clusterOf, henter]⟩

end

/-- The members that a row waits for are read from its groups and from the cluster's marks (R124, R125). -/
theorem waitMask_congr {f g : Fab} {c : Nat} (h : clusterOf g c = clusterOf f c) (r : PipeRow) : waitMask g c r = waitMask f c r := by
  rw [waitMask, h, waitMask]

/-! ### Latching -/

theorem ackDelivery_of_not_waited {c e : Nat} {f : Fab} {b : BusRow} (hb : (clusterOf f c).bus = some b) (hw : bitAt b.wait e = false) :
    ackDelivery c e f = f := by
  simp [ackDelivery, hb, hw, Machine.when]

theorem ackDelivery_of_waited {c e : Nat} {f : Fab} {b : BusRow} (hb : (clusterOf f c).bus = some b) (hw : bitAt b.wait e = true) :
    ackDelivery c e f = latchOff c e f := by
  simp [ackDelivery, hb, hw, Machine.when]

theorem latchOff_of_more {c e : Nat} {f : Fab} {b : BusRow} (hb : (clusterOf f c).bus = some b) (hm : putBit b.wait e false ≠ 0) :
    latchOff c e f = onCluster f c fun y => { y with bus := some { b with wait := putBit b.wait e false } } := by
  unfold latchOff
  simp only [hb, if_neg hm]

theorem latchOff_of_last {c e : Nat} {f : Fab} {b : BusRow} (hb : (clusterOf f c).bus = some b) (hm : putBit b.wait e false = 0) :
    latchOff c e f = fillBus c 3 (onCluster f c fun y => { y with bus := none }) := by
  unfold latchOff
  simp only [hb, if_pos hm]

/-- Settles O16: a row that crosses enters each selected cluster as `enterCluster` says, and one latched last makes place on the bus as
`fillBus` says. -/
theorem crossbarMovesAndLatches : Obligations.CrossbarMovesAndLatches := by
  unfold Obligations.CrossbarMovesAndLatches
  refine ⟨fun n s r t hm hpipe => ?cross, fun c e s b hm hb => ?latch⟩
  case cross =>
    have hgives := gives_of_onFab (c := .crossbarMove n) (fun _ f => crossMove n f) hm rfl
    refine ⟨fun hblocked => by rwa [crossMove_of_blocked hblocked] at hgives, fun hopen => ⟨_, hgives,
      crossMove_pipe_length hpipe hopen, fun c hc => crossMove_clusterOf_unselected hpipe hopen hc, fun c hc hbus => ?_,
      fun c hc hbus hdbuf hwait => ?_, crossMove_store hpipe hopen, crossMove_fences hpipe hopen⟩⟩
    all_goals
      obtain ⟨g, hsame, henter⟩ := crossMove_clusterOf_selected hpipe hopen hc
    · rw [henter, enterCluster_of_taken (by rwa [hsame]), hsame]
    · rw [henter, enterCluster_of_free (by rwa [hsame]) (by rwa [hsame]) (by rwa [waitMask_congr hsame]), waitMask_congr hsame, hsame]
  case latch =>
    have hgives := gives_of_onFab (c := .endpointDeliveryAck c e) (fun _ f => ackDelivery c e f) hm rfl
    have hfree : waitMask (onCluster s.fab c fun y => { y with bus := none }) c = waitMask s.fab c := by
      funext r
      simp [waitMask]
    refine ⟨fun hw => by rwa [ackDelivery_of_not_waited hb hw] at hgives, fun hw hmore => ?_, fun hw hlast hempty => ?_,
      fun r t hw hlast hnext hwait => ?_⟩
    all_goals
      rw [ackDelivery_of_waited hb hw] at hgives
      refine ⟨_, hgives, ?_⟩
    · rw [latchOff_of_more hb hmore]
      exact ⟨onCluster_self .., rfl⟩
    · rw [latchOff_of_last hb hlast, fillBus_of_empty (by simpa using hempty)]
      exact ⟨onCluster_self .., rfl⟩
    · have hbus : (clusterOf (onCluster s.fab c fun y => { y with bus := none }) c).bus = none := by simp
      have hdbuf : (clusterOf (onCluster s.fab c fun y => { y with bus := none }) c).dbuf = r :: t := by simpa using hnext
      have hmask : waitMask (onCluster s.fab c fun y => { y with bus := none }) c r ≠ 0 := by rwa [hfree]
      rw [latchOff_of_last hb hlast, fillBus_next_clusterOf hbus hdbuf hmask, fillBus_next hbus hdbuf hmask, hfree, onCluster_self]
      exact ⟨rfl, rfl⟩

end Sys2Proof.Machine
end

section
/-!
SUPPORT. How a cluster assembles the rows of the collect that it runs, starts its next one and takes a quarter-row (R133 to R137, R163);
then obligation O17.
-/

namespace Sys2Proof.Machine

/-! ### The assembly of rows (R135, R137) -/

/-- Every quarter of the collect's next row has arrived or is a gap (R135). -/
def quartersHere (f : Fab) (c : Nat) (o : OpenCollect) : Bool :=
  (List.range o.need).all fun k => (gotAt o k o.next).isSome || gapAt f c o k

/-- The quarters of the collect's next row that have not arrived. -/
def gapsOf (o : OpenCollect) : List Nat := (List.range o.need).filter fun k => (gotAt o k o.next).isNone

/-- The gaps of the collect's next row counted and reported (R135); `seq` is its descriptor's. -/
def gapsReported (c : Nat) (o : OpenCollect) (f : Fab) : Fab :=
  let seq := match flightOf f o.q o.ord with
    | some x => x.seq.toNat
    | none => 0
  each (gapsOf o) (fun f k => raise 0x0D (place [(0, c), (4, k), (16, o.q), (24, seq), (32, o.next)]) (countCluster c 2 1 f)) f

/-- The collect past its next row. -/
def pastRow (o : OpenCollect) : OpenCollect :=
  { o with
    next := o.next + 1
    got := o.got.filter fun g => g.2.1 != o.next
    expect := (List.range 4).map fun k => if (gapsOf o).contains k then max (o.next + 1) (o.expect.getD k 0) else o.expect.getD k 0 }

/-- The collect's next row as its quarters have arrived. -/
def nextRow (o : OpenCollect) : AsmRow :=
  ⟨o.ord, o.next, gotAt o 0 o.next, gotAt o 1 o.next, gotAt o 2 o.next, gotAt o 3 o.next⟩

/-- The collect's next row assembled into the return buffer. -/
def rowAssembled (c : Nat) (o : OpenCollect) (f : Fab) : Fab :=
  onCluster (gapsReported c o f) c fun y => { y with running := some (pastRow o), ret := y.ret ++ [nextRow o] }

/-- A part of the fabric that events and the count of gaps are no part of, the reports of gaps leave alone. -/
theorem gapsReported_proj {β : Type} (π : Fab → β) {c : Nat} (hraise : ∀ x f, π (raise 0x0D x f) = π f)
    (hcount : ∀ f, π (countCluster c 2 1 f) = π f) (o : OpenCollect) (f : Fab) : π (gapsReported c o f) = π f :=
  each_proj π _ _ (fun f _ _ => (hraise ..).trans (hcount f)) f

@[simp] theorem gapsReported_clusterOf (c : Nat) (o : OpenCollect) (f : Fab) (j : Nat) :
    clusterOf (gapsReported c o f) j = clusterOf f j :=
  gapsReported_proj (clusterOf · j) (by simp [clusterOf]) (by simp [clusterOf]) o f

section
variable {c : Nat} {f : Fab} {o : OpenCollect}

theorem assembleRows_of_none (h : (clusterOf f c).running = none) (n : Nat) : assembleRows c n f = f := by
  cases n with
  | zero => rfl
  | succ n => simp [assembleRows, h]

variable (h : (clusterOf f c).running = some o)
include h

/-- One row after another is assembled, as long as the collect has one whose quarters are here and the return buffer has room. -/
theorem assembleRows_succ (n : Nat) : assembleRows c (n + 1) f =
    if o.rows ≤ o.next || !quartersHere f c o || 32 ≤ returnHeld f c then f else assembleRows c n (rowAssembled c o f) := by
  rw [assembleRows, h]
  rfl

/-- Nothing is assembled while a quarter of the next row is awaited. -/
theorem assembleRows_of_awaited (hq : quartersHere f c o = false) (n : Nat) : assembleRows c n f = f := by
  cases n with
  | zero => rfl
  | succ n => simp [assembleRows_succ h, hq]

end

/-- From cluster `y` to `z` nothing changes but the return buffer and, of the collect that runs, its next row, its quarters held and those
expected. -/
def OnlyAssembled (y z : Cluster) : Prop := ∃ next got expect ret, z =
  { y with running := y.running.map fun o => { o with next := next, got := got, expect := expect }, ret := ret }

theorem OnlyAssembled.refl (y : Cluster) : OnlyAssembled y y := by
  obtain ⟨dbuf, bus, unresp, collects, running, ret⟩ := y
  cases running with
  | none => exact ⟨0, [], [], ret, rfl⟩
  | some o => exact ⟨o.next, o.got, o.expect, ret, rfl⟩

theorem assembleRows_clusterOf (c n : Nat) (f : Fab) : OnlyAssembled (clusterOf f c) (clusterOf (assembleRows c n f) c) := by
  induction n generalizing f with
  | zero => exact .refl _
  | succ n ih =>
    cases hrun : (clusterOf f c).running with
    | none =>
      rw [assembleRows_of_none hrun]
      exact .refl _
    | some o =>
      rw [assembleRows_succ hrun]
      split
      · exact .refl _
      · obtain ⟨next, got, expect, ret, heq⟩ := ih (rowAssembled c o f)
        refine ⟨next, got, expect, ret, heq.trans ?_⟩
        simp [rowAssembled, pastRow, hrun]

/-- A part of the fabric that clusters, events and the count of gaps are no part of, an assembly leaves alone. -/
theorem assembleRows_proj {β : Type} (π : Fab → β) {c : Nat} (hcluster : ∀ f g, π (onCluster f c g) = π f)
    (hraise : ∀ x f, π (raise 0x0D x f) = π f) (hcount : ∀ f, π (countCluster c 2 1 f) = π f) (n : Nat) (f : Fab) :
    π (assembleRows c n f) = π f := by
  induction n generalizing f with
  | zero => rfl
  | succ n ih =>
    cases hrun : (clusterOf f c).running with
    | none => rw [assembleRows_of_none hrun]
    | some o =>
      rw [assembleRows_succ hrun]
      split
      · rfl
      · rw [ih, rowAssembled, hcluster, gapsReported_proj π hraise hcount]

theorem advanceCollect_of_none {c : Nat} {f : Fab} (h : (clusterOf f c).running = none) : advanceCollect c f = f := by
  simp [advanceCollect, assembleRows_of_none h, h]

/-- After the assembly the flight of the collect asks for the credit that it may ask for (R163). -/
theorem advanceCollect_of_some {c : Nat} {f : Fab} {o : OpenCollect} (h : (clusterOf f c).running = some o) :
    advanceCollect c f = askMore o.q o.ord (assembleRows c 256 f) := by
  obtain ⟨next, got, expect, ret, heq⟩ := assembleRows_clusterOf c 256 f
  simp only [advanceCollect, heq, h, Option.map_some]

/-! ### The start of a collect (R133) -/

/-- A part of the fabric that outputs are no part of, a notice leaves alone. -/
theorem notify_proj {β : Type} (π : Fab → β) (hemit : ∀ f o, π (emit f o) = π f) (c : Nat) (slots : List Nat) (data : BitVec 50)
    (mask : Nat → BitVec 4) (f : Fab) : π (notify c slots data mask f) = π f :=
  each_proj π _ _ (fun f _ _ => hemit f _) f

/-- The suppliers of a collect's quarters depend on the cluster's marks alone (R134). -/
theorem suppliersOf_onCluster {c : Nat} {f : Fab} {g : Cluster → Cluster} (h : (g (clusterOf f c)).unresp = (clusterOf f c).unresp)
    (m : BitVec 288) (d : Desc) : suppliersOf (onCluster f c g) c m d = suppliersOf f c m d := by
  have hresp : responsive (onCluster f c g) c = responsive f c := by
    funext e
    simp [responsive, h]
  unfold suppliersOf supplierOf responders
  rw [hresp]
  rfl

/-- The collect of flight `x` as cluster `c` opens it (R133, R134). -/
def openedCollect (f : Fab) (c q ord : Nat) (x : Flight) : OpenCollect :=
  let sup := suppliersOf f c (groupAtIssue x c) x.desc
  ⟨q, ord, sup.length, dRows x.desc, sup, [0, 0, 0, 0], [], 0, [0, 0, 0, 0]⟩

/-- A cluster with no collect running starts its next one. -/
theorem startCollect_opens {c q ord : Nat} {t : List (Nat × Nat)} {x : Flight} {f : Fab} (hrun : (clusterOf f c).running = none)
    (hnext : (clusterOf f c).collects = (q, ord) :: t) (hx : flightOf f q ord = some x) :
    ∃ g, startCollect c f = askMore q ord (assembleRows c 256 g) ∧ g.store = f.store ∧
      clusterOf g c = { clusterOf f c with collects := t, running := some (openedCollect f c q ord x) } := by
  have hx' : flightOf (onCluster f c fun y => { y with collects := t }) q ord = some x := hx
  unfold startCollect
  simp only [hrun, hnext, hx']
  rw [suppliersOf_onCluster (by rfl)]
  generalize hg : notify c _ _ _ _ = g
  have hcluster : clusterOf g c = { clusterOf f c with collects := t } := by
    rw [← hg, notify_proj (clusterOf · c) fun f o => emit_clusterOf f o c, onCluster_self]
  have hstore : g.store = f.store := by
    rw [← hg]
    exact notify_proj Fab.store emit_store ..
  refine ⟨onCluster g c fun y => { y with running := some (openedCollect f c q ord x) },
    advanceCollect_of_some (o := openedCollect f c q ord x) ?_, hstore, ?_⟩
  · rw [onCluster_self]
    rfl
  · rw [onCluster_self, hcluster]

/-! ### A quarter-row returned (R134) -/

/-- Where the MAIN interfaces are alive their inputs are not isolated (R370, R385). -/
theorem onPin_of_main {c : Instr} {s : State} (h : Runs .main s) (r : Host.Outcome State Fault Refusal) : onPin c s r = r := by
  have hst : s.fab.pwr.st ≠ 2 := by
    rintro h2
    simpa [alive, h2] using h.2
  have hlive : isolating s.fab = false := by
    rw [isolating, beq_eq_false_iff_ne.mpr hst]
    rfl
  rw [onPin, hlive]
  rfl

theorem gives_returnQuarterRow {c : Fin 16} {s : State} (h : Runs .main s) (k : Fin 4) (trow : BitVec 8) (d : BitVec 1152) :
    Gives (.returnQuarterRow c k trow d) s (returnQuarter c k trow.toNat d s.fab) :=
  gives_of_onFab (fun _ f => returnQuarter c k trow.toNat d f) h (onPin_of_main h _)

/-- The collect once quarter `k` of its row `i` has arrived. -/
def quarterTaken (o : OpenCollect) (k i : Nat) (d : BitVec 1152) : OpenCollect :=
  { o with got := o.got ++ [(k, i, d)], expect := o.expect.set k (i + 1), rounds := o.rounds.set k 0 }

/-- The fabric once the running collect has taken a quarter-row. -/
def quarterHeld (c : Nat) (o : OpenCollect) (k i : Nat) (d : BitVec 1152) (f : Fab) : Fab :=
  onCluster f c fun y => { y with running := some (quarterTaken o k i d) }

section
variable {c k i e : Nat} {d : BitVec 1152} {f : Fab} {o : OpenCollect} (hrun : (clusterOf f c).running = some o)
  (hsup : o.sup.getD k none = some e) (hresp : responsive f c e = true)
include hrun hsup hresp

theorem returnQuarter_takes (hi : i = o.expect.getD k 0) (hroom : roomFor f c o i = true) :
    returnQuarter c k i d f = askMore o.q o.ord (assembleRows c 256 (quarterHeld c o k i d f)) := by
  have hadvance : returnQuarter c k i d f = advanceCollect c (quarterHeld c o k i d f) := by
    simp only [returnQuarter, hrun, hsup, hresp, hi, bne_self_eq_false, Bool.not_true, Bool.or_self, Bool.false_eq_true, if_false]
    rw [← hi, hroom]
    rfl
  rw [hadvance, advanceCollect_of_some (o := quarterTaken o k i d) (by rw [quarterHeld, onCluster_self])]
  rfl

theorem returnQuarter_out_of_order (hi : i ≠ o.expect.getD k 0) :
    returnQuarter c k i d f = wrongReturn c e (o.expect.getD k 0) i f := by
  simp only [returnQuarter, hrun, hsup, hresp]
  exact if_pos (by simpa using hi)

theorem returnQuarter_withheld (hi : i = o.expect.getD k 0) (hroom : roomFor f c o i = false) : returnQuarter c k i d f = f := by
  simp only [returnQuarter, hrun, hsup, hresp]
  rw [if_neg (by simpa using hi), if_pos (by simp [hroom])]

end

theorem returnQuarter_stray {c k i : Nat} {d : BitVec 1152} {f : Fab}
    (h : (clusterOf f c).running = none ∨ ∃ o, (clusterOf f c).running = some o ∧ o.sup.getD k none = none) :
    returnQuarter c k i d f = strayReturn c i f := by
  rcases h with h | ⟨o, h, hsup⟩
  · simp only [returnQuarter, h]
  · simp only [returnQuarter, h, hsup]

theorem wrongReturn_clusters (c slot x i : Nat) (f : Fab) : (wrongReturn c slot x i f).clusters = f.clusters := by simp [wrongReturn]

theorem wrongReturn_counter (c : Fin 16) (slot x i : Nat) (f : Fab) :
    counterOf (wrongReturn c slot x i f) (0x8140 + c) 3 = counterOf f (0x8140 + c) 3 + 1 :=
  (raiseWith_counter _ _ _ _ _ (by unfold cKey; omega) (by unfold cKey; omega)).trans
    (count_self _ _ _ _ (by unfold cKey; omega) (by unfold cKey; omega))

/-! ### What is assembled of a quarter-row taken -/

/-- A quarter that has not arrived does not arrive with another. -/
theorem gotAt_quarterTaken_ne {o : OpenCollect} {k k' i j : Nat} (d : BitVec 1152) (hne : k' ≠ k) :
    gotAt (quarterTaken o k i d) k' j = gotAt o k' j := by
  simp [gotAt, quarterTaken, List.find?_append, hne.symm]

theorem gapAt_onCluster {c k : Nat} {f : Fab} {g : Cluster → Cluster} (h : (g (clusterOf f c)).unresp = (clusterOf f c).unresp)
    (o : OpenCollect) : gapAt (onCluster f c g) c o k = gapAt f c o k := by
  simp [gapAt, responsive, h]

/-- A row that awaits another quarter is not assembled. -/
theorem quartersHere_quarterHeld {c k k' i : Nat} {d : BitVec 1152} {f : Fab} {o : OpenCollect} (hk : k' < o.need) (hne : k' ≠ k)
    (hgot : gotAt o k' o.next = none) (hgap : gapAt f c o k' = false) :
    quartersHere (quarterHeld c o k i d f) c (quarterTaken o k i d) = false := by
  refine List.all_eq_false.mpr ⟨k', List.mem_range.mpr hk, ?_⟩
  have hgot' : gotAt (quarterTaken o k i d) k' (quarterTaken o k i d).next = none := (gotAt_quarterTaken_ne d hne).trans hgot
  have hgap' : gapAt (quarterHeld c o k i d f) c (quarterTaken o k i d) k' = false := (gapAt_onCluster (by rfl) _).trans hgap
  simp [hgot', hgap']

/-- Rows held in the return buffer depend on it and on the flight that takes them (R137). -/
theorem returnHeld_quarterHeld {c k i : Nat} {d : BitVec 1152} {f : Fab} {o : OpenCollect} (hrun : (clusterOf f c).running = some o) :
    returnHeld (quarterHeld c o k i d f) c = returnHeld f c := by
  simp only [returnHeld, quarterHeld, onCluster_self, hrun]
  rfl

section
variable {c e : Nat} {d : BitVec 1152} {f : Fab} {o : OpenCollect} (hrun : (clusterOf f c).running = some o)
  (hsup : o.sup.getD 0 none = some e) (hresp : responsive f c e = true) (hneed : o.need = 1) (hgot : o.got = [])
include hneed hgot

omit hneed in
theorem nextRow_of_one_quarter : nextRow (quarterTaken o 0 o.next d) = ⟨o.ord, o.next, some d, none, none, none⟩ := by
  simp [nextRow, quarterTaken, gotAt, hgot]

theorem gapsOf_of_one_quarter : gapsOf (quarterTaken o 0 o.next d) = [] := by
  simp [gapsOf, quarterTaken, gotAt, hgot, hneed]

include hrun hsup hresp

/-- The single quarter of a collect's row completes it: the row stands in the return buffer and the next is awaited (R135, R137). -/
theorem assembleRows_of_one_quarter (hnext : o.next < o.rows) (hroom : returnHeld f c < 32) (n : Nat) :
    clusterOf (assembleRows c (n + 1) (quarterHeld c o 0 o.next d f)) c =
      { clusterOf f c with
        running := some (pastRow (quarterTaken o 0 o.next d))
        ret := (clusterOf f c).ret ++ [⟨o.ord, o.next, some d, none, none, none⟩] } := by
  have hrun1 : (clusterOf (quarterHeld c o 0 o.next d f) c).running = some (quarterTaken o 0 o.next d) := by
    rw [quarterHeld, onCluster_self]
  have hhere : quartersHere (quarterHeld c o 0 o.next d f) c (quarterTaken o 0 o.next d) = true := by
    simp [quartersHere, quarterTaken, gotAt, hgot, hneed]
  have hrow : clusterOf (rowAssembled c (quarterTaken o 0 o.next d) (quarterHeld c o 0 o.next d f)) c =
      { clusterOf f c with
        running := some (pastRow (quarterTaken o 0 o.next d))
        ret := (clusterOf f c).ret ++ [⟨o.ord, o.next, some d, none, none, none⟩] } := by
    rw [rowAssembled, onCluster_self, gapsReported_clusterOf, nextRow_of_one_quarter hgot, quarterHeld, onCluster_self]
  have hawaited : quartersHere (rowAssembled c (quarterTaken o 0 o.next d) (quarterHeld c o 0 o.next d f)) c
      (pastRow (quarterTaken o 0 o.next d)) = false := by
    refine List.all_eq_false.mpr ⟨0, List.mem_range.mpr (by simp [pastRow, quarterTaken, hneed]), ?_⟩
    have hnone : gotAt (pastRow (quarterTaken o 0 o.next d)) 0 (pastRow (quarterTaken o 0 o.next d)).next = none := by
      simp [gotAt, pastRow, quarterTaken, hgot]
    have hgap : gapAt (rowAssembled c (quarterTaken o 0 o.next d) (quarterHeld c o 0 o.next d f)) c
        (pastRow (quarterTaken o 0 o.next d)) 0 = false := by
      rw [gapAt, show (pastRow (quarterTaken o 0 o.next d)).sup = o.sup from rfl, hsup]
      simpa [responsive, hrow] using hresp
    simp [hnone, hgap]
  rw [assembleRows_succ hrun1, if_neg, assembleRows_of_awaited (by rw [hrow]) hawaited, hrow]
  rw [returnHeld_quarterHeld hrun, hhere]
  simp [quarterTaken, Nat.not_le.mpr hnext, Nat.not_le.mpr hroom]

end

/-- Settles O17: a collect starts as `startCollect_opens` says, and a quarter-row returned is taken, discarded or withheld. -/
theorem collectsRunInOrder : Obligations.CollectsRunInOrder := by
  unfold Obligations.CollectsRunInOrder
  refine fun c s hm => ⟨fun q ord t x hrun hnext hx => ?starts, fun k trow d o e hrun hsup hresp =>
    ⟨fun hi hroom ⟨k', hk, hne, hgot, hgap⟩ => ?awaits, fun hi hroom hneed hk hgot hnext hrows hheld => ?completes,
      fun hi => ?outOfOrder, fun hi hroom => ?withheld⟩, fun k trow d h => ?stray⟩
  case starts =>
    obtain ⟨g, hstart, hstore, hcluster⟩ := startCollect_opens hrun hnext hx
    obtain ⟨next, got, expect, ret, hafter⟩ := assembleRows_clusterOf c 256 g
    rw [hcluster] at hafter
    have hgives := gives_of_onFab (c := .collectStart c) (fun _ f => startCollect c f) hm rfl
    rw [hstart] at hgives
    refine ⟨_, _, hgives, by rw [hafter], by rw [hafter]; rfl, rfl, rfl, rfl, rfl, rfl, ?_⟩
    rw [assembleRows_proj Fab.store (by simp) (by simp) (by simp), hstore]
  all_goals try have hgives := gives_returnQuarterRow (c := c) hm k trow d
  case awaits =>
    rw [returnQuarter_takes hrun hsup hresp hi hroom,
      assembleRows_of_awaited (by rw [quarterHeld, onCluster_self]) (quartersHere_quarterHeld hk hne hgot hgap)] at hgives
    have hheld : clusterOf (quarterHeld c o k trow.toNat d s.fab) c =
        { clusterOf s.fab c with running := some (quarterTaken o k trow.toNat d) } := onCluster_self ..
    exact ⟨_, hgives, by rw [hheld], quarterTaken o k trow.toNat d, by rw [hheld], rfl, rfl, rfl⟩
  case completes =>
    subst hk
    rw [returnQuarter_takes hrun hsup hresp hi hroom, ← hnext] at hgives
    have hafter := assembleRows_of_one_quarter (d := d) hrun hsup hresp hneed hgot hrows hheld 255
    refine ⟨_, hgives, by rw [← hnext]; exact congrArg Cluster.ret hafter, _, congrArg Cluster.running hafter, rfl, ?_⟩
    simp [pastRow, quarterTaken, hgot]
  case outOfOrder =>
    rw [returnQuarter_out_of_order hrun hsup hresp hi] at hgives
    exact ⟨_, hgives, wrongReturn_clusters .., wrongReturn_counter ..⟩
  case withheld =>
    rwa [returnQuarter_withheld hrun hsup hresp hi hroom] at hgives
  case stray =>
    rw [returnQuarter_stray h] at hgives
    exact ⟨_, hgives, wrongReturn_clusters .., wrongReturn_counter ..⟩

end Sys2Proof.Machine
end

section
/-!
SUPPORT. What marks an endpoint unresponsive, what the mark changes, and what clears it (R125, R147, R394); then obligation O18.
-/

namespace Sys2Proof.Machine

/-! ### The bus and the mark of a cluster -/

/-- A cluster that fills its bus changes its bus and its delivery buffer alone. -/
theorem fillBus_clusterOf (c n : Nat) (f : Fab) :
    ∃ bus dbuf, clusterOf (fillBus c n f) c = { clusterOf f c with bus := bus, dbuf := dbuf } := by
  induction n generalizing f with
  | zero => exact ⟨_, _, rfl⟩
  | succ n ih =>
    unfold fillBus
    dsimp only
    split
    · split
      · obtain ⟨bus, dbuf, h⟩ := ih (countCluster c 1 1 (onCluster f c fun y => { y with dbuf := _ }))
        refine ⟨bus, dbuf, h.trans ?_⟩
        rw [clusterOf, countCluster_clusters, ← clusterOf, onCluster_self]
      · exact ⟨_, _, by rw [emit_clusterOf, onCluster_self, onCluster_self]⟩
    · exact ⟨_, _, rfl⟩

theorem latchOff_of_none {c : Nat} {f : Fab} (h : (clusterOf f c).bus = none) (e : Nat) : latchOff c e f = f := by simp [latchOff, h]

/-- So does one whose row is latched. -/
theorem latchOff_clusterOf (c e : Nat) (f : Fab) :
    ∃ bus dbuf, clusterOf (latchOff c e f) c = { clusterOf f c with bus := bus, dbuf := dbuf } := by
  cases hb : (clusterOf f c).bus with
  | none => exact ⟨none, (clusterOf f c).dbuf, by rw [latchOff_of_none hb, ← hb]⟩
  | some b =>
    by_cases hm : putBit b.wait e false = 0
    · obtain ⟨bus, dbuf, h⟩ := fillBus_clusterOf c 3 (onCluster f c fun y => { y with bus := none })
      exact ⟨bus, dbuf, by rw [latchOff_of_last hb hm, h, onCluster_self]⟩
    · exact ⟨_, (clusterOf f c).dbuf, by rw [latchOff_of_more hb hm, onCluster_self]⟩

/-- A part of the fabric that clusters, the count of rows for no one and outputs are no part of, a latching leaves alone. -/
theorem latchOff_proj {β : Type} (π : Fab → β) {c : Nat} (hcluster : ∀ f g, π (onCluster f c g) = π f)
    (hcount : ∀ f, π (countCluster c 1 1 f) = π f) (hemit : ∀ f o, π (emit f o) = π f) (e : Nat) (f : Fab) :
    π (latchOff c e f) = π f := by
  unfold latchOff
  split
  · rfl
  · dsimp only
    split
    · rw [fillBus_proj π hcluster hcount hemit, hcluster]
    · rw [hcluster]

/-- Another count of a cluster leaves its count of unresponsive marks (R293). -/
theorem countCluster_marks {c sub n : Nat} (f : Fab) (hc : c < 16) (hne : sub ≠ 4) :
    counterOf (countCluster c sub n f) (0x8140 + c) 4 = counterOf f (0x8140 + c) 4 :=
  count_ne _ _ _ _ (by unfold cKey; omega) (by unfold cKey; omega) (by unfold cKey; omega)

theorem raise_marks {c : Nat} (code x : Nat) (f : Fab) (hc : c < 16) :
    counterOf (raise code x f) (0x8140 + c) 4 = counterOf f (0x8140 + c) 4 :=
  raiseWith_counter _ _ _ _ _ (by unfold cKey; omega) (by unfold cKey; omega)

theorem latchOff_marks {c : Nat} (hc : c < 16) (e : Nat) (f : Fab) :
    counterOf (latchOff c e f) (0x8140 + c) 4 = counterOf f (0x8140 + c) 4 :=
  latchOff_proj (fun f => counterOf f (0x8140 + c) 4) (fun _ _ => rfl) (fun f => countCluster_marks f hc (by decide))
    (fun _ _ => rfl) e f

theorem assembleRows_marks {c : Nat} (hc : c < 16) (n : Nat) (f : Fab) :
    counterOf (assembleRows c n f) (0x8140 + c) 4 = counterOf f (0x8140 + c) 4 :=
  assembleRows_proj (fun f => counterOf f (0x8140 + c) 4) (fun _ _ => rfl) (fun x f => raise_marks _ x f hc)
    (fun f => countCluster_marks f hc (by decide)) n f

/-- The mark set, counted and reported (R125); `x` is what the event carries. -/
def marked (c e x : Nat) (f : Fab) : Fab :=
  raise 0x0C x (countCluster c 4 1 (onCluster f c fun y =>
    { y with unresp := putBit y.unresp e true, running := y.running.map (forgetRounds e) }))

theorem marked_clusterOf (c e x : Nat) (f : Fab) : clusterOf (marked c e x f) c =
    { clusterOf f c with unresp := putBit (clusterOf f c).unresp e true, running := (clusterOf f c).running.map (forgetRounds e) } := by
  rw [marked, clusterOf, raise_clusters, countCluster_clusters, ← clusterOf, onCluster_self]

theorem marked_counter {c : Nat} (hc : c < 16) (e x : Nat) (f : Fab) :
    counterOf (marked c e x f) (0x8140 + c) 4 = counterOf f (0x8140 + c) 4 + 1 :=
  (raise_marks _ _ _ hc).trans (count_self _ _ _ _ (by unfold cKey; omega) (by unfold cKey; omega))

theorem markEndpoint_eq (c e q seq kind : Nat) (f : Fab) :
    ∃ x, markEndpoint c e q seq kind f = advanceCollect c (latchOff c e (marked c e x f)) :=
  ⟨_, rfl⟩

/-! ### Which endpoints are marked (R125, R394) -/

theorem unresponsive_of_marked {c e : Nat} {f : Fab} (h : responsive f c e = false) : unresponsive c e f = f := by
  simp [unresponsive, h]

theorem unresponsive_of_in_time {c e : Nat} {f : Fab} (hquarter : lateQuarter f c e = none)
    (hbus : ∀ b, (clusterOf f c).bus = some b → b.rounds < 2) : unresponsive c e f = f := by
  unfold unresponsive
  split
  · rfl
  · cases hb : (clusterOf f c).bus with
    | none => simp only [hquarter]
    | some b => simp [hquarter, Nat.not_le.mpr (hbus b hb)]

section
variable {c e : Nat} {f : Fab} (hresp : responsive f c e = true)
include hresp

/-- An endpoint that has not latched a row across two rounds, where no collect runs. -/
theorem unresponsive_of_late_row {b : BusRow} (hb : (clusterOf f c).bus = some b) (hwait : bitAt b.wait e = true) (hlate : 2 ≤ b.rounds)
    (hrun : (clusterOf f c).running = none) : ∃ x, unresponsive c e f = latchOff c e (marked c e x f) := by
  have hmark : ∃ x, unresponsive c e f = advanceCollect c (latchOff c e (marked c e x f)) := by
    simp only [unresponsive, hresp, hb, hwait, hlate, Bool.not_true, Bool.false_eq_true, if_false, decide_true, Bool.and_self, if_true]
    exact markEndpoint_eq ..
  obtain ⟨x, hx⟩ := hmark
  obtain ⟨bus, dbuf, hcluster⟩ := latchOff_clusterOf c e (marked c e x f)
  refine ⟨x, hx.trans (advanceCollect_of_none ?_)⟩
  rw [hcluster, marked_clusterOf, hrun]
  rfl

/-- An endpoint that has not returned a quarter-row across two rounds, where no row is on the bus. -/
theorem unresponsive_of_late_quarter {o : OpenCollect} (hb : (clusterOf f c).bus = none) (hlate : lateQuarter f c e = some o) :
    ∃ x, unresponsive c e f = askMore o.q o.ord (assembleRows c 256 (marked c e x f)) := by
  have hrun : (clusterOf f c).running = some o := by
    unfold lateQuarter at hlate
    split at hlate
    · split at hlate
      · next h _ => exact h.trans hlate
      · cases hlate
    · cases hlate
  have hmark : ∃ x, unresponsive c e f = advanceCollect c (latchOff c e (marked c e x f)) := by
    simp only [unresponsive, hresp, hb, hlate, Bool.not_true, Bool.false_eq_true, if_false]
    exact markEndpoint_eq ..
  obtain ⟨x, hx⟩ := hmark
  have hcluster := marked_clusterOf c e x f
  refine ⟨x, hx.trans ?_⟩
  rw [latchOff_of_none (by rw [hcluster]; exact hb), advanceCollect_of_some (o := forgetRounds e o) (by rw [hcluster, hrun]; rfl)]
  rfl

end

/-! ### Marks cleared (R147) -/

/-- A mark cleared, and RELEASE sent (R125). -/
def markCleared (c : Nat) (f : Fab) (e : Nat) : Fab :=
  notify c [e] (noticeData 3 0 0 0 0 0 e) (fun _ => 0) (onCluster f c fun y => { y with unresp := putBit y.unresp e false })

theorem markCleared_clusterOf (c : Nat) (f : Fab) (e j : Nat) :
    clusterOf (markCleared c f e) j = clusterOf (onCluster f c fun y => { y with unresp := putBit y.unresp e false }) j :=
  notify_proj (clusterOf · j) (fun f o => emit_clusterOf f o j) ..

/-- The marks left once those of a list are cleared. -/
theorem marksCleared_unresp {c : Nat} {l : List Nat} (hl : ∀ e ∈ l, e < 256) (f : Fab) (e : Nat) :
    bitAt (clusterOf (each l (markCleared c) f) c).unresp e = (bitAt (clusterOf f c).unresp e && !decide (e ∈ l)) := by
  induction l generalizing f with
  | nil => simp [Machine.each]
  | cons a t ih =>
    obtain ⟨ha, ht⟩ := List.forall_mem_cons.mp hl
    rw [each_cons, ih ht, markCleared_clusterOf, onCluster_self, bitAt_putBit _ _ _ ha]
    by_cases h : e = a <;> simp [h]

/-- The slots whose marks a write of `UNRESPONSIVE_k` clears. -/
def slotsCleared (c k : Nat) (v : BitVec 64) (f : Fab) : List Nat :=
  ((bitsSet v).map fun j => 64 * k + j).filter fun e => bitAt (clusterOf f c).unresp e

theorem clearMarks_eq (c k : Nat) (v : BitVec 64) (f : Fab) : clearMarks c k v f = each (slotsCleared c k v f) (markCleared c) f := rfl

theorem mem_slotsCleared {c k e : Nat} {v : BitVec 64} {f : Fab} : e ∈ slotsCleared c k v f ↔
    (64 * k ≤ e ∧ bitAt v (e - 64 * k) = true) ∧ bitAt (clusterOf f c).unresp e = true := by
  rw [slotsCleared, List.mem_filter, List.mem_map]
  refine and_congr_left fun _ => ⟨?_, fun ⟨hle, hbit⟩ => ⟨e - 64 * k, (mem_bitsSet ..).mpr hbit, by omega⟩⟩
  rintro ⟨j, hj, rfl⟩
  exact ⟨by omega, by rw [Nat.add_sub_cancel_left]; exact (mem_bitsSet ..).mp hj⟩

/-- A set bit lies within its word. -/
theorem lt_of_bitAt {n i : Nat} {x : BitVec n} (h : bitAt x i = true) : i < n := by
  by_contra hi
  rw [bitAt, BitVec.getLsbD_of_ge _ _ (Nat.not_lt.mp hi)] at h
  cases h

/-- Each mark of the 64 that is written 1 is cleared, and no other (R147). -/
theorem clearMarks_unresp (c : Nat) (k : Nat) (v : BitVec 64) (f : Fab) (e : Nat) :
    bitAt (clusterOf (clearMarks c k v f) c).unresp e =
      (bitAt (clusterOf f c).unresp e && !(decide (64 * k ≤ e) && bitAt v (e - 64 * k))) := by
  rw [clearMarks_eq, marksCleared_unresp fun e he => lt_of_bitAt (mem_slotsCleared.mp he).2]
  cases hmark : bitAt (clusterOf f c).unresp e
  · rfl
  · simp [mem_slotsCleared, hmark]

theorem clearMarks_clusterOf_ne {c k j : Nat} {v : BitVec 64} {f : Fab} (h : j ≠ c) :
    clusterOf (clearMarks c k v f) j = clusterOf f j :=
  each_proj (clusterOf · j) _ _ (fun f e _ => (markCleared_clusterOf c f e j).trans (onCluster_ne _ _ _ _ h)) f

/-- Settles O18: an endpoint late with a row, late with a quarter-row, or neither, and the marks that a write clears. -/
theorem unresponsiveMarks : Obligations.UnresponsiveMarks := by
  unfold Obligations.UnresponsiveMarks
  refine fun c s => ⟨fun e b hm hresp hb ⟨hwait, hlate⟩ hrun => ?lateRow, fun e o hm hresp hb hlate => ?lateQuarter,
    fun e hm h => ?inTime, fun k v hm hst => ?cleared⟩
  case lateRow =>
    obtain ⟨x, hx⟩ := unresponsive_of_late_row hresp hb hwait hlate hrun
    obtain ⟨bus, dbuf, hcluster⟩ := latchOff_clusterOf c e (marked c e x s.fab)
    have hgives := gives_of_onFab (c := .endpointUnresponsive c e) (fun _ f => unresponsive c e f) hm rfl
    rw [hx] at hgives
    refine ⟨_, hgives, by rw [hcluster, marked_clusterOf], by rw [latchOff_marks c.isLt, marked_counter c.isLt], fun hmore => ?_⟩
    rw [latchOff_of_more (b := b) (by rw [marked_clusterOf]; exact hb) hmore, onCluster_self]
  case lateQuarter =>
    obtain ⟨x, hx⟩ := unresponsive_of_late_quarter hresp hb hlate
    obtain ⟨next, got, expect, ret, hcluster⟩ := assembleRows_clusterOf c 256 (marked c e x s.fab)
    rw [marked_clusterOf] at hcluster
    have hgives := gives_of_onFab (c := .endpointUnresponsive c e) (fun _ f => unresponsive c e f) hm rfl
    rw [hx] at hgives
    refine ⟨_, hgives, by rw [hcluster], by rw [assembleRows_marks c.isLt, marked_counter c.isLt], fun e' hne => ?_⟩
    rw [responsive, hcluster, bitAt_putBit _ _ _ e.isLt, if_neg hne, responsive]
  case inTime =>
    have hgives := gives_of_onFab (c := .endpointUnresponsive c e) (fun _ f => unresponsive c e f) hm rfl
    rcases h with hmarked | ⟨hquarter, hbus⟩
    · rwa [unresponsive_of_marked hmarked] at hgives
    · rwa [unresponsive_of_in_time hquarter hbus] at hgives
  case cleared =>
    have hgives := gives_of_onFab (c := .unresponsiveClear c k v) (fun _ f => byWrite (fun f => (0, clearMarks c k v f)) f) hm rfl
    rw [byWrite, if_neg hst] at hgives
    exact ⟨_, hgives, fun e _ => clearMarks_unresp c k v s.fab e, fun j hne => clearMarks_clusterOf_ne hne⟩

end Sys2Proof.Machine
end

section
/-!
SUPPORT. The counters beside the fabric's other parts, and what routes depend on (R168, R170, R291).
-/

namespace Sys2Proof.Machine

/-! ### Links and queues under reports -/

@[simp] theorem raise_linkOf (c x : Nat) (f : Fab) (k : Nat) : linkOf (raise c x f) k = linkOf f k := by simp [linkOf]
@[simp] theorem countLink_linkOf (j sub n : Nat) (f : Fab) (k : Nat) : linkOf (countLink j sub n f) k = linkOf f k := by simp [linkOf]
@[simp] theorem countInst_linkOf (sub n : Nat) (f : Fab) (k : Nat) : linkOf (countInst sub n f) k = linkOf f k := by simp [linkOf]
@[simp] theorem raise_laneAt (c x : Nat) (f : Fab) (i : Nat) : laneAt (raise c x f) i = laneAt f i := by simp [laneAt]
@[simp] theorem countLink_laneAt (j sub n : Nat) (f : Fab) (i : Nat) : laneAt (countLink j sub n f) i = laneAt f i := by simp [laneAt]
@[simp] theorem raise_queueOf (c x : Nat) (f : Fab) (q : Nat) : queueOf (raise c x f) q = queueOf f q := by simp [queueOf]
@[simp] theorem countInst_queueOf (sub n : Nat) (f : Fab) (q : Nat) : queueOf (countInst sub n f) q = queueOf f q := by simp [queueOf]

@[simp] theorem onLink_counterOf (f : Fab) (k : Nat) (g : Link → Link) (x y : Nat) : counterOf (onLink f k g) x y = counterOf f x y := rfl
@[simp] theorem onLane_counterOf (f : Fab) (i : Nat) (g : Lane → Lane) (x y : Nat) : counterOf (onLane f i g) x y = counterOf f x y := rfl
@[simp] theorem onDom_counterOf (f : Fab) (g : Domain → Domain) (x y : Nat) : counterOf (onDom f g) x y = counterOf f x y := rfl
@[simp] theorem emit_counterOf (f : Fab) (o : Output) (x y : Nat) : counterOf (emit f o) x y = counterOf f x y := rfl

/-! ### Counters of links and of the chip (R293) -/

/-- An event is counted at places 0x1C and 0x1D of the chip alone. -/
theorem raise_counter {x y : Nat} (c p : Nat) (f : Fab) (hy : y < 0x1C) : counterOf (raise c p f) x y = counterOf f x y :=
  raiseWith_counter _ _ _ _ _ (by unfold cKey; omega) (by unfold cKey; omega)

/-- What a count adds to a counter below those places. -/
theorem count_counter {a b x y n : Nat} (f : Fab) (hy : y < 0x1C) (hb : b < 256) :
    counterOf (count a b n f) x y = counterOf f x y + BitVec.ofNat 64 (if x = a ∧ y = b then n else 0) := by
  by_cases he : x = a ∧ y = b
  · rw [if_pos he, ← he.1, ← he.2]
    exact count_self _ _ _ _ (by unfold cKey; omega) (by unfold cKey; omega)
  · rw [if_neg he, count_ne _ _ _ _ (by unfold cKey; omega) (by unfold cKey; omega) (by unfold cKey; omega)]
    simp

/-- A count leaves every other counter below those places. -/
theorem count_other {a b x y n : Nat} (f : Fab) (hy : y < 0x1C) (hb : b < 256) (h : x ≠ a ∨ y ≠ b) :
    counterOf (count a b n f) x y = counterOf f x y := by
  rw [count_counter f hy hb, if_neg (by tauto)]
  simp

/-! ### What routes depend on -/

/-- The package map, the links' states and partners, and what other dies and the route table tell (R167 to R170). -/
def routePart (f : Fab) : Params × (Nat → LinkState × BitVec 16) × List Nat × Tbl (BitVec 16) × Bool × Tbl (BitVec 64) × BitVec 13 :=
  (f.prm, fun k => ((linkOf f k).st, (linkOf f k).partner), f.dom.knownDown, f.dom.exits, f.dom.routeInUse, f.dom.route, f.dom.package)

section
variable {f g : Fab} (h : routePart g = routePart f)
include h

theorem prm_of_routePart : g.prm = f.prm := congrArg (·.1) h
theorem st_of_routePart (k : Nat) : (linkOf g k).st = (linkOf f k).st := congrArg (fun p => (p.2.1 k).1) h
theorem partner_of_routePart (k : Nat) : (linkOf g k).partner = (linkOf f k).partner := congrArg (fun p => (p.2.1 k).2) h

theorem instanceId_of_routePart : instanceId g = instanceId f := by
  have hpkg : g.dom.package = f.dom.package := congrArg (fun p => p.2.2.2.2.2.2) h
  rw [instanceId, instanceId, prm_of_routePart h, hpkg]

theorem linkUp_of_routePart (k : Nat) : linkUp g k = linkUp f k := by rw [linkUp, linkUp, st_of_routePart h]
theorem carries_of_routePart (k : Nat) : carries g k = carries f k := by rw [carries, carries, st_of_routePart h]

theorem endUp_of_routePart (d k : Nat) : endUp g d k = endUp f d k := by
  have hdown : g.dom.knownDown = f.dom.knownDown := congrArg (fun p => p.2.2.1) h
  rw [endUp, endUp, prm_of_routePart h, carries_of_routePart h, hdown]

theorem spanUp_of_routePart : spanUp g = spanUp f := by
  funext d k
  simp only [spanUp, endUp_of_routePart h, spanDie, spanPort, spanEntry, prm_of_routePart h]

theorem distTo_of_routePart (t : Nat) : distTo g t = distTo f t := by
  have hrelax : relaxDist g = relaxDist f := by
    funext t l
    simp only [relaxDist, spanUp_of_routePart h, spanDie, spanEntry, prm_of_routePart h]
  have htimes : ∀ n l, relaxTimes g t n l = relaxTimes f t n l := by
    intro n
    induction n with
    | zero => exact fun _ => rfl
    | succ n ih => intro l; rw [relaxTimes, relaxTimes, hrelax, ih]
  rw [distTo, distTo, htimes]

theorem spanTo_of_routePart (t : Nat) : spanTo g t = spanTo f t := by
  simp only [spanTo, distTo_of_routePart h, spanUp_of_routePart h, spanDie, spanEntry, prm_of_routePart h]

/-- The route to a chip, and the mismatches met, depend on no more. -/
theorem routeTo_of_routePart (n : Nat) : routeTo g n = routeTo f n := by
  have hexits : g.dom.exits = f.dom.exits := congrArg (fun p => p.2.2.2.1) h
  have huse : g.dom.routeInUse = f.dom.routeInUse := congrArg (fun p => p.2.2.2.2.1) h
  have htable : g.dom.route = f.dom.route := congrArg (fun p => p.2.2.2.2.2.1) h
  have hjudge : judgeRoute g = judgeRoute f := by
    funext v d p
    simp only [judgeRoute, exitOf, portToward, carries_of_routePart h, partner_of_routePart h, spanTo_of_routePart h, prm_of_routePart h, hexits]
  simp only [routeTo, instanceId_of_routePart h, spanTo_of_routePart h, prm_of_routePart h, hjudge, huse, htable]

end

/-- A change of a link that keeps its state and its partner changes no route. -/
theorem onLink_routePart {k : Nat} {u : Link → Link} {f : Fab} (hst : (u (linkOf f k)).st = (linkOf f k).st)
    (hpartner : (u (linkOf f k)).partner = (linkOf f k).partner) : routePart (onLink f k u) = routePart f := by
  have hlinks : (fun j => ((linkOf (onLink f k u) j).st, (linkOf (onLink f k u) j).partner)) =
      fun j => ((linkOf f j).st, (linkOf f j).partner) := by
    funext j
    by_cases hj : j = k
    · rw [hj, onLink_self, hst, hpartner]
    · rw [onLink_ne _ _ _ _ hj]
  exact congrArg (fun l => (f.prm, l, f.dom.knownDown, f.dom.exits, f.dom.routeInUse, f.dom.route, f.dom.package)) hlinks

theorem SameButReports.routePart_eq {f g : Fab} (h : SameButReports f g) : routePart g = routePart f := by
  simp only [routePart, linkOf, h.prm_eq, h.links_eq, h.dom_eq]

@[simp] theorem countLink_routePart (k sub n : Nat) (f : Fab) : routePart (countLink k sub n f) = routePart f :=
  (count_same ..).routePart_eq
@[simp] theorem countInst_routePart (sub n : Nat) (f : Fab) : routePart (countInst sub n f) = routePart f :=
  (count_same ..).routePart_eq

theorem findRoute_of_some {n j : Nat} {f : Fab} (h : (routeTo f n).1 = some j) :
    findRoute n f = (some j, countInst 3 (routeTo f n).2 f) := by rw [findRoute, h]

theorem findRoute_of_none {n : Nat} {f : Fab} (h : (routeTo f n).1 = none) :
    findRoute n f = (none, countInst 3 (routeTo f n).2 f) := by rw [findRoute, h]

end Sys2Proof.Machine
end

section
/-!
SUPPORT. A flit received: what is done with it, and what that leaves of its link (R154, R155, R158, R159, R170); then obligation O19.
-/

namespace Sys2Proof.Machine

/-- What is done with a flit leaves of a link: the numbers expected and acknowledged, and the count of flits received. -/
def sequencePart (k : Nat) (f : Fab) : BitVec 10 × BitVec 10 × BitVec 64 :=
  ((linkOf f k).expect, (linkOf f k).ackSeq, counterOf f (0x8300 + k) 2)

theorem onLink_sequencePart {j : Nat} {u : Link → Link} {f : Fab} (hexpect : (u (linkOf f j)).expect = (linkOf f j).expect)
    (hack : (u (linkOf f j)).ackSeq = (linkOf f j).ackSeq) (k : Nat) : sequencePart k (onLink f j u) = sequencePart k f := by
  by_cases hj : k = j
  · rw [hj, sequencePart, onLink_self, hexpect, hack, onLink_counterOf, ← sequencePart]
  · rw [sequencePart, onLink_ne _ _ _ _ hj, onLink_counterOf, ← sequencePart]

theorem raise_sequencePart (c x k : Nat) (f : Fab) : sequencePart k (raise c x f) = sequencePart k f := by
  simp [sequencePart, raise_counter]

theorem countInst_sequencePart (sub n : Nat) (hs : sub < 256) {k : Nat} (hk : k < 5) (f : Fab) :
    sequencePart k (countInst sub n f) = sequencePart k f := by
  have hcount : counterOf (countInst sub n f) (0x8300 + k) 2 = counterOf f (0x8300 + k) 2 :=
    count_other f (by decide) hs (.inl (by omega))
  simp [sequencePart, hcount]

theorem countLink_sequencePart (j sub n : Nat) (hs : sub < 256) (hne : sub ≠ 2) (k : Nat) (f : Fab) :
    sequencePart k (countLink j sub n f) = sequencePart k f := by
  have hcount : counterOf (countLink j sub n f) (0x8300 + k) 2 = counterOf f (0x8300 + k) 2 :=
    count_other f (by decide) hs (.inr hne.symm)
  simp [sequencePart, hcount]

theorem queueFlit_sequencePart (j : Nat) (t : TxFlit) (k : Nat) (f : Fab) : sequencePart k (queueFlit j t f) = sequencePart k f :=
  onLink_sequencePart rfl rfl k

theorem freeOrigin_sequencePart (o : Option (Nat × Nat × Nat × Bool)) (k : Nat) (f : Fab) :
    sequencePart k (freeOrigin o f) = sequencePart k f := by
  unfold freeOrigin
  split
  · split
    · rfl
    · exact onLink_sequencePart rfl rfl k
  · rfl

theorem sinkMessages_sequencePart (j : Nat) (b : BitVec 4672) (k : Nat) (f : Fab) :
    sequencePart k (sinkMessages j b f) = sequencePart k f := by
  refine each_proj _ _ _ (fun f i _ => ?_) f
  dsimp only
  split
  · rfl
  · exact countLink_sequencePart _ _ _ (by decide) (by decide) _ _

theorem sinkRow_sequencePart (j : Nat) (b : BitVec 4672) {k : Nat} (hk : k < 5) (f : Fab) :
    sequencePart k (sinkRow j b f) = sequencePart k f := by
  unfold sinkRow
  split
  · exact countInst_sequencePart _ _ (by decide) hk _
  · split
    · exact countInst_sequencePart _ _ (by decide) hk _
    · rfl

/-! ### What is done with a flit in sequence (R158, R170) -/

section
variable {k j : Nat} {b : BitVec 4672} {pool : Bool} {f : Fab}

/-- The buffer a flit took is free again. -/
def bufferFreed (k : Nat) (b : BitVec 4672) (pool : Bool) (f : Fab) : Fab := freeOrigin (some (k, fVc b, fHops b, pool)) f

theorem bufferFreed_dom : (bufferFreed k b pool f).dom = f.dom := by
  unfold bufferFreed freeOrigin
  dsimp only
  split <;> rfl

theorem bufferFreed_counterOf (x y : Nat) : counterOf (bufferFreed k b pool f) x y = counterOf f x y := by
  unfold bufferFreed freeOrigin
  dsimp only
  split <;> rfl

theorem takeFlit_messages (hdest : fDest b = (instanceId f).toNat) (htype : fType b = 3) :
    takeFlit k b pool f = bufferFreed k b pool (sinkMessages k b f) := by
  rw [takeFlit, if_pos hdest, if_pos htype]
  rfl

theorem takeFlit_row (hdest : fDest b = (instanceId f).toNat) (htype : fType b ≠ 3) :
    takeFlit k b pool f = bufferFreed k b pool (sinkRow k b f) := by
  rw [takeFlit, if_pos hdest, if_neg htype]
  rfl

theorem takeFlit_last_hop (hdest : fDest b ≠ (instanceId f).toNat) (hhops : fHops b = 15) :
    takeFlit k b pool f =
      bufferFreed k b pool (raise 0x16 (place [(0, fDest b), (16, k), (20, fVc b)]) (countInst 1 1 f)) := by
  rw [takeFlit, if_neg hdest, if_pos hhops]
  rfl

theorem takeFlit_forwards (hdest : fDest b ≠ (instanceId f).toNat) (hhops : fHops b ≠ 15) (hroute : (routeTo f (fDest b)).1 = some j) :
    takeFlit k b pool f = countLink j 6 1 (queueFlit j ⟨putf b 6 4 (fHops b + 1), some (k, fVc b, fHops b, pool)⟩
      (countInst 3 (routeTo f (fDest b)).2 f)) := by
  rw [takeFlit, if_neg hdest, if_neg hhops, findRoute_of_some hroute]

theorem takeFlit_no_route (hdest : fDest b ≠ (instanceId f).toNat) (hhops : fHops b ≠ 15) (hroute : (routeTo f (fDest b)).1 = none) :
    takeFlit k b pool f = bufferFreed k b pool (missRoute (fDest b) k (countInst 3 (routeTo f (fDest b)).2 f)) := by
  rw [takeFlit, if_neg hdest, if_neg hhops, findRoute_of_none hroute]
  rfl

theorem takeFlit_sequencePart {i : Nat} (hi : i < 5) : sequencePart i (takeFlit k b pool f) = sequencePart i f := by
  by_cases hdest : fDest b = (instanceId f).toNat
  · by_cases htype : fType b = 3
    · rw [takeFlit_messages hdest htype, bufferFreed, freeOrigin_sequencePart, sinkMessages_sequencePart]
    · rw [takeFlit_row hdest htype, bufferFreed, freeOrigin_sequencePart, sinkRow_sequencePart _ _ hi]
  by_cases hhops : fHops b = 15
  · rw [takeFlit_last_hop hdest hhops, bufferFreed, freeOrigin_sequencePart, raise_sequencePart,
      countInst_sequencePart _ _ (by decide) hi]
  cases hroute : (routeTo f (fDest b)).1 with
  | none =>
    rw [takeFlit_no_route hdest hhops hroute, bufferFreed, freeOrigin_sequencePart, missRoute, raise_sequencePart,
      countInst_sequencePart _ _ (by decide) hi, countInst_sequencePart _ _ (by decide) hi]
  | some j =>
    rw [takeFlit_forwards hdest hhops hroute, countLink_sequencePart _ _ _ (by decide) (by decide), queueFlit_sequencePart,
      countInst_sequencePart _ _ (by decide) hi]

theorem sinkMessages_one (hcount : fCount b = 1) (hmsg : msgOk (BitVec.ofNat 512 (fld b 64 512)) (fVc b) = true) :
    (sinkMessages k b f).dom.inbox = f.dom.inbox ++ [⟨BitVec.ofNat 512 (fld b 64 512), k⟩] := by
  simp only [sinkMessages, hcount, List.range_one, each, List.foldl_cons, List.foldl_nil, Nat.mul_zero, Nat.add_zero, hmsg, if_true]

theorem sinkRow_reserved {c : Ctx} (hctx : ctxOf f (fCtx b) = some c) (hroom : c.arrived < c.granted)
    (hmode : cMode c.req = 2 ↔ fType b = 2) : (sinkRow k b f).dom.inbound = f.dom.inbound ++ [⟨b, k, false, false⟩] := by
  have hkind : ((cMode c.req == 2) != (fType b == 2)) = false := by
    rw [bne_eq_false_iff_eq, Bool.eq_iff_iff, beq_iff_eq, beq_iff_eq]
    exact hmode
  simp [sinkRow, hctx, Nat.not_le.mpr hroom, hkind]

theorem queueFlit_txq (t : TxFlit) :
    tget [] (linkOf (queueFlit j t f) j).txq (fVc t.bits) = tget [] (linkOf f j).txq (fVc t.bits) ++ [t] := by
  rw [queueFlit, onLink_self, tget_tset_self]

end

/-! ### What is done with a flit received (R154, R155) -/

/-- The header and body of a flit received (R152). -/
def flitIn (w : BitVec 4704) : BitVec 4672 := BitVec.ofNat 4672 (fld w 0 4672)

/-- The CRC of a flit received is right (R154). -/
def flitSound (w : BitVec 4704) : Bool := (crc32c (bytesOf 584 (flitIn w).toNat)).toNat == fld w 4672 32

/-- A flit asked for again (R155). -/
def askedAgain (k : Nat) (f : Fab) : Fab := onLink f k fun l => { l with nak := true }

/-- A flit taken in sequence, before anything is done with it (R155). -/
def sequenced (k : Nat) (f : Fab) : Fab := countLink k 2 1 (onLink f k fun l => { l with ackSeq := l.expect, expect := l.expect + 1 })

theorem sequenced_linkOf (k j : Nat) (f : Fab) :
    linkOf (sequenced k f) j = linkOf (onLink f k fun l => { l with ackSeq := l.expect, expect := l.expect + 1 }) j :=
  countLink_linkOf ..

theorem sequenced_dom (k : Nat) (f : Fab) : (sequenced k f).dom = f.dom := countLink_dom ..

theorem sequenced_instanceId (k : Nat) (f : Fab) : instanceId (sequenced k f) = instanceId f := by
  rw [instanceId, instanceId, sequenced_dom, sequenced, countLink_prm]
  rfl

theorem sequenced_routeTo (k : Nat) (f : Fab) (n : Nat) : routeTo (sequenced k f) n = routeTo f n :=
  routeTo_of_routePart ((countLink_routePart ..).trans (onLink_routePart rfl rfl)) n

theorem sequenced_txq (k j : Nat) (f : Fab) : (linkOf (sequenced k f) j).txq = (linkOf f j).txq := by
  rw [sequenced_linkOf]
  by_cases hj : j = k
  · rw [hj, onLink_self]
  · rw [onLink_ne _ _ _ _ hj]

theorem sequenced_instCounter (k sub : Nat) (hk : k < 5) (hsub : sub < 0x1C) (f : Fab) :
    counterOf (sequenced k f) 0x8400 sub = counterOf f 0x8400 sub :=
  count_other _ hsub (by decide) (.inl (by omega))

theorem sequenced_sequencePart (k : Nat) (f : Fab) :
    sequencePart k (sequenced k f) = ((linkOf f k).expect + 1, (linkOf f k).expect, counterOf f (0x8300 + k) 2 + 1) := by
  have hcount : counterOf (sequenced k f) (0x8300 + k) 2 = counterOf f (0x8300 + k) 2 + 1 :=
    count_self _ _ _ _ (by unfold cKey; omega) (by unfold cKey; omega)
  rw [sequencePart, hcount, sequenced_linkOf, onLink_self]

section
variable {k : Nat} {w : BitVec 4704} {pool : Bool} {f : Fab}

theorem receiveFlit_down (h : linkUp f k = false) : receiveFlit k w pool f = f := by simp [receiveFlit, h]

variable (hup : linkUp f k = true)
include hup

theorem receiveFlit_bad_crc (hs : flitSound w = false) : receiveFlit k w pool f = askedAgain k (countLink k 3 1 f) := by
  rw [receiveFlit, if_neg (by simp [hup])]
  exact if_pos (bne_iff_ne.mpr (beq_eq_false_iff_ne.mp hs))

variable (hs : flitSound w = true)
include hs

theorem receiveFlit_sound : receiveFlit k w pool f =
    if !headOk (flitIn w) then askedAgain k (countLink k 4 1 f)
    else if fType (flitIn w) = 0 then f
    else if fLseq (flitIn w) != (linkOf f k).expect.toNat then askedAgain k f
    else takeFlit k (flitIn w) pool (sequenced k f) := by
  simp only [flitSound, flitIn, beq_iff_eq] at hs
  simp only [receiveFlit, hup, hs, Bool.not_true, Bool.false_eq_true, if_false, bne_self_eq_false]
  rfl

theorem receiveFlit_bad_head (hh : headOk (flitIn w) = false) : receiveFlit k w pool f = askedAgain k (countLink k 4 1 f) := by
  simp [receiveFlit_sound hup hs, hh]

variable (hh : headOk (flitIn w) = true)
include hh

theorem receiveFlit_null (ht : fType (flitIn w) = 0) : receiveFlit k w pool f = f := by simp [receiveFlit_sound hup hs, hh, ht]

variable (ht : fType (flitIn w) ≠ 0)
include ht

theorem receiveFlit_out_of_sequence (hl : fLseq (flitIn w) ≠ (linkOf f k).expect.toNat) :
    receiveFlit k w pool f = askedAgain k f := by
  simp [receiveFlit_sound hup hs, hh, ht, hl]

theorem receiveFlit_in_sequence (hl : fLseq (flitIn w) = (linkOf f k).expect.toNat) :
    receiveFlit k w pool f = takeFlit k (flitIn w) pool (sequenced k f) := by
  simp [receiveFlit_sound hup hs, hh, ht, hl]

end

/-- A flit rejected is counted and asked for again, and nothing else of its link or of the domain changes (R154, R155). -/
theorem askedAgain_counted {k : Nat} (sub : Nat) (hsub : sub < 0x1C) (f : Fab) :
    linkOf (askedAgain k (countLink k sub 1 f)) k = { linkOf f k with nak := true } ∧
      (askedAgain k (countLink k sub 1 f)).dom = f.dom ∧
      counterOf (askedAgain k (countLink k sub 1 f)) (0x8300 + k) sub = counterOf f (0x8300 + k) sub + 1 := by
  refine ⟨by rw [askedAgain, onLink_self, countLink_linkOf], countLink_dom .., ?_⟩
  exact count_self _ _ _ _ (by unfold cKey; omega) (by unfold cKey; omega)

/-- Settles O19: the cases of a flit received, and of one in sequence by its destination, its hops and its route. -/
theorem flitsInSequence : Obligations.FlitsInSequence := by
  unfold Obligations.FlitsInSequence
  intro k w pool s hm b l sound asked
  have hgives : Gives (.flitReceive k ⟨w, pool⟩) s (receiveFlit k w pool s.fab) :=
    gives_of_onFab (fun _ f => receiveFlit k w pool f) hm rfl
  refine ⟨fun hup => by rwa [receiveFlit_down hup] at hgives, fun hup => ⟨fun hs => ?badCrc, fun hs hh => ?badHead, fun hs hh ht => ?null,
    fun hs hh ht hl => ?outOfSequence, fun hs hh ht hl => ?inSequence⟩⟩
  case badCrc =>
    rw [receiveFlit_bad_crc hup hs] at hgives
    exact ⟨_, hgives, askedAgain_counted 3 (by decide) _⟩
  case badHead =>
    rw [receiveFlit_bad_head hup hs hh] at hgives
    exact ⟨_, hgives, askedAgain_counted 4 (by decide) _⟩
  case null => rwa [receiveFlit_null hup hs hh ht] at hgives
  case outOfSequence => rwa [receiveFlit_out_of_sequence hup hs hh ht hl] at hgives
  case inSequence =>
    rw [receiveFlit_in_sequence hup hs hh ht hl, show flitIn w = b from rfl] at hgives
    have hpart := (takeFlit_sequencePart (k := k) (b := b) (pool := pool) (f := sequenced k s.fab) k.isLt).trans
      (sequenced_sequencePart k s.fab)
    obtain ⟨hexpect, hack, hcount⟩ := Prod.mk.inj hpart |>.imp id Prod.mk.inj
    have hid := sequenced_instanceId k s.fab
    refine ⟨_, hgives, hexpect, hack, hcount, fun hdest htype hone hmsg => ?message, fun c hdest htype hctx hroom hmode => ?row,
      fun hdest hhops => ?lastHop, fun j hdest hhops hroute => ?forward, fun hdest hhops hroute => ?noRoute⟩
    case message =>
      rw [takeFlit_messages (hdest.trans (by rw [hid])) htype, bufferFreed_dom, sinkMessages_one hone hmsg, sequenced_dom]
    case row =>
      rw [takeFlit_row (hdest.trans (by rw [hid])) htype, bufferFreed_dom,
        sinkRow_reserved (by rw [ctxOf, sequenced_dom]; exact hctx) hroom hmode, sequenced_dom]
    case lastHop =>
      rw [takeFlit_last_hop (by rw [hid]; exact hdest) hhops, bufferFreed_dom, bufferFreed_counterOf, raise_dom, countInst_dom,
        raise_counter _ _ _ (by decide), sequenced_dom]
      refine ⟨rfl, (count_self _ _ _ _ (by decide) (by decide)).trans ?_⟩
      rw [sequenced_instCounter k 1 k.isLt (by decide)]
      rfl
    case forward =>
      rw [takeFlit_forwards (by rw [hid]; exact hdest) hhops (by rw [sequenced_routeTo]; exact hroute), countLink_linkOf]
      refine ⟨_, rfl, (queueFlit_txq _).trans ?_⟩
      rw [countInst_linkOf, sequenced_txq]
    case noRoute =>
      rw [takeFlit_no_route (by rw [hid]; exact hdest) hhops (by rw [sequenced_routeTo]; exact hroute), bufferFreed_dom,
        bufferFreed_counterOf, missRoute, raise_dom, countInst_dom, countInst_dom, raise_counter _ _ _ (by decide), sequenced_dom]
      refine ⟨rfl, (count_self _ _ _ _ (by decide) (by decide)).trans ?_⟩
      rw [countInst, count_other _ (by decide) (by decide) (.inr (by decide)), sequenced_instCounter k 2 k.isLt (by decide)]
      rfl

end Sys2Proof.Machine
end

section
/-!
SUPPORT. A control block received: the flits it acknowledges, the credit it returns, the replay it asks for (R155, R156, R189); then
obligation O20.
-/

namespace Sys2Proof.Machine

/-! ### Credit returned (R156) -/

/-- The buffers freed since the running count of a key was last seen (R156). -/
def creditBack (cb : BitVec 2976) (l : Link) (key : Nat) : Nat :=
  (creditIn cb key + 2 ^ creditWidth key - tget 0 l.seen key) % 2 ^ creditWidth key

/-- Credit changes of a link what it has taken and seen. -/
theorem takeCredits_keeps (cb : BitVec 2976) (ks : List Nat) (l : Link) :
    ∃ t s, ks.foldl (takeCredit cb) l = { l with taken := t, seen := s } := by
  induction ks generalizing l with
  | nil => exact ⟨_, _, rfl⟩
  | cons a t ih =>
    obtain ⟨x, y, h⟩ := ih (takeCredit cb l a)
    exact ⟨x, y, h⟩

theorem takeCredits_other (cb : BitVec 2976) {ks : List Nat} {key : Nat} (h : key ∉ ks) (l : Link) :
    tget 0 (ks.foldl (takeCredit cb) l).seen key = tget 0 l.seen key ∧
      tget 0 (ks.foldl (takeCredit cb) l).taken key = tget 0 l.taken key := by
  induction ks generalizing l with
  | nil => exact ⟨rfl, rfl⟩
  | cons a t ih =>
    obtain ⟨hne, hnot⟩ := not_or.mp (mt List.mem_cons.mpr h)
    obtain ⟨hseen, htaken⟩ := ih hnot (takeCredit cb l a)
    exact ⟨hseen.trans (tget_tset_ne _ _ _ hne), htaken.trans (tget_tset_ne _ _ _ hne)⟩

theorem takeCredits_listed (cb : BitVec 2976) {ks : List Nat} (hn : ks.Nodup) {key : Nat} (h : key ∈ ks) (l : Link) :
    tget 0 (ks.foldl (takeCredit cb) l).seen key = creditIn cb key ∧
      tget 0 (ks.foldl (takeCredit cb) l).taken key = tget 0 l.taken key - creditBack cb l key := by
  induction ks generalizing l with
  | nil => cases h
  | cons a t ih =>
    obtain ⟨hnot, ht⟩ := List.nodup_cons.mp hn
    by_cases he : key = a
    · subst he
      obtain ⟨hseen, htaken⟩ := takeCredits_other cb hnot (takeCredit cb l key)
      exact ⟨hseen.trans (tget_tset_self ..), htaken.trans (tget_tset_self ..)⟩
    · obtain ⟨hseen, htaken⟩ := ih ht (List.mem_of_ne_of_mem he h) (takeCredit cb l a)
      refine ⟨hseen, htaken.trans ?_⟩
      rw [creditBack, creditBack, takeCredit, tget_tset_ne _ _ _ he, tget_tset_ne _ _ _ he]

/-! ### The parts of a control block (R155, R156) -/

/-- A flit list acknowledged and the credit taken. -/
def acknowledged (k : Nat) (cb : BitVec 2976) (f : Fab) : Fab :=
  onLink f k fun l => (List.range 51).foldl (takeCredit cb) (ackFlits (fld cb 40 10) l)

/-- The replay that `NAK` asks for (R155). -/
def nakTaken (k : Nat) (cb : BitVec 2976) (f : Fab) : Fab :=
  if bitAt cb 50 then countLink k 5 1 (onLink f k fun l => { l with replay := l.retry.length }) else f

/-- The swap command that a control block of IL0 carries (R156). -/
def swapHeard (cb : BitVec 2976) (f : Fab) : Fab :=
  if fld cb 1312 8 = 0 then f else onLink f 4 fun l => { l with heard := BitVec.ofNat 32 (fld cb 1312 32) }

/-- The CRC and the mark of a control block are right (R156). -/
def blockSound (k : Nat) (cb : BitVec 2976) : Bool :=
  let n := if k = 4 then 368 else 92
  (crc32c (bytesOf n cb.toNat)).toNat == fld cb (8 * n) 32 && fld cb 0 32 == 0xC35AA53C

/-- Role of a lane as a control block tells it (R156). -/
def roleTold (n : Nat) : LaneRole :=
  match n with
  | 0 => .active
  | 1 => .spare
  | 2 => .failed
  | _ => .retraining

/-- The roles of the transmit lanes as a control block of IL0 tells them, while no swap is under way (R156). -/
def lanesTold (cb : BitVec 2976) (f : Fab) : Fab :=
  if f.swapTx.isNone then
    each (List.range 36) (fun f i =>
      onLane f i fun l => { l with tx := roleTold (fld cb (736 + 16 * i) 16 / 64 % 4), txLog := fld cb (736 + 16 * i) 16 / 256 % 64 }) f
  else f

theorem each_onLane_eq (u : Nat → Lane → Lane) (l : List Nat) (f : Fab) :
    ∃ t, each l (fun f i => onLane f i (u i)) f = { f with lanes := t } := by
  induction l generalizing f with
  | nil => exact ⟨_, rfl⟩
  | cons a t ih =>
    obtain ⟨x, h⟩ := ih (onLane f a (u a))
    exact ⟨x, h⟩

section
variable {k : Nat} {cb : BitVec 2976} {f : Fab}

theorem ackFlits_keeps (a : Nat) (l : Link) : ∃ r n, ackFlits a l = { l with retry := r, replay := n } := by
  unfold ackFlits
  split <;> exact ⟨_, _, rfl⟩

theorem acknowledged_linkOf : ∃ t s, linkOf (acknowledged k cb f) k =
    { ackFlits (fld cb 40 10) (linkOf f k) with taken := t, seen := s } := by
  rw [acknowledged, onLink_self]
  exact takeCredits_keeps ..

theorem acknowledged_credit {key : Nat} (hkey : key < 51) :
    tget 0 (linkOf (acknowledged k cb f) k).seen key = creditIn cb key ∧
      tget 0 (linkOf (acknowledged k cb f) k).taken key = tget 0 (linkOf f k).taken key - creditBack cb (linkOf f k) key := by
  obtain ⟨r, n, hack⟩ := ackFlits_keeps (fld cb 40 10) (linkOf f k)
  rw [acknowledged, onLink_self, hack]
  exact takeCredits_listed cb List.nodup_range (List.mem_range.mpr hkey) _

theorem nakTaken_linkOf : ∃ n, linkOf (nakTaken k cb f) k = { linkOf f k with replay := n } ∧
    (bitAt cb 50 = false → n = (linkOf f k).replay) ∧ (bitAt cb 50 = true → n = (linkOf f k).retry.length) := by
  unfold nakTaken
  split
  · next h => exact ⟨_, by rw [countLink_linkOf, onLink_self], by simp [h], fun _ => rfl⟩
  · next h => exact ⟨_, rfl, fun _ => rfl, fun h' => absurd h' h⟩

theorem nakTaken_linkOf_ne {j : Nat} (hj : j ≠ k) : linkOf (nakTaken k cb f) j = linkOf f j := by
  unfold nakTaken
  split
  · rw [countLink_linkOf, onLink_ne _ _ _ _ hj]
  · rfl

theorem nakTaken_dom : (nakTaken k cb f).dom = f.dom := by
  unfold nakTaken
  split
  · rw [countLink_dom, onLink_dom]
  · rfl

theorem nakTaken_counts (h : bitAt cb 50 = true) : counterOf (nakTaken k cb f) (0x8300 + k) 5 = counterOf f (0x8300 + k) 5 + 1 := by
  rw [nakTaken, if_pos h]
  exact count_self _ _ _ _ (by unfold cKey; omega) (by unfold cKey; omega)

theorem nakTaken_counterOf {y : Nat} (hy : y < 0x1C) (hne : y ≠ 5) (x : Nat) : counterOf (nakTaken k cb f) x y = counterOf f x y := by
  unfold nakTaken
  split
  · exact count_other _ hy (by decide) (.inr hne)
  · rfl

theorem lanesTold_eq : ∃ t, lanesTold cb f = { f with lanes := t } := by
  unfold lanesTold
  split
  · exact each_onLane_eq _ _ _
  · exact ⟨_, rfl⟩

theorem lanesTold_linkOf (j : Nat) : linkOf (lanesTold cb f) j = linkOf f j := by
  obtain ⟨t, h⟩ := lanesTold_eq (cb := cb) (f := f)
  rw [h]
  rfl

theorem lanesTold_counterOf (x y : Nat) : counterOf (lanesTold cb f) x y = counterOf f x y := by
  obtain ⟨t, h⟩ := lanesTold_eq (cb := cb) (f := f)
  rw [h]
  rfl

theorem swapHeard_linkOf : linkOf (swapHeard cb f) 4 =
    { linkOf f 4 with heard := if fld cb 1312 8 = 0 then (linkOf f 4).heard else BitVec.ofNat 32 (fld cb 1312 32) } := by
  unfold swapHeard
  split
  · rfl
  · rw [onLink_self]

theorem swapHeard_counterOf (x y : Nat) : counterOf (swapHeard cb f) x y = counterOf f x y := by
  unfold swapHeard
  split <;> rfl

theorem receiveBlock_ignored (h : linkUp f k = false ∨ blockSound k cb = false) : receiveBlock k cb f = f := by
  have hbad : (!linkUp f k || !blockSound k cb) = true := by rcases h with h | h <;> simp [h]
  exact if_pos hbad

variable (hup : linkUp f k = true) (hs : blockSound k cb = true)
include hup hs

theorem receiveBlock_span (hk : k < 4) : receiveBlock k cb f = nakTaken k cb (acknowledged k cb f) := by
  have hgood : (!linkUp f k || !blockSound k cb) = false := by simp [hup, hs]
  have hne : k ≠ 4 := by omega
  refine (if_neg (Bool.eq_false_iff.mp hgood)).trans ?_
  rw [if_neg (by simp [hne])]
  exact if_pos (bne_iff_ne.mpr hne)

theorem receiveBlock_ibex (hk : k = 4) (hcmd : fld cb 1312 8 ≤ 3) :
    receiveBlock k cb f = swapHeard cb (lanesTold cb (nakTaken k cb (acknowledged k cb f))) := by
  have hgood : (!linkUp f k || !blockSound k cb) = false := by simp [hup, hs]
  subst hk
  refine (if_neg (Bool.eq_false_iff.mp hgood)).trans ?_
  rw [if_neg (by simp [hcmd])]
  exact if_neg (by simp)

end

/-! ### The codewords of a frame (R189) -/

theorem countFec_span {k : Nat} (hk : k < 4) (fec : List (Option (Fin 16))) (f : Fab) : countFec k fec f = f := by
  have hne : k ≠ 4 := by omega
  simp [countFec, hne]

theorem countFec_down {k : Nat} {f : Fab} (h : linkUp f k = false) (fec : List (Option (Fin 16))) : countFec k fec f = f := by
  by_cases hk : k = 4
  · subst hk
    simp [countFec, h]
  · simp [countFec, hk]

section
variable (k : Nat) (fec : List (Option (Fin 16))) (f : Fab)

theorem countFec_linkOf (j : Nat) : linkOf (countFec k fec f) j = linkOf f j := by
  unfold countFec
  split <;> simp

theorem countFec_linkUp (j : Nat) : linkUp (countFec k fec f) j = linkUp f j := by rw [linkUp, countFec_linkOf, ← linkUp]

theorem countFec_links : (countFec k fec f).links = f.links := by
  unfold countFec
  split <;> simp

theorem countFec_dom : (countFec k fec f).dom = f.dom := by
  unfold countFec
  split <;> simp

end

theorem countFec_counts {f : Fab} (hup : linkUp f 4 = true) (fec : List (Option (Fin 16))) :
    counterOf (countFec 4 fec f) 0x8304 8 = counterOf f 0x8304 8 + BitVec.ofNat 64 (fec.filter (·.isNone)).length ∧
      counterOf (countFec 4 fec f) 0x8304 7 = counterOf f 0x8304 7 + BitVec.ofNat 64 ((fec.filterMap id).map (·.val)).sum := by
  have hfec : countFec 4 fec f =
      countLink 4 8 (fec.filter (·.isNone)).length (countLink 4 7 ((fec.filterMap id).map (·.val)).sum f) := if_pos (by simp [hup])
  rw [hfec]
  refine ⟨(count_self _ _ _ _ (by decide) (by decide)).trans ?_,
    (count_other _ (by decide) (by decide) (.inr (by decide))).trans (count_self _ _ _ _ (by decide) (by decide))⟩
  rw [countLink, count_other _ (by decide) (by decide) (.inr (by decide))]

/-- Settles O20: a block that is ignored, one of a span link, and one of IL0, whose codewords are counted first. -/
theorem controlBlocksTaken : Obligations.ControlBlocksTaken := by
  unfold Obligations.ControlBlocksTaken
  intro k cb fec s hm n sound l
  have hgives : Gives (.controlBlockReceive k ⟨cb, fec⟩) s (receiveBlock k cb (countFec k fec s.fab)) :=
    gives_of_onFab (fun _ f => receiveBlock k cb (countFec k fec f)) hm rfl
  refine ⟨fun hup => ?down, fun hup hs => ?unsound, fun hup hs hk => ?span, fun hup hs hk hcmd => ?ibex⟩
  case down =>
    rwa [countFec_down hup, receiveBlock_ignored (.inl hup)] at hgives
  case unsound =>
    rw [receiveBlock_ignored (.inr hs)] at hgives
    refine ⟨_, hgives, countFec_links .., countFec_dom .., fun hk => countFec_span hk .., fun hk => ?_⟩
    rw [hk] at hup ⊢
    exact countFec_counts hup fec
  case span =>
    rw [countFec_span hk, receiveBlock_span hup hs hk] at hgives
    obtain ⟨t, c, hack⟩ := acknowledged_linkOf (k := k) (cb := cb) (f := s.fab)
    obtain ⟨r, hnak, hkept, hall⟩ := nakTaken_linkOf (k := k) (cb := cb) (f := acknowledged k cb s.fab)
    refine ⟨_, hgives, by rw [hnak, hack], fun h => ?_, fun h => ⟨?_, nakTaken_counts h⟩, fun key hkey => ?_, fun j hj => ?_, nakTaken_dom⟩
    · rw [hnak, hkept h, hack]
    · rw [hnak, hall h]
    · rw [hnak]
      exact acknowledged_credit hkey
    · rw [nakTaken_linkOf_ne hj]
      exact onLink_ne _ _ _ _ hj
  case ibex =>
    rw [receiveBlock_ibex ((countFec_linkUp k fec s.fab k).trans hup) hs hk hcmd] at hgives
    have hl : l = linkOf s.fab 4 := congrArg (linkOf s.fab) hk
    rw [hk] at hgives hup ⊢
    obtain ⟨t, c, hack⟩ := acknowledged_linkOf (k := 4) (cb := cb) (f := countFec 4 fec s.fab)
    obtain ⟨r, hnak, -, -⟩ := nakTaken_linkOf (k := 4) (cb := cb) (f := acknowledged 4 cb (countFec 4 fec s.fab))
    have hlink := swapHeard_linkOf (cb := cb) (f := lanesTold cb (nakTaken 4 cb (acknowledged 4 cb (countFec 4 fec s.fab))))
    rw [lanesTold_linkOf, hnak, hack, countFec_linkOf] at hlink
    have hcounts (y : Nat) (hy : y < 0x1C) (hne : y ≠ 5) :
        counterOf (swapHeard cb (lanesTold cb (nakTaken 4 cb (acknowledged 4 cb (countFec 4 fec s.fab))))) 0x8304 y =
          counterOf (countFec 4 fec s.fab) 0x8304 y := by
      rw [swapHeard_counterOf, lanesTold_counterOf, nakTaken_counterOf hy hne, acknowledged, onLink_counterOf]
    obtain ⟨hfailed, hcorrected⟩ := countFec_counts hup fec
    refine ⟨_, hgives, ?_, fun h => ?_, fun h => ?_, (hcounts 8 (by decide) (by decide)).trans hfailed,
      (hcounts 7 (by decide) (by decide)).trans hcorrected⟩
    · rw [hlink, hl]
    · rw [hlink, if_neg h]
    · obtain ⟨r', n', hkeeps⟩ := ackFlits_keeps (fld cb 40 10) (linkOf s.fab 4)
      rw [hlink, if_pos h, hkeeps, hl]

end Sys2Proof.Machine
end

section
/-!
SUPPORT. A frame that a pick of VC 3 empties a queue of (R157); with it obligation O21 is refuted.
-/

namespace Sys2Proof.Machine

/-- A command answers one fabric only. -/
theorem Gives.unique {c : Instr} {s : State} {f g : Fab} (hf : Gives c s f) (hg : Gives c s g) : f = g := by
  have h := hf.symm.trans hg
  injection h with h
  exact congrArg State.fab h

/-- SP0 UP with one flit that waits under VC 3, which R154 has no traffic of. -/
def strayLink : Link := { st := .up, txq := [(3, [⟨0, none⟩])] }

/-- A fabric as at reset, but for that link. -/
def strayState : State := { slots := [], fab := { links := [(0, strayLink)] }, pending := [] }

theorem strayState_runs : Runs .main strayState := by unfold Runs WithinLimits; decide

/-- A frame that picks VC 3 takes the flit. -/
theorem strayFlit_leaves : tget [] (linkOf (sendFrame 0 [3] strayState.fab) 0).txq 3 = [] := by decide +kernel

/-- Refutes O21: its clause on links without credit speaks of the flits of VC 0 to 2, but a frame may pick VC 3, and a flit that waits
there leaves. -/
theorem not_framesLeave : ¬ Obligations.FramesLeave := by
  unfold Obligations.FramesLeave
  intro h
  obtain ⟨f, flits, cb, l₁, l₂, hf, -, -, -, -, -, -, -, -, -, -, hstuck, -⟩ := (h 0 [3] strayState strayState_runs).2 (by decide)
  have hgives : Gives (.frame 0 [3]) strayState (sendFrame 0 [3] strayState.fab) :=
    gives_of_onFab (fun _ f => sendFrame 0 [3] f) strayState_runs rfl
  have hnone (v : Nat) (hv : v < 3) : tget [] (linkOf strayState.fab 0).txq v = [] := by
    have hvc : v = 0 ∨ v = 1 ∨ v = 2 := by omega
    rcases hvc with rfl | rfl | rfl <;> rfl
  obtain ⟨-, hkept⟩ := hstuck (fun v t hv ht => absurd (hnone v hv ▸ ht) List.not_mem_nil) rfl
  have hleft := strayFlit_leaves
  rw [hgives.unique hf] at hleft
  rw [show linkOf f 0 = linkOf f (0 : Fin 5) from rfl, hkept] at hleft
  exact absurd hleft (by decide)

end Sys2Proof.Machine
end

section
/-!
SUPPORT. Traffic: what handing flits and messages to the links leaves unchanged (R157, R168, R170), a change of links in a fabric
with no transfer under way (R171), and a link that is lost (R171, R180).
-/

namespace Sys2Proof.Machine

/-! ### Traffic alone -/

/-- Flits that wait at the links, buffers freed there, messages that wait here and reports may differ; everything else is the same. -/
structure SameButTraffic (f g : Fab) : Prop where
  rest : g = { f with links := g.links, dom := { f.dom with inbox := g.dom.inbox }
                      ev := g.ev, cnt := g.cnt, out := g.out, stamps := g.stamps }
  link : ∀ j, linkOf g j = { linkOf f j with txq := (linkOf g j).txq, freed := (linkOf g j).freed }
  counter : ∀ x y, y < 0x1C → (x = 0x8400 → 4 ≤ y) → counterOf g x y = counterOf f x y

namespace SameButTraffic

theorem refl (f : Fab) : SameButTraffic f f := ⟨rfl, fun _ => rfl, fun _ _ _ _ => rfl⟩

theorem trans {f g h : Fab} (a : SameButTraffic f g) (b : SameButTraffic g h) : SameButTraffic f h := by
  refine ⟨?_, fun j => ?_, fun x y hy hx => (b.counter x y hy hx).trans (a.counter x y hy hx)⟩
  · rw [b.rest, a.rest]
  · rw [b.link, a.link]

theorem ofReports {f g : Fab} (h : SameButReports f g)
    (hc : ∀ x y, y < 0x1C → (x = 0x8400 → 4 ≤ y) → counterOf g x y = counterOf f x y) : SameButTraffic f g := by
  refine ⟨?_, fun j => ?_, hc⟩
  · rw [h]
  · rw [linkOf, h.links_eq]
    rfl

theorem each {α : Type} (l : List α) {step : Fab → α → Fab} (h : ∀ f, ∀ a ∈ l, SameButTraffic f (step f a)) (f : Fab) :
    SameButTraffic f (each l step f) := by
  induction l generalizing f with
  | nil => exact refl f
  | cons a t ih => exact (h f a List.mem_cons_self).trans (ih (fun f b hb => h f b (List.mem_cons_of_mem _ hb)) _)

theorem ofOnLink {u : Link → Link} (k : Nat) (f : Fab) (hu : ∀ l, u l = { l with txq := (u l).txq, freed := (u l).freed }) :
    SameButTraffic f (onLink f k u) := by
  refine ⟨rfl, fun j => ?_, fun _ _ _ _ => rfl⟩
  by_cases hj : j = k
  · rw [hj, onLink_self]
    exact hu _
  · rw [onLink_ne _ _ _ _ hj]

/-! The parts of the fabric that traffic keeps. -/

section
variable {f g : Fab} (h : SameButTraffic f g)
include h

theorem queues_eq : g.queues = f.queues := by rw [h.rest]
theorem ports_eq : g.ports = f.ports := by rw [h.rest]
theorem prm_eq : g.prm = f.prm := by rw [h.rest]
theorem store_eq : g.store = f.store := by rw [h.rest]
theorem fences_eq : g.fences = f.fences := by rw [h.rest]
theorem lanes_eq : g.lanes = f.lanes := by rw [h.rest]
theorem swapRx_eq : g.swapRx = f.swapRx := by rw [h.rest]
theorem swapTx_eq : g.swapTx = f.swapTx := by rw [h.rest]
theorem ibex_eq : g.ibex = f.ibex := by rw [h.rest]
theorem lop_eq : g.lop = f.lop := by rw [h.rest]
theorem kports_eq : g.kports = f.kports := by rw [h.rest]
theorem clusters_eq : g.clusters = f.clusters := by rw [h.rest]
theorem pwr_eq : g.pwr = f.pwr := by rw [h.rest]
theorem start_eq : g.start = f.start := by rw [h.rest]
theorem map_eq : g.map = f.map := by rw [h.rest]
theorem integ_eq : g.integ = f.integ := by rw [h.rest]
theorem dom_eq : g.dom = { f.dom with inbox := g.dom.inbox } := by rw [h.rest]

theorem st_eq (j : Nat) : (linkOf g j).st = (linkOf f j).st := by rw [h.link]
theorem partner_eq (j : Nat) : (linkOf g j).partner = (linkOf f j).partner := by rw [h.link]

theorem linkUp_eq (j : Nat) : linkUp g j = linkUp f j := by rw [linkUp, h.st_eq, ← linkUp]

theorem laneAt_eq (i : Nat) : laneAt g i = laneAt f i := by rw [laneAt, h.lanes_eq, ← laneAt]
theorem queueOf_eq (q : Nat) : queueOf g q = queueOf f q := by rw [queueOf, h.queues_eq, ← queueOf]
theorem portOf_eq (p : Nat) : portOf g p = portOf f p := by rw [portOf, h.ports_eq, ← portOf]

theorem routePart_eq : routePart g = routePart f := by
  have hlinks : (fun k => ((linkOf g k).st, (linkOf g k).partner)) = fun k => ((linkOf f k).st, (linkOf f k).partner) := by
    funext k
    rw [h.st_eq, h.partner_eq]
  rw [routePart, hlinks, h.dom_eq, h.prm_eq, routePart]

end
end SameButTraffic

/-! ### What is traffic -/

theorem raise_traffic (c x : Nat) (f : Fab) : SameButTraffic f (raise c x f) :=
  .ofReports (raise_same ..) fun _ _ hy _ => raise_counter _ _ _ hy

theorem countInst_traffic {sub : Nat} (n : Nat) (hs : sub < 4) (f : Fab) : SameButTraffic f (countInst sub n f) :=
  .ofReports (count_same ..) fun x y hy hx => count_other _ hy (by omega) (by
    by_cases he : x = 0x8400
    · exact .inr (by have := hx he; omega)
    · exact .inl he)

theorem queueFlit_traffic (k : Nat) (t : TxFlit) (f : Fab) : SameButTraffic f (queueFlit k t f) := .ofOnLink k f fun _ => rfl

theorem freeOrigin_traffic (o : Option (Nat × Nat × Nat × Bool)) (f : Fab) : SameButTraffic f (freeOrigin o f) := by
  unfold freeOrigin
  split
  · split
    · exact .refl f
    · exact .ofOnLink _ f fun _ => rfl
  · exact .refl f

theorem missRoute_traffic (dest k : Nat) (f : Fab) : SameButTraffic f (missRoute dest k f) :=
  (countInst_traffic 1 (by decide) f).trans (raise_traffic ..)

theorem findRoute_traffic (dest : Nat) (f : Fab) : SameButTraffic f (findRoute dest f).2 := countInst_traffic _ (by decide) f

/-- A message adds to a queue of one link, or to the messages that wait here. -/
theorem sendMsg_traffic (dest : Nat) (m : BitVec 512) (f : Fab) : SameButTraffic f (sendMsg dest m f).2 := by
  have hroute := findRoute_traffic dest f
  unfold sendMsg
  dsimp only
  split
  · exact hroute
  · split
    · exact hroute.trans ⟨rfl, fun _ => rfl, fun _ _ _ _ => rfl⟩
    · exact hroute.trans (queueFlit_traffic ..)

theorem answer_traffic (dest : Nat) (m : BitVec 512) (f : Fab) : SameButTraffic f (answer dest m f) := sendMsg_traffic ..

theorem spreadMsg_traffic (m : BitVec 512) (k : Nat) (f : Fab) : SameButTraffic f (spreadMsg m k f) :=
  .each _ (fun _ _ _ => queueFlit_traffic ..) f

theorem tellPartners_traffic (mtype k : Nat) (f : Fab) : SameButTraffic f (tellPartners mtype k f) := spreadMsg_traffic ..

/-- Flits placed on new paths are traffic (R171). -/
theorem reinject_traffic (k : Nat) (f : Fab) :
    SameButTraffic (onLink f k fun l => { l with txq := [], retry := [], replay := 0 }) (reinject k f) := by
  refine .each _ (fun f e _ => ?_) _
  have hroute := findRoute_traffic (fDest e.1.bits) f
  dsimp only
  split
  · split
    · exact hroute.trans (freeOrigin_traffic ..)
    · exact hroute.trans (queueFlit_traffic ..)
  · split
    · exact hroute.trans (freeOrigin_traffic ..)
    · exact (hroute.trans (missRoute_traffic ..)).trans (freeOrigin_traffic ..)

/-! ### No transfer under way -/

theorem farEnds_congr {f g : Fab} (hq : g.queues = f.queues) (hl : g.lop = f.lop) : farEnds g = farEnds f := by
  simp only [farEnds, allFlights, hq, hl]

/-- With no business with another chip a change of links or routes is that change alone (R171). -/
theorem withPaths_of_no_farEnd {f : Fab} (h : farEnds f = []) (g : Fab → Fab) : withPaths g f = g f := by
  rw [withPaths, h]
  rfl

/-! ### A link that is lost (R171, R180) -/

/-- A link that carries nothing any more. -/
def emptied (st : LinkState) (l : Link) : Link :=
  { l with st := st, quiet := false, heard := 0, swaps := [], txq := [], retry := [], replay := 0 }

theorem clearSwaps_queues (k : Nat) (f : Fab) : (clearSwaps k f).queues = f.queues := by
  unfold clearSwaps
  split <;> rfl

theorem clearSwaps_lop (k : Nat) (f : Fab) : (clearSwaps k f).lop = f.lop := by
  unfold clearSwaps
  split <;> rfl

theorem clearSwaps_linkOf (k j : Nat) (f : Fab) : linkOf (clearSwaps k f) j = linkOf f j := by
  unfold clearSwaps
  split <;> rfl

theorem clearSwaps_counterOf (k x y : Nat) (f : Fab) : counterOf (clearSwaps k f) x y = counterOf f x y := by
  unfold clearSwaps
  split <;> rfl

theorem onLink_onLink (f : Fab) (k : Nat) (u v : Link → Link) : linkOf (onLink (onLink f k u) k v) k = v (u (linkOf f k)) := by
  rw [onLink_self, onLink_self]

/-- A link emptied, before its flits are placed on other links. -/
def linkEmptied (k : Nat) (st : LinkState) (f : Fab) : Fab :=
  onLink (onLink (clearSwaps k f) k fun l => { l with st := st, quiet := false, heard := 0, swaps := [] }) k
    fun l => { l with txq := [], retry := [], replay := 0 }

theorem linkEmptied_linkOf (k : Nat) (st : LinkState) (f : Fab) : linkOf (linkEmptied k st f) k = emptied st (linkOf f k) := by
  rw [linkEmptied, onLink_onLink, clearSwaps_linkOf]
  rfl

theorem linkEmptied_linkOf_ne {k j : Nat} (st : LinkState) (f : Fab) (hj : j ≠ k) : linkOf (linkEmptied k st f) j = linkOf f j := by
  rw [linkEmptied, onLink_ne _ _ _ _ hj, onLink_ne _ _ _ _ hj, clearSwaps_linkOf]

theorem linkEmptied_counterOf (k : Nat) (st : LinkState) (x y : Nat) (f : Fab) :
    counterOf (linkEmptied k st f) x y = counterOf f x y := clearSwaps_counterOf ..

/-- A link that fails, counted and reported (R180). -/
def failCounted (k : Nat) (f : Fab) : Fab :=
  raise 0x18 (place [(0, k), (16, (linkOf f k).partner.toNat)]) (countLink k 0x0C 1 f)

theorem failCounted_same (k : Nat) (f : Fab) : SameButReports f (failCounted k f) := (count_same ..).trans (raise_same ..)

theorem failCounted_farEnds (k : Nat) (f : Fab) : farEnds (failCounted k f) = farEnds f :=
  farEnds_congr (failCounted_same k f).queues_eq (failCounted_same k f).lop_eq

theorem failCounted_counts (k : Nat) (f : Fab) :
    counterOf (failCounted k f) (0x8300 + k) 0x0C = counterOf f (0x8300 + k) 0x0C + 1 :=
  (raise_counter _ _ _ (by decide)).trans (count_self _ _ _ _ (by unfold cKey; omega) (by unfold cKey; omega))

section
variable {f : Fab} (hfar : farEnds f = []) (k : Nat)
include hfar

/-- A link is dropped by emptying it, and its flits are traffic on the other links. -/
theorem dropLink_traffic (st : LinkState) : SameButTraffic (linkEmptied k st f) (dropLink k st f) := by
  have hquiet : farEnds (clearSwaps k f) = [] := (farEnds_congr (clearSwaps_queues k f) (clearSwaps_lop k f)).trans hfar
  rw [dropLink, withPaths_of_no_farEnd hquiet]
  exact reinject_traffic ..

theorem failLink_traffic : SameButTraffic (linkEmptied k .failed (failCounted k f)) (failLink k f) := by
  have hquiet : farEnds (failCounted k f) = [] := by rw [failCounted_farEnds, hfar]
  have htold := tellPartners_traffic 0x10 k (dropLink k .failed (failCounted k f))
  exact (dropLink_traffic hquiet k .failed).trans htold

theorem failLink_linkOf : ∃ q r, linkOf (failLink k f) k = { emptied .failed (linkOf f k) with txq := q, freed := r } := by
  have hlink := (failLink_traffic hfar k).link k
  rw [linkEmptied_linkOf, show linkOf (failCounted k f) k = linkOf f k by simp [failCounted]] at hlink
  exact ⟨_, _, hlink⟩

theorem failLink_counts (hk : k < 5) : counterOf (failLink k f) (0x8300 + k) 0x0C = counterOf f (0x8300 + k) 0x0C + 1 :=
  ((failLink_traffic hfar k).counter _ _ (by decide) (by omega)).trans
    ((linkEmptied_counterOf ..).trans (failCounted_counts k f))

end

end Sys2Proof.Machine
end

section
/-!
SUPPORT. Messages taken from the head and spread to the partners, retraining and path holds (R159, R168, R171, R180); then
obligation O22.
-/

namespace Sys2Proof.Machine

/-! ### The fields of a flit formed here (R152) -/

/-- Fields cut off below a place leave the fields above it. -/
theorem fields_div_take (l : List (Nat × Nat)) (n : Nat) : fields l / 2 ^ ((l.take n).map (·.1)).sum = fields (l.drop n) := by
  induction n generalizing l with
  | zero => simp
  | succ n ih =>
    cases l with
    | nil => simp [fields]
    | cons e t =>
      rw [List.take_succ_cons, List.map_cons, List.sum_cons, pow_add, ← Nat.div_div_eq_div_mul, fields_cons_div, ih, List.drop_succ_cons]

section
variable (ftype vc hops dest ctx trow : Nat) (last poison bleat : Bool) (body : Row)

theorem flitOf_fVc : fVc (flitOf ftype vc hops dest ctx trow last poison bleat body) = vc % 4 := by
  rw [fVc, flitOf, fld_pack _ (by decide)]
  exact (congrArg (· % 2 ^ 2) (fields_div_take _ 1)).trans (fields_cons_mod 2 vc _)

theorem flitOf_fDest : fDest (flitOf ftype vc hops dest ctx trow last poison bleat body) = dest % 2 ^ 16 := by
  rw [fDest, flitOf, fld_pack _ (by decide)]
  exact (congrArg (· % 2 ^ 16) (fields_div_take _ 3)).trans (fields_cons_mod 16 dest _)

/-- The first 512 bits of a flit's body hold the message formed into it (R160). -/
theorem flitOf_message (m : BitVec 512) :
    fld (flitOf ftype vc hops dest ctx trow last poison bleat (BitVec.ofNat 4608 m.toNat)) 64 512 = m.toNat := by
  rw [flitOf, fld_pack _ (by decide)]
  refine (congrArg (· % 2 ^ 512) (fields_div_take _ 11)).trans ?_
  simp only [List.drop_succ_cons, List.drop_zero, fields, BitVec.toNat_ofNat]
  have hm := m.isLt
  omega

end

/-! ### The message at the head (R159) -/

theorem headMsg_head {f : Fab} {m : Msg} {rest : List Msg} {t : Nat} (h : f.dom.inbox = m :: rest) (ht : fld m.bits 0 8 = t) :
    headMsg t f = some (m, messageTaken f) := by
  rw [headMsg, h]
  simp only [ht, if_true, messageTaken, h, List.drop_succ_cons, List.drop_zero]

theorem headMsg_other {f : Fab} {m : Msg} {rest : List Msg} {t : Nat} (h : f.dom.inbox = m :: rest) (ht : fld m.bits 0 8 ≠ t) :
    headMsg t f = none := by
  rw [headMsg, h]
  exact if_neg ht

/-- A command on a message processes it where it stands at the head with the type. -/
theorem withMsg_head {s : State} {t : Nat} {m : BitVec 512} (h : HeadMessage s t m) (g : BitVec 512 → Fab → Fab) :
    withMsg t g s.fab = g m (messageTaken s.fab) := by
  obtain ⟨k, rest, hin, ht⟩ := h
  rw [withMsg, headMsg_head hin ht]

/-! ### A message spread (R168) -/

/-- A message spread waits on the MAINTENANCE channel of every UP span partner but the one it came by. -/
theorem spreadMsg_forwards {f : Fab} (m : BitVec 512) (k : Nat) {j : Nat} (hj : j < 4) (hup : linkUp f j = true) (hne : j ≠ k) :
    ∃ t, tget [] (linkOf (spreadMsg m k f) j).txq 2 = tget [] (linkOf f j).txq 2 ++ [t] ∧ fld t.bits 64 512 = m.toNat ∧
      fDest t.bits = (linkOf f j).partner.toNat := by
  have hmem : j ∈ (List.range 4).filter fun j => linkUp f j && j != k :=
    List.mem_filter.mpr ⟨List.mem_range.mpr hj, by simp [hup, hne]⟩
  obtain ⟨F, hF, hlink⟩ := each_at (fun j f => linkOf f j)
    (fun f j => queueFlit j ⟨flitOf 3 2 0 (linkOf f j).partner.toNat 1 0 false false false (BitVec.ofNat 4608 m.toNat), none⟩ f)
    (fun f a b hab => onLink_ne _ _ _ _ hab.symm) _ (List.nodup_range.filter _) j hmem f
  rw [spreadMsg, hlink, queueFlit, onLink_self, hF, flitOf_fVc, tget_tset_self]
  refine ⟨_, rfl, flitOf_message .., ?_⟩
  rw [flitOf_fDest]
  exact Nat.mod_eq_of_lt (linkOf f j).partner.isLt

theorem spreadMsg_dom (m : BitVec 512) (k : Nat) (f : Fab) : (spreadMsg m k f).dom = f.dom := each_dom _ _ _ fun _ _ => rfl

/-! ### LINK_DOWN and LINK_UP (R168) -/

/-- The link that a LINK_DOWN or LINK_UP names, as 8 * die + port. -/
def linkNamed (m : BitVec 512) : Nat := 8 * fld m 32 3 + fld m 40 3

/-- What LINK_DOWN or LINK_UP tells taken in and noted as forwarded (R168). -/
def linkLearned (up : Bool) (m : BitVec 512) (f : Fab) : Fab :=
  onDom f fun d => { learnLink up m d with spread := tset 0 (learnLink up m d).spread (linkNamed m) m }

/-- Type of LINK_DOWN or LINK_UP (R160). -/
def linkType (up : Bool) : Nat := if up then 0x11 else 0x10

theorem learnLink_inbox (up : Bool) (m : BitVec 512) (d : Domain) : (learnLink up m d).inbox = d.inbox := by
  unfold learnLink
  dsimp only
  by_cases hport : fld m 40 3 = 4
  · rw [if_pos hport]
  · rw [if_neg hport]

section
variable {f : Fab} {m : Msg} {rest : List Msg} {up : Bool} (hin : f.dom.inbox = m :: rest)
include hin

theorem spreadLink_other (ht : fld m.bits 0 8 ≠ linkType up) : spreadLink up f = f := by
  rw [spreadLink, ← linkType, headMsg_other hin ht]

variable (ht : fld m.bits 0 8 = linkType up)
include ht

theorem spreadLink_known (hs : tget 0 f.dom.spread (linkNamed m.bits) = m.bits) : spreadLink up f = messageTaken f := by
  rw [spreadLink, ← linkType, headMsg_head hin ht]
  exact if_pos (by rw [Bool.or_eq_true]; exact .inr (decide_eq_true hs))

theorem spreadLink_learns (hdie : fld m.bits 32 3 ≠ f.prm.die.toNat) (hs : tget 0 f.dom.spread (linkNamed m.bits) ≠ m.bits)
    (hfar : farEnds f = []) : spreadLink up f = spreadMsg m.bits m.link (linkLearned up m.bits (messageTaken f)) := by
  rw [spreadLink, ← linkType, headMsg_head hin ht]
  refine (if_neg ?_).trans ?_
  · rw [Bool.or_eq_true, decide_eq_true_eq, decide_eq_true_eq]
    exact not_or.mpr ⟨hdie, hs⟩
  · have hquiet : farEnds (messageTaken f) = [] := hfar
    rw [withPaths_of_no_farEnd hquiet]
    rfl

/-- A new message about another die's link is taken in and forwarded. -/
theorem spreadLink_forwards (hdie : fld m.bits 32 3 ≠ f.prm.die.toNat) (hs : tget 0 f.dom.spread (linkNamed m.bits) ≠ m.bits)
    (hfar : farEnds f = []) :
    (spreadLink up f).dom.inbox = rest ∧ (spreadLink up f).dom.knownDown = (learnLink up m.bits f.dom).knownDown ∧
    tget 0 (spreadLink up f).dom.spread (linkNamed m.bits) = m.bits ∧
    ∀ j, j < 4 → linkUp f j = true → j ≠ m.link →
      ∃ t, tget [] (linkOf (spreadLink up f) j).txq 2 = tget [] (linkOf f j).txq 2 ++ [t] ∧ fld t.bits 64 512 = m.bits.toNat ∧
        fDest t.bits = (linkOf f j).partner.toNat := by
  rw [spreadLink_learns hin ht hdie hs hfar]
  rw [spreadMsg_dom]
  refine ⟨?_, ?_, tget_tset_self .., fun j hj hup hne => spreadMsg_forwards _ _ hj hup hne⟩
  · have hrest : (messageTaken f).dom.inbox = rest := by rw [messageTaken, hin]; rfl
    exact (learnLink_inbox ..).trans hrest
  · rw [linkLearned, onDom, learnLink, learnLink]
    dsimp only
    by_cases hport : fld m.bits 40 3 = 4
    · rw [if_pos hport, if_pos hport]
      rfl
    · rw [if_neg hport, if_neg hport]
      rfl

end

/-- What LINK_DOWN or LINK_UP tells of a span link. -/
theorem learnLink_span {m : BitVec 512} (hport : fld m 40 3 < 4) (up : Bool) (d : Domain) : learnLink up m d =
    { d with knownDown := if up then d.knownDown.filter (· != linkNamed m) else d.knownDown.filter (· != linkNamed m) ++ [linkNamed m] } :=
  if_neg (by omega)

theorem filter_ne_of_not_contains {l : List Nat} {a : Nat} (h : l.contains a = false) : l.filter (· != a) = l := by
  rw [List.filter_eq_self]
  intro b hb
  rw [bne_iff_ne]
  rintro rfl
  simp [hb] at h

/-! ### Retraining and path holds (R171, R180) -/

section
variable {k : Nat} {f : Fab}

theorem retrainLink_up (h : linkUp f k = true) :
    linkOf (retrainLink k f) k = { linkOf f k with st := .retraining } ∧
      counterOf (retrainLink k f) (0x8300 + k) 0x0B = counterOf f (0x8300 + k) 0x0B + 1 := by
  rw [retrainLink, if_pos h]
  exact ⟨by rw [countLink_linkOf, onLink_self], count_self _ _ _ _ (by unfold cKey; omega) (by unfold cKey; omega)⟩

theorem retrainLink_down (h : linkUp f k = false) : retrainLink k f = f := by simp [retrainLink, h]

theorem retrained_linkOf (h : (linkOf f k).st = .retraining) :
    linkOf (retrained k f) k = { linkOf f k with st := .up, replay := (linkOf f k).retry.length, nak := false } := by
  rw [retrained, if_pos h]
  exact (raise_linkOf ..).trans (onLink_self ..)

theorem retrained_other (h : (linkOf f k).st ≠ .retraining) : retrained k f = f := if_neg h

/-- Holds that stay are those of other destinations and those with old rows open. -/
theorem mem_releaseHold {dest : Nat} {h : PathHold} : h ∈ (releaseHold dest f).dom.pathHolds ↔
    h ∈ f.dom.pathHolds ∧ (h.dest.toNat ≠ dest ∨ ∃ g ∈ openSegs f, g.stag ∈ h.stags) := by
  simp [releaseHold, List.mem_filter]

end

/-- Settles O22: retraining, path holds, and a LINK_DOWN or LINK_UP that is new, repeated or not at the head. -/
theorem linkChanges : Obligations.LinkChanges := by
  unfold Obligations.LinkChanges
  intro s hm
  refine ⟨fun k => ⟨fun hup => ?retrains, fun hup => ?down, fun hst => ?succeeds, fun hst hfar => ?fails, fun hst => ⟨?idle, ?idle'⟩⟩,
    fun dest => ?holds, ?messages⟩
  case retrains =>
    exact ⟨_, gives_of_onFab (c := .linkRetrain k) (fun _ f => retrainLink k f) hm rfl, retrainLink_up hup⟩
  case down =>
    have hgives := gives_of_onFab (c := .linkRetrain k) (fun _ f => retrainLink k f) hm rfl
    rwa [retrainLink_down hup] at hgives
  case succeeds =>
    exact ⟨_, gives_of_onFab (c := .retrainComplete k) (fun _ f => retrained k f) hm rfl, retrained_linkOf hst⟩
  case fails =>
    have hgives := gives_of_onFab (c := .retrainFailed k) (fun _ f => when ((linkOf f k).st == .retraining) (failLink k) f) hm rfl
    rw [Machine.when, if_pos (by simp [hst])] at hgives
    obtain ⟨q, r, hlink⟩ := failLink_linkOf hfar k
    exact ⟨_, hgives, by rw [hlink]; rfl, by rw [hlink]; rfl, failLink_counts hfar k k.isLt⟩
  case idle =>
    have hgives := gives_of_onFab (c := .retrainComplete k) (fun _ f => retrained k f) hm rfl
    rwa [retrained_other hst] at hgives
  case idle' =>
    have hgives := gives_of_onFab (c := .retrainFailed k) (fun _ f => when ((linkOf f k).st == .retraining) (failLink k) f) hm rfl
    rwa [Machine.when, if_neg (by simp [hst])] at hgives
  case holds =>
    refine ⟨_, gives_of_onFab (c := .pathHoldRelease dest) (fun _ f => releaseHold dest.toNat f) hm rfl,
      fun h hmem => (mem_releaseHold.mp hmem).1, fun h hmem => ?_, rfl⟩
    rw [mem_releaseHold, ne_eq, BitVec.toNat_inj]
    exact and_iff_right hmem
  case messages =>
    intro m rest hin hfar hdie hport linkEnd forwarded
    have hdown : Gives .linkDown s (spreadLink false s.fab) := gives_of_onFab (fun _ f => spreadLink false f) hm rfl
    have hup : Gives .linkUp s (spreadLink true s.fab) := gives_of_onFab (fun _ f => spreadLink true f) hm rfl
    refine ⟨fun ht hnew hknown => ?_, fun ht hnew => ?_, fun hold => ⟨fun ht => ?_, fun ht => ?_⟩, fun ht => ?_, fun ht => ?_⟩
    · obtain ⟨hinbox, hknows, hspread, hforward⟩ := spreadLink_forwards (up := false) hin ht hdie hnew hfar
      rw [learnLink_span hport, if_neg Bool.false_ne_true, show linkNamed m.bits = linkEnd from rfl,
        filter_ne_of_not_contains hknown] at hknows
      exact ⟨_, hdown, hinbox, hknows, hspread, hforward⟩
    · obtain ⟨hinbox, hknows, hspread, hforward⟩ := spreadLink_forwards (up := true) hin ht hdie hnew hfar
      rw [learnLink_span hport, if_pos rfl] at hknows
      refine ⟨_, hup, hinbox, ?_, hspread, hforward⟩
      rw [hknows]
      simp [linkNamed, linkEnd]
    · rwa [spreadLink_known (up := false) hin ht hold] at hdown
    · rwa [spreadLink_known (up := true) hin ht hold] at hup
    · rwa [spreadLink_other (up := false) hin ht] at hdown
    · rwa [spreadLink_other (up := true) hin ht] at hup

end Sys2Proof.Machine
end

section
/-!
SUPPORT. Lane sparing of IL0: a lane fault, the messages of a swap and its end (R176 to R179); then obligation O23.
-/

namespace Sys2Proof.Machine

/-- Lanes that serve as spares of the receive direction, lowest first (R176). -/
def spares (f : Fab) : List Nat := (List.range 36).filter fun i => (laneAt f i).rx = .spare

theorem spares_head (f : Fab) : (spares f).head? = (List.range 36).find? fun i => (laneAt f i).rx = .spare := List.head?_filter

/-- A lane fails and with it IL0 (R179). -/
def laneLost (lane : Nat) (f : Fab) : Fab := failLink 4 (onLane f lane fun l => { l with rx := .failed })

/-! ### A lane fault (R177 to R179) -/

section
variable {lane cause : Nat} {f : Fab}

theorem requestSwap_down (h : linkUp f 4 = false) : requestSwap lane cause f = f := by simp [requestSwap, h]

variable (hup : linkUp f 4 = true) (hrx : (laneAt f lane).rx = .active) (hout : (swappingOut f).contains lane = false)
include hup hrx hout

/-- A fault of an active lane in service is judged by the spares that are left. -/
theorem requestSwap_serving : requestSwap lane cause f =
    match spares f with
    | [] => if cause = 2 then f else laneLost lane f
    | s :: rest =>
      if f.swapRx.isNone then startSwap lane cause s f
      else if f.ibex.swapWait.length < rest.length then
        { f with ibex := { f.ibex with swapWait := f.ibex.swapWait ++ [(lane, BitVec.ofNat 2 cause)] } }
      else if cause = 2 then f
      else laneLost lane f := by
  have hserves : ¬ (!linkUp f 4 || (laneAt f lane).rx != .active || (swappingOut f).contains lane) = true := by
    rw [hup, hrx, hout]
    decide
  rw [requestSwap, if_neg hserves]
  rfl

theorem requestSwap_begins (hrxSwap : f.swapRx = none) {s : Nat} {rest : List Nat} (hs : spares f = s :: rest) :
    requestSwap lane cause f = startSwap lane cause s f := by
  rw [requestSwap_serving hup hrx hout, hs]
  exact if_pos (by rw [hrxSwap]; rfl)

theorem requestSwap_waits {w : Swap} (hw : f.swapRx = some w) (hroom : f.ibex.swapWait.length + 1 < (spares f).length) :
    requestSwap lane cause f =
      { f with ibex := { f.ibex with swapWait := f.ibex.swapWait ++ [(lane, BitVec.ofNat 2 cause)] } } := by
  rw [requestSwap_serving hup hrx hout]
  cases hs : spares f with
  | nil => simp [hs] at hroom
  | cons s rest =>
    rw [hs, List.length_cons] at hroom
    dsimp only
    rw [hw, if_neg (by simp), if_pos (by omega)]

/-- With no spare for it a failing lane takes IL0 down, unless only its margin is low. -/
theorem requestSwap_without_spare (h : spares f = [] ∨ (f.swapRx.isSome = true ∧ (spares f).length ≤ f.ibex.swapWait.length + 1)) :
    requestSwap lane cause f = if cause = 2 then f else laneLost lane f := by
  rw [requestSwap_serving hup hrx hout]
  cases hs : spares f with
  | nil => rfl
  | cons s rest =>
    rw [hs, List.length_cons] at h
    obtain ⟨hsome, hfew⟩ := h.resolve_left (List.cons_ne_nil _ _)
    dsimp only
    rw [if_neg (by simp [Option.isSome_iff_ne_none.mp hsome]), if_neg (by omega)]

end

/-- What a lane that is lost leaves: IL0 FAILED, the lane FAILED, and no swap. -/
theorem laneLost_fails {f : Fab} (hfar : farEnds f = []) (lane : Nat) :
    (linkOf (laneLost lane f) 4).st = .failed ∧ (laneAt (laneLost lane f) lane).rx = .failed ∧ (laneLost lane f).swapRx = none ∧
      (laneLost lane f).swapTx = none ∧ (laneLost lane f).ibex.swapWait = [] := by
  have hquiet : farEnds (onLane f lane fun l => { l with rx := .failed }) = [] := hfar
  have htraffic := failLink_traffic hquiet 4
  obtain ⟨q, r, hlink⟩ := failLink_linkOf hquiet 4
  refine ⟨by rw [laneLost, hlink]; rfl, ?_, htraffic.swapRx_eq, htraffic.swapTx_eq, by rw [laneLost, htraffic.ibex_eq]; rfl⟩
  have hlanes : (linkEmptied 4 .failed (failCounted 4 (onLane f lane fun l => { l with rx := .failed }))).lanes =
      (onLane f lane fun l => { l with rx := .failed }).lanes := (failCounted_same 4 _).lanes_eq
  rw [laneLost, htraffic.laneAt_eq, laneAt, hlanes, ← laneAt, onLane_self]

/-! ### The messages of a swap (R178) -/

theorem tellSwap_linkOf (cmd log phys frame : Nat) (f : Fab) : linkOf (tellSwap cmd log phys frame f) 4 =
    { linkOf f 4 with swaps := (linkOf f 4).swaps ++ [pack 32 [(8, cmd), (8, log), (8, phys), (8, frame)]] } := onLink_self ..

section
variable {f : Fab}

theorem answerSwap_ignored (h : linkUp f 4 = false) : answerSwap f = f := by simp [answerSwap, h]

theorem prepareSwap_ignored (h : linkUp f 4 = false) : prepareSwap f = f := by
  unfold prepareSwap
  split
  · simp [h]
  · rfl

theorem remapLane_ignored (h : linkUp f 4 = false) : remapLane f = f := by
  unfold remapLane
  split
  · simp [h]
  · rfl

theorem lockLane_ignored (h : linkUp f 4 = false) : lockLane f = f := by
  unfold lockLane
  split
  · simp [h]
  · rfl

theorem endSwap_ignored (h : linkUp f 4 = false) : endSwap f = f := by simp [endSwap, h]

variable (hup : linkUp f 4 = true)
include hup

theorem answerSwap_answers (hcmd : heardCmd f = 1) :
    (linkOf (answerSwap f) 4).quiet = true ∧
      (∃ old, (answerSwap f).swapTx = some ⟨heardLog f, old, heardPhys f, 0, false, (linkOf f 4).frameNo + 8⟩) ∧
      (linkOf (answerSwap f) 4).swaps = (linkOf f 4).swaps ++
        [pack 32 [(8, 2), (8, heardLog f), (8, heardPhys f), (8, ((linkOf f 4).frameNo + 8).toNat)]] := by
  rw [answerSwap, if_neg (by simp [hup, hcmd])]
  dsimp only
  rw [tellSwap_linkOf, onLink_self]
  exact ⟨rfl, ⟨_, rfl⟩, rfl⟩

theorem prepareSwap_prepares {w : Swap} (hw : f.swapRx = some w) (hcmd : heardCmd f = 2) :
    (prepareSwap f).swapRx = some { w with step := true, frame := BitVec.ofNat 8 (heardFrame f) } ∧ (prepareSwap f).lanes = f.lanes := by
  rw [prepareSwap, hw]
  dsimp only
  rw [if_pos (by simp [hup, hcmd])]
  exact ⟨rfl, rfl⟩

theorem remapLane_remaps {w : Swap} (hw : f.swapTx = some w) (hstep : w.step = false) (hne : w.old ≠ w.new)
    (hframe : ((linkOf f 4).frameNo - w.frame).toNat < 128) :
    (laneAt (remapLane f) w.old).tx = .retraining ∧ (laneAt (remapLane f) w.new).tx = .active ∧
      (laneAt (remapLane f) w.new).txLog = w.logical ∧ (remapLane f).swapTx = some { w with step := true } := by
  have hmaps : remapLane f = { onLane (onLane f w.old fun l => { l with tx := .retraining }) w.new
      (fun l => { l with tx := .active, txLog := w.logical }) with swapTx := some { w with step := true } } := by
    rw [remapLane, hw]
    exact if_pos (by rw [hup, hstep, decide_eq_true hframe]; rfl)
  have hlane (i : Nat) : laneAt (remapLane f) i = laneAt (onLane (onLane f w.old fun l => { l with tx := .retraining }) w.new
      fun l => { l with tx := .active, txLog := w.logical }) i := by rw [hmaps]; rfl
  rw [hlane, hlane, onLane_self, onLane_ne _ _ _ _ hne, onLane_self, hmaps]
  exact ⟨rfl, rfl, rfl, rfl⟩

theorem endSwap_ends (htx : f.swapTx.isSome = true) (hcmd : heardCmd f = 3) :
    (endSwap f).swapTx = none ∧ (linkOf (endSwap f) 4).quiet = false ∧
      (linkOf (endSwap f) 4).replay = (linkOf f 4).retry.length := by
  rw [endSwap, if_pos (by simp [hup, hcmd, htx]), onLink_self]
  exact ⟨rfl, rfl, rfl⟩

end

/-! ### The end of a swap at the receiver, and the swap that waits (R178) -/

theorem nextSwap_lanes (f : Fab) : (nextSwap f).lanes = f.lanes := by
  unfold nextSwap
  split
  · dsimp only
    split <;> rfl
  · rfl

theorem nextSwap_counterOf (x y : Nat) (f : Fab) : counterOf (nextSwap f) x y = counterOf f x y := by
  unfold nextSwap
  split
  · dsimp only
    split <;> rfl
  · rfl

theorem nextSwap_none {f : Fab} (h : f.ibex.swapWait = []) : nextSwap f = f := by rw [nextSwap, h]

theorem nextSwap_begins {f : Fab} {lane s : Nat} {cause : BitVec 2} {t : List (Nat × BitVec 2)} (hwait : f.ibex.swapWait = (lane, cause) :: t)
    (hrx : f.swapRx = none) (hs : (List.range 36).find? (fun i => (laneAt f i).rx = .spare) = some s) :
    (nextSwap f).swapRx = some ⟨(laneAt f lane).rxLog, lane, s, cause, false, 0⟩ ∧ (nextSwap f).ibex.swapWait = t := by
  have hbegins : nextSwap f = startSwap lane cause.toNat s { f with ibex := { f.ibex with swapWait := t } } := by
    unfold nextSwap
    split
    · next l c t' hwait' _ =>
      obtain ⟨hhead, rfl⟩ := List.cons.inj (hwait.symm.trans hwait')
      obtain ⟨rfl, rfl⟩ := Prod.mk.inj hhead
      dsimp only
      split
      · next s' hs' =>
        cases hs.symm.trans hs'
        rfl
      · next hnone => exact absurd (hs.symm.trans hnone) (Option.some_ne_none _)
    · next hnot => exact absurd hrx (hnot _ _ _ hwait)
  rw [hbegins]
  refine ⟨?_, rfl⟩
  rw [startSwap, tellSwap]
  exact congrArg (fun c => some (Swap.mk _ _ _ c _ _)) (by rw [BitVec.ofNat_toNat, BitVec.setWidth_eq])

/-- Roles of the two lanes once a swap has locked (R178). -/
def rolesSwapped (w : Swap) (f : Fab) : Fab :=
  onLane (onLane f w.old fun l => { l with rx := .retraining, rounds := 0 }) w.new fun l => { l with rx := .active, rxLog := w.logical }

/-- A swap that has locked, counted, reported and told, before the next one begins (R178). -/
def swapLocked (w : Swap) (f : Fab) : Fab :=
  let f := countLink 4 0x0A 1 (countLink 4 9 1 { rolesSwapped w f with swapRx := none })
  tellSwap 3 w.logical w.new w.frame.toNat
    (raise 0x1B (place [(0, w.logical), (8, w.old), (16, w.new), (24, sparesLeft f), (28, w.cause.toNat)]) f)

theorem lockLane_locks {f : Fab} {w : Swap} (hup : linkUp f 4 = true) (hw : f.swapRx = some w) (hstep : w.step = true) :
    lockLane f = nextSwap (swapLocked w f) := by
  rw [lockLane, hw]
  exact if_pos (by rw [hup, hstep]; rfl)

section
variable (w : Swap) (f : Fab)

theorem swapLocked_laneAt (i : Nat) : laneAt (swapLocked w f) i = laneAt (rolesSwapped w f) i := by
  rw [swapLocked, tellSwap]
  simp only [laneAt, onLink_lanes, raise_lanes, countLink_lanes]

theorem swapLocked_swapRx : (swapLocked w f).swapRx = none := by
  rw [swapLocked, tellSwap]
  simp only [onLink_swapRx, raise_swapRx, countLink_swapRx]

theorem swapLocked_ibex : (swapLocked w f).ibex = f.ibex := by
  rw [swapLocked, tellSwap]
  simp only [onLink_ibex, raise_ibex, countLink_ibex, rolesSwapped, onLane_ibex]

theorem swapLocked_counts : counterOf (swapLocked w f) 0x8304 9 = counterOf f 0x8304 9 + 1 := by
  rw [swapLocked, tellSwap, onLink_counterOf, raise_counter _ _ _ (by decide), countLink,
    count_other _ (by decide) (by decide) (.inr (by decide))]
  exact count_self _ _ _ _ (by decide) (by decide)

theorem rolesSwapped_old (hne : w.old ≠ w.new) :
    laneAt (rolesSwapped w f) w.old = { laneAt f w.old with rx := .retraining, rounds := 0 } := by
  rw [rolesSwapped, onLane_ne _ _ _ _ hne, onLane_self]

theorem rolesSwapped_new (hne : w.old ≠ w.new) :
    laneAt (rolesSwapped w f) w.new = { laneAt f w.new with rx := .active, rxLog := w.logical } := by
  rw [rolesSwapped, onLane_self, onLane_ne _ _ _ _ hne.symm]

theorem rolesSwapped_ne {i : Nat} (hold : i ≠ w.old) (hnew : i ≠ w.new) : laneAt (rolesSwapped w f) i = laneAt f i := by
  rw [rolesSwapped, onLane_ne _ _ _ _ hnew, onLane_ne _ _ _ _ hold]

/-- The spares after a swap are those of the other lanes. -/
theorem rolesSwapped_spare (hne : w.old ≠ w.new) (i : Nat) : decide ((laneAt (rolesSwapped w f) i).rx = .spare) =
    (decide (i ≠ w.old) && decide (i ≠ w.new) && (laneAt f i).rx == .spare) := by
  by_cases hold : i = w.old
  · rw [hold, rolesSwapped_old w f hne]
    simp
  by_cases hnew : i = w.new
  · rw [hnew, rolesSwapped_new w f hne]
    simp
  rw [rolesSwapped_ne w f hold hnew]
  simp [hold, hnew, beq_eq_decide]

end

/-- Settles O23: IL0 down; a lane fault by the spares and the swap under way; the messages of a swap; and lanes that retrain. -/
theorem lanesSwap : Obligations.LanesSwap := by
  unfold Obligations.LanesSwap
  intro s hm
  have hfault (i : Fin 36) (cause : BitVec 2) : Gives (.laneFault i cause) s (requestSwap i cause.toNat s.fab) :=
    gives_of_onFab (fun _ f => requestSwap i cause.toNat f) hm rfl
  have hreq : Gives .swapReq s (answerSwap s.fab) := gives_of_onFab (fun _ f => answerSwap f) hm rfl
  have hack : Gives .swapAck s (prepareSwap s.fab) := gives_of_onFab (fun _ f => prepareSwap f) hm rfl
  have hremap : Gives .laneRemap s (remapLane s.fab) := gives_of_onFab (fun _ f => remapLane f) hm rfl
  have hlocked : Gives .swapLaneLocked s (lockLane s.fab) := gives_of_onFab (fun _ f => lockLane f) hm rfl
  have hdone : Gives .swapDone s (endSwap s.fab) := gives_of_onFab (fun _ f => endSwap f) hm rfl
  have hcause {cause : BitVec 2} : cause.toNat = 2 ↔ cause = 2 := BitVec.toNat_inj (y := 2#2)
  refine ⟨fun hdown => ?down, fun hup => ⟨fun i cause w hrx hout hw => ⟨fun hroom => ?waits, fun hfew => ?full⟩,
    fun i cause hrx hfree hout => ⟨fun j hj => ?begins, fun hnone => ?noSpare⟩, fun hcmd => ?answers, fun w hw hcmd => ?prepares,
    fun w hw hstep hne hframe => ?remaps, fun w hw hstep hne => ?locks, fun htx hcmd => ?ends⟩,
    fun i => ⟨fun hrx hrounds => ?retired, fun hstays => ?kept⟩⟩
  case down =>
    rw [answerSwap_ignored hdown] at hreq
    rw [prepareSwap_ignored hdown] at hack
    rw [remapLane_ignored hdown] at hremap
    rw [lockLane_ignored hdown] at hlocked
    rw [endSwap_ignored hdown] at hdone
    refine ⟨fun i cause => ?_, hreq, hack, hremap, hlocked, hdone⟩
    have hgives := hfault i cause
    rwa [requestSwap_down hdown] at hgives
  case waits =>
    have hgives := hfault i cause
    rwa [requestSwap_waits hup hrx hout hw hroom, BitVec.ofNat_toNat, BitVec.setWidth_eq] at hgives
  case full =>
    have hgives := hfault i cause
    rw [requestSwap_without_spare hup hrx hout (.inr ⟨by rw [hw]; rfl, hfew⟩)] at hgives
    refine ⟨fun hc => ?_, fun hc hfar => ?_⟩
    · rwa [if_pos (hcause.mpr hc)] at hgives
    · rw [if_neg (mt hcause.mp hc)] at hgives
      exact ⟨_, hgives, laneLost_fails hfar i⟩
  case begins =>
    have hgives := hfault i cause
    obtain ⟨rest, hs⟩ := List.head?_eq_some_iff.mp ((spares_head s.fab).trans hj)
    rw [requestSwap_begins hup hrx hout hfree hs] at hgives
    refine ⟨_, hgives, ?_, ?_, rfl⟩
    · exact congrArg (fun c => some (Swap.mk _ _ _ c _ _)) (by rw [BitVec.ofNat_toNat, BitVec.setWidth_eq])
    · rw [startSwap, tellSwap_linkOf]
      rfl
  case noSpare =>
    have hgives := hfault i cause
    have hempty : spares s.fab = [] := List.head?_eq_none_iff.mp ((spares_head s.fab).trans hnone)
    rw [requestSwap_without_spare hup hrx hout (.inl hempty)] at hgives
    refine ⟨fun hc => ?_, fun hc hfar => ?_⟩
    · rwa [if_pos (hcause.mpr hc)] at hgives
    · rw [if_neg (mt hcause.mp hc)] at hgives
      obtain ⟨hst, hlane, -⟩ := laneLost_fails hfar i
      exact ⟨_, hgives, hst, hlane⟩
  case answers => exact ⟨_, hreq, answerSwap_answers hup hcmd⟩
  case prepares => exact ⟨_, hack, prepareSwap_prepares hup hw hcmd⟩
  case remaps => exact ⟨_, hremap, remapLane_remaps hup hw hstep hne hframe⟩
  case ends => exact ⟨_, hdone, endSwap_ends hup htx hcmd⟩
  case locks =>
    rw [lockLane_locks hup hw hstep] at hlocked
    have hlane (i : Nat) : laneAt (nextSwap (swapLocked w s.fab)) i = laneAt (rolesSwapped w s.fab) i := by
      rw [laneAt, nextSwap_lanes, ← laneAt, swapLocked_laneAt]
    refine ⟨_, hlocked, fun hwait => ?_, fun i cause t j hwait hold hnew hj => ?_, ?_, ?_, ?_,
      (nextSwap_counterOf ..).trans (swapLocked_counts w s.fab)⟩
    · rw [nextSwap_none (by rw [swapLocked_ibex, hwait]), swapLocked_swapRx]
    · have hspare : (List.range 36).find? (fun i => (laneAt (swapLocked w s.fab) i).rx = .spare) = some j := by
        simpa only [swapLocked_laneAt, rolesSwapped_spare w s.fab hne] using hj
      have hnext := nextSwap_begins (by rw [swapLocked_ibex, hwait]) (swapLocked_swapRx w s.fab) hspare
      rwa [swapLocked_laneAt, rolesSwapped_ne w s.fab hold hnew] at hnext
    · rw [hlane, rolesSwapped_old w s.fab hne]
    · rw [hlane, rolesSwapped_new w s.fab hne]
    · rw [hlane, rolesSwapped_new w s.fab hne]
  case retired =>
    have hgives := gives_of_onFab (c := .laneRetrainTimeout i) (fun _ f => when ((laneAt f i).rx == .retraining &&
      decide (10 ≤ (laneAt f i).rounds)) (fun f => onLane f i fun l => { l with rx := .failed }) f) hm rfl
    rw [Machine.when, if_pos (by simp [hrx, hrounds])] at hgives
    exact ⟨_, hgives, by rw [onLane_self], fun j hj => onLane_ne _ _ _ _ hj⟩
  case kept =>
    have hgives := gives_of_onFab (c := .laneRetrainTimeout i) (fun _ f => when ((laneAt f i).rx == .retraining &&
      decide (10 ≤ (laneAt f i).rounds)) (fun f => onLane f i fun l => { l with rx := .failed }) f) hm rfl
    have hno : ((laneAt s.fab i).rx == .retraining && decide (10 ≤ (laneAt s.fab i).rounds)) = false := by
      rcases hstays with h | h
      · simp [h]
      · simp [Nat.not_le.mpr h]
    rwa [Machine.when, hno] at hgives

end Sys2Proof.Machine
end

section
/-!
SUPPORT. The record of an operation that ends with result words, and the training of a port (R174, R175, R311); then obligation O24.
-/

namespace Sys2Proof.Machine

/-! ### The record of an operation (R311) -/

/-- The record of an operation that ends with a status and result words. -/
def opRecord (h : BitVec 16) (o : Op) (status r0 r1 r2 r3 : Nat) (stamp : BitVec 64) : BitVec 256 :=
  pack 256 [(16, h.toNat), (8, o.opcode.toNat), (8, status), (1, 0), (1, o.self.toNat), (30, 0), (64, stamp.toNat), (32, r0), (32, r1),
    (32, r2), (32, r3)]

theorem opRecord_handle (h : BitVec 16) (o : Op) (status r0 r1 r2 r3 : Nat) (stamp : BitVec 64) :
    fld (opRecord h o status r0 r1 r2 r3 stamp) 0 16 = h.toNat := by
  rw [opRecord, fld_pack _ (by decide), pow_zero, Nat.div_one, fields_cons_mod, Nat.mod_eq_of_lt h.isLt]

theorem opRecord_status (h : BitVec 16) (o : Op) {status : Nat} (r0 r1 r2 r3 : Nat) (stamp : BitVec 64) (hs : status < 256) :
    fld (opRecord h o status r0 r1 r2 r3 stamp) 24 8 = status := by
  rw [opRecord, fld_pack _ (by decide)]
  exact (congrArg (· % 2 ^ 8) (fields_div_take _ 2)).trans ((fields_cons_mod 8 status _).trans (Nat.mod_eq_of_lt hs))

section
variable {h : BitVec 16} {f : Fab} (status r0 r1 r2 r3 : Nat)

theorem completeOp_record {o : Op} (ho : (f.lop.ops.find? fun o => o.handle == h) = some o) :
    (completeOp h status r0 r1 r2 r3 f).lop = { f.lop with
      ring := tset 0 f.lop.ring f.lop.head.toNat (opRecord h o status r0 r1 r2 r3 (takeStamp f).1)
      head := BitVec.ofNat 8 ((f.lop.head.toNat + 1) % 64)
      ops := f.lop.ops.filter fun o => o.handle != h } := by
  simp only [completeOp, completeWith, ho, raise_lop]
  rfl

/-- An operation that runs and completes has ended with its status. -/
theorem completeOp_ended {s : State} {o : Op} (hops : f.lop.ops = s.fab.lop.ops) (hhead : f.lop.head = s.fab.lop.head)
    (ho : (f.lop.ops.find? fun o => o.handle == h) = some o) (hs : status < 256) :
    Ended s h status (completeOp h status r0 r1 r2 r3 f) := by
  unfold Ended
  rw [completeOp_record status r0 r1 r2 r3 ho]
  dsimp only
  rw [hops, hhead, tget_tset_self]
  exact ⟨rfl, opRecord_handle .., opRecord_status _ _ _ _ _ _ _ hs⟩

theorem completeOp_same : (completeOp h status r0 r1 r2 r3 f).links = f.links ∧
    (completeOp h status r0 r1 r2 r3 f).lop.trains = f.lop.trains := by
  unfold completeOp completeWith
  split
  · exact ⟨rfl, rfl⟩
  · simp [takeStamp, onLop]

end

/-! ### One port's training ends (R174, R175) -/

theorem tget_map {α β : Type} (g : α → β) (d : α) (t : Tbl α) (k : Nat) : tget (g d) (t.map fun e => (e.1, g e.2)) k = g (tget d t k) := by
  induction t with
  | nil => rfl
  | cons e t ih =>
    rw [List.map_cons, tget, tget]
    split
    · rfl
    · exact ih

/-- Flits of a link that came by link `k` forget the buffer they took there (R156). -/
def forgotten (k : Nat) (l : Link) : Link :=
  { l with txq := l.txq.map fun q => (q.1, q.2.map fun t => { t with origin := t.origin.map fun o => if o.1 = k then (5, o.2) else o }) }

theorem forgetOrigins_linkOf (k j : Nat) (f : Fab) : linkOf (forgetOrigins k f) j = forgotten k (linkOf f j) :=
  tget_map (forgotten k) {} f.links j

/-- A port's training asked for `FULL` (R174). -/
def fullAsked (k : Nat) (f : Fab) : Bool :=
  match (linkOf f k).train with
  | some t => t.2
  | none => false

/-- A port whose training ends, with its lanes dealt and its counts begun anew (R156, R175). -/
def trainSettled (r : TrainResult) (k : Nat) (f : Fab) : Fab :=
  forgetOrigins k (if k = 4 then { trainLanes r (fullAsked k f) f with ibex := {} } else f)

theorem trainLanes_parts (r : TrainResult) (full : Bool) (f : Fab) :
    ((trainLanes r full f).links, (trainLanes r full f).queues, (trainLanes r full f).lop) = (f.links, f.queues, f.lop) := by
  refine each_proj (fun f : Fab => (f.links, f.queues, f.lop)) _ _ (fun f i _ => ?_) f
  dsimp only
  split
  · rfl
  · split <;> rfl

theorem trainLanes_same (r : TrainResult) (full : Bool) (f : Fab) :
    (trainLanes r full f).links = f.links ∧ (trainLanes r full f).queues = f.queues ∧ (trainLanes r full f).lop = f.lop :=
  Prod.mk.inj (trainLanes_parts r full f) |>.imp id Prod.mk.inj

section
variable (r : TrainResult) (k : Nat) (f : Fab)

theorem trainSettled_queues : (trainSettled r k f).queues = f.queues := by
  unfold trainSettled
  split
  · obtain ⟨-, hqueues, -⟩ := trainLanes_same r (fullAsked k f) f
    exact hqueues
  · rfl

theorem trainSettled_lop : (trainSettled r k f).lop = f.lop := by
  unfold trainSettled
  split
  · obtain ⟨-, -, hlop⟩ := trainLanes_same r (fullAsked k f) f
    exact hlop
  · rfl

theorem trainSettled_linkOf (j : Nat) : linkOf (trainSettled r k f) j = forgotten k (linkOf f j) := by
  unfold trainSettled
  rw [forgetOrigins_linkOf]
  split
  · obtain ⟨hlinks, -, -⟩ := trainLanes_same r (fullAsked k f) f
    exact congrArg (fun l => forgotten k (tget {} l j)) hlinks
  · rfl

end

/-- A link that comes UP from training, with its numbering begun anew (R175). -/
def trainedLink (r : TrainResult) (k : Nat) (l : Link) : Link :=
  { l with st := .up, partner := BitVec.ofNat 16 (fld r.partners (16 * k) 16), pport := BitVec.ofNat 8 (fld r.pports (8 * k) 3)
           retry := [], replay := 0, nextSeq := 1, expect := 1, ackSeq := 0
           nak := false, taken := [], seen := [], freed := [], swaps := [], heard := 0, quiet := false, train := none }

/-- A link whose training has failed (R175). -/
def untrainedLink (l : Link) : Link := { l with st := .down, train := none }

section
variable {r : TrainResult} {k stage : Nat} {f : Fab}

theorem endTrainPort_up (hfar : farEnds f = []) :
    SameButTraffic (onLink (trainSettled r k f) k (trainedLink r k)) (endTrainPort r (k, 0) f) := by
  have hquiet : farEnds (trainSettled r k f) = [] :=
    (farEnds_congr (trainSettled_queues r k f) (trainSettled_lop r k f)).trans hfar
  have hends : endTrainPort r (k, 0) f = tellPartners 0x11 k (raise 0x19
      (place [(0, k), (16, (BitVec.ofNat 16 (fld r.partners (16 * k) 16)).toNat)])
      (withPaths (fun f => onLink f k (trainedLink r k)) (trainSettled r k f))) := rfl
  rw [hends, withPaths_of_no_farEnd hquiet]
  exact (raise_traffic ..).trans (tellPartners_traffic ..)

theorem endTrainPort_down (hstage : stage ≠ 0) :
    SameButTraffic (onLink (trainSettled r k f) k untrainedLink) (endTrainPort r (k, stage) f) := by
  have hends : endTrainPort r (k, stage) f = tellPartners 0x10 k (raise 0x18
      (place [(0, k), (16, (linkOf (onLink (trainSettled r k f) k untrainedLink) k).partner.toNat)])
      (onLink (trainSettled r k f) k untrainedLink)) := if_neg hstage
  rw [hends]
  exact (raise_traffic ..).trans (tellPartners_traffic ..)

/-- Training of a port changes only that port's link, but for traffic. -/
theorem endTrainPort_changes (hfar : farEnds f = []) : ∃ u : Link → Link,
    u = (if stage = 0 then trainedLink r k else untrainedLink) ∧
      SameButTraffic (onLink (trainSettled r k f) k u) (endTrainPort r (k, stage) f) := by
  by_cases hstage : stage = 0
  · subst hstage
    exact ⟨_, rfl, endTrainPort_up hfar⟩
  · exact ⟨_, (if_neg hstage).symm, endTrainPort_down hstage⟩

theorem endTrainPort_lop (hfar : farEnds f = []) : (endTrainPort r (k, stage) f).lop = f.lop := by
  obtain ⟨u, -, htraffic⟩ := endTrainPort_changes (r := r) (k := k) (stage := stage) hfar
  exact htraffic.lop_eq.trans (trainSettled_lop r k f)

theorem endTrainPort_linkUp (hfar : farEnds f = []) (j : Nat) :
    linkUp (endTrainPort r (k, stage) f) j = if j = k then decide (stage = 0) else linkUp f j := by
  obtain ⟨u, hu, htraffic⟩ := endTrainPort_changes (r := r) (k := k) (stage := stage) hfar
  rw [htraffic.linkUp_eq, linkUp]
  by_cases hj : j = k
  · rw [hj, if_pos rfl, onLink_self, hu]
    by_cases hstage : stage = 0
    · rw [if_pos hstage, decide_eq_true hstage]
      rfl
    · rw [if_neg hstage, decide_eq_false hstage]
      rfl
  · rw [if_neg hj, onLink_ne _ _ _ _ hj, trainSettled_linkOf]
    rfl

/-- The port's link once its training has ended, but for the flits that wait at it. -/
theorem endTrainPort_linkOf (hfar : farEnds f = []) : ∃ q c, linkOf (endTrainPort r (k, stage) f) k =
    { (if stage = 0 then trainedLink r k (linkOf f k) else untrainedLink (linkOf f k)) with txq := q, freed := c } := by
  obtain ⟨u, hu, htraffic⟩ := endTrainPort_changes (r := r) (k := k) (stage := stage) hfar
  have hlink := htraffic.link k
  rw [onLink_self, trainSettled_linkOf, hu] at hlink
  refine ⟨(linkOf (endTrainPort r (k, stage) f) k).txq, (linkOf (endTrainPort r (k, stage) f) k).freed, hlink.trans ?_⟩
  split <;> rfl

end

/-! ### The operation whose training ends (R174) -/

/-- The status by the ports that are UP. -/
theorem trainStatus_eq (ports : List Nat) (late : Bool) (f : Fab) : trainStatus ports late f =
    if ports.all (linkUp f) then sOk else if ports.any (linkUp f) then sPartial else if late then sTimeout else sFault := by
  have hall : (ports.filter (linkUp f)).length = ports.length ↔ ports.all (linkUp f) = true := by
    rw [List.length_filter_eq_length_iff, List.all_eq_true]
  have hany : ((ports.filter (linkUp f)).length != 0) = ports.any (linkUp f) := by
    rw [Bool.eq_iff_iff, bne_iff_ne, ne_eq, List.length_eq_zero_iff, List.filter_eq_nil_iff, List.any_eq_true]
    push Not
    rfl
  simp only [trainStatus, hall, hany]

/-- The operation that a port trains for, when a command started it (R174). -/
def trainHandle (f : Fab) (k : Nat) : Option (BitVec 16) :=
  match (linkOf f k).train with
  | some t => if t.1 = 0 then none else some t.1
  | none => none

theorem trainHandle_none {f : Fab} {k : Nat} (h : (linkOf f k).train = none) : trainHandle f k = none := by rw [trainHandle, h]

theorem trainHandle_some {f : Fab} {k : Nat} {h : BitVec 16} {full : Bool} (ht : (linkOf f k).train = some (h, full)) (hh : h ≠ 0) :
    trainHandle f k = some h := by
  rw [trainHandle, ht]
  exact if_neg hh

/-- With no port in training nothing completes. -/
theorem completeTrain_none {f : Fab} (h : ∀ j, (linkOf f j).train = none) (r : TrainResult) : completeTrain r f = f := by
  have hnone : (List.range 5).findSome? (trainHandle f) = none :=
    List.findSome?_eq_none_iff.mpr fun j _ => trainHandle_none (h j)
  unfold completeTrain
  dsimp only
  split
  · rfl
  · next hsome => cases hnone.symm.trans hsome

theorem completeTrain_idle {f : Fab} (h : f.pwr.st = 1) (r : TrainResult) : completeTrain r f = f := by
  unfold completeTrain
  dsimp only
  split
  · rfl
  · exact if_pos h

/-- The operation with handle `h` as its ports' training leaves the fabric, before its record (R174). -/
def trainsEnded (h : BitVec 16) (r : TrainResult) (f : Fab) : Fab :=
  onLop (endTrainFor h r f).2 fun l => { l with trains := l.trains.filter fun t => t.1 != h }

theorem completeTrain_first {f : Fab} {h : BitVec 16} (hfirst : (List.range 5).findSome? (trainHandle f) = some h) (hst : f.pwr.st ≠ 1)
    (r : TrainResult) : ∃ r0 r1 r2 r3, completeTrain r f = completeOp h (trainStatus (selectedPorts f h)
      ((selectedPorts f h).all fun j => (linkOf f j).timedOut) (endTrainFor h r f).2) r0 r1 r2 r3 (trainsEnded h r f) := by
  unfold completeTrain
  dsimp only
  split
  · next hnone => cases hfirst.symm.trans hnone
  · next h' hsome =>
    cases hfirst.symm.trans hsome
    exact ⟨_, _, _, _, if_neg hst⟩

section
variable {f : Fab} {k : Fin 5} {h : BitVec 16} {full : Bool} (htrain : (linkOf f k).train = some (h, full))
  (hothers : ∀ j, j ≠ k.val → (linkOf f j).train = none)
include htrain hothers

theorem trainingFor_one : trainingFor f h = [k.val] := by
  have hone : ∀ k : Fin 5, (List.range 5).filter (fun j => j == k.val) = [k.val] := by decide
  rw [trainingFor, ← hone k]
  refine List.filter_congr fun j _ => ?_
  by_cases hj : j = k
  · rw [hj, htrain]
    simp
  · rw [hothers j hj]
    simp [hj]

theorem trainHandle_first (hh : h ≠ 0) : (List.range 5).findSome? (trainHandle f) = some h := by
  have hone : ∀ k : Fin 5, (List.range 5).findSome? (fun j => if j = k.val then some h else none) = some h := by
    intro k
    fin_cases k <;> rfl
  rw [← hone k]
  refine congrArg (fun g => List.findSome? g (List.range 5)) (funext fun j => ?_)
  by_cases hj : j = k
  · rw [hj, trainHandle_some htrain hh, if_pos rfl]
  · rw [trainHandle_none (hothers j hj), if_neg hj]

theorem endTrainFor_one (r : TrainResult) : (endTrainFor h r f).2 = endTrainPort r (k, failingStage r f k) f := by
  rw [endTrainFor, trainingFor_one htrain hothers]
  rfl

end

/-- Settles O24: timeouts, what completes nothing, and the one port's training by its failing stage. -/
theorem trainingEnds : Obligations.TrainingEnds := by
  unfold Obligations.TrainingEnds
  intro s k hm
  have htimeout : Gives (.trainTimeout k) s (trainTimeout k s.fab) := gives_of_onFab (fun _ f => trainTimeout k f) hm rfl
  have hcomplete (r : TrainResult) : Gives (.linkTrainComplete r) s (completeTrain r s.fab) :=
    gives_of_onFab (fun _ f => completeTrain r f) hm rfl
  refine ⟨fun ht => ?late, fun ht => ?idlePort, fun hnone r => ?noTraining, fun hidle r => ?held,
    fun r h w full hh htrain hothers hfar hops htrains hmem hst => ?trained⟩
  case late =>
    rw [trainTimeout, if_pos ht] at htimeout
    exact ⟨_, htimeout, onLink_self ..⟩
  case idlePort =>
    rwa [trainTimeout, if_neg (by simp [ht])] at htimeout
  case noTraining =>
    have hgives := hcomplete r
    rwa [completeTrain_none hnone] at hgives
  case held =>
    have hgives := hcomplete r
    rwa [completeTrain_idle hidle] at hgives
  case trained =>
    obtain ⟨r0, r1, r2, r3, hends⟩ := completeTrain_first (trainHandle_first htrain hothers hh) (by rw [hst]; decide) r
    have hports : selectedPorts s.fab h = trainMask w := by simp [selectedPorts, htrains]
    have hlop : (endTrainFor h r s.fab).2.lop = s.fab.lop := by rw [endTrainFor_one htrain hothers, endTrainPort_lop hfar]
    have hgives := hcomplete r
    rw [hends, hports] at hgives
    generalize hstatus : trainStatus (trainMask w) ((trainMask w).all fun j => (linkOf s.fab j).timedOut) (endTrainFor h r s.fab).2 =
      status at hgives
    rw [trainStatus_eq, endTrainFor_one htrain hothers] at hstatus
    have hkeptOps : (trainsEnded h r s.fab).lop.ops = s.fab.lop.ops := by
      rw [trainsEnded, onLop, hlop]
    have hkeptHead : (trainsEnded h r s.fab).lop.head = s.fab.lop.head := by
      rw [trainsEnded, onLop, hlop]
    have hended (hs : status < 256) : Ended s h status (completeOp h status r0 r1 r2 r3 (trainsEnded h r s.fab)) :=
      completeOp_ended (o := ⟨h, 6, none, false⟩) status r0 r1 r2 r3 hkeptOps hkeptHead (by rw [hkeptOps, hops]; simp) hs
    obtain ⟨hlinks, hruns⟩ := completeOp_same (h := h) (f := trainsEnded h r s.fab) status r0 r1 r2 r3
    obtain ⟨q, c, hlink⟩ := endTrainPort_linkOf (r := r) (k := k) (stage := failingStage r s.fab k) hfar
    have hlinkOf : linkOf (completeOp h status r0 r1 r2 r3 (trainsEnded h r s.fab)) k =
        linkOf (endTrainPort r (k, failingStage r s.fab k) s.fab) k := by
      rw [linkOf, hlinks, trainsEnded, endTrainFor_one htrain hothers]
      rfl
    have hgone : (completeOp h status r0 r1 r2 r3 (trainsEnded h r s.fab)).lop.trains = [] := by
      rw [hruns, trainsEnded, onLop, hlop, htrains]
      simp
    refine ⟨fun hstage => ?_, fun hstage => ?_⟩
    · have hups : linkUp (endTrainPort r (k, failingStage r s.fab k) s.fab) = fun j => j == k.val || linkUp s.fab j := by
        funext j
        rw [endTrainPort_linkUp hfar, hstage]
        by_cases hj : j = k <;> simp [hj]
      have hany : ((trainMask w).any fun j => j == k.val || linkUp s.fab j) = true :=
        List.any_eq_true.mpr ⟨k, hmem, by simp⟩
      rw [hups, hany, if_pos rfl] at hstatus
      rw [if_pos hstage] at hlink
      have hended := hended (by rw [← hstatus]; split <;> decide)
      rw [← hstatus] at hended hgives hlinkOf hgone
      refine ⟨_, hgives, ?_, ?_, ?_, ?_, ?_, ?_, hgone, hended⟩
      · rw [hlinkOf, hlink]; rfl
      · rw [hlinkOf, hlink]; rfl
      · rw [hlinkOf, hlink]; rfl
      · rw [hlinkOf, hlink]; rfl
      · rw [hlinkOf, hlink]; rfl
      · rw [hlinkOf, hlink]; rfl
    · have hups : linkUp (endTrainPort r (k, failingStage r s.fab k) s.fab) = fun j => j != k.val && linkUp s.fab j := by
        funext j
        rw [endTrainPort_linkUp hfar]
        by_cases hj : j = k <;> simp [hj, hstage]
      have hall : ((trainMask w).all fun j => j != k.val && linkUp s.fab j) = false :=
        List.all_eq_false.mpr ⟨k, hmem, by simp⟩
      rw [hups, hall, if_neg Bool.false_ne_true] at hstatus
      rw [if_neg hstage] at hlink
      have hended := hended (by
        rw [← hstatus]
        split
        · decide
        · split <;> decide)
      rw [← hstatus] at hended hgives hlinkOf hgone
      refine ⟨_, hgives, ?_, ?_, hgone, hended⟩
      · rw [hlinkOf, hlink]; rfl
      · rw [hlinkOf, hlink]; rfl

end Sys2Proof.Machine
end

section
/-!
SUPPORT. A CREDIT_REQ answered: its refusals, the context that a grant takes (R162, R163, R225); then obligation O25.
-/

namespace Sys2Proof.Machine

/-- A command on the message at the head gives that message's effect. -/
theorem gives_of_message {c : Instr} {s : State} {t : Nat} {m : BitVec 512} (g : BitVec 512 → Fab → Fab) (hm : Runs .main s)
    (hhead : HeadMessage s t m) (he : exec c s = onFab .main s fun _ f => withMsg t g f) : Gives c s (g m (messageTaken s.fab)) := by
  rw [← withMsg_head hhead g]
  exact gives_of_onFab (fun _ f => withMsg t g f) hm he

/-! ### A context that is free -/

theorem tget_none_below {α : Type} [DecidableEq α] (d : α) {lo k : Nat} {t : Tbl α} (ht : tcanonFrom d lo t = true) (hk : k < lo) :
    tget d t k = d := by
  induction t generalizing lo with
  | nil => rfl
  | cons e t ih =>
    simp only [tcanonFrom, Bool.and_eq_true, decide_eq_true_eq] at ht
    obtain ⟨⟨hlo, -⟩, ht⟩ := ht
    rw [tget, if_neg (by omega)]
    exact ih ht (by omega)

theorem lowestFree_ge {α : Type} (t : Tbl α) (k : Nat) : k ≤ lowestFree t k := by
  induction t generalizing k with
  | nil => exact le_rfl
  | cons e t ih =>
    rw [lowestFree]
    split
    · exact (Nat.le_succ k).trans (ih (k + 1))
    · exact le_rfl

/-- In a canonical table the lowest free key is not listed. -/
theorem tget_lowestFree {α : Type} [DecidableEq α] (d : α) {t : Tbl α} {k : Nat} (ht : tcanonFrom d k t = true) :
    tget d t (lowestFree t k) = d := by
  induction t generalizing k with
  | nil => rfl
  | cons e t ih =>
    simp only [tcanonFrom, Bool.and_eq_true, decide_eq_true_eq] at ht
    obtain ⟨⟨hlo, -⟩, ht⟩ := ht
    rw [lowestFree]
    split
    · next he =>
      rw [he] at ht
      have hlow : e.1 < lowestFree t (k + 1) := by rw [he]; exact lowestFree_ge t (k + 1)
      rw [tget, if_neg (by omega)]
      exact ih ht
    · next he =>
      rw [tget, if_neg he]
      exact tget_none_below d ht (by omega)

/-! ### Refusals (R162, R225) -/

/-- A refusal for a bank under a DESTRUCTIVE march, reported (R254). -/
def destroyedTold (r : Nat) (m : BitVec 512) (f : Fab) : Fab :=
  match r, reqDestroyed f m with
  | 3, some b => reportBorrowed b rInbound f
  | _, _ => f

/-- A refusal for want of a context or of rows, counted for its source (R225). -/
def refusalNoted (r : Nat) (src : BitVec 16) (n : Nat) (f : Fab) : Fab :=
  if r = 2 || (r = 1 && rowsFree f src < min n 16) then
    onDom f fun d => { d with refusals := tset 0 d.refusals src.toNat (tget 0 d.refusals src.toNat + 1) }
  else f

theorem destroyedTold_same (r : Nat) (m : BitVec 512) (f : Fab) : (destroyedTold r m f).dom = f.dom ∧
    ∀ y, y < 0x1A → counterOf (destroyedTold r m f) 0x8400 y = counterOf f 0x8400 y := by
  unfold destroyedTold
  split
  · refine ⟨by simp [reportBorrowed], fun y hy => ?_⟩
    rw [reportBorrowed, raise_counter _ _ _ (by omega)]
    exact count_other _ (by omega) (by decide) (.inr (by omega))
  · exact ⟨rfl, fun _ _ => rfl⟩

theorem refusalNoted_same (r : Nat) (src : BitVec 16) (n : Nat) (f : Fab) : (refusalNoted r src n f).dom.ctxs = f.dom.ctxs ∧
    ∀ x y, counterOf (refusalNoted r src n f) x y = counterOf f x y := by
  unfold refusalNoted
  split <;> exact ⟨rfl, fun _ _ => rfl⟩

section
variable {f : Fab} {m : BitVec 512} {src : BitVec 16} (hsrc : BitVec.ofNat 16 (fld m 16 16) = src)
include hsrc

theorem answerCredit_refuses {r : Nat} (hr : refusalOf f src m = r) (hne : r ≠ 0) : ∃ t, answerCredit m f =
    answer src.toNat t (countInst (3 + r) 1 (refusalNoted r src (fld m 56 8 + 1) (destroyedTold r m f))) := by
  subst hsrc hr
  unfold answerCredit
  dsimp only
  split
  · next h0 => exact absurd h0 hne
  · exact ⟨_, rfl⟩

/-- A refusal leaves every context and is counted by its cause. -/
theorem answerCredit_refused {r : Nat} (hr : refusalOf f src m = r) (hne : r ≠ 0) (h4 : r ≤ 4) :
    (answerCredit m f).dom.ctxs = f.dom.ctxs ∧ counterOf (answerCredit m f) 0x8400 (3 + r) = counterOf f 0x8400 (3 + r) + 1 := by
  obtain ⟨t, hrefuses⟩ := answerCredit_refuses hsrc hr hne
  obtain ⟨hdom, htold⟩ := destroyedTold_same r m f
  obtain ⟨hctxs, hnoted⟩ := refusalNoted_same r src (fld m 56 8 + 1) (destroyedTold r m f)
  have htraffic := answer_traffic src.toNat t (countInst (3 + r) 1 (refusalNoted r src (fld m 56 8 + 1) (destroyedTold r m f)))
  rw [hrefuses, htraffic.dom_eq, htraffic.counter _ _ (by omega) (by omega), countInst_dom]
  refine ⟨hctxs.trans (by rw [hdom]), (count_self _ _ _ _ (by unfold cKey; omega) (by unfold cKey; omega)).trans ?_⟩
  rw [hnoted, htold _ (by omega)]
  rfl

/-! ### A grant (R163, R225) -/

/-- The lowest free context taken for the rows that a request can have; its source's refusals start again (R163, R225). -/
def contextGiven (src : BitVec 16) (m : BitVec 512) (f : Fab) : Fab :=
  onDom f fun d => { d with
    ctxs := tset none d.ctxs (lowestFree d.ctxs 0) (some ⟨src, m, reqRows f src (fld m 56 8 + 1), 0, 0, false, [], 0⟩)
    refusals := tset 0 d.refusals src.toNat 0 }

/-- A source that is granted needs its hold no more (R225). -/
def holdMet (src : BitVec 16) (f : Fab) : Fab := if (holdOf f src).isSome then endHold src f else f

/-- A request that nothing refuses is granted. -/
theorem answerCredit_grants (hr : refusalOf f src m = 0) :
    ∃ t, answerCredit m f = answer src.toNat t (holdMet src (contextGiven src m f)) := by
  subst hsrc
  unfold answerCredit
  dsimp only
  split
  · exact ⟨_, rfl⟩
  · next hne => exact absurd hr hne

end

theorem contextGiven_ctxOf (src : BitVec 16) (m : BitVec 512) (f : Fab) (j : Nat) : ctxOf (contextGiven src m f) j =
    if j = lowestFree f.dom.ctxs 0 then some ⟨src, m, reqRows f src (fld m 56 8 + 1), 0, 0, false, [], 0⟩ else ctxOf f j := by
  rw [ctxOf, contextGiven, onDom, tget_tset, ctxOf]

theorem contextGiven_refusals (src : BitVec 16) (m : BitVec 512) (f : Fab) :
    tget 0 (contextGiven src m f).dom.refusals src.toNat = 0 := by
  rw [contextGiven, onDom, tget_tset_self]

theorem setHold_ctxs (w : BitVec 16) (f : Fab) : (setHold w f).dom.ctxs = f.dom.ctxs := by simp [setHold, onDom]

theorem endHold_ctxs (w : BitVec 16) (f : Fab) : (endHold w f).dom.ctxs = f.dom.ctxs := by
  unfold endHold
  dsimp only
  split
  · split
    · exact setHold_ctxs ..
    · rfl
  · rfl

theorem holdMet_ctxs (src : BitVec 16) (f : Fab) : (holdMet src f).dom.ctxs = f.dom.ctxs := by
  unfold holdMet
  split
  · exact endHold_ctxs ..
  · rfl

theorem holdMet_none {src : BitVec 16} {f : Fab} (h : holdOf f src = none) : holdMet src f = f := if_neg (by simp [h])

/-- Settles O25: the causes of refusal in their order, and the grant. -/
theorem creditAnswered : Obligations.CreditAnswered := by
  unfold Obligations.CreditAnswered
  intro s m hm hhead g src refused
  have hgives : Gives .creditReq s (answerCredit m g) := gives_of_message answerCredit hm hhead rfl
  have hrefused {r : Nat} (hr : refusalOf g src m = r) (hne : r ≠ 0) (h4 : r ≤ 4) : refused r :=
    ⟨_, hgives, answerCredit_refused rfl hr hne h4⟩
  refine ⟨fun hmis => ?locality, fun hmis hstate => ?state, fun hmis hstate hfree => ?context,
    fun hmis hstate hfree => ⟨fun hfew => ?buffer, fun hrows hcanon => ?granted⟩⟩
  case locality => exact hrefused (if_pos hmis) (by decide) (by decide)
  case state => exact hrefused (by simp [refusalOf, hmis, hstate]) (by decide) (by decide)
  case context => exact hrefused (by simp [refusalOf, hmis, hstate, hfree]) (by decide) (by decide)
  case buffer =>
    refine hrefused ?_ (by decide) (by decide)
    simp only [refusalOf, hmis, hstate, hfree, Bool.not_true, Bool.false_eq_true, if_false, if_pos hfew]
  case granted =>
    have hnone : refusalOf g src m = 0 := by
      simp only [refusalOf, hmis, hstate, hfree, Bool.not_true, Bool.false_eq_true, if_false, if_neg (Nat.not_lt.mpr hrows)]
    obtain ⟨t, hgrants⟩ := answerCredit_grants (src := src) rfl hnone
    rw [hgrants] at hgives
    have hdom := (answer_traffic src.toNat t (holdMet src (contextGiven src m g))).dom_eq
    have hctx (j : Nat) : ctxOf (answer src.toNat t (holdMet src (contextGiven src m g))) j =
        if j = lowestFree s.fab.dom.ctxs 0 then some ⟨src, m, reqRows g src (fld m 56 8 + 1), 0, 0, false, [], 0⟩
        else ctxOf s.fab j := by
      rw [ctxOf, hdom, holdMet_ctxs src (contextGiven src m g), ← ctxOf]
      exact contextGiven_ctxOf src m g j
    refine ⟨_, lowestFree s.fab.dom.ctxs 0, hgives, tget_lowestFree none hcanon, (hctx _).trans (if_pos rfl),
      fun j hj => (hctx j).trans (if_neg hj), fun hhold => ?_⟩
    rw [hdom, holdMet_none (show holdOf (contextGiven src m g) src = none from hhold)]
    exact contextGiven_refusals src m g

end Sys2Proof.Machine
end

section
/-!
SUPPORT. An aborted flight's traces are taken out without touching the queues (R80, R81, R164), and the flight that a segment belongs to
(R163, R224); then obligation O26.
-/

namespace Sys2Proof.Machine

/-! ### What an abort leaves of the queues (R80, R81) -/

section
variable {β : Type} (π : Fab → β) (hemit : ∀ f o, π (emit f o) = π f)
include hemit

/-- A part that outputs and an injected fault's end are no part of, a stack command leaves alone. -/
theorem sendSop_proj (hfired : ∀ f, π (injFired f) = π f) (k : Nat) (h : BitVec 256) (d : Option Row) (f : Fab) :
    π (sendSop k h d f) = π f := (hemit _ _).trans (when_proj π (hfired f))

theorem cancelTag_proj (hfired : ∀ f, π (injFired f) = π f) (hkport : ∀ f k g, π (onKport f k g) = π f) (k : Nat) (t : SopTag)
    (retry : Bool) (f : Fab) : π (cancelTag k t retry f) = π f := by
  unfold cancelTag
  split
  · exact hkport ..
  · exact (hkport ..).trans (sendSop_proj π hemit hfired ..)

theorem dropOwner_proj (hfired : ∀ f, π (injFired f) = π f) (hkport : ∀ f k g, π (onKport f k g) = π f) (o : Owner) (f : Fab) :
    π (dropOwner o f) = π f :=
  each_proj π _ _ (fun _ _ _ => (each_proj π _ _ (fun _ _ _ => cancelTag_proj π hemit hfired hkport ..) _).trans (hkport ..)) f

theorem abortClusters_proj (hcluster : ∀ f c g, π (onCluster f c g) = π f) (q : Nat) (x : Flight) (f : Fab) :
    π (abortClusters q x f) = π f := by
  unfold abortClusters
  dsimp only
  split
  · exact each_proj π _ _ (fun f _ _ => notify_proj π hemit ..) f
  · split
    · exact each_proj π _ _ (fun f _ _ => (hcluster ..).trans (notify_proj π hemit ..)) f
    · rfl

end

theorem dropOwner_queues (o : Owner) (f : Fab) : (dropOwner o f).queues = f.queues :=
  dropOwner_proj Fab.queues (fun _ _ => rfl) (fun _ => rfl) (fun _ _ _ => rfl) o f

theorem abortClusters_queues (q : Nat) (x : Flight) (f : Fab) : (abortClusters q x f).queues = f.queues :=
  abortClusters_proj Fab.queues (fun _ _ => rfl) (fun _ _ _ => rfl) q x f

theorem presentHead_queues (p : Nat) (f : Fab) : (presentHead p f).queues = f.queues :=
  presentHead_proj Fab.queues (fun _ _ => rfl) (fun _ _ => rfl) (fun f => by simp) f

theorem cancelGrants_traffic (segs : List Seg) (f : Fab) : SameButTraffic f (cancelGrants segs f) :=
  .each _ (fun _ _ _ => answer_traffic ..) f

theorem endBurstsOf_queues (q ord : Nat) (f : Fab) : (endBurstsOf q ord f).queues = f.queues := by
  refine each_proj Fab.queues _ _ (fun f p _ => ?_) f
  have hfinish (f : Fab) : (finishRound p f).queues = f.queues := congrArg Prod.fst (finishRound_queuesAndStore p f)
  simp [apply_ite Fab.queues, hfinish]

/-- The rows of a flight taken out of the pipelines (R81). -/
def rowsWithdrawn (ord : Nat) (f : Fab) : Fab :=
  { f with ports := tmap {} (fun _ p => { p with pipe := p.pipe.filter fun r => r.ord != ord }) f.ports }

/-- The fabric once an aborted flight's bursts, notices, grants, requests and rows in the pipelines are taken out of it (R81). -/
def abortCleared (q : Nat) (x : Flight) (f : Fab) : Fab :=
  withdrawQueue q (each (List.range 16) (fun f p => presentHead p f) (rowsWithdrawn x.ord
    (dropOwner (.flight q x.ord) (cancelGrants x.segs (abortClusters q x (endBurstsOf q x.ord f))))))

theorem rowsWithdrawn_queues (ord : Nat) (f : Fab) : (rowsWithdrawn ord f).queues = f.queues := rfl

theorem withdrawQueue_queues (q : Nat) (f : Fab) : (withdrawQueue q f).queues = f.queues := rfl

theorem abortCleared_queues (q : Nat) (x : Flight) (f : Fab) : (abortCleared q x f).queues = f.queues := by
  have hpresent (f : Fab) : (each (List.range 16) (fun f p => presentHead p f) f).queues = f.queues :=
    each_proj Fab.queues _ _ (fun f p _ => presentHead_queues p f) f
  rw [abortCleared, withdrawQueue_queues, hpresent, rowsWithdrawn_queues, dropOwner_queues, (cancelGrants_traffic _ _).queues_eq,
    abortClusters_queues, endBurstsOf_queues]

/-- An abortable flight that is aborted stops with the reason, and its queue is ABORTING. -/
theorem abortFlight_stops {q reason : Nat} {x : Flight} {f : Fab} (hx : flightOf f q x.ord = some x) (ha : abortable f x = true) :
    Stopping (abortFlight q x.ord reason 0 0 f) q x.ord reason := by
  have habort : abortFlight q x.ord reason 0 0 f = onQueue (onFlight q x.ord (fun y => { y with
      stopping := some ⟨BitVec.ofNat 4 reason, BitVec.ofNat 38 0, BitVec.ofNat 4 0⟩, segs := [], held := [], fsig := none })
      (abortCleared q x f)) q (fun y => if y.qstate = 2 then y else { y with qstate := 2, reason := BitVec.ofNat 8 reason }) := by
    rw [abortFlight, hx]
    exact if_neg (by simp [ha])
  have hcleared : flightOf (abortCleared q x f) q x.ord = some x := by
    rw [flightOf, queueOf, abortCleared_queues, ← queueOf]
    exact hx
  have hstopped := flightOf_onFlight (g := fun y => { y with
    stopping := some ⟨BitVec.ofNat 4 reason, BitVec.ofNat 38 0, BitVec.ofNat 4 0⟩, segs := [], held := [], fsig := none }) hcleared
    fun _ => rfl
  rw [habort]
  have hflight (g : Queue → Queue) (hg : ∀ y, (g y).flights = y.flights) (f : Fab) :
      flightOf (onQueue f q g) q x.ord = flightOf f q x.ord := by rw [flightOf, onQueue_self, hg, ← flightOf]
  refine ⟨?_, _, (hflight _ (fun y => ?_) _).trans hstopped, rfl⟩
  · rw [onQueue_self]
    split
    · next h => exact h
    · rfl
  · split <;> rfl

/-! ### The flight that a segment belongs to (R163) -/

/-- A segment of a flight changed where it bears the tag of `g`. -/
def segsWith (x : Flight) (g : Seg) (h : Seg → Seg) : List Seg := x.segs.map fun e => if e.stag = g.stag then h e else e

section
variable {f : Fab} {q : Nat} {x : Flight} (hx : flightOf f q x.ord = some x)
include hx

theorem onFlightSeg_flightOf (g : Seg) (h : Seg → Seg) :
    flightOf (onFlightSeg q x.ord g.stag h f) q x.ord = some { x with segs := segsWith x g h } :=
  flightOf_onFlight (g := fun x => { x with segs := x.segs.map fun s => if s.stag = g.stag then h s else s }) hx fun _ => rfl

end

/-- Flights depend on the queues alone. -/
theorem flightOf_congr {f g : Fab} (h : g.queues = f.queues) (q ord : Nat) : flightOf g q ord = flightOf f q ord := by
  rw [flightOf, flightOf, queueOf, queueOf, h]

theorem segFor_congr {f g : Fab} (h : g.queues = f.queues) (stag : Nat) (c : SegPhase → Bool) : segFor g stag c = segFor f stag c := by
  rw [segFor, segFor, allFlights, allFlights, h]

/-! ### A grant, a refusal and an acknowledgement at the source (R163, R183, R224) -/

section
variable {m : BitVec 512} {f : Fab} {q : Nat} {x : Flight} {g : Seg}

/-- A segment that is granted `n` rows. -/
def segGranted (m : BitVec 512) (n : Nat) (e : Seg) : Seg :=
  { e with phase := .granted, granted := n, rctx := BitVec.ofNat 12 (fld m 48 12), refusals := 0, rounds := 0 }

theorem takeGrant_unknown (hseg : segFor f (fld m 32 16) (· == .asked) = none)
    (hmig : migSegFor f (fld m 32 16) (· == .asked) = none) :
    takeGrant m f = answer (fld m 16 16) (msgOf f 5 [(48, fld m 48 12)]) f := by
  rw [takeGrant, hseg, hmig]

variable (hx : flightOf f q x.ord = some x)
include hx

theorem takeGrant_taken (hseg : segFor f (fld m 32 16) (· == .asked) = some (q, x, g)) :
    ∃ h y, takeGrant m f = askMore q x.ord h ∧ flightOf h q x.ord = some y ∧
      y.asks = tset 0 x.asks g.leg (g.first + min (fld m 64 8 + 1) g.count) ∧
      y.segs = segsWith x g (segGranted m (min (fld m 64 8 + 1) g.count)) := by
  have htaken := onFlightSeg_flightOf hx g (segGranted m (min (fld m 64 8 + 1) g.count))
  have hasked := flightOf_onFlight (y := { x with segs := segsWith x g (segGranted m (min (fld m 64 8 + 1) g.count)) }) (g := fun x => { x with asks := tset 0 x.asks g.leg (g.first + min (fld m 64 8 + 1) g.count) })
    htaken fun _ => rfl
  exact ⟨_, _, by rw [takeGrant, hseg]; rfl, hasked, rfl, rfl⟩

/-- A segment refused for the `k`-th time in a row waits until a round. -/
def segRefused (until_ k : Nat) (e : Seg) : Seg := { e with phase := .backoff until_, refusals := k }

section
variable (hseg : segFor f (fld m 32 16) (· == .asked) = some (q, x, g))
include hseg

omit hx in
theorem takeRefusal_eq (h1 : 1 ≤ fld m 48 8) (h4 : fld m 48 8 ≤ 4) : takeRefusal m f =
    if fld m 48 8 = 4 then abortFlight q x.ord 4 0 0 (countInst (7 + fld m 48 8) 1 f)
    else onFlightSeg q x.ord g.stag (segRefused (segRounds f x g + creditBackoff f (g.refusals + 1)) (g.refusals + 1))
      (countInst (7 + fld m 48 8) 1 f) := by
  have hserved : ¬ (fld m 48 8 = 0 || decide (4 < fld m 48 8)) = true := by simp; omega
  have hcounted := (segFor_congr (countInst_queues (7 + fld m 48 8) 1 f) (fld m 32 16) (· == .asked)).trans hseg
  rw [takeRefusal, if_neg hserved]
  dsimp only
  rw [hcounted]
  have hrounds : segRounds (countInst (7 + fld m 48 8) 1 f) x g = segRounds f x g := by simp [segRounds, portOf]
  have hcap : creditBackoff (countInst (7 + fld m 48 8) 1 f) (g.refusals + 1) = creditBackoff f (g.refusals + 1) := by
    simp [creditBackoff]
  rw [← hrounds, ← hcap]
  rfl

theorem takeRefusal_waits (h1 : 1 ≤ fld m 48 8) (h3 : fld m 48 8 ≤ 3) : ∃ y, flightOf (takeRefusal m f) q x.ord = some y ∧
    counterOf (takeRefusal m f) 0x8400 (7 + fld m 48 8) = counterOf f 0x8400 (7 + fld m 48 8) + 1 ∧
    y.segs = segsWith x g (segRefused (segRounds f x g + creditBackoff f (g.refusals + 1)) (g.refusals + 1)) := by
  have hcounted : flightOf (countInst (7 + fld m 48 8) 1 f) q x.ord = some x :=
    (flightOf_congr (countInst_queues (7 + fld m 48 8) 1 f) q x.ord).trans hx
  rw [takeRefusal_eq hseg h1 (by omega), if_neg (by omega)]
  exact ⟨_, onFlightSeg_flightOf hcounted g _, count_self _ _ _ _ (by unfold cKey; omega) (by unfold cKey; omega), rfl⟩

theorem takeRefusal_stops (h4 : fld m 48 8 = 4) (ha : abortable f x = true) : Stopping (takeRefusal m f) q x.ord 4 := by
  have hcounted : flightOf (countInst (7 + fld m 48 8) 1 f) q x.ord = some x :=
    (flightOf_congr (countInst_queues (7 + fld m 48 8) 1 f) q x.ord).trans hx
  rw [takeRefusal_eq hseg (by omega) (by omega), if_pos h4]
  refine abortFlight_stops hcounted ?_
  simpa [abortable, neverAborted, localSignal, instanceId] using ha

end

omit hx in
theorem rowsAcked_flightOf (n : Nat) (h : flightOf f q x.ord = some x) :
    ∃ l, flightOf (rowsAcked q x.ord n f) q x.ord = some { x with done := x.done + n, lats := l } :=
  ⟨_, flightOf_onFlight h fun _ => rfl⟩

theorem takeRowAck_acked (hseg : segFor f (fld m 32 16) (· == .granted) = some (q, x, g)) (hw : sentWhole g = true)
    (hctx : g.rctx.toNat = fld m 48 12) : ∃ h y, takeRowAck m f = askMore q x.ord h ∧ flightOf h q x.ord = some y ∧
      y.done = x.done + g.granted ∧ y.segs = segsWith x g fun e => { e with phase := .acked } := by
  have hacked := onFlightSeg_flightOf hx g fun e => { e with phase := .acked }
  obtain ⟨l, hcounted⟩ := rowsAcked_flightOf (x := { x with segs := segsWith x g fun e => { e with phase := .acked } }) g.granted hacked
  refine ⟨_, _, ?_, hcounted, rfl, rfl⟩
  rw [takeRowAck, hseg]
  exact if_neg (by simp [hw, hctx])

theorem takeFault_stops (hseg : segFor f (fld m 32 16) segOpen = some (q, x, g)) (ha : abortable f x = true) :
    Stopping (takeFault m f) q x.ord 4 := by
  rw [takeFault, hseg]
  exact abortFlight_stops hx ha

end

/-! ### An answer awaited too long, and a segment asked for again (R183, R224) -/

theorem sendMsg_sent {dest : Nat} {f : Fab} (h : (routeTo f dest).1.isSome = true) (m : BitVec 512) : (sendMsg dest m f).1 = true := by
  obtain ⟨k, hk⟩ := Option.isSome_iff_exists.mp h
  unfold sendMsg
  rw [findRoute_of_some hk]
  dsimp only
  split <;> rfl

section
variable {stag : Nat} {f : Fab} {q : Nat} {x : Flight} {g : Seg}

theorem timeoutStag_early (hseg : segFor f stag segOpen = some (q, x, g)) (h : g.rounds < 2) : timeoutStag stag f = f := by
  rw [timeoutStag, hseg]
  exact if_neg (by simp; omega)

theorem timeoutStag_late (hseg : segFor f stag segOpen = some (q, x, g)) (h : 2 ≤ g.rounds) :
    timeoutStag stag f = abortFlight q x.ord 4 0 0 f := by
  rw [timeoutStag, hseg]
  exact if_pos (decide_eq_true h)

/-- A segment waits for a round to ask again (R224). -/
def inBackoff (p : SegPhase) : Bool :=
  match p with
  | .backoff _ => true
  | _ => false

variable (hseg : segFor f stag inBackoff = some (q, x, g))
include hseg

theorem resendCredit_eq : resendCredit stag f =
    if !backoffOver (segRounds f x g) g.phase then f
    else match x.legs[g.leg]? with
      | none => f
      | some l =>
        let s := sendMsg g.dest.toNat (creditReq f q x l g.first g.count stag) (countInst 0x15 1 f)
        if s.1 then onFlightSeg q x.ord g.stag (fun s => { s with phase := .asked }) s.2 else abortFlight q x.ord 4 0 0 s.2 := by
  unfold resendCredit
  dsimp only
  split
  · next hseg' =>
    cases hseg.symm.trans hseg'
    rfl
  · next hseg' _ => cases hseg.symm.trans hseg'
  · next hseg' _ => cases hseg.symm.trans hseg'

theorem resendCredit_early {r : Nat} (hr : g.phase = .backoff r) (h : segRounds f x g < r) : resendCredit stag f = f := by
  rw [resendCredit_eq hseg, hr]
  exact if_pos (by simp [backoffOver, h])

theorem resendCredit_asks {r : Nat} {l : Leg} (hx : flightOf f q x.ord = some x) (hr : g.phase = .backoff r) (h : r ≤ segRounds f x g)
    (hl : x.legs[g.leg]? = some l) (hroute : (routeTo f g.dest.toNat).1.isSome = true) :
    ∃ y, flightOf (resendCredit stag f) q x.ord = some y ∧ y.segs = segsWith x g (fun e => { e with phase := .asked }) ∧
      counterOf (resendCredit stag f) 0x8400 0x15 = counterOf f 0x8400 0x15 + 1 := by
  have hsent : (sendMsg g.dest.toNat (creditReq f q x l g.first g.count stag) (countInst 0x15 1 f)).1 = true :=
    sendMsg_sent (by rwa [routeTo_of_routePart (countInst_routePart 0x15 1 f)]) _
  have htraffic := sendMsg_traffic g.dest.toNat (creditReq f q x l g.first g.count stag) (countInst 0x15 1 f)
  have hasks : resendCredit stag f = onFlightSeg q x.ord g.stag (fun s => { s with phase := .asked })
      (sendMsg g.dest.toNat (creditReq f q x l g.first g.count stag) (countInst 0x15 1 f)).2 := by
    rw [resendCredit_eq hseg, if_neg (by simp [hr, backoffOver, h]), hl]
    exact if_pos hsent
  have hkept : flightOf (sendMsg g.dest.toNat (creditReq f q x l g.first g.count stag) (countInst 0x15 1 f)).2 q x.ord = some x := by
    rw [flightOf_congr htraffic.queues_eq, flightOf_congr (countInst_queues ..), hx]
  rw [hasks]
  refine ⟨_, onFlightSeg_flightOf hkept g _, rfl, (htraffic.counter _ _ (by decide) (by decide)).trans ?_⟩
  exact count_self _ _ _ _ (by decide) (by decide)

end

/-- Settles O26: each answer, the timeout and the resend through what they do to the segment's flight. -/
theorem creditAtSource : Obligations.CreditAtSource := by
  unfold Obligations.CreditAtSource
  intro s m stag q x g hm hx on
  have hx' : flightOf (messageTaken s.fab) q x.ord = some x := hx
  have htimeout : Gives (.transferTimeout stag) s (timeoutStag stag.toNat s.fab) :=
    gives_of_onFab (fun _ f => timeoutStag stag.toNat f) hm rfl
  have hresend : Gives (.creditReqResend stag) s (resendCredit stag.toNat s.fab) :=
    gives_of_onFab (fun _ f => resendCredit stag.toNat f) hm rfl
  refine ⟨fun hhead => ⟨fun hseg => ?taken, fun hseg hmig => ?unknown⟩, fun hhead hseg => ⟨fun h1 h3 => ?waits, fun h4 ha => ?locality⟩,
    fun hhead hseg hw hctx => ?acked, fun hhead hseg ha => ?faulted, fun hseg => ⟨fun hlate ha => ?late, fun hearly => ?early⟩,
    fun r l hseg hr hl => ⟨fun hbefore => ?before, fun hover hroute => ?again⟩⟩
  case taken =>
    have hgives : Gives .creditGrant s (takeGrant m (messageTaken s.fab)) := gives_of_message takeGrant hm hhead rfl
    obtain ⟨h, y, heq, hy⟩ := takeGrant_taken (f := messageTaken s.fab) hx' hseg
    rw [heq] at hgives
    exact ⟨h, y, hgives, hy⟩
  case unknown =>
    have hgives : Gives .creditGrant s (takeGrant m (messageTaken s.fab)) := gives_of_message takeGrant hm hhead rfl
    rwa [takeGrant_unknown (f := messageTaken s.fab) hseg hmig] at hgives
  case waits =>
    obtain ⟨y, hy⟩ := takeRefusal_waits (f := messageTaken s.fab) hx' hseg h1 h3
    exact ⟨_, y, gives_of_message takeRefusal hm hhead rfl, hy⟩
  case locality => exact ⟨_, gives_of_message takeRefusal hm hhead rfl, takeRefusal_stops (f := messageTaken s.fab) hx' hseg h4 ha⟩
  case acked =>
    have hgives : Gives .rowAck s (takeRowAck m (messageTaken s.fab)) := gives_of_message takeRowAck hm hhead rfl
    obtain ⟨h, y, heq, hy⟩ := takeRowAck_acked (f := messageTaken s.fab) hx' hseg hw hctx
    rw [heq] at hgives
    exact ⟨h, y, hgives, hy⟩
  case faulted => exact ⟨_, gives_of_message takeFault hm hhead rfl, takeFault_stops (f := messageTaken s.fab) hx' hseg ha⟩
  case late =>
    rw [timeoutStag_late hseg hlate] at htimeout
    exact ⟨_, htimeout, abortFlight_stops hx ha⟩
  case early => rwa [timeoutStag_early hseg hearly] at htimeout
  case before => rwa [resendCredit_early hseg hr hbefore] at hresend
  case again =>
    obtain ⟨y, hy⟩ := resendCredit_asks hseg hx hr hover hl hroute
    exact ⟨_, y, hresend, hy⟩

end Sys2Proof.Machine
end

section
/-!
SUPPORT. A receive context freed, and starvation holds set and ended (R164, R225); then obligation O27.
-/

namespace Sys2Proof.Machine

/-! ### A context freed (R163, R164) -/

theorem dropOwner_counterOf (o : Owner) (f : Fab) (x y : Nat) : counterOf (dropOwner o f) x y = counterOf f x y :=
  dropOwner_proj (counterOf · x y) (fun _ _ => rfl) (fun _ => rfl) (fun _ _ _ => rfl) o f

section
variable {i : Nat} {c : Ctx} {f : Fab} (hc : ctxOf f i = some c)
include hc

theorem freeCtx_eq : freeCtx i f = dropOwner (.inbound i) (freeRows (c.granted - c.accepted) (onDom f fun d =>
    { d with ctxs := tset none d.ctxs i none, holds := fillHoldCtx d.holds
             inbound := d.inbound.filter fun x => fCtx x.bits != i })) := by
  rw [freeCtx, hc]

theorem freeCtx_frees : ctxOf (freeCtx i f) i = none ∧ (∀ j, j ≠ i → ctxOf (freeCtx i f) j = ctxOf f j) ∧
    (∀ x ∈ (freeCtx i f).dom.inbound, fCtx x.bits ≠ i) := by
  have hctxs : (freeCtx i f).dom.ctxs = tset none f.dom.ctxs i none := by
    rw [freeCtx_eq hc, dropOwner_dom]
    rfl
  refine ⟨by rw [ctxOf, hctxs, tget_tset_self], fun j hj => by rw [ctxOf, hctxs, tget_tset_ne _ _ _ hj, ctxOf], fun x hx => ?_⟩
  rw [freeCtx_eq hc, dropOwner_dom] at hx
  exact bne_iff_ne.mp (List.mem_filter.mp hx).2

theorem freeCtx_counterOf (x y : Nat) : counterOf (freeCtx i f) x y = counterOf f x y := by
  rw [freeCtx_eq hc, dropOwner_counterOf]
  rfl

theorem expireCtx_early (h : c.rounds < 2) : expireCtx i f = f := by
  rw [expireCtx, hc]
  exact if_neg (by simp; omega)

theorem expireCtx_late (h : 2 ≤ c.rounds) : expireCtx i f = freeCtx i (countInst 0x0D 1 f) := by
  rw [expireCtx, hc]
  exact if_pos (decide_eq_true h)

end

theorem takeCancel_frees {m : BitVec 512} {c : Ctx} {f : Fab} (hc : ctxOf f (fld m 48 12) = some c) (h : c.src.toNat = fld m 16 16) :
    takeCancel m f = freeCtx (fld m 48 12) f := by
  rw [takeCancel, hc]
  exact if_pos (beq_iff_eq.mpr h)

theorem takeCancel_foreign {m : BitVec 512} {c : Ctx} {f : Fab} (hc : ctxOf f (fld m 48 12) = some c) (h : c.src.toNat ≠ fld m 16 16) :
    takeCancel m f = f := by
  rw [takeCancel, hc]
  exact if_neg (by simpa using h)

/-! ### Starvation holds (R225) -/

section
variable {src : BitVec 16} {f : Fab}

theorem setHold_sets : (setHold src f).dom.holds = f.dom.holds ++ [⟨src, 0, false, 0⟩] ∧
    counterOf (setHold src f) 0x8400 0x16 = counterOf f 0x8400 0x16 + 1 := by
  refine ⟨by simp [setHold, onDom], ?_⟩
  rw [setHold, raise_counter _ _ _ (by decide)]
  exact count_self _ _ _ _ (by decide) (by decide)

theorem starve_below (h : tget 0 f.dom.refusals src.toNat < f.dom.starve.toNat) : starve src f = f :=
  if_pos (by simp [h])

theorem starve_reached (h : f.dom.starve.toNat ≤ tget 0 f.dom.refusals src.toNat) (hh : holdOf f src = none)
    (hw : src ∉ f.dom.holdWait) : starve src f =
      if f.dom.holds.length < 4 then setHold src f else onDom f fun d => { d with holdWait := d.holdWait ++ [src] } :=
  if_neg (by simp [hh, hw, Nat.not_lt.mpr h])

theorem expireHold_early {h : Hold} (hh : holdOf f src = some h) (hr : h.rounds < 2) : expireHold src f = f := by
  rw [expireHold, hh]
  exact if_neg (by simp; omega)

theorem expireHold_late {h : Hold} (hh : holdOf f src = some h) (hr : 2 ≤ h.rounds) :
    expireHold src f = endHold src (countInst 0x17 1 f) := by
  rw [expireHold, hh]
  exact if_pos (decide_eq_true hr)

/-- With no source waiting a hold that ends leaves its place free. -/
theorem endHold_alone (hw : f.dom.holdWait = []) :
    endHold src f = onDom f fun d => { d with holds := d.holds.filter fun h => h.src != src } := by
  unfold endHold
  dsimp only
  split
  · next hcons => cases hw.symm.trans hcons
  · rfl

theorem holdOf_filtered : holdOf (onDom f fun d => { d with holds := d.holds.filter fun h => h.src != src }) src = none := by
  refine List.find?_eq_none.mpr fun h hh => ?_
  have hne := (List.mem_filter.mp hh).2
  exact fun he => bne_iff_ne.mp hne (beq_iff_eq.mp he)

end

/-- Settles O27: contexts cancelled and expired, and holds by the count of refusals, the places taken and the rounds passed. -/
theorem contextsAndHolds : Obligations.ContextsAndHolds := by
  unfold Obligations.ContextsAndHolds
  intro s hm
  refine ⟨fun m c hhead hc => ⟨fun hsrc => ?cancelled, fun hsrc => ?foreign⟩, fun i c hc => ⟨fun hlate => ?expired, fun hearly => ?kept⟩,
    fun src => ⟨fun hfew => ?few, fun hmany hnone hwait => ?starved, fun h hh => ⟨fun hearly => ?held, fun hlate hwait => ?ended⟩⟩⟩
  case cancelled =>
    have hgives : Gives .cancel s (takeCancel m (messageTaken s.fab)) := gives_of_message takeCancel hm hhead rfl
    have hc' : ctxOf (messageTaken s.fab) (fld m 48 12) = some c := hc
    rw [takeCancel_frees hc' hsrc] at hgives
    exact ⟨_, hgives, freeCtx_frees hc'⟩
  case foreign =>
    have hgives : Gives .cancel s (takeCancel m (messageTaken s.fab)) := gives_of_message takeCancel hm hhead rfl
    rwa [takeCancel_foreign (f := messageTaken s.fab) hc hsrc] at hgives
  case expired =>
    have hgives : Gives (.contextExpired i) s (expireCtx i.toNat s.fab) := gives_of_onFab (fun _ f => expireCtx i.toNat f) hm rfl
    have hcounted (j : Nat) : ctxOf (countInst 0x0D 1 s.fab) j = ctxOf s.fab j := by rw [ctxOf, countInst_dom, ctxOf]
    rw [expireCtx_late hc hlate] at hgives
    obtain ⟨hfree, hother, -⟩ := freeCtx_frees ((hcounted i.toNat).trans hc)
    refine ⟨_, hgives, hfree, fun j hj => (hother j hj).trans (hcounted j), ?_⟩
    rw [freeCtx_counterOf ((hcounted i.toNat).trans hc)]
    exact count_self _ _ _ _ (by decide) (by decide)
  case kept =>
    have hgives : Gives (.contextExpired i) s (expireCtx i.toNat s.fab) := gives_of_onFab (fun _ f => expireCtx i.toNat f) hm rfl
    rwa [expireCtx_early hc hearly] at hgives
  case few =>
    have hgives : Gives (.starvationHold src) s (starve src s.fab) := gives_of_onFab (fun _ f => starve src f) hm rfl
    rwa [starve_below hfew] at hgives
  case starved =>
    have hgives : Gives (.starvationHold src) s (starve src s.fab) := gives_of_onFab (fun _ f => starve src f) hm rfl
    rw [starve_reached hmany hnone hwait] at hgives
    refine ⟨_, hgives, fun hroom => ?_, fun hfull => ?_⟩
    · rw [if_pos hroom]
      exact setHold_sets
    · rw [if_neg (by omega)]
      exact ⟨rfl, rfl⟩
  case held =>
    have hgives : Gives (.holdExpired src) s (expireHold src s.fab) := gives_of_onFab (fun _ f => expireHold src f) hm rfl
    rwa [expireHold_early hh hearly] at hgives
  case ended =>
    have hgives : Gives (.holdExpired src) s (expireHold src s.fab) := gives_of_onFab (fun _ f => expireHold src f) hm rfl
    rw [expireHold_late hh hlate, endHold_alone (by rw [countInst_dom, hwait])] at hgives
    exact ⟨_, hgives, holdOf_filtered, count_self _ _ _ _ (by decide) (by decide)⟩

end Sys2Proof.Machine
end

section
/-!
SUPPORT. Remote fence signals: the fence at the destination, the flight at the source (R74, R165, R224); then obligation O29.
-/

namespace Sys2Proof.Machine

/-! ### A flight that completes (R73) -/

theorem countRows_queues (x : Flight) (f : Fab) : (countRows x f).queues = f.queues :=
  each_proj Fab.queues _ _ (fun f j _ => by simp) f

/-- The fence that a completed flight adds to (R74). -/
def completionSignalled (q own : Nat) (d : Desc) (f : Fab) : Fab :=
  if dOp d = 14 then (if localSignal f d then addFence (dFence d) (oCount (dDst d)) q own f else f)
  else when (dFsignal d && dOp d != 13) (addFence (dFence d) 1 q own) f

theorem completionSignalled_queues (q own : Nat) (d : Desc) (f : Fab) : (completionSignalled q own d f).queues = f.queues := by
  unfold completionSignalled
  split
  · split
    · exact addFence_queues ..
    · rfl
  · exact when_proj Fab.queues (addFence_queues ..)

/-- Without flights a queue settles with none and sends no signal. -/
theorem sendSignals_none {q : Nat} {f : Fab} (h : (queueOf f q).flights = []) : sendSignals q f = f := by
  rw [sendSignals, h]
  rfl

theorem settleStop_flights (q : Nat) (f : Fab) : (queueOf (settleStop q f) q).flights = (queueOf f q).flights := by
  unfold settleStop
  dsimp only
  split
  · rw [onQueue_self]
  · rfl

/-- A queue's only flight completes and leaves it empty. -/
theorem completeFlight_only {q : Nat} {x : Flight} {f : Fab} (hx : (queueOf f q).flights = [x]) :
    (queueOf (completeFlight q x.ord f) q).flights = [] := by
  have hfound : flightOf f q x.ord = some x := by simp [flightOf, hx]
  have heq : completeFlight q x.ord f = sendSignals q (settleStop q (traceAs 1 q x.seq.toNat x.meTag.toNat x.desc
      (completionSignalled q (instanceId f).toNat x.desc (countRows x
        (onQueue f q fun y => { y with flights := y.flights.filter fun z => z.ord != x.ord }))))) := by
    rw [completeFlight, hfound]
    rfl
  have hqueues : (traceAs 1 q x.seq.toNat x.meTag.toNat x.desc (completionSignalled q (instanceId f).toNat x.desc (countRows x
      (onQueue f q fun y => { y with flights := y.flights.filter fun z => z.ord != x.ord })))).queues =
      (onQueue f q fun y => { y with flights := y.flights.filter fun z => z.ord != x.ord }).queues := by
    rw [traceAs_queues, completionSignalled_queues, countRows_queues]
  have hempty := (settleStop_flights q _).trans ((congrArg (fun t => (tget {} t q : Queue).flights) hqueues).trans
    (show (queueOf (onQueue f q fun y => { y with flights := y.flights.filter fun z => z.ord != x.ord }) q).flights = [] by
      rw [onQueue_self, hx]
      simp))
  rw [heq, sendSignals_none hempty]
  exact hempty

/-! ### A remote signal at its destination (R165) -/

theorem takeSignal_fences (m : BitVec 512) (f : Fab) : (takeSignal m f).fences =
    if isReady f then tset 0 f.fences (fld m 48 6) (BitVec.ofNat 16 (min 0xFFFF ((fenceOf f (fld m 48 6)).toNat + fld m 64 16)))
    else f.fences := by
  rw [takeSignal, (answer_traffic _ _ _).fences_eq, apply_ite Fab.fences, addFence_fences]

/-! ### Its answer, and the signal sent again (R165, R224) -/

section
variable {m : BitVec 512} {f : Fab} {q : Nat} {x : Flight} {y : FSig}

/-- Round until which a signal refused once more backs off (R224). -/
def signalUntil (f : Fab) (y : FSig) : Nat := (portOf f 16).rounds + creditBackoff f (y.refusals + 1)

variable (hx : (queueOf f q).flights = [x])
include hx

theorem takeFenceAck_ok (hsig : signalFor f (fld m 32 16) = some (q, x, y)) (h0 : fld m 48 8 = 0) :
    (queueOf (takeFenceAck m f) q).flights = [] := by
  have heq : takeFenceAck m f = completeFlight q x.ord f := by
    rw [takeFenceAck, hsig]
    exact if_pos h0
  rw [heq, completeFlight_only hx]

theorem takeFenceAck_not_ready (hsig : signalFor f (fld m 32 16) = some (q, x, y)) (h1 : fld m 48 8 = 1) (hr : y.resumeAt = none) :
    (queueOf (takeFenceAck m f) q).flights =
      [{ x with fsig := some { y with refusals := y.refusals + 1, resumeAt := some (signalUntil f y) } }] := by
  have heq : takeFenceAck m f = onFlight q x.ord
      (fun x => { x with fsig := some { y with refusals := y.refusals + 1, resumeAt := some (signalUntil f y) } }) f := by
    rw [takeFenceAck, hsig]
    refine (if_neg (by omega)).trans (if_pos ?_)
    simp [h1, hr]
  rw [heq, onFlight_flights hx rfl]

variable {stag r : Nat} (hsig : signalFor f stag = some (q, x, y)) (hr : y.resumeAt = some r)
include hsig hr

omit hx in
theorem resendSignal_early (h : (portOf f 16).rounds < r) : resendSignal stag f = f := by
  rw [resendSignal, hsig]
  dsimp only
  rw [hr]
  exact if_pos h

theorem resendSignal_again (h : r ≤ (portOf f 16).rounds) (hroute : (routeTo f (oFinst (dDst x.desc))).1.isSome = true) :
    (queueOf (resendSignal stag f) q).flights = [{ x with fsig := some { y with resumeAt := none } }] := by
  have heq : ∃ t, resendSignal stag f = onFlight q x.ord (fun x => { x with fsig := some { y with resumeAt := none } })
      (sendMsg (oFinst (dDst x.desc)) t f).2 := by
    refine ⟨msgOf f 7 [(32, stag), (48, dFence x.desc), (64, oCount (dDst x.desc))], ?_⟩
    rw [resendSignal, hsig]
    dsimp only
    rw [hr]
    exact (if_neg (by omega)).trans (if_pos (sendMsg_sent hroute _))
  obtain ⟨t, heq⟩ := heq
  rw [heq]
  exact onFlight_flights (by rw [(sendMsg_traffic _ t f).queueOf_eq, hx]) rfl

end

/-- Settles O29: the fence at the destination, the answer at the source, and the signal after its back-off. -/
theorem remoteSignals : Obligations.RemoteSignals := by
  unfold Obligations.RemoteSignals
  intro s m hm
  refine ⟨fun hhead => ?arrives, fun q x y hhead hsig hx => ⟨fun h0 => ?completes, fun h1 hr => ?waits⟩,
    fun stag q x y r hsig hx hr => ⟨fun hbefore => ?early, fun hover hroute => ?again⟩⟩
  case arrives =>
    refine ⟨_, gives_of_message takeSignal hm hhead rfl, fun hready => ?_, fun hready => ?_⟩
    · exact (takeSignal_fences ..).trans (if_pos hready)
    · exact (takeSignal_fences ..).trans (if_neg (by rw [show isReady (messageTaken s.fab) = false from hready]; decide))
  case completes =>
    exact ⟨_, gives_of_message takeFenceAck hm hhead rfl, takeFenceAck_ok (f := messageTaken s.fab) hx hsig h0⟩
  case waits =>
    exact ⟨_, gives_of_message takeFenceAck hm hhead rfl, takeFenceAck_not_ready (f := messageTaken s.fab) hx hsig h1 hr⟩
  case early =>
    have hgives : Gives (.fenceSignalResend stag) s (resendSignal stag.toNat s.fab) :=
      gives_of_onFab (fun _ f => resendSignal stag.toNat f) hm rfl
    rwa [resendSignal_early hsig hr hbefore] at hgives
  case again =>
    exact ⟨_, gives_of_onFab (c := .fenceSignalResend stag) (fun _ f => resendSignal stag.toNat f) hm rfl,
      resendSignal_again hx hsig hr hover hroute⟩

end Sys2Proof.Machine
end

section
/-!
SUPPORT. How MARCH, SCRUB, LINK_TRAIN, MAP_LOAD, MIGRATE and SAVE start where they are admitted (R174, R185, R212, R244, R255, R278);
then obligation O38.
-/

namespace Sys2Proof.Machine

theorem toNat_div_of_lt {n k : Nat} {w : BitVec n} (h : w.toNat < 2 ^ k) : (w.toNat / 2 ^ k != 0) = false := by
  rw [Nat.div_eq_of_lt h]
  rfl

/-- In ON nothing holds an operation (R315). -/
theorem holdIdle_on {h : BitVec 16} {f : Fab} (hst : f.pwr.st = 0) : holdIdle h f = f := if_neg (by rw [hst]; decide)

/-! ### LINK_TRAIN of one port (R174) -/

/-- The argument of a LINK_TRAIN of one port. -/
theorem trainMask_one (k : Fin 5) : trainMask (BitVec.ofNat 32 (2 ^ k.val)) = [k.val] ∧
    (BitVec.ofNat 32 (2 ^ k.val)).toNat / 512 = 0 ∧ fld (BitVec.ofNat 32 (2 ^ k.val)) 5 3 = 0 ∧
    bitAt (BitVec.ofNat 32 (2 ^ k.val)) 8 = false := by
  revert k
  decide

theorem linkEmptied_lop (k : Nat) (st : LinkState) (f : Fab) : (linkEmptied k st f).lop = f.lop := by
  rw [linkEmptied, onLink_lop, onLink_lop, clearSwaps_lop]

section
variable {k : Nat} {h : BitVec 16} {f : Fab} (hfar : farEnds f = [])
include hfar

/-- A port that begins to train carries nothing any more, and no long operation changes. -/
theorem openTraining_trains : (linkOf (openTraining k h false f) k).st = .training ∧
    (linkOf (openTraining k h false f) k).train = some (h, false) ∧ (openTraining k h false f).lop = f.lop := by
  have htraffic := dropLink_traffic hfar k .training
  have hlink := htraffic.st_eq k
  have hopens : openTraining k h false f =
      onLink (dropLink k .training f) k fun x => { x with train := some (h, false), timedOut := false } := rfl
  rw [hopens, onLink_self, onLink_lop, htraffic.lop_eq]
  exact ⟨hlink.trans (by rw [linkEmptied_linkOf]; rfl), rfl, linkEmptied_lop ..⟩

end

/-- A LINK_TRAIN joins the trainings (R174). -/
def trainJoined (h : BitVec 16) (w : BitVec 32) (f : Fab) : Fab := onLop f fun l => { l with trains := l.trains ++ [(h, w)] }

section
variable {k : Nat} {h : BitVec 16} {w : BitVec 32} {f : Fab} (hmask : trainMask w = [k]) (hfull : bitAt w 8 = false)
  (hup : linkUp f k = false)
include hmask hfull hup

theorem beginTrain_one : beginTrain h w f = openTraining k h false f := by
  simp [beginTrain, hmask, hfull, hup, each]

/-- A LINK_TRAIN of one port that nothing refuses begins at once in ON. -/
theorem startTrain_one (hhigh : w.toNat / 512 = 0) (hres : fld w 5 3 = 0) (hp : linkPresent f k = true) (hf : f.start.fawn = false)
    (ht : (linkOf f k).train = none) (hruns : ∀ t ∈ f.lop.trains, k ∉ trainMask t.2) (hst : f.pwr.st = 0) :
    startTrain h w f = openTraining k h false (trainJoined h w f) := by
  have hidle : (f.lop.trains.any fun t => (trainMask t.2).contains k) = false :=
    List.any_eq_false.mpr fun t hmem => by simpa using hruns t hmem
  rw [startTrain, if_neg]
  · dsimp only
    rw [hst, if_neg (by decide)]
    exact beginTrain_one hmask hfull (show linkUp (trainJoined h w f) k = false from hup)
  · rw [hmask, hhigh, hres, hf]
    simp only [List.any_cons, List.any_nil, hp, ht, hidle]
    exact Bool.false_ne_true

end

/-! ### MAP_LOAD (R212) -/

/-- A MAP_LOAD as it is accepted. -/
def newLoad (h : BitVec 16) (w0 w1 w2 w3 : BitVec 32) : MapLoadRun := ⟨h, w0, w1, w2, w3, [], 0, none, false, false, none⟩

/-- The map with a MAP_LOAD under way. -/
def loadBegun (l : MapLoadRun) (f : Fab) : Fab := { f with map := { f.map with load := some l } }

/-- Why a MAP_LOAD is refused (R212), beyond what its words leave reserved. -/
def loadUnfit (w0 w1 w3 : BitVec 32) (f : Fab) : Bool :=
  let drop := fld w0 0 2 == 2
  fld w0 0 2 == 3
    || (!drop && !bitAt w1 0 && (fld w1 18 2 == 3 || !placeOk (fld w1 1 9) (fld w1 10 8) (stripeOf (fld w1 18 2)) (fld w0 2 13 / 32)))
    || (!drop && bitAt w1 0 && !stackUp f (fld w1 1 4)) || (fld w0 0 2 != 0 && decide (131072 < fld w3 0 17 + (fld w0 2 13 + 1)))

/-- A MAP_LOAD that does not clear is unfit by its source alone where its run of entries exists. -/
theorem loadUnfit_eq {w0 w1 w3 : BitVec 32} {f : Fab} (hmode : fld w0 0 2 < 2)
    (hrun : fld w0 0 2 = 1 → fld w3 0 17 + fld w0 2 13 + 1 ≤ 131072) : loadUnfit w0 w1 w3 f =
      (!bitAt w1 0 && (fld w1 18 2 == 3 || !placeOk (fld w1 1 9) (fld w1 10 8) (stripeOf (fld w1 18 2)) (fld w0 2 13 / 32))
        || bitAt w1 0 && !stackUp f (fld w1 1 4)) := by
  have hm : fld w0 0 2 = 0 ∨ fld w0 0 2 = 1 := by omega
  rcases hm with hm | hm
  · simp [loadUnfit, hm]
  · have hfits : ¬ 131072 < fld w3 0 17 + (fld w0 2 13 + 1) := by have := hrun hm; omega
    simp [loadUnfit, hm, hfits]

theorem askRecords_map (l : MapLoadRun) (f : Fab) : (askRecords l f).map = f.map := by
  unfold askRecords
  dsimp only
  split <;> rfl

section
variable {h : BitVec 16} {w0 w1 w2 w3 : BitVec 32} {f : Fab} (h0 : w0.toNat < 2 ^ 15) (h1 : w1.toNat < 2 ^ 20) (h3 : w3.toNat < 2 ^ 17)
  (hload : f.map.load = none) (hfit : loadUnfit w0 w1 w3 f = false)
include h0 h1 h3 hload hfit

theorem startLoad_begins : startLoad h w0 w1 w2 w3 f =
    if fld w0 0 2 == 2 then onLoad (fun l => { l with checked := true }) (loadBegun (newLoad h w0 w1 w2 w3) f)
    else if !(fld w0 0 2 == 2) && !bitAt w1 0 then loadBegun (newLoad h w0 w1 w2 w3) f
    else askRecords (newLoad h w0 w1 w2 w3) (loadBegun (newLoad h w0 w1 w2 w3) f) := by
  refine if_neg ?_
  rw [toNat_div_of_lt h0, toNat_div_of_lt h1, toNat_div_of_lt h3, hload]
  rw [Bool.not_eq_true]
  refine Eq.trans ?_ hfit
  simp only [Bool.false_or, Option.isSome_none, Bool.or_false]
  rfl

theorem acceptLoad_clears (hmode : fld w0 0 2 = 2) :
    acceptLoad h w0 w1 w2 w3 f = onLoad (fun l => { l with checked := true }) (loadBegun (newLoad h w0 w1 w2 w3) f) := by
  have hbegins := startLoad_begins (h := h) (w2 := w2) h0 h1 h3 hload hfit
  rw [if_pos (beq_iff_eq.mpr hmode)] at hbegins
  rw [acceptLoad, hbegins]
  refine if_neg ?_
  change ¬ (fld w0 0 2 != 2 && !bitAt w1 0) = true
  rw [hmode]
  exact Bool.false_ne_true

variable (hmode : fld w0 0 2 < 2) (hst : f.pwr.st = 0)
include hmode

include hst in
theorem acceptLoad_bank (hbank : bitAt w1 0 = false) : acceptLoad h w0 w1 w2 w3 f = loadBegun (newLoad h w0 w1 w2 w3) f := by
  have hbegins := startLoad_begins (h := h) (w2 := w2) h0 h1 h3 hload hfit
  have hother : (fld w0 0 2 == 2) = false := by simp; omega
  rw [hother, hbank] at hbegins
  have hbegun : startLoad h w0 w1 w2 w3 f = loadBegun (newLoad h w0 w1 w2 w3) f := hbegins
  have hheld : holdIdle h (loadBegun (newLoad h w0 w1 w2 w3) f) = loadBegun (newLoad h w0 w1 w2 w3) f := holdIdle_on hst
  rw [acceptLoad, hbegun]
  change (if _ then holdIdle h _ else loadBegun _ _) = _
  rw [hheld, ite_self]

theorem acceptLoad_stack (hstack : bitAt w1 0 = true) :
    acceptLoad h w0 w1 w2 w3 f = askRecords (newLoad h w0 w1 w2 w3) (loadBegun (newLoad h w0 w1 w2 w3) f) := by
  have hbegins := startLoad_begins (h := h) (w2 := w2) h0 h1 h3 hload hfit
  have hother : (fld w0 0 2 == 2) = false := by simp; omega
  rw [hother, hstack] at hbegins
  have hbegun : startLoad h w0 w1 w2 w3 f = askRecords (newLoad h w0 w1 w2 w3) (loadBegun (newLoad h w0 w1 w2 w3) f) := hbegins
  rw [acceptLoad, hbegun, askRecords_map]
  refine if_neg ?_
  change ¬ (fld w0 0 2 != 2 && !bitAt w1 0) = true
  rw [hstack]
  simp

end

/-! ### MIGRATE (R185) -/

/-- A MIGRATE as it is accepted, with the chunks of its stream (R186). -/
def newMigrate (h : BitVec 16) (w0 w1 w2 w3 w4 : BitVec 32) (tag : BitVec 16) (l : List MigEntry) : Migrate :=
  let m : Migrate := ⟨h, w0, w1, w2, w3, w4, tag, l, [], 0, 0, 0, 0, 0, false⟩
  { m with chunks := (streamBytes m + 575) / 576 }

/-- A MIGRATE that nothing refuses joins the others with its source entries and is driven. -/
theorem startMigrate_joins {h : BitVec 16} {w0 w1 w2 w3 w4 : BitVec 32} {f g : Fab} {l : List MigEntry} (h0 : w0.toNat < 2 ^ 29)
    (h1 : w1.toNat < 2 ^ 20) (h2 : w2.toNat < 2 ^ 17) (h4 : w4.toNat < 2 ^ 16) (hne : w4 ≠ 0) (hdrop : bitAt w0 27 = true → bitAt w0 28 = true)
    (hdest : fld w1 0 16 ≠ (instanceId f).toNat) (hf : f.start.fawn = false) (hroom : f.lop.migs.length < 4)
    (hsrc : sourceEntries w4.toNat (fld w0 17 10 + 1) (fld w0 0 17) 0 f = (some l, g)) :
    ∃ m : Migrate, m.handle = h ∧ m.entries = l ∧ m.meTag = g.map.epoch ∧ m.segs = [] ∧ m.sent = 0 ∧
      startMigrate h w0 w1 w2 w3 w4 f = driveMigrate h (onLop g fun x => { x with migs := x.migs ++ [m] }) := by
  have hgood : (w0.toNat / 2 ^ 29 != 0 || w1.toNat / 2 ^ 20 != 0 || w2.toNat / 2 ^ 17 != 0 || w4.toNat / 2 ^ 16 != 0 || w4 == 0
      || (bitAt w0 27 && !bitAt w0 28) || fld w1 0 16 == (instanceId f).toNat || f.start.fawn || decide (4 ≤ f.lop.migs.length)) = false := by
    rw [toNat_div_of_lt h0, toNat_div_of_lt h1, toNat_div_of_lt h2, toNat_div_of_lt h4, hf]
    have hmap : (bitAt w0 27 && !bitAt w0 28) = false := by
      cases hb : bitAt w0 27 with
      | false => rfl
      | true => rw [hdrop hb]; rfl
    rw [beq_eq_false_iff_ne.mpr hne, hmap, beq_eq_false_iff_ne.mpr hdest, decide_eq_false (by omega)]
    rfl
  refine ⟨newMigrate h w0 w1 w2 w3 w4 g.map.epoch l, rfl, rfl, rfl, rfl, rfl, (if_neg (Bool.eq_false_iff.mp hgood)).trans ?_⟩
  rw [hsrc]
  rfl

/-! ### SCRUB and SAVE (R244, R278) -/

/-- With no march under way no bank is under one. -/
theorem destroyed_of_no_march {f : Fab} (h : f.integ.march = none) (b : Nat) : destroyed f b = false := by
  rw [destroyed, borrowedBy, h]
  rfl

/-- A SCRUB that nothing refuses stands for its group. -/
theorem startScrub_stands {h : BitVec 16} {w : BitVec 32} {f : Fab} (hres : bitAt w 31 = false) (hbanks : scFirstBank w ≤ scLastBank w)
    (hrows : scFirstRow w ≤ scLastRow w) (hfree : tget none f.integ.scrubs (fld w 0 4) = none) (hmarch : f.integ.march = none) :
    startScrub h w f =
      onInteg f fun i => { i with scrubs := tset none i.scrubs (fld w 0 4) (some ⟨h, w, 0, 0, 0, 0, none, none, 0, 0⟩) } := by
  have hgood : (bitAt w 31 || decide (scLastBank w < scFirstBank w) || decide (scLastRow w < scFirstRow w)
      || (tget none f.integ.scrubs (fld w 0 4)).isSome) = false := by
    rw [hres, hfree, decide_eq_false (by omega), decide_eq_false (by omega)]
    rfl
  refine (if_neg (Bool.eq_false_iff.mp hgood)).trans (if_neg ?_)
  rw [List.any_eq_true]
  rintro ⟨b, -, hb⟩
  rw [destroyed_of_no_march hmarch] at hb
  cases hb

/-- A SAVE with none waiting waits alone. -/
theorem startSave_waits {h : BitVec 16} {f : Fab} (hsec : f.sec.st ≠ 0) (hnone : f.img.waiting = none) :
    startSave h f = setPending h (some sQueued) (onImg f fun i => { i with waiting := some ⟨[h], false, 0, false, [], false, false⟩ }) := by
  rw [startSave, if_neg hsec, joinSave, hnone]
  rfl

/-- Settles O38: each operation's start in ON, from the fabric that has given it its handle. -/
theorem storageOperationsStart : Obligations.StorageOperationsStart := by
  unfold Obligations.StorageOperationsStart
  intro s hr
  obtain ⟨-, hst, -⟩ := id hr
  refine ⟨fun w0 w1 hok => ?march, fun w hres hbanks hrows hfree hmarch => ?scrub, fun k hp hf ht hup hruns hfar => ?train,
    fun w0 w1 w2 w3 h0 h1 h3 hload hmode hfit => ?clear, fun w0 w1 w2 w3 h0 h1 h3 hload hmode hfit => ⟨?bank, ?stack⟩,
    fun w0 w1 w2 w3 w4 h0 h1 h2 h4 hne hdrop hdest hf hroom l g hsrc => ?migrate, fun hsec hnone => ?save⟩
  case march =>
    have hgives := gives_started hr (c := .march w0 w1) (opcode := 1) (start := fun h f => startMarch h w0 w1 f) rfl
    have hstart : startMarch (newHandle s.fab) w0 w1 (handleTaken 1 s.fab) =
        onInteg (handleTaken 1 s.fab) fun i => { i with march := some (newMarch (newHandle s.fab) w0 w1) } :=
      if_neg (Bool.eq_false_iff.mp hok)
    rw [show BitVec.ofNat 8 1 = 1 from rfl, hstart] at hgives
    exact ⟨_, hgives, ⟨rfl, rfl⟩, rfl⟩
  case scrub =>
    have hgives := gives_started hr (c := .scrub w) (opcode := 2) (start := fun h f => holdIdle h (startScrub h w f)) rfl
    rw [show BitVec.ofNat 8 2 = 2 from rfl, startScrub_stands (f := handleTaken 2 s.fab) hres hbanks hrows hfree hmarch,
      holdIdle_on (by exact hst)] at hgives
    exact ⟨_, hgives, ⟨rfl, rfl⟩, tget_tset_self none s.fab.integ.scrubs (fld w 0 4) (some ⟨newHandle s.fab, w, 0, 0, 0, 0, none, none, 0, 0⟩)⟩
  case train =>
    obtain ⟨hmask, hhigh, hreserved, hfull⟩ := trainMask_one k
    have hgives := gives_started hr (c := .linkTrain (BitVec.ofNat 32 (2 ^ k.val))) (opcode := 6)
      (start := fun h f => startTrain h (BitVec.ofNat 32 (2 ^ k.val)) f) rfl
    rw [show BitVec.ofNat 8 6 = 6 from rfl, startTrain_one (f := handleTaken 6 s.fab) hmask hfull hup hhigh hreserved hp hf ht hruns hst]
      at hgives
    have hquiet : farEnds (trainJoined (newHandle s.fab) (BitVec.ofNat 32 (2 ^ k.val)) (handleTaken 6 s.fab)) = [] := hfar
    obtain ⟨hstate, htrain, hlop⟩ := openTraining_trains (k := k) (h := newHandle s.fab) hquiet
    exact ⟨_, hgives, ⟨by rw [hlop]; rfl, by rw [hlop]; rfl⟩, hstate, htrain, by rw [hlop]; rfl⟩
  case clear =>
    have hgives := gives_started hr (c := .mapLoad w0 w1 w2 w3) (opcode := 9) (start := fun h f => acceptLoad h w0 w1 w2 w3 f) rfl
    have hok : loadUnfit w0 w1 w3 (handleTaken 9 s.fab) = false := by
      rw [loadUnfit, hmode, decide_eq_false (by omega)]
      rfl
    rw [show BitVec.ofNat 8 9 = 9 from rfl, acceptLoad_clears (f := handleTaken 9 s.fab) (h := newHandle s.fab) (w2 := w2)
      h0 h1 h3 hload hok hmode] at hgives
    exact ⟨_, { newLoad (newHandle s.fab) w0 w1 w2 w3 with checked := true }, hgives, ⟨rfl, rfl⟩, rfl, rfl, rfl, rfl, rfl⟩
  case bank =>
    intro hbank hs hplace
    have hgives := gives_started hr (c := .mapLoad w0 w1 w2 w3) (opcode := 9) (start := fun h f => acceptLoad h w0 w1 w2 w3 f) rfl
    have hok : loadUnfit w0 w1 w3 (handleTaken 9 s.fab) = false := by
      rw [loadUnfit_eq hmode hfit, hbank, hplace, beq_eq_false_iff_ne.mpr hs]
      rfl
    rwa [show BitVec.ofNat 8 9 = 9 from rfl, acceptLoad_bank (f := handleTaken 9 s.fab) (h := newHandle s.fab) (w2 := w2) h0 h1 h3 hload hok
      hmode hst hbank] at hgives
  case stack =>
    intro hstack hsup
    have hgives := gives_started hr (c := .mapLoad w0 w1 w2 w3) (opcode := 9) (start := fun h f => acceptLoad h w0 w1 w2 w3 f) rfl
    have hok : loadUnfit w0 w1 w3 (handleTaken 9 s.fab) = false := by
      rw [loadUnfit_eq hmode hfit, hstack, show stackUp (handleTaken 9 s.fab) (fld w1 1 4) = true from hsup]
      rfl
    rwa [show BitVec.ofNat 8 9 = 9 from rfl, acceptLoad_stack (f := handleTaken 9 s.fab) (h := newHandle s.fab) (w2 := w2) h0 h1 h3 hload hok
      hmode hstack] at hgives
  case migrate =>
    have hgives := gives_started hr (c := .migrate w0 w1 w2 w3 w4) (opcode := 0xA)
      (start := fun h f => holdIdle h (startMigrate h w0 w1 w2 w3 w4 f)) rfl
    obtain ⟨m, hhandle, hentries, htag, hsegs, hsent, hjoins⟩ := startMigrate_joins (h := newHandle s.fab) (w3 := w3)
      (f := handleTaken 0x0A s.fab) h0 h1 h2 h4 hne hdrop hdest hf hroom hsrc
    rw [show BitVec.ofNat 8 0xA = 0x0A from rfl, hjoins] at hgives
    exact ⟨m, hhandle, hentries, htag, hsegs, hsent, hgives⟩
  case save =>
    have hgives := gives_started hr (c := .save) (opcode := 7) (start := fun h f => startSave h f) rfl
    rw [startSave_waits (f := handleTaken (BitVec.ofNat 8 7) s.fab) hsec hnone] at hgives
    exact ⟨_, _, hgives, rfl, rfl, rfl, rfl, rfl⟩

end Sys2Proof.Machine
end

section
/-!
SUPPORT. A stack port whose every tag is outstanding gives a chunk's WRITE a tag that another request bears (R192); with it obligation
O28 is refuted.
-/

namespace Sys2Proof.Machine

/-! ### A beat that has moved leaves the tags of the stack ports (R192) -/

@[simp] theorem completeOp_kports (h : BitVec 16) (st r0 r1 r2 r3 : Nat) (f : Fab) :
    (completeOp h st r0 r1 r2 r3 f).kports = f.kports := by
  unfold completeOp completeWith
  split
  · rfl
  · simp [takeStamp]

theorem each_kports {α : Type} (l : List α) (g : Fab → α → Fab) (f : Fab) (h : ∀ f a, (g f a).kports = f.kports) :
    (each l g f).kports = f.kports := each_proj Fab.kports l g (fun f a _ => h f a) f

@[simp] theorem boundary_kports (p n : Nat) (f : Fab) : (boundary p n f).kports = f.kports := by
  unfold boundary
  dsimp only
  split
  · simp
  · rw [endCommits, each_kports _ _ _ fun _ _ => completeOp_kports ..]
    simp

@[simp] theorem finishRound_kports (p : Nat) (f : Fab) : (finishRound p f).kports = f.kports := by
  unfold finishRound
  split
  · simp
  · have hcounted : ∀ (l : List Nat) (f : Fab), (each l (fun f q => countQueue q 3 1 f) f).kports = f.kports := fun l f =>
      each_kports _ _ _ fun _ _ => countQueue_kports ..
    simp [apply_ite Fab.kports, hcounted]

@[simp] theorem discardBurst_kports (p guard : Nat) (b : Burst) (f : Fab) : (discardBurst p guard b f).kports = f.kports := by
  simp [discardBurst, takeBack, onReq, onFlight, apply_ite Fab.kports]

theorem kportOf_of_kports {f g : Fab} (h : g.kports = f.kports) (k : Nat) : kportOf g k = kportOf f k := by rw [kportOf, h, kportOf]

theorem kportOf_onKport (k : Nat) (g : KPort → KPort) (f : Fab) : kportOf (onKport f k g) k = g (kportOf f k) := tget_tset_self ..

/-- What changes no port's tags leaves them on a port changed. -/
theorem onKport_tags {g : KPort → KPort} (h : ∀ x, (g x).tags = x.tags) (f : Fab) (j k : Nat) :
    (kportOf (onKport f j g) k).tags = (kportOf f k).tags := by
  by_cases hj : k = j
  · rw [hj, kportOf_onKport, h]
  · rw [kportOf, onKport, tget_tset_ne _ _ _ hj, kportOf]

theorem settleBurst_tags (b : Burst) (k : Nat) (f : Fab) : (kportOf (settleBurst b f) k).tags = (kportOf f k).tags := by
  unfold settleBurst
  split
  · simp [kportOf, apply_ite Fab.kports]
  · split
    · rfl
    · split
      · rfl
      · split
        · rfl
        · split
          · rfl
          · dsimp only
            rw [each_proj (fun f => (kportOf f k).tags)]
            intro f j _
            refine onKport_tags ?_ f j k
            intro y
            rfl
          · rw [kportOf_of_kports (each_kports _ _ _ fun f c => onCluster_kports ..)]
          · rw [kportOf_of_kports (each_kports _ _ _ fun f c => onCluster_kports ..)]
          · rfl

theorem afterBeat_tags (p k : Nat) (f : Fab) : (kportOf (afterBeat p f) k).tags = (kportOf f k).tags := by
  unfold afterBeat
  split
  · rfl
  · dsimp only
    split
    · simp [kportOf, onBurst]
    · split
      · simp [kportOf, onBurst]
      · split
        · rw [kportOf_of_kports (finishRound_kports ..), settleBurst_tags]
          simp [kportOf, onBurst]
        · simp [kportOf, onBurst]

/-! ### The tags that a chunk's WRITE leaves (R192, R198) -/

@[simp] theorem sendSop_kports (k : Nat) (h : BitVec 256) (d : Option Row) (f : Fab) : (sendSop k h d f).kports = f.kports :=
  sendSop_proj Fab.kports emit_kports injFired_kports k h d f

/-- A row of the request under `tag` counted as sent. -/
def rowSent (tag : BitVec 16) (u : SopTag) : SopTag := if u.tag = tag then { u with index := u.index + 1 } else u

theorem sendRequest_tags (k : Nat) (j : Job) (f : Fab) :
    (kportOf (sendRequest k j f).2 k).tags = (kportOf f k).tags ++ [(sendRequest k j f).1] := by
  simp only [sendRequest]
  rw [kportOf, sendSop_kports, ← kportOf, kportOf_onKport]

theorem sendData_tags (k : Nat) (t : SopTag) (row : Row) (poison : Bool) (m : Nat) (f : Fab) :
    (kportOf (sendData k t row poison m f) k).tags = (kportOf f k).tags.map (rowSent t.tag) := by
  simp only [sendData, onTag, kportOf_onKport]
  simp only [kportOf, countStack_kports, sendSop_kports]
  rfl

/-- A chunk's WRITE stands last of its port's tags, and every request that bears its tag has a row more sent. -/
theorem writeChunk_tags (k i : Nat) (c : Ctx) (x : InFlit) (f : Fab) :
    ∃ t, (kportOf (writeChunk k i c x f) k).tags = ((kportOf f k).tags ++ [t]).map (rowSent t.tag) := by
  have hcounted (lost : Bool) : kportOf (if lost then countLink x.link 4 1 f else f) k = kportOf f k := by
    cases lost
    · rfl
    · exact kportOf_of_kports (countLink_kports ..) k
  unfold writeChunk
  refine ⟨_, (sendData_tags ..).trans (congrArg _ ((sendRequest_tags ..).trans ?_))⟩
  rw [hcounted]

/-- No list of tags, one of which bears the new tag, stands as it was before the new one. -/
theorem rowSent_changes {l : List SopTag} {t u : SopTag} (h : ∃ v ∈ l, v.tag = t.tag) : (l ++ [t]).map (rowSent t.tag) ≠ l ++ [u] := by
  obtain ⟨v, hv, htag⟩ := h
  intro heq
  rw [List.map_append] at heq
  have hsame := List.map_inj_left.mp ((List.append_inj' heq rfl).1.trans (List.map_id l).symm) v hv
  have hindex := congrArg SopTag.index hsame
  simp [rowSent, htag] at hindex

theorem markFlit_tags (i k : Nat) (f : Fab) : (kportOf (markFlit i f) k).tags = (kportOf f k).tags := rfl

/-! ### A STREAM chunk at a port with no tag left (R163, R192) -/

/-- A chunk whose port is up with room for it is written, and its beat has moved (R163). -/
theorem inboundChunk_writes {slots : Tbl (BitVec 16)} {p k : Nat} {f : Fab} {b : Burst} {c : Ctx} {x : InFlit}
    (hp : checkPreempt slots p f = f) (hb : burstOf (portOf f p) = some b) (hr : b.req = rInbound) (hc : ctxOf f b.leg = some c)
    (hx : nextFlit f b.leg = some x) (hm : cMode c.req = 2) (hk : servingPort f (streamStack c.req) = some k)
    (hup : (kportOf f k).st = .up) (hslots : (kportOf f k).slots ≠ 0) (hunits : 9 ≤ (kportOf f k).units) :
    inboundChunk slots p f = afterBeat p (markFlit b.leg (writeChunk k b.leg c x f)) := by
  simp [inboundChunk, hp, hb, hr, streamBeat, hc, hx, hm, hk, hup, hslots, hunits]

/-- A WRITE of one row that waits for its acknowledgement. -/
def openWrite (n : Nat) : SopTag := ⟨BitVec.ofNat 16 n, ⟨.inbound 0, 2, 0, 0, 1, false⟩, 1, false, .running, false⟩

/-- A request outstanding under every tag. -/
def everyTag : List SopTag := (List.range (2 ^ 16)).map openWrite

theorem everyTag_bears (t : BitVec 16) : ∃ v ∈ everyTag, v.tag = t :=
  ⟨openWrite t.toNat, List.mem_map.mpr ⟨_, List.mem_range.mpr t.isLt, rfl⟩, by simp [openWrite]⟩

/-- A grant of two STREAM chunks for stack 0 (R161). -/
def streamCtx : Ctx := ⟨1, BitVec.ofNat 512 (place [(0, 1), (48, 2), (56, 1)]), 2, 1, 0, false, [], 0⟩

/-- Its first chunk, as it arrived. -/
def chunkFlit : InFlit := ⟨flitOf 2 0 0 0 0 0 false false false 5, 0, false, false⟩

/-- The INBOUND burst of that chunk, granted by its slot. -/
def chunkBurst : Burst := ⟨rInbound, 0, 0, .owned, 1, 0, 0, 0, 0, false, false, false, true⟩

/-- As at reset, but for the burst under way on XP0, and a stack port 0 that is up with a slot and with requests `l` outstanding. -/
def chunkState (l : List SopTag) : State :=
  { slots := []
    fab := { State.reset.fab with
      dom := { ctxs := [(0, some streamCtx)], inbound := [chunkFlit] }
      ports := [(16, { cur := .burst chunkBurst })]
      kports := [(0, { st := .up, slots := 1, units := 9, tags := l })] }
    pending := [] }

theorem streamCtx_mode : cMode streamCtx.req = 2 := by decide +kernel

section
variable (l : List SopTag)

theorem chunkState_runs : Runs .main (chunkState l) := ⟨rfl, show alive .main State.reset.fab = true by decide⟩

theorem chunkState_tags : (kportOf (chunkState l).fab 0).tags = l := rfl

theorem chunkState_serves : servingPort (chunkState l).fab (streamStack streamCtx.req) = some 0 :=
  show servingPort State.reset.fab (streamStack streamCtx.req) = some 0 by decide +kernel

theorem chunkState_nextFlit : nextFlit (chunkState l).fab 0 = some chunkFlit := by
  have hctx : fCtx chunkFlit.bits = 0 := by decide +kernel
  have hmoved : chunkFlit.moved = false := rfl
  simp [nextFlit, chunkState, hctx, hmoved]

theorem chunkState_undisturbed : checkPreempt (chunkState l).slots 16 (chunkState l).fab = (chunkState l).fab :=
  checkPreempt_of_owned (b := chunkBurst) rfl rfl

theorem chunkState_writes : Gives (.streamFlit 0) (chunkState l)
    (afterBeat 16 (markFlit 0 (writeChunk 0 0 streamCtx chunkFlit (chunkState l).fab))) := by
  have hgives : Gives (.streamFlit 0) (chunkState l) (inboundChunk (chunkState l).slots 16 (chunkState l).fab) :=
    gives_of_onFab (fun slots f => inboundChunk slots 16 f) (chunkState_runs l) rfl
  rwa [inboundChunk_writes (chunkState_undisturbed l) (b := chunkBurst) rfl rfl rfl (chunkState_nextFlit l) streamCtx_mode
    (chunkState_serves l) rfl Nat.one_ne_zero (Nat.le_refl 9)] at hgives

/-- With every tag borne, the tags that the chunk leaves are not those before with one more. -/
theorem chunkState_retags (h : ∀ t, ∃ v ∈ l, v.tag = t) {f : Fab} (hf : Gives (.streamFlit 0) (chunkState l) (afterBeat 16 f))
    (t : SopTag) : (kportOf f 0).tags ≠ l ++ [t] := by
  have hsame := congrArg (fun f => (kportOf f 0).tags) ((chunkState_writes l).unique hf)
  obtain ⟨u, hu⟩ := writeChunk_tags 0 0 streamCtx chunkFlit (chunkState l).fab
  simp only [afterBeat_tags, markFlit_tags, hu, chunkState_tags] at hsame
  rw [← hsame]
  exact rowSent_changes (h u.tag)

end

/-- Refutes O28: its clause on STREAM chunks does not bound the requests outstanding.  With a slot to take but all 2^16 tags outstanding
(`chunkState everyTag`), the chunk goes out under a tag that another request bears (log 20), and the row sent is counted for both, so the
port's tags are not those before with one more. -/
theorem not_inboundMovesRows : ¬ Obligations.InboundMovesRows := by
  unfold Obligations.InboundMovesRows
  rintro ⟨-, hstream, -⟩
  have hkport (l : List SopTag) : ∃ f t, Gives (.streamFlit 0) (chunkState l) (afterBeat 16 f) ∧ (kportOf f 0).tags = l ++ [t] := by
    obtain ⟨f, t, hf, -, htags, -⟩ := (hstream 0 (chunkState l) chunkBurst streamCtx chunkFlit (chunkState_runs l) rfl rfl
      (chunkState_undisturbed l) rfl (chunkState_nextFlit l)).2 0 streamCtx_mode (chunkState_serves l) rfl Nat.one_ne_zero (Nat.le_refl 9)
    exact ⟨f, t, hf, htags⟩
  obtain ⟨f, t, hf, htags⟩ := hkport everyTag
  exact chunkState_retags everyTag everyTag_bears hf t htags

end Sys2Proof.Machine
end

section
/-!
SUPPORT. The oldest request of a stack port: whether it stays, and what its going out leaves (R192, R195, R196); then obligation O31.
-/

namespace Sys2Proof.Machine

/-! ### A request sent (R192) -/

theorem sendSop_out (k : Nat) (h : BitVec 256) (f : Fab) : ∃ h', (sendSop k h none f).out = .sop k h' none :: f.out :=
  ⟨_, congrArg (_ :: ·) (when_proj Fab.out rfl)⟩

theorem sendSop_store (k : Nat) (h : BitVec 256) (d : Option Row) (f : Fab) : (sendSop k h d f).store = f.store :=
  sendSop_proj Fab.store (fun _ _ => rfl) (fun _ => rfl) k h d f

/-- A request sent bears its tag last of the port's, and has taken a slot. -/
theorem sendRequest_kport (k : Nat) (j : Job) (f : Fab) : kportOf (sendRequest k j f).2 k =
    { kportOf f k with tags := (kportOf f k).tags ++ [(sendRequest k j f).1], slots := (kportOf f k).slots - 1
                       nextTag := (sendRequest k j f).1.tag + 1 } :=
  (kportOf_of_kports (sendSop_kports ..) k).trans (kportOf_onKport ..)

theorem sendRequest_puts_out (k : Nat) (j : Job) (f : Fab) : (∃ h, (sendRequest k j f).2.out = .sop k h none :: f.out) ∧
    (sendRequest k j f).2.store = f.store := by
  simp only [sendRequest]
  obtain ⟨h, hout⟩ := sendSop_out k (putf j.hdr 16 16 (freeTag (kportOf f k).tags ((kportOf f k).tags.length + 1)
    (kportOf f k).nextTag).toNat) (onKport f k fun x => { x with
      tags := x.tags ++
        [⟨freeTag (kportOf f k).tags ((kportOf f k).tags.length + 1) (kportOf f k).nextTag, j, 0, false, .running, false⟩]
      slots := x.slots - 1, nextTag := freeTag (kportOf f k).tags ((kportOf f k).tags.length + 1) (kportOf f k).nextTag + 1 })
  exact ⟨⟨h, hout⟩, sendSop_store ..⟩

/-! ### The oldest request (R195, R196) -/

/-- Rows of a request that have room in its port's receive buffer: of a READ as many as there are, of another request all or none. -/
def rowsWithRoom (f : Fab) (k : Nat) (j : Job) : Nat :=
  let room := if j.op = 2 then j.rows else rxFree f k
  if j.op = 1 then min j.rows room else if j.rows ≤ room then j.rows else 0

/-- The first `n` rows of a request. -/
def firstRows (j : Job) (n : Nat) : Job := { j with rows := n, hdr := putf j.hdr 88 8 (n - 1) }

/-- A request but for its first `n` rows. -/
def laterRows (j : Job) (n : Nat) : Job :=
  { j with rows := j.rows - n, base := j.base + n
           hdr := putf (putf j.hdr 40 38 (sAddr j.hdr + n * sStride j.hdr)) 88 8 (j.rows - n - 1) }

theorem firstRows_asks (j : Job) (n : Nat) : (firstRows j n).owner = j.owner ∧ (firstRows j n).op = j.op ∧ (firstRows j n).rows = n ∧
    (firstRows j n).base = j.base := by
  rw [firstRows]
  exact ⟨rfl, rfl, rfl, rfl⟩

section
variable {k : Nat} {f : Fab} {j : Job} {rest : List Job} (hj : (kportOf f k).jobs = j :: rest)
include hj

theorem sendNext_eq : sendNext k f =
    if (kportOf f k).st ≠ .up ∨ (stackRoom f k).1 = 0 ∨ rowsWithRoom f k j = 0 then f
    else (sendRequest k (firstRows j (rowsWithRoom f k j)) (onKport f k fun x =>
      { x with jobs := if rowsWithRoom f k j = j.rows then rest else laterRows j (rowsWithRoom f k j) :: rest })).2 := by
  have hn : rowsWithRoom f k j = (if j.op == 1 then min j.rows (if j.op == 2 then j.rows else rxFree f k)
      else if j.rows ≤ (if j.op == 2 then j.rows else rxFree f k) then j.rows else 0) := by simp [rowsWithRoom]
  rw [sendNext, hj, hn]
  refine ite_congr ?_ (fun _ => rfl) fun _ => rfl
  simp [or_assoc]

theorem sendNext_stays (h : (kportOf f k).st ≠ .up ∨ (stackRoom f k).1 = 0 ∨ rowsWithRoom f k j = 0) : sendNext k f = f :=
  (sendNext_eq hj).trans (if_pos h)

variable {n : Nat} (hup : (kportOf f k).st = .up) (hslot : (stackRoom f k).1 ≠ 0) (hn : rowsWithRoom f k j = n) (h0 : n ≠ 0)
include hup hslot hn h0

theorem sendNext_sends : sendNext k f = (sendRequest k (firstRows j n) (onKport f k fun x =>
    { x with jobs := if n = j.rows then rest else laterRows j n :: rest })).2 := by
  rw [sendNext_eq hj, if_neg (by simp [hup, hslot, hn, h0]), hn]

/-- What has room goes out under a tag of its own, and what is left stays in front. -/
theorem sendNext_kport : ∃ tag, kportOf (sendNext k f) k = { kportOf f k with
    tags := (kportOf f k).tags ++ [⟨tag, firstRows j n, 0, false, .running, false⟩], slots := (kportOf f k).slots - 1
    jobs := if n = j.rows then rest else laterRows j n :: rest, nextTag := tag + 1 } := by
  rw [sendNext_sends hj hup hslot hn h0, sendRequest_kport, kportOf_onKport]
  exact ⟨_, rfl⟩

theorem sendNext_puts_out : (∃ h, (sendNext k f).out = .sop k h none :: f.out) ∧ (sendNext k f).store = f.store := by
  rw [sendNext_sends hj hup hslot hn h0]
  exact sendRequest_puts_out ..

end

/-- Settles O31: the oldest request, by whether its port is UP with a slot and room for some of its rows. -/
theorem stackRequestsGoOut : Obligations.StackRequestsGoOut := by
  unfold Obligations.StackRequestsGoOut
  intro k s j rest hm hj room n
  have hn : rowsWithRoom s.fab k j = n := rfl
  clear_value n
  have hgives : Gives (.stackRequestSend k) s (sendNext k s.fab) := gives_of_onFab (fun _ f => sendNext k f) hm rfl
  refine ⟨fun hstays => ?stays, fun hup hslot h0 => ?goes⟩
  case stays => rwa [sendNext_stays hj (by rwa [hn])] at hgives
  case goes =>
    obtain ⟨tag, hkport⟩ := sendNext_kport hj hup hslot hn h0
    obtain ⟨hout, hstore⟩ := sendNext_puts_out hj hup hslot hn h0
    obtain ⟨howner, hop, hrows, hbase⟩ := firstRows_asks j n
    refine ⟨_, ⟨tag, firstRows j n, 0, false, .running, false⟩, hgives, by rw [hkport], howner, hop, hrows, hbase, rfl, rfl,
      by rw [hkport], fun hall => ?_, fun hpart => ?_, hout, hstore⟩
    · rw [hkport]
      exact if_pos hall
    · rw [hkport]
      exact ⟨laterRows j n, if_neg (Nat.ne_of_lt hpart), rfl, rfl⟩

end Sys2Proof.Machine
end

section
/-!
SUPPORT. A response on a stack port met (R192, R194), the rows it brings and the tags it ends (R194, R197, R203); then obligation O32.
-/

namespace Sys2Proof.Machine

/-! ### A response met (R194, R202) -/

section
variable {k type : Nat} {h : BitVec 256} {d : Option Row} {f : Fab} (hup : (kportOf f k).st = .up)
include hup

theorem withResponse_badCrc (g : SopTag → Fab → Fab) (hcrc : sopCrc h d ≠ sCrc h) : withResponse k type h d g f =
    onKport (countStack k 6 1 f) k fun x => { x with tags := x.tags.map fun t => { t with crcSeen := true } } := by
  rw [withResponse, if_neg (by simp [hup]), if_pos (by simpa using hcrc)]

variable (g : SopTag → Fab → Fab) (hcrc : sopCrc h d = sCrc h) (hform : respOk h = true) (htype : sType h = type)
  (hlow : 0x81 ≤ type) (hhigh : type ≤ 0x87)
include hcrc hform htype hlow hhigh

theorem withResponse_sound : withResponse k type h d g f = (sopTagOf f k (sTag h)).elim (countStack k 7 1 f) fun t => g t f := by
  have hknown : ¬ (sType h < 0x81 || 0x87 < sType h || !respOk h) = true := by simp [hform, htype]; omega
  rw [withResponse, if_neg (by simp [hup]), if_neg (by simp [hcrc]), if_neg hknown, if_neg (by simp [htype])]
  cases sopTagOf f k (sTag h) <;> rfl

/-- A sound response that names a tag has that tag's rule. -/
theorem withResponse_met {t : SopTag} (htag : sopTagOf f k (sTag h) = some t) : withResponse k type h d g f = g t f := by
  rw [withResponse_sound hup g hcrc hform htype hlow hhigh, htag]
  rfl

theorem withResponse_unknown (htag : sopTagOf f k (sTag h) = none) : withResponse k type h d g f = countStack k 7 1 f := by
  rw [withResponse_sound hup g hcrc hform htype hlow hhigh, htag]
  rfl

end

/-- A response of a row is met as its type says where the interface is alive. -/
theorem gives_response {c : Instr} {s : State} {g : Fab → Fab} (hm : Runs .main s)
    (he : exec c s = onPin c s (onFab .main s fun _ f => g f)) :
    Gives c s (g s.fab) := gives_of_onFab (fun _ f => g f) hm (he.trans (onPin_of_main hm _))

/-! ### Tags of a port -/

theorem mem_of_sopTagOf {f : Fab} {k tag : Nat} {t : SopTag} (h : sopTagOf f k tag = some t) : t ∈ (kportOf f k).tags :=
  List.mem_of_find?_eq_some h

/-- A tag ended is on its port no more. -/
theorem tagServed_kport (k : Nat) (tag : BitVec 16) (f : Fab) : ∃ n, kportOf (tagServed k tag f) k =
    { kportOf f k with tags := (kportOf f k).tags.filter fun t => t.tag != tag, timeouts := n } := by
  rw [tagServed, kportOf_onKport, endTag, kportOf_onKport]
  exact ⟨_, rfl⟩

theorem tagServed_ends (k : Nat) (tag : BitVec 16) (f : Fab) : ∀ u ∈ (kportOf (tagServed k tag f) k).tags, u.tag ≠ tag := by
  obtain ⟨n, hkport⟩ := tagServed_kport k tag f
  intro u hu
  rw [hkport] at hu
  exact bne_iff_ne.mp (List.mem_filter.mp hu).2

theorem onTag_kport (k : Nat) (tag : BitVec 16) (g : SopTag → SopTag) (f : Fab) : kportOf (onTag k tag g f) k =
    { kportOf f k with tags := (kportOf f k).tags.map fun t => if t.tag = tag then g t else t } := kportOf_onKport ..

/-- A tag put through an update is on its port as the update leaves it. -/
theorem onTag_mem {k : Nat} {t : SopTag} {f : Fab} (g : SopTag → SopTag) (ht : t ∈ (kportOf f k).tags) :
    g t ∈ (kportOf (onTag k t.tag g f) k).tags := by
  rw [onTag_kport]
  exact List.mem_map.mpr ⟨t, ht, if_pos rfl⟩

/-! ### A data row (R194, R199) -/

/-- The row that a data message brings for a tag. -/
def rowOf (h : BitVec 256) (d : Row) (t : SopTag) : RxRow :=
  ⟨t.job.owner, t.job.base + t.index, strideBytes h d, sStatus h == 1, sPmask h, (sStride t.job.hdr + 63) / 64⟩

/-- A data row counted, and a poisoned one reported (R199). -/
def dataNoted (k sub : Nat) (h : BitVec 256) (t : SopTag) (f : Fab) : Fab :=
  let f := countStack k 4 (sStride h) (countStack k sub 1 f)
  if sStatus h == 1 then notePoison k t f else f

/-- The row in its port's receive buffer, in place of one received before, and the next expected. -/
def rowReceived (k : Nat) (r : RxRow) (t : SopTag) (f : Fab) : Fab :=
  onTag k t.tag (fun t => { t with index := t.index + 1 }) (onKport f k fun x =>
    { x with rx := (x.rx.filter fun e => !(e.owner == r.owner && e.idx == r.idx)) ++ [r] })

theorem dataNoted_same (k sub : Nat) (h : BitVec 256) (t : SopTag) (f : Fab) : SameButReports f (dataNoted k sub h t f) := by
  have hcounted : SameButReports f (countStack k 4 (sStride h) (countStack k sub 1 f)) := (count_same ..).trans (count_same ..)
  unfold dataNoted
  dsimp only
  split
  · exact hcounted.trans ((count_same ..).trans (raise_same ..))
  · exact hcounted

section
variable {k op sub : Nat} {h : BitVec 256} {d : Row} {t : SopTag} {f : Fab} {q ord : Nat}

/-- A flight's row in order is received, and the last of its request ends the tag. -/
theorem takeData_in_order (hop : t.job.op.toNat = op) (hrun : t.phase = .running) (hidx : sIndex h = t.index)
    (howner : t.job.owner = .flight q ord) : takeData k op sub h d t f =
      if sLast h || t.index + 1 == t.job.rows then tagServed k t.tag (rowReceived k (rowOf h d t) t (dataNoted k sub h t f))
      else rowReceived k (rowOf h d t) t (dataNoted k sub h t f) := by
  rw [takeData, if_neg (by simp [hop]), if_neg (by simp [hrun]), if_neg (by simp [hidx]), howner]
  simp only [rowReceived, rowOf, dataNoted, howner]

theorem rowReceived_kport (r : RxRow) (t : SopTag) (f : Fab) : kportOf (rowReceived k r t f) k = { kportOf f k with
    rx := ((kportOf f k).rx.filter fun e => !(e.owner == r.owner && e.idx == r.idx)) ++ [r]
    tags := (kportOf f k).tags.map fun u => if u.tag = t.tag then { u with index := u.index + 1 } else u } := by
  rw [rowReceived, onTag_kport, kportOf_onKport]

/-- A flight's row in order stands in the buffer, and its tag has ended or expects the next. -/
theorem takeData_receives (hop : t.job.op.toNat = op) (hrun : t.phase = .running) (hidx : sIndex h = t.index)
    (howner : t.job.owner = .flight q ord) (ht : t ∈ (kportOf f k).tags) :
    rowOf h d t ∈ (kportOf (takeData k op sub h d t f) k).rx ∧
    ((sLast h = true ∨ t.index + 1 = t.job.rows) → ∀ u ∈ (kportOf (takeData k op sub h d t f) k).tags, u.tag ≠ t.tag) ∧
    ((sLast h = false ∧ t.index + 1 ≠ t.job.rows) →
      ∃ u ∈ (kportOf (takeData k op sub h d t f) k).tags, u.tag = t.tag ∧ u.index = t.index + 1) ∧
    (takeData k op sub h d t f).store = f.store := by
  have hnoted := dataNoted_same k sub h t f
  have hkport := rowReceived_kport (k := k) (rowOf h d t) t (dataNoted k sub h t f)
  have hstore : (rowReceived k (rowOf h d t) t (dataNoted k sub h t f)).store = f.store := hnoted.store_eq
  rw [kportOf_of_kports hnoted.kports_eq] at hkport
  rw [takeData_in_order hop hrun hidx howner]
  generalize rowReceived k (rowOf h d t) t (dataNoted k sub h t f) = g at hkport hstore
  by_cases hlast : (sLast h || t.index + 1 == t.job.rows) = true
  · obtain ⟨n, hserved⟩ := tagServed_kport k t.tag g
    rw [if_pos hlast]
    refine ⟨?_, fun _ => tagServed_ends k t.tag g, fun hmore => ?_, hstore⟩
    · rw [hserved, hkport]
      exact List.mem_append_right _ (List.mem_singleton.mpr rfl)
    · simp [hmore] at hlast
  · rw [if_neg hlast]
    refine ⟨?_, fun hend => absurd (by simpa using hend) hlast, fun _ => ?_, hstore⟩
    · rw [hkport]
      exact List.mem_append_right _ (List.mem_singleton.mpr rfl)
    · rw [hkport]
      exact ⟨_, List.mem_map.mpr ⟨t, ht, if_pos rfl⟩, rfl, rfl⟩

end

/-! ### The last answer of a tag (R197, R203) -/

theorem ord_of_flightOf {f : Fab} {q ord : Nat} {x : Flight} (h : flightOf f q ord = some x) : x.ord = ord :=
  beq_iff_eq.mp (List.find?_some (p := fun x : Flight => x.ord == ord) h)

theorem tagServed_queues (k : Nat) (tag : BitVec 16) (f : Fab) : (tagServed k tag f).queues = f.queues := rfl

section
variable {k q ord : Nat} {t : SopTag} {f : Fab}

/-- A WRITE sent whole ends with its acknowledgement, and its flight has its rows done. -/
theorem takeWriteAck_acks {x : Flight} (hop : t.job.op = 2) (hsent : t.job.rows ≤ t.index) (hrun : t.phase = .running)
    (howner : t.job.owner = .flight q ord) (hx : flightOf f q ord = some x) :
    (∀ u ∈ (kportOf (takeWriteAck k t f) k).tags, u.tag ≠ t.tag) ∧
      ∃ y, flightOf (takeWriteAck k t f) q ord = some y ∧ y.done = x.done + t.job.rows := by
  have hacked : takeWriteAck k t f = rowsAcked q ord t.job.rows (tagServed k t.tag f) := by
    rw [takeWriteAck, if_neg (by simp [hop]; omega), if_neg (by simp [hrun]), howner]
  obtain rfl := ord_of_flightOf hx
  obtain ⟨l, hflight⟩ := rowsAcked_flightOf (f := tagServed k t.tag f) t.job.rows
    ((flightOf_congr (tagServed_queues ..) q x.ord).trans hx)
  rw [hacked]
  exact ⟨tagServed_ends k t.tag f, _, hflight, rfl⟩

theorem takeCancelAck_cancelled {r : Bool} (h : t.phase = .cancelling r) : takeCancelAck k t f = tagServed k t.tag f :=
  if_pos (by simp [h])

end

/-- Settles O32: a response by its type, and one of no tag or of bad CRC. -/
theorem stackResponses : Obligations.StackResponses := by
  unfold Obligations.StackResponses
  intro k h d s hm hup hform
  refine ⟨fun t q ord c op hcrc htag hrun howner hop hidx hc => ?data,
    fun hcrc t htag => ⟨fun q ord x htype hop hsent hrun howner hx => ?acked, fun htype => ?progress,
      fun r htype hcancel => ?cancelled⟩,
    fun hlow hhigh => ⟨fun hcrc htag htype => ?unknown, fun hcrc => ?badCrc⟩⟩
  case data =>
    obtain ⟨sub, hgives⟩ : ∃ sub, Gives c s (takeData k op sub h d t s.fab) := by
      rcases hc with ⟨htype, rfl, rfl⟩ | ⟨htype, rfl, rfl⟩
      · have hgives := gives_response (c := .readData k h d) (g := withResponse k 0x81 h (some d) (takeData k 1 1 h d)) hm rfl
        rw [withResponse_met hup _ hcrc hform htype (by decide) (by decide) htag] at hgives
        exact ⟨1, hgives⟩
      · have hgives := gives_response (c := .callData k h d) (g := withResponse k 0x83 h (some d) (takeData k 4 3 h d)) hm rfl
        rw [withResponse_met hup _ hcrc hform htype (by decide) (by decide) htag] at hgives
        exact ⟨3, hgives⟩
    obtain ⟨hrow, hends, hnext, hstore⟩ := takeData_receives (d := d) (sub := sub) hop hrun hidx howner (mem_of_sopTagOf htag)
    exact ⟨_, rowOf h d t, hgives, hrow, rfl, rfl, rfl, rfl, hends, hnext, hstore⟩
  case acked =>
    have hgives := gives_response (c := .writeAck k h) (g := withResponse k 0x82 h none (takeWriteAck k)) hm rfl
    rw [withResponse_met hup _ hcrc hform htype (by decide) (by decide) htag] at hgives
    obtain ⟨hends, y, hflight, hdone⟩ := takeWriteAck_acks (k := k) hop hsent hrun howner hx
    exact ⟨_, y, hgives, hends, hflight, hdone⟩
  case progress =>
    have hgives := gives_response (c := .progress k h) (g := withResponse k 0x84 h none fun _ f => f) hm rfl
    rwa [withResponse_met hup _ hcrc hform htype (by decide) (by decide) htag] at hgives
  case cancelled =>
    have hgives := gives_response (c := .cancelAck k h) (g := withResponse k 0x86 h none (takeCancelAck k)) hm rfl
    rw [withResponse_met hup _ hcrc hform htype (by decide) (by decide) htag, takeCancelAck_cancelled hcancel] at hgives
    exact ⟨_, hgives, tagServed_ends k t.tag s.fab, rfl, rfl⟩
  case unknown =>
    have hgives := gives_response (c := .writeAck k h) (g := withResponse k 0x82 h none (takeWriteAck k)) hm rfl
    rwa [withResponse_unknown hup _ hcrc hform htype (by decide) (by decide) htag] at hgives
  case badCrc =>
    have hgives := gives_response (c := .writeAck k h) (g := withResponse k 0x82 h none (takeWriteAck k)) hm rfl
    rw [withResponse_badCrc hup _ hcrc] at hgives
    exact ⟨_, hgives, count_queues .., count_self _ _ _ _ (by unfold cKey; omega) (by unfold cKey; omega)⟩

end Sys2Proof.Machine
end

section
/-!
SUPPORT. What a stack port and its counters keep of a failure of those it serves: an abort, an ended MIGRATE, a refused context, an ended
MAP_LOAD (R80, R183, R187, R201, R212).
-/

namespace Sys2Proof.Machine

/-- A port's state, the timeouts in a row, its tags' numbers, and its counters that no beat and no event adds to. -/
def stackPart (k : Nat) (f : Fab) : KpState × Nat × List (BitVec 16) × (Nat → BitVec 64) :=
  ((kportOf f k).st, (kportOf f k).timeouts, (kportOf f k).tags.map (·.tag),
    fun y => if 4 ≤ y ∧ y < 0x1B then counterOf f (0x8310 + k) y else 0)

theorem stackPart_of {k : Nat} {f g : Fab} (hk : g.kports = f.kports)
    (hc : ∀ y, 4 ≤ y → y < 0x1B → counterOf g (0x8310 + k) y = counterOf f (0x8310 + k) y) : stackPart k g = stackPart k f := by
  have hcount : (fun y => if 4 ≤ y ∧ y < 0x1B then counterOf g (0x8310 + k) y else 0) =
      fun y => if 4 ≤ y ∧ y < 0x1B then counterOf f (0x8310 + k) y else 0 := by
    funext y
    split
    · next h => exact hc y h.1 h.2
    · rfl
  rw [stackPart, kportOf_of_kports hk, hcount, stackPart]

section
variable {k : Nat} {f g : Fab} (h : stackPart k g = stackPart k f)
include h

theorem st_of_stackPart : (kportOf g k).st = (kportOf f k).st := congrArg (·.1) h
theorem timeouts_of_stackPart : (kportOf g k).timeouts = (kportOf f k).timeouts := congrArg (·.2.1) h
theorem tags_of_stackPart : (kportOf g k).tags.map (·.tag) = (kportOf f k).tags.map (·.tag) := congrArg (·.2.2.1) h

theorem counter_of_stackPart {y : Nat} (hlow : 4 ≤ y) (hhigh : y < 0x1B) :
    counterOf g (0x8310 + k) y = counterOf f (0x8310 + k) y := by
  have hy := congrFun (congrArg (fun p => p.2.2.2) h) y
  simpa [stackPart, hlow, hhigh] using hy

/-- A tag that the port does not bear it does not bear then. -/
theorem tag_ne_of_stackPart {tag : BitVec 16} (hne : ∀ u ∈ (kportOf f k).tags, u.tag ≠ tag) :
    ∀ u ∈ (kportOf g k).tags, u.tag ≠ tag := by
  intro u hu
  have hmem : u.tag ∈ (kportOf f k).tags.map (·.tag) := tags_of_stackPart h ▸ List.mem_map_of_mem hu
  obtain ⟨v, hv, htag⟩ := List.mem_map.mp hmem
  exact htag ▸ hne v hv

end

/-! ### Reports and traffic -/

theorem stackPart_of_traffic {f g : Fab} (h : SameButTraffic f g) (k : Nat) : stackPart k g = stackPart k f :=
  stackPart_of h.kports_eq fun y _ hhigh => h.counter _ y (by omega) (by omega)

theorem raise_stackPart (k c p : Nat) (f : Fab) : stackPart k (raise c p f) = stackPart k f :=
  stackPart_of_traffic (raise_traffic ..) k

/-- A count elsewhere, or below and above those counters. -/
theorem count_stackPart {k x y n : Nat} (f : Fab) (hy : y < 256) (h : y < 4 ∨ 0x1B ≤ y) :
    stackPart k (count x y n f) = stackPart k f :=
  stackPart_of (count_kports ..) fun z _ hz => count_other _ (by omega) hy (.inr (by omega))

theorem completeOp_stackPart (k : Nat) (h : BitVec 16) (st r0 r1 r2 r3 : Nat) (f : Fab) :
    stackPart k (completeOp h st r0 r1 r2 r3 f) = stackPart k f := by
  unfold completeOp completeWith
  split
  · rfl
  · rw [raise_stackPart]
    rfl

/-! ### The end of a round (R17, R93) -/

/-- What ports, long operations and the queues' rounds on fences are no part of, the end of a round leaves alone. -/
theorem finishRound_proj {β : Type} (π : Fab → β) {p : Nat} (hport : ∀ f g, π (onPort f p g) = π f)
    (hlop : ∀ f g, π (onLop f g) = π f) (hdone : ∀ h st r0 r1 r2 r3 f, π (completeOp h st r0 r1 r2 r3 f) = π f)
    (hcount : ∀ q f, π (countQueue q 3 1 f) = π f) (f : Fab) :
    π (finishRound p f) = π f := by
  have hboundary (f : Fab) : π (boundary p 0 f) = π f := by
    unfold boundary
    dsimp only
    split
    · exact hport ..
    · exact (each_proj π _ _ (fun _ _ _ => hdone ..) _).trans (by rw [hlop, hlop, hport, hport])
  unfold finishRound
  split
  · exact hport ..
  · dsimp only
    split
    · rw [each_proj π _ _ (fun _ _ _ => hcount ..), hlop]
      split_ifs <;> simp only [hport, hboundary]
    · rw [hlop]
      split_ifs <;> simp only [hport, hboundary]

theorem finishRound_stackPart (p k : Nat) (f : Fab) : stackPart k (finishRound p f) = stackPart k f :=
  finishRound_proj (stackPart k) (fun _ _ => rfl) (fun _ _ => rfl) (completeOp_stackPart k)
    (fun _ f => count_stackPart f (by decide) (by decide)) f

/-! ### Tags cancelled, and an owner let go (R202, R203) -/

theorem onKport_stackPart {u : KPort → KPort} (hst : ∀ x, (u x).st = x.st) (htime : ∀ x, (u x).timeouts = x.timeouts)
    (htags : ∀ x, (u x).tags.map (·.tag) = x.tags.map (·.tag)) (f : Fab) (j k : Nat) : stackPart k (onKport f j u) = stackPart k f := by
  by_cases hj : k = j
  · subst hj
    simp only [stackPart, kportOf_onKport, hst, htime, htags]
    rfl
  · simp only [stackPart, onKport_ne _ _ _ _ hj]
    rfl

theorem onTag_stackPart (k j : Nat) (tag : BitVec 16) {u : SopTag → SopTag} (hu : ∀ t, (u t).tag = t.tag) (f : Fab) :
    stackPart k (onTag j tag u f) = stackPart k f := by
  refine onKport_stackPart (u := fun x => { x with tags := x.tags.map fun t => if t.tag = tag then u t else t }) (fun _ => rfl)
    (fun _ => rfl) (fun x => ?_) f j k
  rw [List.map_map]
  refine List.map_congr_left fun t _ => ?_
  simp only [Function.comp]
  split
  · exact hu t
  · rfl

theorem cancelTag_stackPart (k j : Nat) (t : SopTag) (retry : Bool) (f : Fab) : stackPart k (cancelTag j t retry f) = stackPart k f := by
  unfold cancelTag
  split
  · exact onTag_stackPart (u := fun t => { t with phase := .cancelling retry }) k j t.tag (fun _ => rfl) f
  · exact (onTag_stackPart (u := fun t => { t with phase := .cancelling retry }) k j t.tag (fun _ => rfl) _).trans
      (sendSop_proj (stackPart k) (fun _ _ => rfl) (fun _ => rfl) ..)

theorem dropOwner_stackPart (k : Nat) (o : Owner) (f : Fab) : stackPart k (dropOwner o f) = stackPart k f := by
  refine each_proj (stackPart k) _ _ (fun f j _ => ?_) f
  refine (each_proj (stackPart k) _ _ (fun f t _ => cancelTag_stackPart k j t false f) _).trans ?_
  refine onKport_stackPart (u := fun x => { x with jobs := x.jobs.filter fun j => j.owner != o, rx := x.rx.filter fun r => r.owner != o })
    ?_ ?_ ?_ f j k <;> exact fun _ => rfl

theorem dropMigrate_stackPart (k : Nat) (h : BitVec 16) (f : Fab) : stackPart k (dropMigrate h f) = stackPart k f := by
  refine each_proj (stackPart k) _ _ (fun f j _ => ?_) f
  refine (each_proj (stackPart k) _ _ (fun f t _ => cancelTag_stackPart k j t false f) _).trans ?_
  refine onKport_stackPart (u := fun x => { x with jobs := x.jobs.filter fun j => !ofMigrate h j.owner
                                                   rx := x.rx.filter fun r => !ofMigrate h r.owner })
    ?_ ?_ ?_ f j k <;> exact fun _ => rfl

/-! ### An owner that fails -/

theorem endBurstsOf_stackPart (k q ord : Nat) (f : Fab) : stackPart k (endBurstsOf q ord f) = stackPart k f := by
  refine each_proj (stackPart k) _ _ (fun f p _ => ?_) f
  dsimp only
  split_ifs
  · exact (finishRound_stackPart ..).trans rfl
  · rfl
  · exact finishRound_stackPart ..
  · rfl

theorem onQueue_stackPart (k q : Nat) (g : Queue → Queue) (f : Fab) : stackPart k (onQueue f q g) = stackPart k f := rfl

theorem onFlight_stackPart (k q ord : Nat) (g : Flight → Flight) (f : Fab) : stackPart k (onFlight q ord g f) = stackPart k f := rfl

theorem onLop_stackPart (k : Nat) (g : LongOps → LongOps) (f : Fab) : stackPart k (onLop f g) = stackPart k f := rfl

theorem putEntry_stackPart (k i : Nat) (e : BitVec 128) (f : Fab) : stackPart k (putEntry i e f) = stackPart k f :=
  stackPart_of (putEntry_kports ..) fun _ _ _ => by rw [counterOf, putEntry_cnt, counterOf]

theorem withdrawQueue_stackPart (k q : Nat) (f : Fab) : stackPart k (withdrawQueue q f) = stackPart k f := rfl

theorem rowsWithdrawn_stackPart (k ord : Nat) (f : Fab) : stackPart k (rowsWithdrawn ord f) = stackPart k f := rfl

theorem abortCleared_stackPart (k q : Nat) (x : Flight) (f : Fab) : stackPart k (abortCleared q x f) = stackPart k f := by
  have hpresent (f : Fab) : stackPart k (each (List.range 16) (fun f p => presentHead p f) f) = stackPart k f :=
    each_proj (stackPart k) _ _ (fun f p _ => presentHead_proj (stackPart k) (fun _ _ => rfl) (fun _ _ => rfl)
      (fun f => count_stackPart f (by decide) (by decide)) f) f
  have hclusters (f : Fab) : stackPart k (abortClusters q x f) = stackPart k f :=
    abortClusters_proj (stackPart k) (fun _ _ => rfl) (fun _ _ _ => rfl) q x f
  rw [abortCleared, withdrawQueue_stackPart, hpresent, rowsWithdrawn_stackPart, dropOwner_stackPart,
    stackPart_of_traffic (cancelGrants_traffic ..), hclusters, endBurstsOf_stackPart]

/-- A flight that stops, with the reason, the address and the stack (R80, R82). -/
def flightStopped (reason addr stack : Nat) (y : Flight) : Flight :=
  { y with stopping := some ⟨BitVec.ofNat 4 reason, BitVec.ofNat 38 addr, BitVec.ofNat 4 stack⟩, segs := [], held := [], fsig := none }

/-- A queue that is ABORTING, with the reason of its first failure (R80). -/
def queueAborting (reason : Nat) (y : Queue) : Queue :=
  if y.qstate = 2 then y else { y with qstate := 2, reason := BitVec.ofNat 8 reason }

theorem abortFlight_eq {q reason addr stack : Nat} {x : Flight} {f : Fab} (hx : flightOf f q x.ord = some x) (ha : abortable f x = true) :
    abortFlight q x.ord reason addr stack f =
      onQueue (onFlight q x.ord (flightStopped reason addr stack) (abortCleared q x f)) q (queueAborting reason) := by
  rw [abortFlight, hx]
  exact if_neg (by simp [ha])

theorem abortFlight_stackPart (k q ord reason addr stack : Nat) (f : Fab) :
    stackPart k (abortFlight q ord reason addr stack f) = stackPart k f := by
  by_cases h : ∃ x, flightOf f q ord = some x ∧ abortable f x = true
  · obtain ⟨x, hx, ha⟩ := h
    obtain rfl := ord_of_flightOf hx
    rw [abortFlight_eq hx ha, onQueue_stackPart, onFlight_stackPart, abortCleared_stackPart]
  · unfold abortFlight
    split
    · rfl
    · next x hx => rw [if_pos (by simpa using fun ha => h ⟨x, hx, ha⟩)]

theorem takeEffect_stackPart (k : Nat) (who : ChangeBy) (writes : List (Nat × BitVec 128)) (f : Fab) :
    stackPart k (takeEffect who writes f) = stackPart k f := by
  have hput (f : Fab) (v : BitVec 16) : stackPart k (each writes (fun f w => putEntry w.1 (putf w.2 32 16 v.toNat) f) f) = stackPart k f :=
    each_proj (stackPart k) _ _ (fun f w _ => putEntry_stackPart ..) f
  unfold takeEffect mapLow
  dsimp only
  split
  · rw [raise_stackPart]
    exact hput f _
  · exact hput f _

theorem applyInstalls_stackPart (k : Nat) (f : Fab) : stackPart k (applyInstalls f) = stackPart k f := by
  refine each_proj (stackPart k) _ _ (fun f i _ => ?_) f
  split
  · rfl
  · exact (stackPart_of_traffic (answer_traffic ..) k).trans (takeEffect_stackPart ..)

theorem endMigrate_stackPart (k : Nat) (h : BitVec 16) (status srcMe : Nat) (f : Fab) :
    stackPart k (endMigrate h status srcMe f) = stackPart k f := by
  unfold endMigrate
  split
  · rfl
  · next m _ =>
    rw [applyInstalls_stackPart, completeOp_stackPart, onLop_stackPart, dropMigrate_stackPart,
      stackPart_of_traffic (cancelGrants_traffic ..)]

theorem freeCtx_stackPart (k i : Nat) (f : Fab) : stackPart k (freeCtx i f) = stackPart k f := by
  unfold freeCtx
  split
  · rfl
  · exact dropOwner_stackPart ..

theorem faultCtx_stackPart (k i cause : Nat) (f : Fab) : stackPart k (faultCtx i cause f) = stackPart k f := by
  unfold faultCtx
  split
  · rfl
  · exact (stackPart_of_traffic (answer_traffic ..) k).trans (freeCtx_stackPart ..)

theorem endLoad_stackPart (k status : Nat) (bad : Option Nat) (f : Fab) : stackPart k (endLoad status bad f) = stackPart k f := by
  unfold endLoad
  split
  · rfl
  · exact (completeOp_stackPart ..).trans (dropOwner_stackPart ..)

/-- An owner that fails leaves the port's tags and those counters. -/
theorem failOwner_stackPart (k : Nat) (o : Owner) (reason addr stack : Nat) (f : Fab) :
    stackPart k (failOwner o reason addr stack f) = stackPart k f := by
  cases o with
  | flight q ord => exact abortFlight_stackPart ..
  | migrate h n => exact endMigrate_stackPart ..
  | inbound i => exact faultCtx_stackPart ..
  | mapLoad => exact endLoad_stackPart ..

end Sys2Proof.Machine
end

section
/-!
SUPPORT. Tags of an owner that is let go, a fault counted and met, a tag that times out, and a port that is lost (R201 to R204); then
obligation O33.
-/

namespace Sys2Proof.Machine

/-! ### A tag cancelled (R202, R203) -/

theorem cancelTag_kport (k : Nat) (t : SopTag) (retry : Bool) (f : Fab) : kportOf (cancelTag k t retry f) k = { kportOf f k with
    tags := (kportOf f k).tags.map fun u => if u.tag = t.tag then { u with phase := .cancelling retry } else u } := by
  unfold cancelTag
  split
  · exact onTag_kport ..
  · rw [onTag_kport, kportOf_of_kports (sendSop_kports ..)]

theorem cancelTag_kport_ne {k j : Nat} (t : SopTag) (retry : Bool) (f : Fab) (h : k ≠ j) :
    kportOf (cancelTag j t retry f) k = kportOf f k := by
  unfold cancelTag
  split
  · exact onKport_ne _ _ _ _ h
  · exact (onKport_ne _ _ _ _ h).trans (kportOf_of_kports (sendSop_kports ..) k)

/-- Port k bears a tag, timed out or not. -/
def Bears (k : Nat) (tag : BitVec 16) (late : Bool) (f : Fab) : Prop := ∃ u ∈ (kportOf f k).tags, u.tag = tag ∧ u.late = late

/-- Port k bears a tag under CANCEL that is not asked for again. -/
def BearsCancelled (k : Nat) (tag : BitVec 16) (late : Bool) (f : Fab) : Prop :=
  ∃ u ∈ (kportOf f k).tags, u.tag = tag ∧ u.phase = .cancelling false ∧ u.late = late

section
variable {k : Nat} {tag : BitVec 16} {late : Bool} {f : Fab}

theorem cancelTag_bears (j : Nat) (t : SopTag) (h : Bears k tag late f) : Bears k tag late (cancelTag j t false f) := by
  obtain ⟨u, hu, htag, hlate⟩ := h
  by_cases hj : k = j
  · rw [← hj, Bears, cancelTag_kport]
    refine ⟨_, List.mem_map_of_mem hu, ?_⟩
    split <;> exact ⟨htag, hlate⟩
  · rw [Bears, cancelTag_kport_ne t false f hj]
    exact ⟨u, hu, htag, hlate⟩

theorem cancelTag_cancels (t : SopTag) (h : Bears k t.tag late f) : BearsCancelled k t.tag late (cancelTag k t false f) := by
  obtain ⟨u, hu, htag, hlate⟩ := h
  rw [BearsCancelled, cancelTag_kport]
  exact ⟨_, List.mem_map.mpr ⟨u, hu, if_pos htag⟩, htag, rfl, hlate⟩

theorem cancelTag_bearsCancelled (j : Nat) (t : SopTag) (h : BearsCancelled k tag late f) :
    BearsCancelled k tag late (cancelTag j t false f) := by
  obtain ⟨u, hu, htag, hphase, hlate⟩ := h
  by_cases hj : k = j
  · rw [← hj, BearsCancelled, cancelTag_kport]
    refine ⟨_, List.mem_map_of_mem hu, ?_⟩
    split
    · exact ⟨htag, rfl, hlate⟩
    · exact ⟨htag, hphase, hlate⟩
  · rw [BearsCancelled, cancelTag_kport_ne t false f hj]
    exact ⟨u, hu, htag, hphase, hlate⟩

end

/-! ### An owner let go (R203) -/

/-- What port k holds for an owner let go: its jobs and received rows dropped, its tags cancelled. -/
def portLetGo (o : Owner) (f : Fab) (k : Nat) : Fab :=
  let f := onKport f k fun x => { x with jobs := x.jobs.filter fun j => j.owner != o, rx := x.rx.filter fun r => r.owner != o }
  each ((kportOf f k).tags.filter fun t => t.job.owner == o) (fun f t => cancelTag k t false f) f

theorem each_nil {α : Type} (g : Fab → α → Fab) (f : Fab) : each [] g f = f := rfl

theorem dropOwner_each (o : Owner) (f : Fab) : dropOwner o f = each [0, 1] (portLetGo o) f := rfl

theorem dropOwner_eq (o : Owner) (f : Fab) : dropOwner o f = portLetGo o (portLetGo o f 0) 1 := by
  rw [dropOwner_each, each_cons, each_cons, each_nil]

theorem portLetGo_kport_ne {k j : Nat} (o : Owner) (f : Fab) (h : k ≠ j) : kportOf (portLetGo o f j) k = kportOf f k :=
  (each_proj (kportOf · k) _ _ (fun f t _ => cancelTag_kport_ne t false f h) _).trans (onKport_ne _ _ _ _ h)

section
variable {k : Nat} {t : SopTag} {f : Fab} (ht : t ∈ (kportOf f k).tags)
include ht

theorem portLetGo_cancels : BearsCancelled k t.tag t.late (portLetGo t.job.owner f k) := by
  have htags : (kportOf (onKport f k fun x => { x with jobs := x.jobs.filter fun j => j.owner != t.job.owner
                                                       rx := x.rx.filter fun r => r.owner != t.job.owner }) k).tags =
      (kportOf f k).tags := by rw [kportOf_onKport]
  have hmine : t ∈ (kportOf f k).tags.filter fun u => u.job.owner == t.job.owner := List.mem_filter.mpr ⟨ht, beq_self_eq_true _⟩
  obtain ⟨before, after, hsplit⟩ := List.append_of_mem hmine
  rw [portLetGo, htags, hsplit, each, List.foldl_append]
  refine each_inv (BearsCancelled k t.tag t.late) after _ (fun f u => cancelTag_bearsCancelled k u) _ (cancelTag_cancels t ?_)
  refine each_inv (Bears k t.tag t.late) before _ (fun f u => cancelTag_bears k u) _ ⟨t, ?_, rfl, rfl⟩
  rw [htags]
  exact ht

/-- A tag of an owner that is let go is under CANCEL. -/
theorem dropOwner_cancels (hk : k < 2) : BearsCancelled k t.tag t.late (dropOwner t.job.owner f) := by
  rw [dropOwner_eq]
  obtain rfl | rfl : k = 0 ∨ k = 1 := by omega
  · rw [BearsCancelled, portLetGo_kport_ne _ _ (by decide)]
    exact portLetGo_cancels ht
  · refine portLetGo_cancels ?_
    rwa [portLetGo_kport_ne _ _ (by decide)]

end

/-! ### A flight aborted (R80, R81) -/

theorem rowsWithdrawn_kports (ord : Nat) (f : Fab) : (rowsWithdrawn ord f).kports = f.kports := rfl

theorem withdrawQueue_kports (q : Nat) (f : Fab) : (withdrawQueue q f).kports = f.kports := rfl

theorem abortable_congr {f g : Fab} (hp : g.prm = f.prm) (hd : g.dom = f.dom) (x : Flight) : abortable g x = abortable f x := by
  simp [abortable, neverAborted, localSignal, instanceId, hp, hd]

section
variable {q reason addr stack : Nat} {x : Flight} {f : Fab} (hx : flightOf f q x.ord = some x) (ha : abortable f x = true)
include hx ha

/-- A flight aborted stops for the reason, and its queue is ABORTING. -/
theorem abortFlight_stopped : (queueOf (abortFlight q x.ord reason addr stack f) q).qstate = 2 ∧
    flightOf (abortFlight q x.ord reason addr stack f) q x.ord = some (flightStopped reason addr stack x) := by
  have hcleared := (flightOf_congr (abortCleared_queues q x f) q x.ord).trans hx
  have hstopped := flightOf_onFlight (g := flightStopped reason addr stack) hcleared fun _ => rfl
  have hflights (y : Queue) : (queueAborting reason y).flights = y.flights := by
    unfold queueAborting
    split <;> rfl
  rw [abortFlight_eq hx ha]
  refine ⟨?_, ?_⟩
  · rw [onQueue_self, queueAborting]
    split
    · next h => exact h
    · rfl
  · rw [flightOf, onQueue_self, hflights, ← flightOf]
    exact hstopped

/-- A tag of a flight that is aborted is under CANCEL. -/
theorem abortFlight_cancels {k : Nat} {t : SopTag} (hk : k < 2) (ht : t ∈ (kportOf f k).tags) (ho : t.job.owner = .flight q x.ord) :
    BearsCancelled k t.tag t.late (abortFlight q x.ord reason addr stack f) := by
  have hpresent (f : Fab) : (each (List.range 16) (fun f p => presentHead p f) f).kports = f.kports :=
    each_kports _ _ _ fun f p => presentHead_proj Fab.kports (fun _ _ => rfl) (fun _ _ => rfl) (fun _ => count_kports ..) f
  have hbursts : (endBurstsOf q x.ord f).kports = f.kports := by
    refine each_kports _ _ _ fun f p => ?_
    simp [apply_ite Fab.kports]
  have hgrants : (cancelGrants x.segs (abortClusters q x (endBurstsOf q x.ord f))).kports = f.kports := by
    rw [(cancelGrants_traffic ..).kports_eq, abortClusters_proj Fab.kports (fun _ _ => rfl) (fun _ _ _ => rfl), hbursts]
  have hcleared : (abortCleared q x f).kports =
      (dropOwner t.job.owner (cancelGrants x.segs (abortClusters q x (endBurstsOf q x.ord f)))).kports := by
    rw [abortCleared, ho, withdrawQueue_kports, hpresent, rowsWithdrawn_kports]
  have hdropped := dropOwner_cancels (f := cancelGrants x.segs (abortClusters q x (endBurstsOf q x.ord f)))
    (by rwa [kportOf_of_kports hgrants]) hk
  rw [abortFlight_eq hx ha, BearsCancelled, onQueue_kportOf, onFlight, onQueue_kportOf, kportOf_of_kports hcleared]
  exact hdropped

end

/-! ### A fault counted and met (R201) -/

/-- One occurrence counted at a stack port adds one there, and none at another of its places. -/
theorem countStack_counter {k sub y : Nat} (f : Fab) (hs : sub < 256) (hy : y < 0x1C) :
    counterOf (countStack k sub 1 f) (0x8310 + k) y = counterOf f (0x8310 + k) y + if y = sub then 1 else 0 := by
  rw [countStack, count_counter f hy hs]
  by_cases h : y = sub <;> simp [h]

/-- A fault counted by its code, a reserved one as ENGINE and as a format error (R293). -/
def faultCounted (k c : Nat) (f : Fab) : Fab :=
  if decide (1 ≤ c) && decide (c ≤ 5) then countStack k (8 + c) 1 f else countStack k 7 1 (countStack k 0x0C 1 f)

theorem faultCounted_same (k c : Nat) (f : Fab) : SameButReports f (faultCounted k c f) := by
  unfold faultCounted
  split
  · exact count_same ..
  · exact (count_same ..).trans (count_same ..)

theorem faultCounted_known {k c : Nat} (f : Fab) (h1 : 1 ≤ c) (h5 : c ≤ 5) : faultCounted k c f = countStack k (8 + c) 1 f :=
  if_pos (by simp [h1, h5])

theorem faultCounted_reserved {k c : Nat} (f : Fab) (h : c = 0 ∨ 5 < c) :
    faultCounted k c f = countStack k 7 1 (countStack k 0x0C 1 f) := if_neg (by simp; omega)

theorem faultCounted_counts {k c : Nat} (f : Fab) : (1 ≤ c → c ≤ 5 →
      counterOf (faultCounted k c f) (0x8310 + k) (8 + c) = counterOf f (0x8310 + k) (8 + c) + 1) ∧
    (c = 0 ∨ 5 < c → counterOf (faultCounted k c f) (0x8310 + k) 0x0C = counterOf f (0x8310 + k) 0x0C + 1 ∧
      counterOf (faultCounted k c f) (0x8310 + k) 7 = counterOf f (0x8310 + k) 7 + 1) := by
  refine ⟨fun h1 h5 => ?_, fun hres => ?_⟩
  · rw [faultCounted_known f h1 h5, countStack_counter f (by omega) (by omega), if_pos rfl]
  · rw [faultCounted_reserved f hres]
    simp [countStack_counter]

theorem takeStackFault_cancelling {k : Nat} {h : BitVec 256} {t : SopTag} {f : Fab} {r : Bool} (hc : t.phase = .cancelling r) :
    SameButReports f (takeStackFault k h t f) := by
  rw [takeStackFault, if_pos (by simp [hc])]
  split
  · exact count_same ..
  · exact (count_same ..).trans (count_same ..)

theorem takeStackFault_running {k : Nat} {h : BitVec 256} {t : SopTag} {f : Fab} (hrun : t.phase = .running) :
    takeStackFault k h t f = if sStatus h = 5 then retryTag k t (faultCounted k (sStatus h) f)
      else failOwner t.job.owner (if sStatus h = 1 then 3 else 4) (if sStatus h = 1 then sAddr h else 0)
        (if sStatus h = 1 then sStack t.job.hdr else 0) (tagServed k t.tag (faultCounted k (sStatus h) f)) := by
  rw [takeStackFault, if_neg (by simp [hrun]), faultCounted]
  generalize (decide (1 ≤ sStatus h) && decide (sStatus h ≤ 5)) = known
  cases known <;> rfl

/-- What a request asks for again after a CRC failure: of a READ the rows that have not come (R202). -/
def retriedJob (t : SopTag) : Job :=
  let n := if t.job.op = 1 then t.index else 0
  { t.job with hdr := putf (putf t.job.hdr 40 38 (sAddr t.job.hdr + n * sStride t.job.hdr)) 88 8 (t.job.rows - n - 1)
               base := t.job.base + n, rows := t.job.rows - n, again := true }

theorem retriedJob_asks (t : SopTag) : (retriedJob t).again = true ∧ (retriedJob t).owner = t.job.owner ∧
    (retriedJob t).op = t.job.op ∧ (retriedJob t).rows = t.job.rows - (if t.job.op = 1 then t.index else 0) ∧
    (retriedJob t).base = t.job.base + if t.job.op = 1 then t.index else 0 := by
  rw [retriedJob]
  exact ⟨rfl, rfl, rfl, rfl, rfl⟩

section
variable {k q ord : Nat} {t : SopTag} {f : Fab} (howner : t.job.owner = .flight q ord)
include howner

theorem retryTag_first (h : t.job.again = false) : retryTag k t f =
    onKport (cancelTag k t true (countStack k 8 1 f)) k fun x => { x with jobs := retriedJob t :: x.jobs } := by
  rw [retryTag, if_neg (by simp [h]), howner]
  simp only [retriedJob, beq_iff_eq]

omit howner in
theorem retryTag_second (h : t.job.again = true) : retryTag k t f = failOwner t.job.owner 4 0 0 f := if_pos h

/-- The first time a tag fails its CRC it is cancelled, and what has not come is asked for first of all. -/
theorem retryTag_asks (h : t.job.again = false) (ht : t ∈ (kportOf f k).tags) :
    (kportOf (retryTag k t f) k).jobs = retriedJob t :: (kportOf f k).jobs ∧
    (∃ u ∈ (kportOf (retryTag k t f) k).tags, u.tag = t.tag ∧ u.phase = .cancelling true) ∧
    counterOf (retryTag k t f) (0x8310 + k) 8 = counterOf f (0x8310 + k) 8 + 1 ∧
    counterOf (retryTag k t f) (0x8310 + k) 0x0D = counterOf f (0x8310 + k) 0x0D ∧
    (retryTag k t f).queues = f.queues := by
  have hcounted : kportOf (countStack k 8 1 f) k = kportOf f k := kportOf_of_kports (countStack_kports ..) k
  have hqueues : (cancelTag k t true (countStack k 8 1 f)).queues = f.queues :=
    (cancelTag_proj Fab.queues (fun _ _ => rfl) (fun _ => rfl) (fun _ _ _ => rfl) ..).trans (count_queues ..)
  have hcounter (y : Nat) : counterOf (cancelTag k t true (countStack k 8 1 f)) (0x8310 + k) y =
      counterOf (countStack k 8 1 f) (0x8310 + k) y :=
    cancelTag_proj (counterOf · (0x8310 + k) y) (fun _ _ => rfl) (fun _ => rfl) (fun _ _ _ => rfl) ..
  rw [retryTag_first howner h]
  refine ⟨?_, ?_, (hcounter 8).trans (countStack_counter f (by decide) (by decide)),
    (hcounter 0x0D).trans (count_other f (by decide) (by decide) (.inr (by decide))), hqueues⟩
  · rw [kportOf_onKport, cancelTag_kport, hcounted]
  · rw [kportOf_onKport, cancelTag_kport, hcounted]
    exact ⟨_, List.mem_map.mpr ⟨t, ht, if_pos rfl⟩, rfl, rfl⟩

end

/-! ### A port lost, and a tag that has received nothing in time (R204) -/

/-- Those whom a port serves: the owners of its tags and of its waiting requests. -/
def ownersAt (f : Fab) (k : Nat) : List Owner := ((kportOf f k).tags.map (·.job.owner) ++ (kportOf f k).jobs.map (·.owner)).dedup

/-- A port that has just failed, counted and reported, before those it served fail. -/
def portFailed (k cause : Nat) (f : Fab) : Fab :=
  raise 0x1E (place [(0, k), (8, cause)]) (countStack k 0x0F 1 (onKport f k fun x =>
    { x with st := .failed, slots := 0, units := 0, tags := [], jobs := [], sweep := true, timeouts := 0 }))

theorem losePort_up {k : Nat} (cause : Nat) {f : Fab} (hup : (kportOf f k).st = .up) :
    losePort k cause f = each (ownersAt f k) (fun f o => failOwner o 4 0 0 f) (portFailed k cause f) := if_neg (by simp [hup])

theorem losePort_not_up {k : Nat} (cause : Nat) {f : Fab} (hup : (kportOf f k).st ≠ .up) : losePort k cause f = f :=
  if_pos (bne_iff_ne.mpr hup)

theorem portFailed_kport (k cause : Nat) (f : Fab) : kportOf (portFailed k cause f) k = { kportOf f k with
    st := .failed, slots := 0, units := 0, tags := [], jobs := [], sweep := true, timeouts := 0 } := by
  rw [portFailed, kportOf_of_kports (raise_kports ..), kportOf_of_kports (countStack_kports ..), kportOf_onKport]

theorem portFailed_counter (k cause : Nat) {y : Nat} (f : Fab) (hy : y < 0x1C) :
    counterOf (portFailed k cause f) (0x8310 + k) y = counterOf f (0x8310 + k) y + if y = 0x0F then 1 else 0 := by
  rw [portFailed, raise_counter _ _ _ hy, countStack_counter _ (by decide) hy]
  rfl

/-- A port lost has failed with nothing outstanding, whatever becomes of those it served. -/
theorem losePort_fails {k : Nat} (cause : Nat) {f : Fab} (hup : (kportOf f k).st = .up) : (kportOf (losePort k cause f) k).st = .failed ∧
    (kportOf (losePort k cause f) k).tags = [] ∧ ∀ y, 4 ≤ y → y < 0x1B →
      counterOf (losePort k cause f) (0x8310 + k) y = counterOf f (0x8310 + k) y + if y = 0x0F then 1 else 0 := by
  have hpart : stackPart k (losePort k cause f) = stackPart k (portFailed k cause f) := by
    rw [losePort_up cause hup]
    exact each_proj (stackPart k) _ _ (fun f o _ => failOwner_stackPart ..) _
  have htags := tags_of_stackPart hpart
  rw [portFailed_kport] at htags
  refine ⟨?_, List.map_eq_nil_iff.mp htags, fun y hlow hhigh => ?_⟩
  · rw [st_of_stackPart hpart, portFailed_kport]
  · rw [counter_of_stackPart hpart hlow hhigh, portFailed_counter _ _ _ (by omega)]

/-- A tag that has timed out: counted, one more in a row, cancelled and marked late. -/
def tagLate (k : Nat) (t : SopTag) (f : Fab) : Fab :=
  onTag k t.tag (fun t => { t with late := true })
    (cancelTag k t false (onKport (countStack k 0x0E 1 f) k fun x => { x with timeouts := x.timeouts + 1 }))

section
variable {k tag : Nat} {t : SopTag} {f : Fab}

theorem tagLate_kport (k : Nat) (t : SopTag) (f : Fab) : kportOf (tagLate k t f) k = { kportOf f k with
    timeouts := (kportOf f k).timeouts + 1
    tags := ((kportOf f k).tags.map fun u => if u.tag = t.tag then { u with phase := .cancelling false } else u).map
      fun u => if u.tag = t.tag then { u with late := true } else u } := by
  rw [tagLate, onTag_kport, cancelTag_kport, kportOf_onKport, kportOf_of_kports (countStack_kports ..)]

theorem tagLate_counter {y : Nat} (hy : y < 0x1C) :
    counterOf (tagLate k t f) (0x8310 + k) y = counterOf f (0x8310 + k) y + if y = 0x0E then 1 else 0 := by
  have hcancel (g : Fab) : counterOf (cancelTag k t false g) (0x8310 + k) y = counterOf g (0x8310 + k) y :=
    cancelTag_proj (counterOf · (0x8310 + k) y) (fun _ _ => rfl) (fun _ => rfl) (fun _ _ _ => rfl) ..
  have hmark (g : Fab) (u : SopTag → SopTag) : counterOf (onTag k t.tag u g) (0x8310 + k) y = counterOf g (0x8310 + k) y := rfl
  have hkport (g : Fab) (u : KPort → KPort) : counterOf (onKport g k u) (0x8310 + k) y = counterOf g (0x8310 + k) y := rfl
  rw [tagLate, hmark, hcancel, hkport, countStack_counter f (by decide) hy]

theorem tagLate_queues (k : Nat) (t : SopTag) (f : Fab) : (tagLate k t f).queues = f.queues :=
  (cancelTag_proj Fab.queues (fun _ _ => rfl) (fun _ => rfl) (fun _ _ _ => rfl) k t false
    (onKport (countStack k 0x0E 1 f) k fun x => { x with timeouts := x.timeouts + 1 })).trans (count_queues ..)

variable (htag : sopTagOf f k tag = some t)
include htag

theorem timeoutTag_running (hup : (kportOf f k).st = .up) (hrun : t.phase = .running) : timeoutTag k tag f =
    let g := failOwner t.job.owner 4 0 0 (tagLate k t f)
    if 3 ≤ (kportOf g k).timeouts then losePort k 2 g else g := by
  rw [timeoutTag, htag]
  exact if_neg (by simp [hup, hrun])

theorem timeoutTag_cancelling {r : Bool} (hc : t.phase = .cancelling r) : timeoutTag k tag f = f := by
  rw [timeoutTag, htag]
  exact if_pos (by simp [hc])

theorem timeoutCancel_running (hrun : t.phase = .running) : timeoutCancel k tag f = f := by
  rw [timeoutCancel, htag]
  exact if_neg (by simp [hrun])

theorem timeoutCancel_cancelling {r : Bool} (hc : t.phase = .cancelling r) : timeoutCancel k tag f = losePort k 1 f := by
  rw [timeoutCancel, htag]
  exact if_pos (by simp [hc])

end

/-! ### A flight whose request has failed (R201, R204) -/

theorem tagServed_same (k : Nat) (tag : BitVec 16) (f : Fab) : (tagServed k tag f).prm = f.prm ∧ (tagServed k tag f).dom = f.dom ∧
    ∀ x y, counterOf (tagServed k tag f) x y = counterOf f x y := ⟨rfl, rfl, fun _ _ => rfl⟩

section
variable {k q : Nat} {t : SopTag} {x : Flight} {f : Fab} (howner : t.job.owner = .flight q x.ord) (hrun : t.phase = .running)
  (hx : flightOf f q x.ord = some x) (ha : abortable f x = true)
include howner hrun hx ha

/-- A fault but for code 5 ends its tag, and its flight stops. -/
theorem takeStackFault_stops {h : BitVec 256} (hc : sStatus h ≠ 5) :
    let g := takeStackFault k h t f
    (∀ u ∈ (kportOf g k).tags, u.tag ≠ t.tag) ∧ (queueOf g q).qstate = 2 ∧
      flightOf g q x.ord = some (flightStopped (if sStatus h = 1 then 3 else 4) (if sStatus h = 1 then sAddr h else 0)
        (if sStatus h = 1 then sStack t.job.hdr else 0) x) ∧
      ∀ y, 4 ≤ y → y < 0x1B → counterOf g (0x8310 + k) y = counterOf (faultCounted k (sStatus h) f) (0x8310 + k) y := by
  have hcounted := faultCounted_same k (sStatus h) f
  have hserved : flightOf (tagServed k t.tag (faultCounted k (sStatus h) f)) q x.ord = some x :=
    (flightOf_congr ((tagServed_queues ..).trans hcounted.queues_eq) q x.ord).trans hx
  obtain ⟨hprm, hdom, hcounter⟩ := tagServed_same k t.tag (faultCounted k (sStatus h) f)
  have hable : abortable (tagServed k t.tag (faultCounted k (sStatus h) f)) x = true :=
    (abortable_congr (hprm.trans hcounted.prm_eq) (hdom.trans hcounted.dom_eq) x).trans ha
  intro g
  have hg : g = abortFlight q x.ord (if sStatus h = 1 then 3 else 4) (if sStatus h = 1 then sAddr h else 0)
      (if sStatus h = 1 then sStack t.job.hdr else 0) (tagServed k t.tag (faultCounted k (sStatus h) f)) := by
    show takeStackFault k h t f = _
    rw [takeStackFault_running hrun, if_neg hc, howner, failOwner]
  have hpart : stackPart k g = stackPart k (tagServed k t.tag (faultCounted k (sStatus h) f)) := by
    rw [hg, abortFlight_stackPart]
  obtain ⟨hqueue, hflight⟩ := abortFlight_stopped (reason := if sStatus h = 1 then 3 else 4)
    (addr := if sStatus h = 1 then sAddr h else 0)
    (stack := if sStatus h = 1 then sStack t.job.hdr else 0) hserved hable
  rw [← hg] at hqueue hflight
  exact ⟨tag_ne_of_stackPart hpart (tagServed_ends k t.tag _), hqueue, hflight, fun y hlow hhigh =>
    (counter_of_stackPart hpart hlow hhigh).trans (hcounter ..)⟩

/-- The second time a tag fails its CRC its flight stops, and the tag is under CANCEL. -/
theorem takeStackFault_stops_again {h : BitVec 256} (hk : k < 2) (ht : t ∈ (kportOf f k).tags) (hc : sStatus h = 5)
    (hagain : t.job.again = true) :
    let g := takeStackFault k h t f
    Stopping g q x.ord 4 ∧ BearsCancelled k t.tag t.late g ∧ counterOf g (0x8310 + k) 0x0D = counterOf f (0x8310 + k) 0x0D + 1 := by
  have hcounted : flightOf (countStack k 0x0D 1 f) q x.ord = some x := (flightOf_congr (count_queues ..) q x.ord).trans hx
  have hable : abortable (countStack k 0x0D 1 f) x = true := (abortable_congr (f := f) (count_prm ..) (count_dom ..) x).trans ha
  intro g
  have hg : g = abortFlight q x.ord 4 0 0 (countStack k 0x0D 1 f) := by
    show takeStackFault k h t f = _
    rw [takeStackFault_running hrun, if_pos hc, hc, faultCounted_known f (by decide) (by decide), retryTag_second hagain, howner, failOwner]
  rw [hg]
  refine ⟨abortFlight_stops hcounted hable, abortFlight_cancels hcounted hable hk ?_ howner, ?_⟩
  · rwa [kportOf_of_kports (countStack_kports ..)]
  · rw [counter_of_stackPart (abortFlight_stackPart ..) (by decide) (by decide), countStack_counter f (by decide) (by decide)]
    rfl

/-- A tag that has received nothing in time is under CANCEL, and its flight stops. -/
theorem timeoutTag_stops {tag : Nat} (hk : k < 2) (htag : sopTagOf f k tag = some t) (hup : (kportOf f k).st = .up)
    (hfew : (kportOf f k).timeouts < 2) :
    let g := timeoutTag k tag f
    Stopping g q x.ord 4 ∧ counterOf g (0x8310 + k) 0x0E = counterOf f (0x8310 + k) 0x0E + 1 ∧
      (kportOf g k).timeouts = (kportOf f k).timeouts + 1 ∧ (kportOf g k).st = .up ∧ BearsCancelled k t.tag true g := by
  have hlate : flightOf (tagLate k t f) q x.ord = some x := (flightOf_congr (tagLate_queues ..) q x.ord).trans hx
  have hpart := abortFlight_stackPart k q x.ord 4 0 0 (tagLate k t f)
  have hst : (kportOf (abortFlight q x.ord 4 0 0 (tagLate k t f)) k).st = .up := by rw [st_of_stackPart hpart, tagLate_kport]; exact hup
  have htimeouts : (kportOf (abortFlight q x.ord 4 0 0 (tagLate k t f)) k).timeouts = (kportOf f k).timeouts + 1 := by
    rw [timeouts_of_stackPart hpart, tagLate_kport]
  have hable : abortable (tagLate k t f) x = true := by
    have hparams : (tagLate k t f).prm = f.prm ∧ (tagLate k t f).dom = f.dom := by
      unfold tagLate
      exact ⟨(cancelTag_proj Fab.prm (fun _ _ => rfl) (fun _ => rfl) (fun _ _ _ => rfl) ..).trans (count_prm ..),
        (cancelTag_dom ..).trans (count_dom ..)⟩
    rw [abortable_congr hparams.1 hparams.2, ha]
  have hmem : { t with phase := .cancelling false, late := true } ∈ (kportOf (tagLate k t f) k).tags := by
    rw [tagLate_kport]
    exact List.mem_map.mpr ⟨_, List.mem_map.mpr ⟨t, mem_of_sopTagOf htag, if_pos rfl⟩, if_pos rfl⟩
  intro g
  have hg : g = abortFlight q x.ord 4 0 0 (tagLate k t f) := by
    show timeoutTag k tag f = _
    rw [timeoutTag_running htag hup hrun, howner, failOwner]
    exact if_neg (by omega)
  rw [hg]
  refine ⟨abortFlight_stops hlate hable, ?_, htimeouts, hst, abortFlight_cancels hlate hable hk hmem howner⟩
  rw [counter_of_stackPart hpart (by decide) (by decide), tagLate_counter (by decide)]
  rfl

end

/-- The third tag in a row that has received nothing in time loses the port. -/
theorem timeoutTag_loses {k tag : Nat} {t : SopTag} {f : Fab} (htag : sopTagOf f k tag = some t) (hup : (kportOf f k).st = .up)
    (hrun : t.phase = .running) (hmany : 2 ≤ (kportOf f k).timeouts) :
    let g := timeoutTag k tag f
    (kportOf g k).st = .failed ∧ (kportOf g k).tags = [] ∧ counterOf g (0x8310 + k) 0x0E = counterOf f (0x8310 + k) 0x0E + 1 ∧
      counterOf g (0x8310 + k) 0x0F = counterOf f (0x8310 + k) 0x0F + 1 := by
  have hpart := failOwner_stackPart k t.job.owner 4 0 0 (tagLate k t f)
  have hst : (kportOf (failOwner t.job.owner 4 0 0 (tagLate k t f)) k).st = .up := by rw [st_of_stackPart hpart, tagLate_kport]; exact hup
  have htimeouts : (kportOf (failOwner t.job.owner 4 0 0 (tagLate k t f)) k).timeouts = (kportOf f k).timeouts + 1 := by
    rw [timeouts_of_stackPart hpart, tagLate_kport]
  obtain ⟨hfailed, htags, hcounter⟩ := losePort_fails 2 hst
  intro g
  have hg : g = losePort k 2 (failOwner t.job.owner 4 0 0 (tagLate k t f)) := by
    show timeoutTag k tag f = _
    rw [timeoutTag_running htag hup hrun]
    exact if_pos (by omega)
  rw [hg]
  refine ⟨hfailed, htags, ?_, ?_⟩
  · rw [hcounter _ (by decide) (by decide), counter_of_stackPart hpart (by decide) (by decide), tagLate_counter (by decide)]
    simp
  · rw [hcounter _ (by decide) (by decide), counter_of_stackPart hpart (by decide) (by decide), tagLate_counter (by decide)]
    simp

/-- Settles O33: a fault by its code and its tag, and a tag and a CANCEL_ACK that are late. -/
theorem stackFaults : Obligations.StackFaults := by
  unfold Obligations.StackFaults
  intro k s t q ord x hm hup howner hx
  obtain rfl := ord_of_flightOf hx
  refine ⟨fun h hform hcrc htype htag => ?fault, fun tag htag => ?late⟩
  case fault =>
    have hgives := gives_response (c := .fault k h) (g := withResponse k 0x85 h none (takeStackFault k h)) hm rfl
    rw [withResponse_met hup _ hcrc hform htype (by decide) (by decide) htag] at hgives
    refine ⟨fun hrun hc ha => ?stops, fun hrun hc hfirst => ?again, fun hrun hc hsecond ha => ?twice, fun r hcancel => ?cancelling⟩
    case stops =>
      obtain ⟨htags, hqueue, hflight, hcounter⟩ := takeStackFault_stops (k := k) howner hrun hx ha hc
      refine ⟨_, _, _, hgives, htags, hqueue, hflight, rfl, ?_, fun h1 => ?_, fun h1 h4 => ?_, fun hres => ⟨?_, ?_⟩⟩
      · by_cases h1 : sStatus h = 1 <;> simp [h1]
      · have haddr : sAddr h < 2 ^ 38 := Nat.mod_lt _ (by decide)
        have hstack : sStack t.job.hdr < 2 ^ 4 := Nat.mod_lt _ (by decide)
        simp only [h1, if_true, BitVec.toNat_ofNat]
        exact ⟨Nat.mod_eq_of_lt haddr, Nat.mod_eq_of_lt hstack⟩
      · exact (hcounter _ (by omega) (by omega)).trans ((faultCounted_counts s.fab).1 h1 (by omega))
      · exact (hcounter _ (by decide) (by decide)).trans ((faultCounted_counts s.fab).2 hres).1
      · exact (hcounter _ (by decide) (by decide)).trans ((faultCounted_counts s.fab).2 hres).2
    case again =>
      rw [takeStackFault_running hrun, if_pos hc, hc, faultCounted_known _ (by decide) (by decide)] at hgives
      have hkport : kportOf (countStack k 0x0D 1 s.fab) k = kportOf s.fab k := kportOf_of_kports (countStack_kports ..) k
      obtain ⟨hjobs, ⟨u, hu, hutag, hphase⟩, hretried, hkept, hqueues⟩ :=
        retryTag_asks (k := k) (f := countStack k 0x0D 1 s.fab) howner
        hfirst (by rw [hkport]; exact mem_of_sopTagOf htag)
      obtain ⟨hagain, hown, hop, hrows, hbase⟩ := retriedJob_asks t
      exact ⟨_, retriedJob t, u, hgives, by rw [hjobs, hkport], hagain, hown, hop, hrows, hbase, hu, hutag, hphase,
        hkept.trans (countStack_counter s.fab (by decide) (by decide)),
        hretried.trans (congrArg (· + 1) (count_other s.fab (by decide) (by decide) (.inr (by decide)))),
        hqueues.trans (count_queues ..)⟩
    case twice =>
      obtain ⟨hstop, ⟨u, hu, hutag, hphase, -⟩, hcounter⟩ :=
        takeStackFault_stops_again howner hrun hx ha k.isLt (mem_of_sopTagOf htag) hc hsecond
      exact ⟨_, u, hgives, hstop, hu, hutag, hphase, hcounter⟩
    case cancelling =>
      have hsame := takeStackFault_cancelling (k := k) (h := h) (f := s.fab) hcancel
      exact ⟨_, hgives, hsame.kports_eq, hsame.queues_eq⟩
  case late =>
    have hgives : Gives (.sopTimeout k tag) s (timeoutTag k tag.toNat s.fab) := gives_of_onFab (fun _ f => timeoutTag k tag.toNat f) hm rfl
    have hack : Gives (.cancelAckTimeout k tag) s (timeoutCancel k tag.toNat s.fab) :=
      gives_of_onFab (fun _ f => timeoutCancel k tag.toNat f) hm rfl
    refine ⟨fun hrun ha hfew => ?stops, fun hrun hmany => ?lost, fun r hcancel => ⟨?_, ?_⟩, fun hrun => ?_⟩
    case stops =>
      obtain ⟨hstop, hcounter, htimeouts, hst, u, hu, hutag, hphase, hlate⟩ := timeoutTag_stops howner hrun hx ha k.isLt htag hup hfew
      exact ⟨_, u, hgives, hstop, hcounter, htimeouts, hst, hu, hutag, hphase, hlate⟩
    case lost => exact ⟨_, hgives, timeoutTag_loses htag hup hrun hmany⟩
    · rwa [timeoutTag_cancelling htag hcancel] at hgives
    · rwa [timeoutCancel_cancelling htag hcancel] at hack
    · rwa [timeoutCancel_running htag hrun] at hack

end Sys2Proof.Machine
end

section
/-!
SUPPORT. A clean word is read as it was written (R234, R235), a residency entry marked STACK_LOST, and the sweep of a lost port (R204,
R206, R207).
-/

namespace Sys2Proof.Machine

/-! ### A word encoded and read again (R234, R235) -/

theorem xorColumns_lt {l : List Nat} (h : ∀ c ∈ l, c < 2 ^ 9) (d : Nat) : xorColumns l d < 2 ^ 9 := by
  induction l generalizing d with
  | nil => exact Nat.two_pow_pos 9
  | cons c t ih =>
    have hrest := ih (fun e he => h e (List.mem_cons_of_mem _ he)) (d / 2)
    rw [xorColumns]
    split
    · exact Nat.xor_lt_two_pow (h c List.mem_cons_self) hrest
    · rwa [Nat.zero_xor]

theorem checkBits_lt (d : Nat) : checkBits d < 2 ^ 9 := xorColumns_lt (by decide +kernel) d

theorem encodeWord_toNat (d : Nat) : (encodeWord d).toNat = d % 2 ^ 128 + checkBits (d % 2 ^ 128) * 2 ^ 128 := by
  have hcheck := checkBits_lt (d % 2 ^ 128)
  have hdata : d % 2 ^ 128 < 2 ^ 128 := Nat.mod_lt _ (Nat.two_pow_pos 128)
  rw [encodeWord, BitVec.toNat_ofNat]
  refine Nat.mod_eq_of_lt ?_
  generalize checkBits (d % 2 ^ 128) = c at *
  generalize d % 2 ^ 128 = e at *
  omega

theorem dataOf_encodeWord (d : Nat) : dataOf (encodeWord d) = d % 2 ^ 128 := by
  rw [dataOf, encodeWord_toNat, Nat.add_mul_mod_self_right, Nat.mod_mod]

theorem classOf_encodeWord (d : Nat) : classOf (encodeWord d) = .clean := by
  have hsyndrome : syndromeOf (encodeWord d) = 0 := by
    rw [syndromeOf, dataOf_encodeWord, encodeWord_toNat, Nat.add_mul_div_right _ _ (Nat.two_pow_pos 128),
      Nat.div_eq_of_lt (Nat.mod_lt _ (Nat.two_pow_pos 128)), Nat.zero_add, Nat.xor_self]
  exact if_pos hsyndrome

/-! ### An entry marked STACK_LOST (R204, R206) -/

theorem putf_of_fld {n : Nat} {x : BitVec n} {lo w v : Nat} (h : fld x lo w = v % 2 ^ w) : putf x lo w v = x := by
  have hle : fld x lo w * 2 ^ lo ≤ x.toNat := by
    rw [fld, Nat.shiftRight_eq_div_pow]
    exact (Nat.mul_le_mul_right _ (Nat.mod_le ..)).trans (Nat.div_mul_le_self ..)
  rw [putf, ← h, Nat.sub_add_cancel hle, BitVec.ofNat_toNat, BitVec.setWidth_eq]

/-- An entry in health STACK_LOST, bit 63 not stored. -/
def lostEntry (e : BitVec 128) : BitVec 128 := putBit (putf e 2 2 1) 63 false

theorem fld_lostEntry (e : BitVec 128) {lo w : Nat} (h : lo + w ≤ 2 ∨ 4 ≤ lo ∧ lo + w ≤ 63 ∨ 64 ≤ lo) :
    fld (lostEntry e) lo w = fld e lo w := by
  rw [lostEntry, putBit, fld_putf_ne _ _ (by decide) (by omega), fld_putf_ne _ _ (by decide) (by omega)]

theorem bitAt_lostEntry (e : BitVec 128) {i : Nat} (h : i < 2) : bitAt (lostEntry e) i = bitAt e i := by
  rw [lostEntry, bitAt_putBit _ _ _ (by decide), if_neg (by omega)]
  exact putf_testBit e 1 i (by decide) (.inl h)

theorem lostEntry_lostEntry (e : BitVec 128) : lostEntry (lostEntry e) = lostEntry e := by
  have hhealth : putf (lostEntry e) 2 2 1 = lostEntry e := putf_of_fld (by
    rw [lostEntry, putBit, fld_putf_ne _ _ (by decide) (by decide), fld_putf_self _ _ (by decide)])
  rw [lostEntry, hhealth]
  exact putf_of_fld (by rw [lostEntry, putBit, fld_putf_self _ _ (by decide)])

/-- The entry names a stack that port k serves. -/
def namesPort (f : Fab) (k : Nat) (e : BitVec 128) : Bool := eValid e && eIsStack e && servingPort f (eStack e) == some k

theorem namesPort_lostEntry (f : Fab) (k : Nat) (e : BitVec 128) : namesPort f k (lostEntry e) = namesPort f k e := by
  rw [namesPort, eValid, eIsStack, eStack, bitAt_lostEntry e (by decide), bitAt_lostEntry e (by decide), fld_lostEntry e (by omega)]
  rfl

/-- A stored word as the sweep of port k leaves it. -/
def sweptCode (f : Fab) (k : Nat) (c : Code) : Code :=
  if namesPort f k (BitVec.ofNat 128 (dataOf c)) then encodeWord (lostEntry (BitVec.ofNat 128 (dataOf c))).toNat else c

theorem classOf_sweptCode (f : Fab) (k : Nat) {c : Code} (h : classOf c = .clean) : classOf (sweptCode f k c) = .clean := by
  unfold sweptCode
  split
  · exact classOf_encodeWord _
  · exact h

theorem sweptCode_sweptCode (f : Fab) (k : Nat) (c : Code) : sweptCode f k (sweptCode f k c) = sweptCode f k c := by
  by_cases hnames : namesPort f k (BitVec.ofNat 128 (dataOf c)) = true
  · have hswept : sweptCode f k c = encodeWord (lostEntry (BitVec.ofNat 128 (dataOf c))).toNat := if_pos hnames
    have hdata : BitVec.ofNat 128 (dataOf (sweptCode f k c)) = lostEntry (BitVec.ofNat 128 (dataOf c)) := by
      rw [hswept, dataOf_encodeWord, Nat.mod_eq_of_lt (BitVec.isLt _), BitVec.ofNat_toNat, BitVec.setWidth_eq]
    rw [sweptCode, hdata, namesPort_lostEntry, if_pos hnames, lostEntry_lostEntry, hswept]
  · have hkept : sweptCode f k c = c := if_neg hnames
    rw [hkept, hkept]

theorem sweptCode_zero (f : Fab) (k : Nat) : sweptCode f k 0 = 0 :=
  if_neg (by simp [namesPort, eValid, bitAt, dataOf])

theorem sweptCode_congr {f g : Fab} (h : g.prm = f.prm) (k : Nat) (c : Code) : sweptCode g k c = sweptCode f k c := by
  simp [sweptCode, namesPort, servingPort, h]

/-! ### A read of an entry (R207) -/

/-- A part that an armed fault's end, a write of the entry and reports leave alone, a read of the entry leaves alone. -/
theorem readEntry_proj {β : Type} (π : Fab → β) {i : Nat} (hfired : ∀ f, π (injFired f) = π f)
    (hput : ∀ e f, π (putEntry i e f) = π f)
    (hcount : ∀ s f, π (countInst s 1 f) = π f) (hraise : ∀ p h f, π (raiseWith 4 0x1F p h f) = π f) (f : Fab) :
    π (readEntry i f).2 = π f := by
  have hwhen (b : Bool) : π (when b injFired f) = π f := when_proj π (hfired f)
  unfold readEntry
  dsimp only
  split <;> simp only [hwhen, hput, hcount, hraise]

theorem mapCode_putEntry (i : Nat) (e : BitVec 128) (f : Fab) : mapCode (putEntry i e f) i = encodeWord (putBit e 63 false).toNat :=
  tget_tset_self ..

theorem mapCode_putEntry_ne {i j : Nat} (e : BitVec 128) (f : Fab) (h : j ≠ i) : mapCode (putEntry i e f) j = mapCode f j :=
  tget_tset_ne _ _ _ h

/-- The parameters, the map's epoch and changes, and every entry but one (R77). -/
def otherEntries (i : Nat) (f : Fab) : Params × BitVec 16 × List MapChange × (Nat → Code) :=
  (f.prm, f.map.epoch, f.map.changes, fun j => if j = i then 0 else mapCode f j)

theorem otherEntries_of_map {f g : Fab} (hp : g.prm = f.prm) (hm : g.map = f.map) (i : Nat) : otherEntries i g = otherEntries i f := by
  simp [otherEntries, mapCode, hp, hm]

theorem setMapCode_changes (i : Nat) (c : Code) (f : Fab) : (setMapCode i c f).map.epoch = f.map.epoch ∧
    (setMapCode i c f).map.changes = f.map.changes := ⟨rfl, rfl⟩

theorem otherEntries_putEntry (i : Nat) (e : BitVec 128) (f : Fab) : otherEntries i (putEntry i e f) = otherEntries i f := by
  have hcodes : (fun j => if j = i then 0 else mapCode (putEntry i e f) j) = fun j => if j = i then 0 else mapCode f j := by
    funext j
    split
    · rfl
    · next h => exact mapCode_putEntry_ne e f h
  obtain ⟨hepoch, hchanges⟩ := setMapCode_changes i (encodeWord (putBit e 63 false).toNat) f
  rw [otherEntries, hcodes, putEntry_prm, putEntry, hepoch, hchanges, otherEntries]

theorem otherEntries_readEntry (i : Nat) (f : Fab) : otherEntries i (readEntry i f).2 = otherEntries i f :=
  readEntry_proj (otherEntries i) (fun _ => rfl) (otherEntries_putEntry i) (fun _ _ => otherEntries_of_map (count_prm ..) (count_map ..) i)
    (fun _ _ _ => otherEntries_of_map (raiseWith_prm ..) (raiseWith_map ..) i) f

/-- No fault armed on the map is carried out where another is armed (R297). -/
theorem readEntry_sec {i : Nat} {f : Fab} (h : injKind f ≠ 8) : (readEntry i f).2.sec = f.sec := by
  have hmiss : (injKind f == 8 && injTarget f == i) = false := by simp [h]
  unfold readEntry
  dsimp only
  rw [hmiss]
  split <;> simp [Machine.when]

/-! ### The sweep of a lost port (R204) -/

/-- One entry swept: STACK_LOST, and counted, where it names the port. -/
def sweepEntry (k : Nat) (f : Fab) (i : Nat) : Fab :=
  let r := readEntry i f
  if namesPort f k r.1 then countInst 0x14 1 (putEntry i (putf r.1 2 2 1) r.2) else r.2

theorem sweepPort_idle {k : Nat} {f : Fab} (h : (kportOf f k).sweep = false) : sweepPort k f = f := if_pos (by simp [h])

theorem sweepPort_due {k : Nat} {f : Fab} (h : (kportOf f k).sweep = true) :
    sweepPort k f = onKport (each (f.map.entries.map (·.1)) (sweepEntry k) f) k fun x => { x with sweep := false } := by
  rw [sweepPort, if_neg (by simp [h])]
  rfl

theorem sweepEntry_otherEntries (k i : Nat) (f : Fab) : otherEntries i (sweepEntry k f i) = otherEntries i f := by
  unfold sweepEntry
  dsimp only
  split
  · rw [otherEntries_of_map (countInst_prm ..) (countInst_map ..), otherEntries_putEntry, otherEntries_readEntry]
  · exact otherEntries_readEntry ..

theorem sweepEntry_mapCode_ne {k i j : Nat} (f : Fab) (h : j ≠ i) : mapCode (sweepEntry k f i) j = mapCode f j := by
  have hj := congrFun (congrArg (fun p => p.2.2.2) (sweepEntry_otherEntries k i f)) j
  simpa [otherEntries, h] using hj

theorem sweepEntry_prm (k i : Nat) (f : Fab) : (sweepEntry k f i).prm = f.prm := congrArg (·.1) (sweepEntry_otherEntries k i f)

theorem sweepEntry_changes (k i : Nat) (f : Fab) : (sweepEntry k f i).map.epoch = f.map.epoch ∧
    (sweepEntry k f i).map.changes = f.map.changes :=
  ⟨congrArg (·.2.1) (sweepEntry_otherEntries k i f), congrArg (·.2.2.1) (sweepEntry_otherEntries k i f)⟩

section
variable {k i : Nat} {f : Fab} (hinj : injKind f ≠ 8)
include hinj

theorem sweepEntry_injKind (j : Nat) : injKind (sweepEntry k f j) ≠ 8 := by
  have hsec : (sweepEntry k f j).sec = f.sec := by
    unfold sweepEntry
    dsimp only
    split
    · rw [countInst_sec, putEntry_sec, readEntry_sec hinj]
    · exact readEntry_sec hinj
  rwa [injKind, hsec, ← injKind]

variable (hclean : classOf (mapCode f i) = .clean)
include hclean

theorem sweepEntry_mapCode : mapCode (sweepEntry k f i) i = sweptCode f k (mapCode f i) := by
  rw [sweepEntry, readEntry_of_clean hclean hinj, sweptCode]
  dsimp only
  split
  · rw [mapCode, countInst_map, ← mapCode, mapCode_putEntry, lostEntry]
  · rfl

theorem sweepEntry_clean (j : Nat) : classOf (mapCode (sweepEntry k f j) i) = .clean := by
  by_cases h : i = j
  · rw [← h, sweepEntry_mapCode hinj hclean]
    exact classOf_sweptCode f k hclean
  · rwa [sweepEntry_mapCode_ne f h]

/-- A clean entry is swept where it is listed, however often. -/
theorem sweepEntries_mapCode (l : List Nat) :
    mapCode (each l (sweepEntry k) f) i = if i ∈ l then sweptCode f k (mapCode f i) else mapCode f i := by
  induction l generalizing f with
  | nil => rfl
  | cons j t ih =>
    rw [each_cons, ih (sweepEntry_injKind hinj j) (sweepEntry_clean hinj hclean j), sweptCode_congr (sweepEntry_prm ..)]
    by_cases h : i = j
    · subst h
      rw [sweepEntry_mapCode hinj hclean, sweptCode_sweptCode, ite_self, if_pos List.mem_cons_self]
    · rw [sweepEntry_mapCode_ne f h]
      simp [h]

end

theorem sweepEntries_mapCode_unlisted {k i : Nat} {l : List Nat} (h : i ∉ l) (f : Fab) :
    mapCode (each l (sweepEntry k) f) i = mapCode f i :=
  each_proj (mapCode · i) l _ (fun f _ hj => sweepEntry_mapCode_ne f fun he => h (he ▸ hj)) f

theorem sweepEntries_changes (k : Nat) (l : List Nat) (f : Fab) : (each l (sweepEntry k) f).map.epoch = f.map.epoch ∧
    (each l (sweepEntry k) f).map.changes = f.map.changes :=
  ⟨each_proj (·.map.epoch) l _ (fun f j _ => (sweepEntry_changes k j f).1) f,
    each_proj (·.map.changes) l _ (fun f j _ => (sweepEntry_changes k j f).2) f⟩

theorem tget_unlisted {α : Type} (d : α) {t : Tbl α} {i : Nat} (h : i ∉ t.map (·.1)) : tget d t i = d := by
  induction t with
  | nil => rfl
  | cons e t ih =>
    rw [List.map_cons, List.mem_cons, not_or] at h
    rw [tget, if_neg (Ne.symm h.1), ih h.2]

end Sys2Proof.Machine
end

section
/-!
SUPPORT. A CREDIT on a stack port, a write of its enable, and the sweep as a whole (R191, R196, R204, R205); then obligation O34.
-/

namespace Sys2Proof.Machine

/-! ### A CREDIT (R191, R196) -/

theorem fld_lt_two_pow {n : Nat} (x : BitVec n) (lo w : Nat) : fld x lo w < 2 ^ w := Nat.mod_lt _ (Nat.two_pow_pos w)

/-- Nothing keeps a port from coming UP (R343, R349, R351). -/
def mayComeUp (f : Fab) : Bool := !(f.start.fawn || f.pwr.parked || inPhase f 2 || inPhase f 5)

section
variable {k : Nat} {h : BitVec 256} {f : Fab} (hcrc : sopCrc h none = sCrc h) (hform : respOk h = true) (htype : sType h = 0x87)
include hcrc hform htype

theorem takeStackCredit_brings (hdown : (kportOf f k).st = .down) (hen : (kportOf f k).enable = true) (hready : (kportOf f k).ready = true)
    (hmay : mayComeUp f = true) : kportOf (takeStackCredit k h f) k = { kportOf f k with
      st := .up, slots := fld h 32 16, units := fld h 48 32, slotsSeen := BitVec.ofNat 16 (fld h 32 16)
      unitsSeen := BitVec.ofNat 32 (fld h 48 32), timeouts := 0 } := by
  have hslots : fld h 32 16 < 65536 := fld_lt_two_pow ..
  have hunits : fld h 48 32 < 4294967296 := fld_lt_two_pow ..
  rw [mayComeUp] at hmay
  simp [takeStackCredit, hdown, hen, hready, hmay, hcrc, hform, htype, hslots, hunits]

theorem takeStackCredit_adds (hup : (kportOf f k).st = .up) : kportOf (takeStackCredit k h f) k = { kportOf f k with
      slots := (kportOf f k).slots + (BitVec.ofNat 16 (fld h 32 16) - (kportOf f k).slotsSeen).toNat
      units := (kportOf f k).units + (BitVec.ofNat 32 (fld h 48 32) - (kportOf f k).unitsSeen).toNat
      slotsSeen := BitVec.ofNat 16 (fld h 32 16), unitsSeen := BitVec.ofNat 32 (fld h 48 32) } := by
  simp [takeStackCredit, hup, hcrc, hform, htype]

end

/-! ### A write of the enable (R205) -/

section
variable {k : Nat} {f : Fab}

theorem writeEnable_absent (v : Bool) (h : (kportOf f k).st = .absent) : writeEnable k v f = (0, f) := if_pos h

variable (h : (kportOf f k).st ≠ .absent)
include h

theorem writeEnable_busy (ht : (kportOf f k).tags ≠ []) : writeEnable k false f = (6, f) := by
  simp [writeEnable, h, ht]

theorem writeEnable_on : writeEnable k true f = (0, onKport f k fun x => { x with enable := true }) := by
  simp [writeEnable, h]

theorem writeEnable_off (ht : (kportOf f k).tags = []) :
    writeEnable k false f = (0, onKport f k fun x => { x with enable := false, st := .down, slots := 0, units := 0 }) := by
  simp [writeEnable, h, ht]

end

/-! ### The sweep as a whole (R204) -/

section
variable {k : Nat} {f : Fab} (h : (kportOf f k).sweep = true)
include h

theorem sweepPort_ends : (kportOf (sweepPort k f) k).sweep = false ∧ (sweepPort k f).map.epoch = f.map.epoch ∧
    (sweepPort k f).map.changes = f.map.changes := by
  rw [sweepPort_due h, kportOf_onKport]
  exact ⟨rfl, sweepEntries_changes ..⟩

theorem sweepPort_unlisted {i : Nat} (hi : i ∉ f.map.entries.map (·.1)) : mapCode (sweepPort k f) i = 0 := by
  rw [sweepPort_due h]
  exact (sweepEntries_mapCode_unlisted hi f).trans (tget_unlisted 0 hi)

/-- Every clean entry is as the sweep leaves it: one that is not listed is zero and names no port. -/
theorem sweepPort_mapCode {i : Nat} (hinj : injKind f ≠ 8) (hclean : classOf (mapCode f i) = .clean) :
    mapCode (sweepPort k f) i = sweptCode f k (mapCode f i) := by
  by_cases hi : i ∈ f.map.entries.map (·.1)
  · rw [sweepPort_due h]
    exact (sweepEntries_mapCode hinj hclean _).trans (if_pos hi)
  · rw [sweepPort_unlisted h hi, mapCode, tget_unlisted 0 hi, sweptCode_zero]

end

/-- Settles O34: a CREDIT, a loss, a sweep and a write of the enable, each by the port's state. -/
theorem stackPortStates : Obligations.StackPortStates := by
  unfold Obligations.StackPortStates
  intro k s
  refine ⟨fun h hm hcrc hform htype => ?credit, fun hm hup => ?lost, fun hm => ?swept, fun hr hst => ?enable⟩
  case credit =>
    have hgives : Gives (.credit k h) s (takeStackCredit k h s.fab) := gives_response (g := takeStackCredit k h) hm rfl
    refine ⟨fun hdown hen hready hheld => ?_, fun hup => ?_⟩
    · have hkport := takeStackCredit_brings (k := k) (f := s.fab) hcrc hform htype hdown hen hready (by rw [mayComeUp, hheld]; rfl)
      exact ⟨_, hgives, by rw [hkport], by rw [hkport], by rw [hkport], by rw [hkport]⟩
    · have hkport := takeStackCredit_adds (k := k) (f := s.fab) hcrc hform htype hup
      exact ⟨_, hgives, by rw [hkport, hup], by rw [hkport], by rw [hkport]⟩
  case lost =>
    intro owners c cause hc
    have hlost (f : Fab) (cause : Nat) (hup : (kportOf f k).st = .up) (hsame : ownersAt f k = owners) :
        losePort k cause f = each owners (fun f o => failOwner o 4 0 0 f) (portFailed k cause f) := by rw [losePort_up cause hup, hsame]
    have hfailed (f : Fab) (cause : Nat) := portFailed_kport k cause f
    rcases hc with rfl | ⟨rfl, hcause⟩
    · have hgives : Gives (.kpReadyChange k false) s (losePort k 0 (onKport s.fab k fun x => { x with ready := false })) :=
        gives_of_onFab (fun _ f => readyChange k false f) hm rfl
      rw [hlost _ 0 (by rw [kportOf_onKport]; exact hup) (by rw [ownersAt, kportOf_onKport])] at hgives
      exact ⟨_, hgives, by rw [hfailed], by rw [hfailed], by rw [hfailed], by rw [hfailed], by rw [hfailed],
        portFailed_counter _ _ _ (by decide)⟩
    · have hgives : Gives (.stackPortDown k cause) s (when (cause != 3) (losePort k cause.toNat) s.fab) :=
        gives_of_onFab (fun _ f => when (cause != 3) (losePort k cause.toNat) f) hm rfl
      rw [bne_iff_ne.mpr hcause, Machine.when, if_pos rfl, hlost s.fab cause.toNat hup rfl] at hgives
      exact ⟨_, hgives, by rw [hfailed], by rw [hfailed], by rw [hfailed], by rw [hfailed], by rw [hfailed],
        portFailed_counter _ _ _ (by decide)⟩
  case swept =>
    have hready : Gives (.kpReadyChange k true) s (onKport s.fab k fun x => { x with ready := true }) :=
      gives_of_onFab (fun _ f => readyChange k true f) hm rfl
    have hdown : Gives (.stackPortDown k 0) s (losePort k 0 s.fab) :=
      gives_of_onFab (fun _ f => when ((0 : BitVec 2) != 3) (losePort k (0 : BitVec 2).toNat) f) hm rfl
    have hsweep : Gives (.lostSweep k) s (sweepPort k s.fab) := gives_of_onFab (fun _ f => sweepPort k f) hm rfl
    refine ⟨⟨_, hready, kportOf_onKport ..⟩, fun hup => ?_, fun hidle => ?_, fun hdue => ?_⟩
    · rwa [losePort_not_up 0 hup] at hdown
    · rwa [sweepPort_idle hidle] at hsweep
    · obtain ⟨hends, hepoch, hchanges⟩ := sweepPort_ends hdue
      exact ⟨_, hsweep, hends, hepoch, hchanges, fun i hi => sweepPort_unlisted hdue hi,
        fun i hinj hclean => (sweepPort_mapCode hdue hinj hclean).trans (by simp [sweptCode, namesPort, lostEntry, mapCode, and_assoc])⟩
  case enable =>
    have hgives (v : Bool) : Gives (.kpEnable k v) s (byWrite (writeEnable k v) s.fab) :=
      gives_of_onFab (fun _ f => byWrite (writeEnable k v) f) hr rfl
    have hwrites (v : Bool) : byWrite (writeEnable k v) s.fab =
        emit (writeEnable k v s.fab).2 (.status (BitVec.ofNat 8 (writeEnable k v s.fab).1)) := if_neg hst
    refine ⟨fun habsent v => ?_, fun hthere hbusy => ?_, fun hthere => ?_, fun hthere hidle => ?_⟩
    · have hv := hgives v
      rwa [hwrites, writeEnable_absent v habsent] at hv
    · have hv := hgives false
      rwa [hwrites, writeEnable_busy hthere hbusy] at hv
    · have hv := hgives true
      rw [hwrites, writeEnable_on hthere] at hv
      exact ⟨_, hv, (emit_kportOf ..).trans (kportOf_onKport ..)⟩
    · have hv := hgives false
      rw [hwrites, writeEnable_off hthere hidle] at hv
      exact ⟨_, hv, (emit_kportOf ..).trans (kportOf_onKport ..)⟩

end Sys2Proof.Machine
end

section
/-!
SUPPORT. A free engine serves a window access at once (R263), and what a read and a write of the mirror answer (R271, R272).
-/

namespace Sys2Proof.Machine

/-! ### Bytes of a value (R10) -/

theorem ofBytes_bytesOf (n v : Nat) : ofBytes (bytesOf n v) = v % 256 ^ n := by
  induction n generalizing v with
  | zero => simp [bytesOf, ofBytes, Nat.mod_one]
  | succ n ih => rw [bytesOf, ofBytes, ih, BitVec.toNat_ofNat, pow_succ' 256 n, Nat.mod_mul]

/-! ### A free engine takes a window access (R263) -/

/-- The window's request that alone waits for a free engine is carried out. -/
theorem serve_window {w : Whole} {r : Request} (hr : fromBdp r = false) (hw : w.2.bdp.waiting = [r]) (ha : w.2.bdp.accesses = []) :
    serve 1 w = runRequest r (w.1, onBdp w.2 fun b => { b with waiting := [] }) := by
  have hnext : nextRequest w.2.bdp = some r := by simp [nextRequest, hw, hr]
  have htaken : (onBdp w.2 fun b => { b with waiting := b.waiting.erase r }) = onBdp w.2 fun b => { b with waiting := [] } := by
    simp [onBdp, hw]
  simp only [serve, ha, hnext, htaken, List.isEmpty_nil, Bool.not_true, Bool.false_eq_true, if_false]

section
variable {f : Fab} (hfree : EngineFree f)
include hfree

/-- A free engine carries out the window's request that reaches it. -/
theorem arrive_free {r : Request} (slots : Tbl (BitVec 16)) (hr : fromBdp r = false) :
    arrive r (slots, f) = runRequest r (slots, onBdp f fun b => { b with waiting := [] }) := by
  obtain ⟨hwaiting, haccesses⟩ := hfree
  have hjoined : (onBdp f fun b => { b with waiting := b.waiting ++ [r] }) = onBdp f fun b => { b with waiting := [r] } := by
    rw [onBdp, hwaiting]
    rfl
  rw [arrive, serveAll, hjoined]
  exact serve_window hr rfl haccesses

theorem arrive_mirrorRead (slots : Tbl (BitVec 16)) (a : BitVec 28) (wide : Bool) :
    arrive (.mirrorRead a wide) (slots, f) = runMirrorRead a.toNat wide (slots, engineTook true f) := arrive_free hfree slots rfl

theorem arrive_mirrorWrite (slots : Tbl (BitVec 16)) (a : BitVec 28) (wide : Bool) (d : BitVec 64) :
    arrive (.mirrorWrite a wide d) (slots, f) = runMirrorWrite a.toNat wide d.toNat (slots, engineTook true f) :=
  arrive_free hfree slots rfl

end

/-! ### Reads of the mirror (R271, R272) -/

/-- The value held at a mirror's entry put through the latch table. -/
def setLatched (x y : Nat) (l : Option (BitVec 32)) (f : Fab) : Fab :=
  onBdp f fun b => { b with latched := tset none b.latched (256 * x + y) l }

theorem setLatched_self (x y : Nat) (l : Option (BitVec 32)) (f : Fab) :
    tget none (setLatched x y l f).bdp.latched (256 * x + y) = l := tget_tset_self ..

theorem setLatched_ne {x y j : Nat} (l : Option (BitVec 32)) (f : Fab) (h : j ≠ 256 * x + y) :
    tget none (setLatched x y l f).bdp.latched j = tget none f.bdp.latched j := tget_tset_ne _ _ _ h

theorem readValue_plain {x y : Nat} {f : Fab} (slots : Tbl (BitVec 16)) (hp : readsPlain x y f = true) :
    readValue none slots x y f = (0, plainValue none slots f x y, f) := by
  simp only [readsPlain, Bool.and_eq_true, Bool.not_eq_true', Bool.and_eq_false_iff, Bool.or_eq_false_iff, beq_eq_false_iff_ne,
    decide_eq_false_iff_not] at hp
  obtain ⟨⟨⟨-, hresidency⟩, hstates⟩, hrecord⟩ := hp
  have hres : ¬ (x = 0x6100 && (y = 2 || y = 3)) = true := by simp; omega
  have hst : ¬ within x 0x3200 2 = true := by simp [within]; omega
  have hrec : ¬ (within x 0x4500 256 && recordHidden f (x - 0x4500) y) = true := by
    rcases hrecord with (h | h) | h
    · simp [within]; omega
    · simp [within]; omega
    · simp [h]
  have hself : useSelectors none f = f := rfl
  rw [readValue, if_neg hres, if_neg hst, if_neg hrec, hself, ite_self]

theorem readEntryAt_plain {x y : Nat} {f : Fab} (slots : Tbl (BitVec 16)) (hc : readCheck x y f = 0) (hp : readsPlain x y f = true) :
    readEntryAt none slots x y f = (0, bytesOf (sizeAt x y) (plainValue none slots f x y), f) := by
  simp [readEntryAt, hc, readValue_plain slots hp, sizeAt]

section
variable {a x y : Nat} {f : Fab} (slots : Tbl (BitVec 16)) (hx : mirrorIndex a = x) (hy : mirrorSub a = y)
include hx hy

theorem runMirrorRead_refused {wide : Bool} (hc : readCheck x y f ≠ 0) : runMirrorRead a wide (slots, f) =
    (slots, emit (noteRefused (readCheck x y f) x y f) (.window 0xFFFFFFFF)) := by
  have hentry : (readEntryAt none slots x y f).1 = readCheck x y f := by simp [readEntryAt, hc]
  simp [runMirrorRead, hx, hy, hentry, hc]

variable (hc : readCheck x y f = 0) (hp : readsPlain x y f = true) (hn : sizeAt x y ≤ 8)
include hc hp hn

theorem runMirrorRead_wide : runMirrorRead a true (slots, f) =
    (slots, emit f (.window (BitVec.ofNat 64 (plainValue none slots f x y % 256 ^ sizeAt x y)))) := by
  simp [runMirrorRead, hx, hy, readEntryAt_plain slots hc hp, hc, Nat.not_lt.mpr hn, ofBytes_bytesOf]

/-- The low half is put out, and of an 8-byte entry the high half held. -/
theorem runMirrorRead_low (ha : a % 8 = 0) : runMirrorRead a false (slots, f) =
    (slots, emit (if sizeAt x y = 8 then
        setLatched x y (some (BitVec.ofNat 32 (plainValue none slots f x y % 256 ^ sizeAt x y / 2 ^ 32))) f else f)
      (.window (BitVec.ofNat 64 (plainValue none slots f x y % 256 ^ sizeAt x y % 2 ^ 32)))) := by
  simp [runMirrorRead, hx, hy, readEntryAt_plain slots hc hp, hc, Nat.not_lt.mpr hn, ofBytes_bytesOf, ha, setLatched]

/-- The high half held is put out, and is held no more. -/
theorem runMirrorRead_high {l : BitVec 32} (ha : a % 8 = 4) (hl : tget none f.bdp.latched (256 * x + y) = some l) :
    runMirrorRead a false (slots, f) = (slots, emit (setLatched x y none f) (.window (BitVec.ofNat 64 l.toNat))) := by
  simp [runMirrorRead, hx, hy, readEntryAt_plain slots hc hp, hc, Nat.not_lt.mpr hn, ha, hl, setLatched]

end

/-! ### A refused access (R271) -/

theorem readCheck_lt (x y : Nat) (f : Fab) : readCheck x y f < 256 := by
  unfold readCheck
  split
  · decide
  · split_ifs <;> decide

/-- `WIN_ERROR` holds the status and the place of the refused access. -/
theorem noteRefused_winError (c x y : Nat) (f : Fab) : fld (noteRefused c x y f).bdp.winError 0 8 = c % 256 ∧
    fld (noteRefused c x y f).bdp.winError 8 16 = x % 2 ^ 16 ∧ fld (noteRefused c x y f).bdp.winError 24 8 = y % 256 := by
  simp only [noteRefused, onBdp_self, fld_pack (n := 32) (lo := 0) (w := 8) _ (by decide),
    fld_pack (n := 32) (lo := 8) (w := 16) _ (by decide), fld_pack (n := 32) (lo := 24) (w := 8) _ (by decide), fields]
  omega

/-! ### Writes of the mirror (R271, R272) -/

theorem mirrorPut_done {x y n v : Nat} {slots : Tbl (BitVec 16)} {f : Fab} (h : (writeEntryAt none x y n v slots f).1 = 0) :
    mirrorPut x y n v (slots, f) = (writeEntryAt none x y n v slots f).2 := by simp [mirrorPut, h]

theorem mirrorPut_refused {x y n v : Nat} {slots : Tbl (BitVec 16)} {f : Fab} (h : (writeEntryAt none x y n v slots f).1 ≠ 0) :
    mirrorPut x y n v (slots, f) = (slots, noteRefused (writeEntryAt none x y n v slots f).1 x y f) := by simp [mirrorPut, h]

/-- A write of a narrow entry's value writes the entry. -/
theorem runMirrorWrite_narrow {a x y d : Nat} (hx : mirrorIndex a = x) (hy : mirrorSub a = y) (w : Whole) (ha : a % 8 = 0)
    (hrow : isRowData x y = false) (hn : sizeAt x y ≤ 4) (hd : d < 256 ^ sizeAt x y) :
    runMirrorWrite a false d w = mirrorPut x y (sizeAt x y) d w := by
  have hlow : d % 2 ^ 32 = d := Nat.mod_eq_of_lt (hd.trans_le (Nat.pow_le_pow_right (n := 256) (by decide) hn))
  have h8 : sizeAt x y ≠ 8 := by omega
  have hwidth : ¬ 8 < sizeAt x y := by omega
  have hle : sizeAt x y ≤ 8 := by omega
  simp only [runMirrorWrite, hx, hy, hrow, hwidth, h8, ha, hd, hle, hlow, decide_true, decide_false, Bool.or_false, Bool.and_true,
    Bool.false_eq_true, if_false, if_true]

/-! ### The window's commands (R272) -/

theorem gives_of_onAll {c : Instr} {s : State} {u : Supply} {g : Tbl (BitVec 16) → Fab → Whole} {f : Fab} (hr : Runs u s)
    (he : exec c s = onAll u s g) (hg : g s.slots s.fab = (s.slots, f)) : Gives c s f := by
  rw [Gives, he, onAll_runs hr, hg]

section
variable {s : State} (hm : Runs .main s) {a : BitVec 28}
include hm

theorem exec_mirrorRead (wide : Bool) :
    exec (.mirrorRead a wide) s = onAll .main s fun slots f => windowRead a wide (slots, f) := onPin_of_main hm _

theorem exec_mirrorWrite (wide : Bool) (d : BitVec 64) :
    exec (.mirrorWrite a wide d) s = onAll .main s fun slots f => windowWrite a wide d (slots, f) := onPin_of_main hm _

theorem mirror_misaligned {wide : Bool} (ha : a.toNat % (if wide then 8 else 4) ≠ 0) :
    Gives (.mirrorRead a wide) s s.fab ∧ ∀ d, Gives (.mirrorWrite a wide d) s s.fab := by
  have hwrong : (!aligned a.toNat wide) = true := by simp [aligned, ha]
  exact ⟨gives_of_onAll hm (exec_mirrorRead hm wide) (if_pos hwrong),
    fun d => gives_of_onAll hm (exec_mirrorWrite hm wide d) (if_pos hwrong)⟩

variable (hfree : EngineFree s.fab) (hmirror : a.toNat < 0x8000000) {wide : Bool} (ha : aligned a.toNat wide = true)
include hfree hmirror ha

/-- An aligned write of the mirror is the engine's. -/
theorem exec_mirrorWrite_free (d : BitVec 64) {w : Whole}
    (h : runMirrorWrite a.toNat wide d.toNat (s.slots, engineTook true s.fab) = w) :
    exec (.mirrorWrite a wide d) s = .next { s with slots := w.1, fab := w.2 } := by
  have hwritten : windowWrite a wide d (s.slots, s.fab) = w := by
    rw [windowWrite, if_neg (by simp [ha]), if_pos (show a.toNat < mirrorBytes from hmirror), arrive_mirrorWrite hfree, h]
  rw [exec_mirrorWrite hm, onAll_runs hm, hwritten]

/-- An aligned read of the mirror gives what the engine's read gives. -/
theorem gives_mirrorRead {f : Fab} (h : runMirrorRead a.toNat wide (s.slots, engineTook true s.fab) = (s.slots, f)) :
    Gives (.mirrorRead a wide) s f := by
  refine gives_of_onAll hm (exec_mirrorRead hm wide) ?_
  rw [windowRead, if_neg (by simp [ha]), if_pos (show a.toNat < mirrorBytes from hmirror), arrive_mirrorRead hfree, h]

end

end Sys2Proof.Machine
end

section
/-!
SUPPORT. The dictionary engine through a row access and the beat that carries it out (R270): what reads and writes of a row and the end of
a beat leave of it; then the EVENT message (R324), a touch (R207) and obligation O52.
-/

namespace Sys2Proof.Machine

/-! ### Reads and writes of a row leave the dictionary engine -/

@[simp] theorem checkState_bdp (ra : Nat) (f : Fab) : (checkState ra f).bdp = f.bdp := by
  unfold checkState
  dsimp only
  split
  · simp
  · split <;> simp

@[simp] theorem logError_bdp (ra w sy k so p : Nat) (t : Bool) (f : Fab) : (logError ra w sy k so p t f).bdp = f.bdp := by
  unfold logError
  dsimp only
  split
  · rw [raise_bdp, countGroup_bdp]
  · rw [countGroup_bdp]

@[simp] theorem freshError_bdp (b : Nat) (f : Fab) : (freshError b f).bdp = f.bdp := by
  unfold freshError
  dsimp only
  split
  · rw [retireBank, raise_bdp, countInst_bdp]
  · rfl

@[simp] theorem queueRepair_bdp (ra : Nat) (f : Fab) : (queueRepair ra f).bdp = f.bdp := by
  unfold queueRepair
  dsimp only
  split
  · rfl
  · split
    · exact countGroup_bdp ..
    · rfl

theorem readRow_bdp (p req ra : Nat) (f : Fab) : (readRow p req ra f).2.bdp = f.bdp := by
  have hreported (was : Bool) (ws : List (Nat × Code)) (f : Fab) : (reportWords ra 0 p was ws f).bdp = f.bdp :=
    reportWords_proj Fab.bdp logError_bdp countGroup_bdp freshError_bdp ..
  have htaken (f : Fab) : (takeFree f).2.bdp = f.bdp := rfl
  unfold readRow
  dsimp only
  split
  · simp
  · rw [apply_ite Prod.snd, apply_ite Fab.bdp, htaken, ite_self, when_proj Fab.bdp (queueRepair_bdp ..),
      when_proj Fab.bdp (onStore_bdp ..), hreported, checkState_bdp]

theorem noteBleat_bdp (p req ra : Nat) (b : Bool) (f : Fab) : (noteBleat p req ra b f).bdp = f.bdp := when_proj Fab.bdp (by simp)

@[simp] theorem postWords_bdp (p ra : Nat) (ws : List Code) (m : BitVec 36) (st : Nat) (f : Fab) :
    (postWords p ra ws m st f).bdp = f.bdp := by
  unfold postWords injectWords
  dsimp only
  split <;> simp

@[simp] theorem settleRepair_bdp (ra : Nat) (f : Fab) : (settleRepair ra f).bdp = f.bdp := by
  unfold settleRepair
  split <;> rfl

theorem writeRow_bdp (p ra : Nat) (new fresh : Row) (bm : Nat) (poison : Bool) (f : Fab) :
    (writeRow p ra new fresh bm poison f).bdp = f.bdp := by
  have hmerged (was : Bool) (ws : List Code) (f : Fab) : (reportMerge ra p was bm ws f).bdp = f.bdp :=
    reportMerge_proj Fab.bdp logError_bdp countGroup_bdp freshError_bdp ..
  unfold writeRow
  dsimp only
  split
  · split <;> simp
  · split
    · split <;> simp
    · split <;> simp [hmerged]

/-! ### A beat begins (R106, R253, R256) -/

@[simp] theorem onBurst_bdp (p : Nat) (g : Burst → Burst) (f : Fab) : (onBurst p g f).bdp = f.bdp := rfl

@[simp] theorem waitBeat_bdp (p sub : Nat) (f : Fab) : (waitBeat p sub f).bdp = f.bdp := by
  unfold waitBeat
  split
  · split <;> simp
  · rfl

@[simp] theorem loseTie_bdp (p : Nat) (f : Fab) : (loseTie p f).bdp = f.bdp := by
  unfold loseTie
  split
  · split <;> simp
  · rfl

theorem cycleWait_bdp (p : Nat) (w : BeatWait) (access : Bool) (f : Fab) : (cycleWait p w access f).bdp = f.bdp := by
  unfold cycleWait
  split
  · exact when_proj Fab.bdp (waitBeat_bdp ..)
  · exact when_proj Fab.bdp (loseTie_bdp ..)
  · exact when_proj Fab.bdp ((when_proj Fab.bdp (loseTie_bdp ..)).trans (waitBeat_bdp ..))
  · rfl

theorem beginBeat_bdp (p : Nat) (l : List Nat) (f : Fab) : (beginBeat p l f).bdp = f.bdp := by
  unfold beginBeat
  dsimp only
  split <;> rfl

theorem disturb_bdp (l : List Nat) (f : Fab) : (disturb l f).bdp = f.bdp := by
  refine each_proj Fab.bdp _ _ (fun f b _ => ?_) f
  split
  · split <;> rfl
  · rfl

/-- A beat on row `ra` begins. -/
def accessBeat (p ra : Nat) (w : BeatWait) (access : Bool) (f : Fab) : Fab := disturb [ra] (beginBeat p [ra] (cycleWait p w access f))

theorem accessBeat_bdp (p ra : Nat) (w : BeatWait) (access : Bool) (f : Fab) : (accessBeat p ra w access f).bdp = f.bdp := by
  rw [accessBeat, disturb_bdp, beginBeat_bdp, cycleWait_bdp]

/-! ### A beat ends (R101, R105) -/

/-- The dictionary engine and the banks. -/
def bdpAndStore (f : Fab) : Bdp × Store := (f.bdp, f.store)

theorem completeOp_bdpAndStore (h : BitVec 16) (st r0 r1 r2 r3 : Nat) (f : Fab) :
    bdpAndStore (completeOp h st r0 r1 r2 r3 f) = bdpAndStore f := by
  unfold completeOp completeWith
  split
  · rfl
  · simp only [bdpAndStore, raise_bdp, raise_store]
    rfl

theorem finishRound_bdpAndStore (p : Nat) (f : Fab) : bdpAndStore (finishRound p f) = bdpAndStore f :=
  finishRound_proj bdpAndStore (fun _ _ => rfl) (fun _ _ => rfl) completeOp_bdpAndStore (fun q f => by simp [bdpAndStore]) f

theorem takeBack_bdpAndStore (b : Burst) (f : Fab) : bdpAndStore (takeBack b f) = bdpAndStore f := by
  unfold takeBack
  split
  · rfl
  · split
    · rfl
    · split
      · dsimp only
        split_ifs <;> rfl
      · rfl

theorem discardBurst_bdpAndStore (p guard : Nat) (b : Burst) (f : Fab) : bdpAndStore (discardBurst p guard b f) = bdpAndStore f := by
  unfold discardBurst
  dsimp only
  rw [finishRound_bdpAndStore, apply_ite bdpAndStore, ← takeBack_bdpAndStore b f]
  exact ite_self _

theorem onKport_bdpAndStore (f : Fab) (k : Nat) (g : KPort → KPort) : bdpAndStore (onKport f k g) = bdpAndStore f := rfl
theorem onCluster_bdpAndStore (f : Fab) (c : Nat) (g : Cluster → Cluster) : bdpAndStore (onCluster f c g) = bdpAndStore f := rfl

theorem settleBurst_bdpAndStore (b : Burst) (f : Fab) : bdpAndStore (settleBurst b f) = bdpAndStore f := by
  unfold settleBurst
  split
  · dsimp only
    split_ifs <;> rfl
  · split
    · rfl
    · split
      · rfl
      · split
        · rfl
        · split
          · rfl
          · dsimp only
            exact each_proj bdpAndStore _ _ (fun f k _ => onKport_bdpAndStore f k _) f
          · exact each_proj bdpAndStore _ _ (fun f c _ => onCluster_bdpAndStore f c _) f
          · exact each_proj bdpAndStore _ _ (fun f c _ => onCluster_bdpAndStore f c _) f
          · rfl

theorem afterBeat_bdpAndStore (p : Nat) (f : Fab) : bdpAndStore (afterBeat p f) = bdpAndStore f := by
  unfold afterBeat
  split
  · rfl
  · dsimp only
    generalize hg : onBurst p _ _ = g
    have hmoved : bdpAndStore g = bdpAndStore f := by
      rw [← hg]
      simp [bdpAndStore, onBurst]
    split
    · exact hmoved
    · split
      · rw [discardBurst_bdpAndStore, hmoved]
      · split
        · rw [finishRound_bdpAndStore, settleBurst_bdpAndStore, hmoved]
        · exact hmoved

theorem afterBeat_bdp (p : Nat) (f : Fab) : (afterBeat p f).bdp = f.bdp := congrArg (·.1) (afterBeat_bdpAndStore p f)
theorem afterBeat_store (p : Nat) (f : Fab) : (afterBeat p f).store = f.store := congrArg (·.2) (afterBeat_bdpAndStore p f)

/-! ### A row access ends (R270, R271) -/

section
variable (a : RowAccess) (status : Nat) (row : Option Row) (f : Fab)

/-- The engine without a row access, and what it leaves of the window's block. -/
theorem endAccess_keeps : (endAccess a status row f).bdp.accesses = f.bdp.accesses.filter (fun x => x != a) ∧
    (endAccess a status row f).bdp.waiting = f.bdp.waiting ∧ (endAccess a status row f).store = f.store := by
  unfold endAccess
  dsimp only
  split <;> exact ⟨rfl, rfl, rfl⟩

theorem endAccess_window (h : a.path = none) : (endAccess a status row f).bdp.xbStatus = blockStatus status 0 ∧
    (endAccess a status row f).bdp.xbData = row.getD f.bdp.xbData := by
  rw [endAccess, h]
  exact ⟨rfl, rfl⟩

end

theorem serveAll_idle {w : Whole} (h : w.2.bdp.waiting = []) : serveAll w = w := by
  rw [serveAll, h]
  rfl

/-! ### The beat of a row access (R270) -/

section
variable {s : State} {n : Fin 16} {w : BeatWait} {b : Burst} {a : RowAccess} {c : Instr} {write : Bool} (hm : Runs .main s)
  (he : exec c s = onAll .main s fun slots f => hostBeat n write w (slots, f))
include hm he

theorem gives_noBurst (hb : burstOf (portOf s.fab (16 + n)) = none) : Gives c s s.fab :=
  gives_of_onAll hm he (by simp [hostBeat, hb])

variable (hb : burstOf (portOf s.fab (16 + n)) = some b) (hreq : b.req = rHost)
  (ha : s.fab.bdp.accesses.find? (fun a => xpOf (bankOf a.ra) == 16 + n.val) = some a)
include hb hreq ha

theorem gives_otherWay (h : a.data.isSome = !write) : Gives c s s.fab :=
  gives_of_onAll hm he (by simp [hostBeat, hb, hreq, ha, h])

theorem gives_hostAccess (h : a.data.isSome = write) (hidle : (hostAccess (16 + n) a w s.fab).bdp.waiting = []) :
    Gives c s (hostAccess (16 + n) a w s.fab) :=
  gives_of_onAll hm he (by simp [hostBeat, hb, hreq, ha, h, serveAll_idle (w := (s.slots, hostAccess (16 + n) a w s.fab)) hidle])

end

section
variable {p : Nat} {a : RowAccess} {w : BeatWait} {f : Fab} (hgate : hostGate f a = .go) (hregion : regionWaits f p = false)
include hgate hregion

theorem hostAccess_reads (hdata : a.data = none) : hostAccess p a w f =
    afterBeat p (endAccess a (readRow p rHost a.ra (accessBeat p a.ra w (rawState f.store a.ra != 0) f)).1.poison.toNat
      (some (readRow p rHost a.ra (accessBeat p a.ra w (rawState f.store a.ra != 0) f)).1.row)
      (noteBleat p rHost a.ra (readRow p rHost a.ra (accessBeat p a.ra w (rawState f.store a.ra != 0) f)).1.bleat
        (readRow p rHost a.ra (accessBeat p a.ra w (rawState f.store a.ra != 0) f)).2)) := by
  rw [hostAccess, hgate]
  dsimp only
  rw [hregion, hdata, if_neg Bool.false_ne_true]
  rfl

theorem hostAccess_writes {l : List Byte} (hdata : a.data = some l) : hostAccess p a w f =
    afterBeat p (endAccess a 0 none (writeRow p a.ra (hostBytes a l 0) (hostBytes a l blankRow) (hostMask a l) false
      (accessBeat p a.ra w (mergesAt f.store a.ra (hostMask a l) false) f))) := by
  rw [hostAccess, hgate]
  dsimp only
  rw [hregion, hdata, if_neg Bool.false_ne_true]
  rfl

/-- A read's beat ends its access with the row and its poison. -/
theorem hostAccess_read_ends (hdata : a.data = none) :
    (hostAccess p a w f).bdp.accesses = f.bdp.accesses.filter (fun x => x != a) ∧ (hostAccess p a w f).bdp.waiting = f.bdp.waiting ∧
    (a.path = none →
      (hostAccess p a w f).bdp.xbData = (readRow p rHost a.ra (accessBeat p a.ra w (rawState f.store a.ra != 0) f)).1.row ∧
      (hostAccess p a w f).bdp.xbStatus =
        blockStatus (readRow p rHost a.ra (accessBeat p a.ra w (rawState f.store a.ra != 0) f)).1.poison.toNat 0) := by
  rw [hostAccess_reads hgate hregion hdata, afterBeat_bdp]
  have hread := readRow_bdp p rHost a.ra (accessBeat p a.ra w (rawState f.store a.ra != 0) f)
  rw [accessBeat_bdp] at hread
  generalize readRow p rHost a.ra (accessBeat p a.ra w (rawState f.store a.ra != 0) f) = r at *
  obtain ⟨haccesses, hwaiting, -⟩ := endAccess_keeps a r.1.poison.toNat (some r.1.row) (noteBleat p rHost a.ra r.1.bleat r.2)
  rw [noteBleat_bdp, hread] at haccesses hwaiting
  refine ⟨haccesses, hwaiting, fun hpath => ?_⟩
  obtain ⟨hstatus, hrow⟩ := endAccess_window a r.1.poison.toNat (some r.1.row) (noteBleat p rHost a.ra r.1.bleat r.2) hpath
  exact ⟨hrow, hstatus⟩

/-- A write's beat ends its access with its bytes written. -/
theorem hostAccess_write_ends {l : List Byte} (hdata : a.data = some l) :
    (hostAccess p a w f).bdp.accesses = f.bdp.accesses.filter (fun x => x != a) ∧ (hostAccess p a w f).bdp.waiting = f.bdp.waiting ∧
    (a.path = none → (hostAccess p a w f).bdp.xbStatus = blockStatus 0 0) ∧
    (hostAccess p a w f).store = (writeRow p a.ra (hostBytes a l 0) (hostBytes a l blankRow) (hostMask a l) false
      (accessBeat p a.ra w (mergesAt f.store a.ra (hostMask a l) false) f)).store := by
  rw [hostAccess_writes hgate hregion hdata, afterBeat_bdp, afterBeat_store]
  have hwritten := writeRow_bdp p a.ra (hostBytes a l 0) (hostBytes a l blankRow) (hostMask a l) false
    (accessBeat p a.ra w (mergesAt f.store a.ra (hostMask a l) false) f)
  rw [accessBeat_bdp] at hwritten
  generalize writeRow p a.ra (hostBytes a l 0) (hostBytes a l blankRow) (hostMask a l) false
    (accessBeat p a.ra w (mergesAt f.store a.ra (hostMask a l) false) f) = g at *
  obtain ⟨haccesses, hwaiting, hstore⟩ := endAccess_keeps a 0 none g
  rw [hwritten] at haccesses hwaiting
  exact ⟨haccesses, hwaiting, fun hpath => (endAccess_window a 0 none g hpath).1, hstore⟩

end

/-! ### A row access not granted in time (R270) -/

theorem accessLate_none {w : Whole} (h : ∀ a ∈ w.2.bdp.accesses, accessGranted w.2 a = true) : accessLate w = w := by
  have hnone : (w.2.bdp.accesses.find? fun a => !accessGranted w.2 a) = none :=
    List.find?_eq_none.mpr fun a ha => by simp [h a ha]
  rw [accessLate, hnone]

theorem accessLate_withdraws {slots : Tbl (BitVec 16)} {f : Fab} {a : RowAccess} (hidle : f.bdp.waiting = [])
    (h : f.bdp.accesses.find? (fun a => !accessGranted f a) = some a) : accessLate (slots, f) = (slots, endAccess a 0x11 none f) := by
  obtain ⟨-, hwaiting, -⟩ := endAccess_keeps a 0x11 none f
  simp only [accessLate, h]
  exact serveAll_idle (hwaiting.trans hidle)

/-! ### An EVENT message (R266, R324) -/

section
variable (op resp txn index sub status length cnt handle : Nat)

theorem bdpHeader_hOp : hOp (bdpHeader op resp txn index sub status length cnt handle) = op % 2 ^ 4 := by
  rw [hOp, bdpHeader, fld_pack _ (by decide)]
  exact (congrArg (· % 2 ^ 4) (fields_div_take _ 1)).trans (fields_cons_mod 4 op _)

theorem bdpHeader_hCount : hCount (bdpHeader op resp txn index sub status length cnt handle) = cnt % 2 ^ 16 := by
  rw [hCount, bdpHeader, fld_pack _ (by decide)]
  exact (congrArg (· % 2 ^ 16) (fields_div_take _ 9)).trans (fields_cons_mod 16 cnt _)

theorem bdpHeader_hHandle : hHandle (bdpHeader op resp txn index sub status length cnt handle) = handle % 2 ^ 16 := by
  rw [hHandle, bdpHeader, fld_pack _ (by decide)]
  exact (congrArg (· % 2 ^ 16) (fields_div_take _ 10)).trans (fields_cons_mod 16 handle _)

end

/-- Records of a subscriber's next EVENT message. -/
def eventRecords (f : Fab) (u : Sub) : List (BitVec 256) := ((u.out.take 16).modifyHead fun r => putBit r 9 u.lost).map (hideRecord f)

theorem eventRecords_length (f : Fab) (u : Sub) : (eventRecords f u).length = min 16 u.out.length := by
  simp [eventRecords]

/-- The header of a subscriber's next EVENT message. -/
def eventHeader (f : Fab) (u : Sub) : BitVec 128 :=
  bdpHeader 7 0 0 0 0 0 (32 * (eventRecords f u).length) (eventRecords f u).length u.seq.toNat

theorem eventHeader_fields (f : Fab) (u : Sub) : hOp (eventHeader f u) = 7 ∧ hCount (eventHeader f u) = min 16 u.out.length ∧
    hHandle (eventHeader f u) = u.seq.toNat := by
  have hcount : (eventRecords f u).length < 2 ^ 16 := by
    rw [eventRecords_length]
    omega
  rw [eventHeader, bdpHeader_hOp, bdpHeader_hCount, bdpHeader_hHandle, Nat.mod_eq_of_lt hcount, eventRecords_length,
    Nat.mod_eq_of_lt u.seq.isLt]
  exact ⟨rfl, rfl, rfl⟩

/-- The tag that an EVENT message takes. -/
def eventTag (f : Fab) : BitVec 4 := BitVec.ofNat 4 (8 + fld (takeFree f).1 0 3)

theorem eventTag_ge (f : Fab) : 8 ≤ (eventTag f).toNat := by
  have hlow := fld_lt_two_pow (takeFree f).1 0 3
  rw [eventTag, BitVec.toNat_ofNat]
  omega

theorem sendEvents_none {f : Fab} (h : eventTurn f = none) : sendEvents f = f := by rw [sendEvents, h]

/-- The EVENT message goes out, and the subscriber's records in it are off its list. -/
theorem sendEvents_some {f : Fab} {i : Nat} (h : eventTurn f = some i) :
    (sendEvents f).out = .message (tget {} f.ev.subs i).eid (eventTag f) (mgtWords (eventHeader f (tget {} f.ev.subs i))
      ((eventRecords f (tget {} f.ev.subs i)).flatMap fun r => bytesOf 32 r.toNat)) :: f.out ∧
    tget {} (sendEvents f).ev.subs i = { tget {} f.ev.subs i with
      out := (tget {} f.ev.subs i).out.drop 16, lost := false
      seq := (tget {} f.ev.subs i).seq + BitVec.ofNat 16 (min 16 (tget {} f.ev.subs i).out.length) } := by
  rw [← eventRecords_length f, sendEvents, h]
  exact ⟨rfl, tget_tset_self ..⟩

/-! ### A touch (R207) -/

theorem touchEntry_shape : entryAt 0x6100 3 = some (ro 16) := by decide

theorem readResidency_touch {p : Path} {f : Fab} (hshown : hidden f = false) : readResidency p true f =
    (0, (shownEntry (readEntry (selectors p f).1.toNat f).2 (selectors p f).1.toNat (readEntry (selectors p f).1.toNat f).1).toNat,
      useSelectors p (putEntry (selectors p f).1.toNat (putf (readEntry (selectors p f).1.toNat f).1 48 8 0)
        (readEntry (selectors p f).1.toNat f).2)) := by
  simp [readResidency, hshown]

/-- The entry is put out as it was shown, and its hits are cleared. -/
theorem readTouch_clears {eid : BitVec 8} {p : Path} {i : Nat} {slots : Tbl (BitVec 16)} {f : Fab} (hst : f.pwr.st ≠ 2)
    (hshown : hidden f = false) (hp : (if eid = 0 then none else some eid) = p) (hi : (selectors p f).1.toNat = i) :
    readTouch eid slots f = emit (useSelectors p (putEntry i (putf (readEntry i f).1 48 8 0) (readEntry i f).2))
      (.value (BitVec.ofNat 128 (shownEntry (readEntry i f).2 i (readEntry i f).1).toNat)) := by
  have hcheck : readCheck 0x6100 3 f = 0 := by simp [readCheck, touchEntry_shape, ro, show f.pwr.st ≠ 2#2 from hst, belowDebug]
  have hread := readResidency_touch (p := p) hshown
  rw [hi] at hread
  have hentry : readEntryAt p slots 0x6100 3 f = (0, bytesOf 16 (shownEntry (readEntry i f).2 i (readEntry i f).1).toNat,
      useSelectors p (putEntry i (putf (readEntry i f).1 48 8 0) (readEntry i f).2)) := by
    simp [readEntryAt, hcheck, touchEntry_shape, ro, readValue, hread]
  rw [readTouch, hp, hentry]
  dsimp only
  rw [if_neg (by simp), ofBytes_bytesOf, show 256 ^ 16 = 2 ^ 128 by decide, Nat.mod_eq_of_lt (BitVec.isLt _)]

theorem ret_of_main {s : State} (h : Runs .main s) : Runs .ret s ∧ s.fab.pwr.st ≠ 2 := by
  obtain ⟨hlimits, halive⟩ := h
  simp only [alive, Bool.and_eq_true, decide_eq_true_eq, bne_iff_ne] at halive
  obtain ⟨⟨⟨⟨hon, -⟩, -⟩, hextest⟩, hintest⟩ := halive
  refine ⟨⟨hlimits, ?_⟩, fun hst => by rw [hst] at hon; exact absurd hon (by decide)⟩
  have hst : s.fab.pwr.st ≠ 3 := fun hst => by rw [hst] at hon; exact absurd hon (by decide)
  simp [alive, hextest, hintest, show s.fab.pwr.st ≠ 3#2 from hst]

/-- Settles O52: window accesses by address and check, row accesses by their beat, an EVENT message and a touch. -/
theorem windowAccessesAndEvents : Obligations.WindowAccessesAndEvents := by
  unfold Obligations.WindowAccessesAndEvents
  intro s hm
  obtain ⟨hret, hst⟩ := ret_of_main hm
  refine ⟨fun a wide ha => mirror_misaligned hm ha, fun a hfree hmirror ha => ?low, fun a l hfree hmirror ha => ?high,
    fun n w hidle => ⟨fun hb => ?noBurst, fun b a hb hreq hfind hgate hregion => ⟨fun hdata => ?rowRead, fun l hdata => ?rowWrite⟩⟩,
    fun hidle => ⟨fun hgranted => ?granted, fun a hfind => ?late⟩, fun hturn => ?quiet, fun i hturn => ?event,
    fun eid hshown => ?touch⟩
  case low =>
    intro x y g
    have hwide : aligned a.toNat true = true := by simp [aligned, ha]
    have hnarrow : aligned a.toNat false = true := by simp [aligned]; omega
    refine ⟨fun hc hp hn => ⟨?wide, ?half⟩, fun hc => ?refused, fun d hrow _ hn hd => ?entryWrite⟩
    case wide =>
      exact ⟨_, gives_mirrorRead hm hfree hmirror hwide (runMirrorRead_wide s.slots rfl rfl hc hp hn), rfl, rfl⟩
    case half =>
      have hread := runMirrorRead_low (x := x) (y := y) (f := g) s.slots rfl rfl hc hp hn ha
      refine ⟨_, gives_mirrorRead hm hfree hmirror hnarrow hread, ?_, fun h8 => ?_⟩
      · split <;> rfl
      · rw [if_pos h8]
        exact ⟨setLatched_self .., fun j hj => setLatched_ne _ _ hj⟩
    case refused =>
      have hx : x < 2 ^ 16 := by omega
      have hy : y < 256 := by omega
      obtain ⟨hstatus, hindex, hsub⟩ := noteRefused_winError (readCheck x y s.fab) x y g
      exact ⟨_, gives_mirrorRead hm hfree hmirror hnarrow (runMirrorRead_refused s.slots rfl rfl hc), rfl,
        hstatus.trans (Nat.mod_eq_of_lt (readCheck_lt ..)), hindex.trans (Nat.mod_eq_of_lt hx), hsub.trans (Nat.mod_eq_of_lt hy), rfl⟩
    case entryWrite =>
      intro r
      have hput := runMirrorWrite_narrow (x := x) (y := y) rfl rfl (s.slots, g) ha hrow hn hd
      refine ⟨fun hdone => ?_, fun hrefused => ?_⟩
      · exact exec_mirrorWrite_free hm hfree hmirror hnarrow d (hput.trans (mirrorPut_done hdone))
      · obtain ⟨hstatus, -, -⟩ := noteRefused_winError r.1 x y g
        exact ⟨_, exec_mirrorWrite_free hm hfree hmirror hnarrow d (hput.trans (mirrorPut_refused hrefused)), rfl, hstatus⟩
  case high =>
    intro x y hc hp h8 hl
    have hnarrow : aligned a.toNat false = true := by simp [aligned]; omega
    have hread := runMirrorRead_high (x := x) (y := y) (f := engineTook true s.fab) s.slots rfl rfl hc hp h8.le ha hl
    exact ⟨_, gives_mirrorRead hm hfree hmirror hnarrow hread, rfl, setLatched_self .., fun j hj => setLatched_ne _ _ hj⟩
  case noBurst => exact ⟨gives_noBurst (write := false) (w := w) hm rfl hb, gives_noBurst (write := true) (w := w) hm rfl hb⟩
  case rowRead =>
    intro r
    obtain ⟨haccesses, hwaiting, hwindow⟩ := hostAccess_read_ends (w := w) hgate hregion hdata
    exact ⟨_, gives_hostAccess (write := false) (w := w) hm rfl hb hreq hfind (by rw [hdata]; rfl) (hwaiting.trans hidle),
      haccesses, hwindow, gives_otherWay (write := true) (w := w) hm rfl hb hreq hfind (by rw [hdata]; rfl)⟩
  case rowWrite =>
    obtain ⟨haccesses, hwaiting, hwindow, hstore⟩ := hostAccess_write_ends (w := w) hgate hregion hdata
    exact ⟨gives_otherWay (write := false) (w := w) hm rfl hb hreq hfind (by rw [hdata]; rfl),
      _, gives_hostAccess (write := true) (w := w) hm rfl hb hreq hfind (by rw [hdata]; rfl) (hwaiting.trans hidle),
      haccesses, hwindow, hstore⟩
  case granted =>
    exact gives_of_onAll (g := fun slots f => accessLate (slots, f)) hret rfl (accessLate_none (w := (s.slots, s.fab)) hgranted)
  case late =>
    obtain ⟨haccesses, -, hstore⟩ := endAccess_keeps a 0x11 none s.fab
    exact ⟨_, gives_of_onAll (g := fun slots f => accessLate (slots, f)) hret rfl (accessLate_withdraws hidle hfind), haccesses, hstore,
      fun hpath => (endAccess_window a _ _ _ hpath).1⟩
  case quiet =>
    have hgives : Gives .event s (sendEvents s.fab) := gives_of_onFab (fun _ f => sendEvents f) hret rfl
    rwa [sendEvents_none hturn] at hgives
  case event =>
    intro u
    obtain ⟨hout, hsub⟩ := sendEvents_some hturn
    obtain ⟨hop, hcount, hhandle⟩ := eventHeader_fields s.fab u
    exact ⟨_, eventTag s.fab, eventHeader s.fab u, gives_of_onFab (fun _ f => sendEvents f) hret rfl, hout, hop, eventTag_ge s.fab,
      hcount, hhandle, hsub⟩
  case touch =>
    intro p i r
    have hgives : Gives (.mapEntryTouch eid) s (readTouch eid s.slots s.fab) := gives_of_onFab (readTouch eid) hret rfl
    rwa [readTouch_clears hst hshown rfl rfl] at hgives

end Sys2Proof.Machine
end
